-- ==== Sys2Proof/Word.lean ====
section
/-!
DEFINITION. The word types of the machine, the closed name sets that encodings and events select (R152 and the
event rows of the opcode table), and the plain data a received frame consists of (R372).
-/

namespace Sys2Proof

/-- A byte (R6). -/
abbrev Byte := BitVec 8
/-- A vector lane (R53) and the 32-bit `word` of R6. -/
abbrev Word := BitVec 32
/-- A doubleword (R6): scalar registers, control registers, masks, addresses. -/
abbrev DWord := BitVec 64
/-- A 128-bit bundle (R145). -/
abbrev Bundle := BitVec 128
/-- The 64 lanes of a vector register or latch (R53, R55). -/
abbrev Lanes := Vector Word 64

/-- Every lane the same value. -/
def Lanes.splat (w : Word) : Lanes := Vector.replicate 64 w
/-- The all-zero lanes: a whitewashed register, an empty latch (R57, R80). -/
def Lanes.zero : Lanes := Lanes.splat 0
/-- Lane `l`, for any number `l`; lanes beyond 63 do not exist and read 0. -/
def Lanes.at (v : Lanes) (l : Nat) : Word := v[l]?.getD 0
/-- The lanes given by a rule for each lane number. -/
def Lanes.ofLane (f : Nat → Word) : Lanes := Vector.ofFn (fun i => f i.val)

/-- Bit `l` of a lane mask (R65). -/
def maskBit (m : DWord) (l : Nat) : Bool := m.getLsbD l
/-- The mask whose bit `l` is `f l` (R65). -/
def maskOf (f : Nat → Bool) : DWord :=
  BitVec.ofNat 64 ((List.range 64).foldl (fun n l => if f l then n + 2 ^ l else n) 0)
/-- The active lane numbers of a mask in ascending order (R12). -/
def lanesOf (m : DWord) : List Nat := (List.range 64).filter (fun l => m.getLsbD l)

/-- The four slots of a bundle (R145). -/
inductive Slot where
  | v | m | x | c
  deriving DecidableEq, Repr

/-- Access widths (R152): byte, half, word, doubleword. -/
inductive Width where
  | byte | half | word | dword
  deriving DecidableEq, Repr

/-- The bytes of a width (R152). -/
def Width.bytes : Width → Nat
  | .byte => 1 | .half => 2 | .word => 4 | .dword => 8

/-- Scopes of the memory model (R101, R152). -/
inductive Scope where
  | warp | team | device | pod
  deriving DecidableEq, Repr

/-- FENCE kinds (R152). -/
inductive FenceKind where
  | acq | rel | ar
  deriving DecidableEq, Repr

/-- FLUSH scopes (R152, R219). -/
inductive FlushScope where
  | team | task | dev
  deriving DecidableEq, Repr

/-- Condition codes of CMP and CMPI (R152, R268). -/
inductive Cc where
  | eq | ne | lt | le | ltu | leu
  deriving DecidableEq, Repr

/-- Rounding selectors (R123); `dyn` takes c.round at issue. -/
inductive Rm where
  | rne | rz | ru | rd | dyn
  deriving DecidableEq, Repr

/-- VCVT kinds in code order (R152, R183). -/
inductive CvtKind where
  | f2i | f2u | i2f | u2f | i16 | i8 | u16 | u8
  deriving DecidableEq, Repr

/-- Kinds 4 to 7 of VCVT take no rounding (R152, R183). -/
def CvtKind.narrows : CvtKind → Bool
  | .i16 | .i8 | .u16 | .u8 => true
  | .f2i | .f2u | .i2f | .u2f => false

/-- The half formats of VPKH and VUPKH (R152). -/
inductive HalfFmt where
  | fp16 | bf16
  deriving DecidableEq, Repr

/-- Deferred operations of DACCV and DACCS in code order (R152, R218). -/
inductive DaccOp where
  | addI32 | addI64 | addF32 | minI32 | maxI32 | minI64 | maxI64 | minF32 | maxF32
  deriving DecidableEq, Repr

/-- The operations on 64-bit targets, which DACCV does not have (R152). -/
def DaccOp.is64 : DaccOp → Bool
  | .addI64 | .minI64 | .maxI64 => true
  | .addI32 | .addF32 | .minI32 | .maxI32 | .minF32 | .maxF32 => false

/-- Read-modify-write operations of the immediate atomics (R213). -/
inductive AtomOp where
  | add | and | or | xor | min | max | minu | maxu
  deriving DecidableEq, Repr

/-- Roles of a queue port (R43). -/
inductive Role where
  | producer | consumer
  deriving DecidableEq, Repr

/-- Sources of a clamp (R433). -/
inductive ClampSource where
  | current (die : Nat) | droop (cluster : Nat) | ceiling | melt
  deriving DecidableEq, Repr

/-- Registers of die 0's control block that Pumal writes whole (R402, R430, R431, R448, R456). -/
inductive CtlReg where
  | pccCfg | pccLim | timeCtl | tlbiCtl | tlbiRng | hlthGb (die : Nat)
  deriving DecidableEq, Repr

/-- A control-protocol frame as it arrives (R372): the header's fields, the item bytes, the tag. -/
structure Frame where
  fseq    : BitVec 32
  session : BitVec 32
  rsvd    : BitVec 24
  slot    : BitVec 8
  count   : BitVec 8
  typ     : BitVec 8
  ver     : BitVec 16
  items   : List Byte
  tag     : List Byte
  deriving DecidableEq, Repr

/-- What a boot of one die finds (R410, R457): the firmware image, its signature and version, the digest of
Pumal, and the units that fail or are marked. -/
structure DieImage where
  body     : List Byte
  sig      : List Byte
  version  : Nat
  fuse     : Nat
  pumal    : List Byte
  deriving DecidableEq, Repr

/-- Units lost to deconfiguration (R457). Numbers are physical. -/
inductive LostUnit where
  | slice (cluster core slice : Nat) | port (cluster core port : Nat) | core (cluster core : Nat)
  | copyEngine (cluster : Nat) | matrixEngine (cluster : Nat) | clusterTlb (cluster : Nat) | spadBank (cluster bank : Nat)
  | cluster (cluster : Nat) | l2OrHbm (die stack : Nat)
  deriving DecidableEq, Repr

/-- The dataset of an Announce message (R446, the default profile's comparison): `identity` is the grandmaster's, `sender` that of the
port that sent the message. -/
structure Announce where
  priority1  : Nat
  clockClass : Nat
  accuracy   : Nat
  variance   : Nat
  priority2  : Nat
  identity   : Nat
  steps      : Nat
  sender     : Nat
  domain     : Nat
  deriving DecidableEq, Repr

/-- An access that arrives over UALink from another package (R391, R407). -/
inductive RemoteReq where
  | load (pa : Nat) (n : Nat) | store (pa : Nat) (data : List Byte)
  | atomic (pa : Nat) (n : Nat) (op : AtomOp) (v : DWord) | cas (pa : Nat) (n : Nat) (expected new : DWord)
  deriving DecidableEq, Repr

/-- Where an uncorrectable error of a register, latch or queue entry is found (R114). -/
inductive ErrTarget where
  | vreg (warp reg : Nat) (lanes : DWord) | sreg (warp reg : Nat)
  | latch (warp path plane latch : Nat) (lanes : DWord) | queue (team queue entry : Nat)
  deriving DecidableEq, Repr

/-- An error that arises in a store of words (R95, R110): of a word in HBM or SRAM, of the L2's copy of one, of a line that an L1 or a
stack cache holds; a report of a stack's on-die code. `double` says that it is uncorrectable. -/
inductive MemError where
  | word (key : Nat) (double : Bool) | cached (key : Nat) (double : Bool) | l1 (core key : Nat) (double : Bool)
  | stack (warp va : Nat) (double : Bool) | onDie (key : Nat)
  deriving DecidableEq, Repr

/-- Where the patrol scrubber reads (R464). -/
inductive ScrubLoc where
  | hbm (word : Nat) | sram (cluster word : Nat)
  deriving DecidableEq, Repr

/-- `n` bytes of a value, lowest first (R6). -/
def leBytes {w : Nat} (n : Nat) (v : BitVec w) : List Byte :=
  (List.range n).map (fun i => (v >>> (8 * i)).setWidth 8)

/-- The value of bytes, lowest first (R6). -/
def leNat : List Byte → Nat
  | [] => 0
  | b :: bs => b.toNat + 256 * leNat bs

/-- The `w`-bit value of bytes, lowest first (R6). -/
def ofLe (w : Nat) (bs : List Byte) : BitVec w := BitVec.ofNat w (leNat bs)

/-- Bits `[hi:lo]` of a value (R6). -/
def bits {w : Nat} (v : BitVec w) (hi lo : Nat) : Nat := v.toNat / 2 ^ lo % 2 ^ (hi + 1 - lo)

end Sys2Proof
end

