-- ==== Sys2Proof/Machine/Store.lean ====
section
/-!
DEFINITION. Finite maps with number keys in one canonical form (keys strictly rising), byte memory in the same form
(R6, R96) and the few list helpers the machine uses. Equal maps are equal data.
-/

namespace Sys2Proof.Machine

/-- A finite map from numbers: a list of pairs whose keys rise strictly. -/
abbrev Map (α : Type) := List (Nat × α)

/-- The value at a key. -/
def mapGet? {α : Type} : Map α → Nat → Option α
  | [], _ => none
  | (k, a) :: rest, n => if n = k then some a else mapGet? rest n

/-- The value at a key, `d` where nothing is listed. -/
def mapGetD {α : Type} (m : Map α) (n : Nat) (d : α) : α := (mapGet? m n).getD d

/-- Set a key, keeping the keys rising. -/
def mapPut {α : Type} : Map α → Nat → α → Map α
  | [], n, a => [(n, a)]
  | (k, b) :: rest, n, a =>
    if n < k then (n, a) :: (k, b) :: rest
    else if n = k then (n, a) :: rest
    else (k, b) :: mapPut rest n a

/-- Remove a key. -/
def mapErase {α : Type} : Map α → Nat → Map α
  | [], _ => []
  | (k, b) :: rest, n => if n = k then rest else (k, b) :: mapErase rest n

/-- Set a key, or remove it when the value is the one an unlisted key stands for. -/
def mapSetD {α : Type} [DecidableEq α] (m : Map α) (n : Nat) (d a : α) : Map α :=
  if a = d then mapErase m n else mapPut m n a

/-- Apply a change to the value at a key; nothing where the key is not listed. -/
def mapUpd {α : Type} (m : Map α) (n : Nat) (f : α → α) : Map α :=
  m.map (fun (k, a) => if k = n then (k, f a) else (k, a))

/-- The keys of a map in rising order. -/
def mapKeys {α : Type} (m : Map α) : List Nat := m.map Prod.fst

/-- The values of a map in rising order of their keys. -/
def mapVals {α : Type} (m : Map α) : List α := m.map Prod.snd

/-- Keys rise strictly from above `lo`. -/
def mapSortedFrom {α : Type} : Nat → Map α → Bool
  | _, [] => true
  | lo, (k, _) :: rest => lo ≤ k && mapSortedFrom (k + 1) rest

/-- The canonical form of a map. -/
def mapWf {α : Type} (m : Map α) : Bool := mapSortedFrom 0 m

/-- The first key listed for which a test holds. -/
def mapFind? {α : Type} (m : Map α) (p : Nat → α → Bool) : Option (Nat × α) := m.find? (fun (k, a) => p k a)

/-- The lowest number not below `lo` that is no key, searched through `fuel` numbers. -/
def mapFresh {α : Type} (m : Map α) : Nat → Nat → Nat
  | 0, lo => lo
  | fuel + 1, lo => if (mapGet? m lo).isSome then mapFresh m fuel (lo + 1) else lo

/-! ### Byte memory -/

/-- Byte memory: every byte listed is not 0, and an address that is not listed reads 0 (log 3). -/
abbrev Memory := Map Byte

/-- The canonical form of byte memory: rising addresses, no byte that an unlisted address reads as. -/
def Memory.wf (m : Memory) : Bool := mapWf m && m.all (fun (_, b) => b != 0#8)

/-- The byte at an address. -/
def memGet (m : Memory) (a : Nat) : Byte := mapGetD m a 0#8
/-- Set the byte at an address. -/
def memSet (m : Memory) (a : Nat) (b : Byte) : Memory := mapSetD m a 0#8 b
/-- `n` bytes from an address, lowest first. -/
def memRead (m : Memory) (a n : Nat) : List Byte := (List.range n).map (fun i => memGet m (a + i))
/-- Write bytes from an address up. -/
def memWrite : Memory → Nat → List Byte → Memory
  | m, _, [] => m
  | m, a, b :: bs => memWrite (memSet m a b) (a + 1) bs
/-- Write zero to `n` bytes from an address: a whitewash (R408). -/
def memZero (m : Memory) (a n : Nat) : Memory := m.filter (fun (k, _) => k < a || a + n ≤ k)

/-! ### Lists and numbers -/

/-- `x` two's complement in `w` bits. -/
def sextNat (w : Nat) (x : Nat) : Int := if x < 2 ^ (w - 1) then (x : Int) else (x : Int) - 2 ^ w

/-- An integer wrapped to `w` bits. -/
def wrapInt (w : Nat) (x : Int) : BitVec w := BitVec.ofInt w x

/-- The least of a list, `d` for an empty list. -/
def listMin (d : Nat) : List Nat → Nat
  | [] => d
  | a :: rest => if rest.isEmpty then a else min a (listMin d rest)

/-- The greatest of a list, 0 for an empty list. -/
def listMax : List Nat → Nat
  | [] => 0
  | a :: rest => max a (listMax rest)

/-- The element that a strict order puts first; the earlier one among equals. -/
def listBest {α : Type} (before : α → α → Bool) : List α → Option α
  | [] => none
  | a :: rest =>
    match listBest before rest with
    | none => some a
    | some b => if before b a then some b else some a

/-- Insert in a list sorted by `before`, after its equals. -/
def listInsert {α : Type} (before : α → α → Bool) (a : α) : List α → List α
  | [] => [a]
  | b :: rest => if before a b then a :: b :: rest else b :: listInsert before a rest

/-- Stable sort by insertion. -/
def listSort {α : Type} (before : α → α → Bool) : List α → List α
  | [] => []
  | a :: rest => listInsertFront before a (listSort before rest)
where
  /-- Insert before its equals, which came later. -/
  listInsertFront (before : α → α → Bool) (a : α) : List α → List α
    | [] => [a]
    | b :: rest => if before b a then b :: listInsertFront before a rest else a :: b :: rest

/-- The sum of a list. -/
def listSum : List Nat → Nat
  | [] => 0
  | a :: rest => a + listSum rest

/-- Saturating addition below `2^w`. -/
def satAdd (w a b : Nat) : Nat := min (a + b) (2 ^ w - 1)

end Sys2Proof.Machine
end

