-- ==== Sys2Proof/Machine/Fp.lean ====
section
/-!
DEFINITION. Floating point, conversions, block formats, trees, keys and random numbers (R117 to R136, R140, R143).
Every operation forms the exact value as an integer times a power of two (for a quotient, a root, an exponential or a
logarithm: an integer part and whether something is left below it) and rounds it once.
-/

namespace Sys2Proof.Machine

/-! ### Flags of c.exs (R73) -/

def flIV : Nat := 1
def flDZ : Nat := 2
def flOF : Nat := 4
def flUF : Nat := 8
def flNX : Nat := 16
def flSAT : Nat := 32
def flAR : Nat := 64

/-- A flag when a condition holds. -/
def flagIf (b : Bool) (f : Nat) : Nat := if b then f else 0

/-- A result with the flags it raises. -/
abbrev Flagged (α : Type) := α × Nat

/-! ### Formats and values (R118) -/

/-- A plain floating-point format: exponent and fraction widths. -/
structure Fmt where
  ebits : Nat
  fbits : Nat
  deriving DecidableEq, Repr

def fp32 : Fmt := { ebits := 8, fbits := 23 }
def fp16 : Fmt := { ebits := 5, fbits := 10 }
def bf16 : Fmt := { ebits := 8, fbits := 7 }

/-- The format of a half (R184). -/
def halfFmt : HalfFmt → Fmt
  | .fp16 => fp16
  | .bf16 => bf16

def Fmt.bias (f : Fmt) : Nat := 2 ^ (f.ebits - 1) - 1
/-- The exponent of the smallest subnormal. -/
def Fmt.low (f : Fmt) : Int := 1 - (f.bias : Int) - f.fbits
def Fmt.infBits (f : Fmt) : Nat := (2 ^ f.ebits - 1) * 2 ^ f.fbits
def Fmt.signBit (f : Fmt) : Nat := 2 ^ (f.ebits + f.fbits)
/-- The canonical NaN (R118, R120). -/
def Fmt.nan (f : Fmt) : Nat := f.infBits + 2 ^ (f.fbits - 1)

/-- What an encoding stands for: `fin neg man exp` is `(-1)^neg * man * 2^exp`. -/
inductive FVal where
  | nan (signalling : Bool)
  | inf (neg : Bool)
  | fin (neg : Bool) (man : Nat) (exp : Int)
  deriving DecidableEq, Repr

/-- The value of an encoding (R118, R127). -/
def fval (f : Fmt) (b : Nat) : FVal :=
  let neg := b / f.signBit % 2 = 1
  let e := b / 2 ^ f.fbits % 2 ^ f.ebits
  let x := b % 2 ^ f.fbits
  if e = 2 ^ f.ebits - 1 then (if x = 0 then .inf neg else .nan (x < 2 ^ (f.fbits - 1)))
  else if e = 0 then .fin neg x f.low
  else .fin neg (2 ^ f.fbits + x) (f.low + (e - 1 : Nat))

def FVal.isNan : FVal → Bool
  | .nan _ => true
  | _ => false
def FVal.isSnan : FVal → Bool
  | .nan s => s
  | _ => false
def FVal.isZero : FVal → Bool
  | .fin _ 0 _ => true
  | _ => false
def FVal.negate : FVal → FVal
  | .nan s => .nan s
  | .inf n => .inf (!n)
  | .fin n m e => .fin (!n) m e

/-! ### Rounding (R119, R121, R123) -/

/-- Whether a magnitude cut off at an integer is rounded up: mode, sign, oddness of the integer, and how the rest compares with
one half. -/
def roundUp (mode : Nat) (neg odd : Bool) (rest : Ordering) (exact : Bool) : Bool :=
  if exact then false
  else match mode with
    | 0 => rest = .gt || (rest = .eq && odd)
    | 1 => false
    | 2 => !neg
    | _ => neg

/-- A magnitude `man * 2^exp` (and a little more when `sticky`) in units of `2^u`, rounded to an integer; and whether that was
inexact. With `sticky`, `exp` must be below `u`. -/
def roundUnits (mode : Nat) (neg : Bool) (man : Nat) (exp u : Int) (sticky : Bool) : Nat × Bool :=
  if u ≤ exp then (man * 2 ^ (exp - u).toNat, sticky)
  else
    let d := (u - exp).toNat
    let d' := if man.log2 + 2 < d then man.log2 + 2 else d
    let n := man / 2 ^ d'
    let r := man % 2 ^ d'
    let exact := r = 0 && !sticky
    let rest := match compare (2 * r) (2 ^ d') with
      | .eq => if sticky then .gt else .eq
      | o => o
    (if roundUp mode neg (n % 2 = 1) rest exact then n + 1 else n, !exact)

/-- The delivered result of an overflow (R121). -/
def overflowBits (f : Fmt) (mode : Nat) (neg : Bool) : Nat :=
  if mode = 0 || (mode = 2 && !neg) || (3 ≤ mode && neg) then f.infBits else f.infBits - 1

/-- `round_fp` of a magnitude with a sign (R121, R127). -/
def roundMag (f : Fmt) (mode : Nat) (neg : Bool) (man : Nat) (exp : Int) (sticky : Bool) : Flagged Nat :=
  let sign := if neg then f.signBit else 0
  if man = 0 then (sign, 0)
  else
    let e : Int := exp + man.log2
    let u := max (e - f.fbits) f.low
    let (n, inexact) := roundUnits mode neg man exp u sticky
    let enc := (u - f.low).toNat * 2 ^ f.fbits + n
    if f.infBits ≤ enc then (sign + overflowBits f mode neg, flOF + flNX)
    else
      let tiny := e < f.low + f.fbits && !(e + 1 = f.low + f.fbits &&
        (roundUnits mode neg man exp (e - f.fbits) sticky).1 = 2 ^ (f.fbits + 1))
      (sign + enc, flagIf inexact flNX + flagIf (inexact && tiny) flUF)

/-- `round_fp` of an exact value; a NaN gives the canonical NaN. -/
def roundFp (f : Fmt) (mode : Nat) (v : FVal) : Flagged Nat :=
  match v with
  | .nan s => (f.nan, flagIf s flIV)
  | .inf n => ((if n then f.signBit else 0) + f.infBits, 0)
  | .fin n m e => roundMag f mode n m e false

/-! ### Sums and products (R119, R181) -/

/-- The exact product; `0 × ∞` is a NaN that counts as signalling, since it raises IV. -/
def mulVal (a b : FVal) : FVal :=
  match a, b with
  | .nan s, .nan t => .nan (s || t)
  | .nan s, _ => .nan s
  | _, .nan t => .nan t
  | .inf n, .inf k => .inf (n != k)
  | .inf n, .fin k m _ => if m = 0 then .nan true else .inf (n != k)
  | .fin k m _, .inf n => if m = 0 then .nan true else .inf (n != k)
  | .fin n m e, .fin k p f => .fin (n != k) (m * p) (e + f)

/-- The exact sum of two finite values; an exact zero is +0 but for the sum of two −0 (R119). -/
def addFin (n : Bool) (m : Nat) (e : Int) (k : Bool) (p : Nat) (f : Int) : FVal :=
  let g := min e f
  let x : Int := (m * 2 ^ (e - g).toNat : Nat)
  let y : Int := (p * 2 ^ (f - g).toNat : Nat)
  let s := (if n then -x else x) + (if k then -y else y)
  if s = 0 then .fin (n && k) 0 g else .fin (s < 0) s.natAbs g

/-- The exact sum; `∞ − ∞` is a NaN that counts as signalling. -/
def addVal (a b : FVal) : FVal :=
  match a, b with
  | .nan s, .nan t => .nan (s || t)
  | .nan s, _ => .nan s
  | _, .nan t => .nan t
  | .inf n, .inf k => if n = k then .inf n else .nan true
  | .inf n, .fin .. => .inf n
  | .fin .., .inf n => .inf n
  | .fin n m e, .fin k p f => addFin n m e k p f

def f32 (w : Word) : FVal := fval fp32 w.toNat

/-- An FP32 result as a lane. -/
def asWord (r : Flagged Nat) : Flagged Word := (BitVec.ofNat 32 r.1, r.2)

def fadd32 (a b : Word) : Flagged Word := asWord (roundFp fp32 0 (addVal (f32 a) (f32 b)))
def fsub32 (a b : Word) : Flagged Word := asWord (roundFp fp32 0 (addVal (f32 a) (f32 b).negate))
def fmul32 (a b : Word) : Flagged Word := asWord (roundFp fp32 0 (mulVal (f32 a) (f32 b)))
def ffma32 (a b c : Word) : Flagged Word := asWord (roundFp fp32 0 (addVal (mulVal (f32 a) (f32 b)) (f32 c)))
def ffms32 (a b c : Word) : Flagged Word := asWord (roundFp fp32 0 (addVal (mulVal (f32 a) (f32 b)) (f32 c).negate))

/-! ### Quotient and root (R119, R121) -/

/-- VFDIV: the quotient with 40 bits or more before the remainder decides the rest. -/
def fdiv32 (a b : Word) : Flagged Word :=
  asWord <| match f32 a, f32 b with
    | .nan s, .nan t => (fp32.nan, flagIf (s || t) flIV)
    | .nan s, _ => (fp32.nan, flagIf s flIV)
    | _, .nan t => (fp32.nan, flagIf t flIV)
    | .inf _, .inf _ => (fp32.nan, flIV)
    | .inf n, .fin k _ _ => roundFp fp32 0 (.inf (n != k))
    | .fin n _ _, .inf k => roundFp fp32 0 (.fin (n != k) 0 0)
    | .fin n m e, .fin k p f =>
      if p = 0 then
        (if m = 0 then (fp32.nan, flIV) else (((roundFp fp32 0 (.inf (n != k))).1), flDZ))
      else roundMag fp32 0 (n != k) (m * 2 ^ 64 / p) (e - f - 64) (m * 2 ^ 64 % p != 0)

/-- The integer square root, one result bit at a time from bit `fuel - 1` down; `2^fuel` exceeds the root. -/
def isqrtFrom : Nat → Nat → Nat → Nat
  | 0, _, r => r
  | fuel + 1, n, r =>
    let c := r + 2 ^ fuel
    isqrtFrom fuel n (if c * c ≤ n then c else r)

def isqrt (bits n : Nat) : Nat := isqrtFrom bits n 0

/-- VFSQRT. -/
def fsqrt32 (a : Word) : Flagged Word :=
  asWord <| match f32 a with
    | .nan s => (fp32.nan, flagIf s flIV)
    | .inf n => if n then (fp32.nan, flIV) else (fp32.infBits, 0)
    | .fin n 0 _ => (if n then fp32.signBit else 0, 0)
    | .fin true _ _ => (fp32.nan, flIV)
    | .fin false m e =>
      let odd := e % 2 != 0
      let m' := (if odd then 2 * m else m) * 2 ^ 64
      let e' := (if odd then e - 1 else e) - 64
      let r := isqrt 46 m'
      roundMag fp32 0 false r (e' / 2) (r * r != m')

/-! ### Exponential and logarithm (R119, R122) -/

/-- Precision of the exponential in bits. -/
def expBits : Nat := 160

/-- `2^f` in units of `2^-160` cut off, for `f = num / 2^k` below 1: the product of the successive square roots of 2 that the
bits of `num` select. -/
def exp2Frac : Nat → Nat → Nat → Nat → Nat
  | 0, _, _, acc => acc
  | k + 1, num, root, acc =>
    let acc := if num / 2 ^ k % 2 = 1 then acc * root / 2 ^ expBits else acc
    exp2Frac k (num % 2 ^ k) (isqrt (expBits + 1) (root * 2 ^ expBits)) acc

/-- VFEXP2. An operand below 2^-40 in magnitude lies next to 1; one beyond 2^8 overflows or vanishes. -/
def fexp2 (a : Word) : Flagged Word :=
  asWord <| match f32 a with
    | .nan s => (fp32.nan, flagIf s flIV)
    | .inf n => (if n then 0 else fp32.infBits, 0)
    | .fin _ 0 _ => (0x3f800000, 0)
    | .fin n m e =>
      if 8 ≤ e + m.log2 then
        (if n then roundMag fp32 0 false 1 (-400) false else roundMag fp32 0 false 1 400 false)
      else if e + m.log2 < -40 then
        (if n then roundMag fp32 0 false (2 ^ 60 - 1) (-60) true else roundMag fp32 0 false (2 ^ 60) (-60) true)
      else
        let k := (-e).toNat
        let num : Int := if 0 ≤ e then (m * 2 ^ e.toNat : Nat) else m
        let x : Int := if n then -num else num
        let whole := x.fdiv (2 ^ k)
        let frac := (x.fmod (2 ^ k)).toNat
        if frac = 0 then roundMag fp32 0 false 1 whole false
        else
          let root := isqrt (expBits + 1) (2 * 2 ^ (2 * expBits))
          roundMag fp32 0 false (exp2Frac k frac root (2 ^ expBits)) (whole - expBits) true

/-- The binary digits of `log2 y` for `y` in `[1, 2)` in units of `2^-256`, cut off: square and halve. -/
def log2Frac : Nat → Nat → Nat → Nat
  | 0, _, acc => acc
  | k + 1, y, acc =>
    let y2 := y * y / 2 ^ 256
    if 2 * 2 ^ 256 ≤ y2 then log2Frac k (y2 / 2) (2 * acc + 1) else log2Frac k y2 (2 * acc)

/-- VFLOG2. -/
def flog2 (a : Word) : Flagged Word :=
  asWord <| match f32 a with
    | .nan s => (fp32.nan, flagIf s flIV)
    | .inf n => if n then (fp32.nan, flIV) else (fp32.infBits, 0)
    | .fin _ 0 _ => (fp32.signBit + fp32.infBits, flDZ)
    | .fin true _ _ => (fp32.nan, flIV)
    | .fin false m e =>
      let w : Int := e + m.log2
      if m = 2 ^ m.log2 then roundMag fp32 0 (w < 0) w.natAbs 0 false
      else
        let l := log2Frac 112 (m * 2 ^ (256 - m.log2)) 0
        if 0 ≤ w then roundMag fp32 0 false (w.toNat * 2 ^ 112 + l) (-112) true
        else roundMag fp32 0 true (w.natAbs * 2 ^ 112 - l - 1) (-112) true

/-! ### Minimum, maximum, sign, comparison (R122, R181, R189) -/

/-- Order of two values that are no NaN; −0 equals +0. -/
def cmpVal (a b : FVal) : Ordering :=
  match a, b with
  | .nan _, _ => .eq
  | _, .nan _ => .eq
  | .inf n, .inf k => if n = k then .eq else if n then .lt else .gt
  | .inf n, .fin .. => if n then .lt else .gt
  | .fin .., .inf k => if k then .gt else .lt
  | .fin n m e, .fin k p f =>
    let g := min e f
    let x : Int := (m * 2 ^ (e - g).toNat : Nat)
    let y : Int := (p * 2 ^ (f - g).toNat : Nat)
    compare (if n then -x else x) (if k then -y else y)

/-- The IEEE 754-2019 minimum (`wantMax` false) or maximum of two encodings. -/
def fminmax (wantMax : Bool) (a b : Word) : Flagged Word :=
  let x := f32 a
  let y := f32 b
  if x.isNan || y.isNan then (BitVec.ofNat 32 fp32.nan, flagIf (x.isSnan || y.isSnan) flIV)
  else
    let aFirst := match cmpVal x y with
      | .lt => true
      | .gt => false
      | .eq => a.getLsbD 31
    (if aFirst != wantMax then a else b, 0)

/-- VFABS and VFNEG: a change of the sign bit, but a NaN is canonical. -/
def fsign (f : Word → Word) (a : Word) : Flagged Word :=
  match f32 a with
  | .nan s => (BitVec.ofNat 32 fp32.nan, flagIf s flIV)
  | _ => (f a, 0)

/-- The five vector float comparisons: equal, unequal, less, less or equal, unordered. -/
inductive FCmp where
  | eq | ne | lt | le | un
  deriving DecidableEq, Repr

def fcmp (k : FCmp) (a b : Word) : Flagged Bool :=
  let x := f32 a
  let y := f32 b
  let un := x.isNan || y.isNan
  let o := cmpVal x y
  let sn := flagIf (x.isSnan || y.isSnan) flIV
  match k with
  | .eq => (!un && o = .eq, sn)
  | .ne => (un || o != .eq, sn)
  | .lt => (!un && o = .lt, flagIf un flIV)
  | .le => (!un && o != .gt, flagIf un flIV)
  | .un => (un, sn)

/-! ### Conversions (R123 to R126, R182 to R185) -/

/-- Between floating-point formats (R124). -/
def cvtFmt (src dst : Fmt) (mode b : Nat) : Flagged Nat := roundFp dst mode (fval src b)

/-- From an integer to FP32 (R125). -/
def cvtIF (mode : Nat) (x : Int) : Flagged Word := asWord (roundMag fp32 mode (x < 0) x.natAbs 0 false)

/-- From FP32 to an `n`-bit integer (R126). -/
def cvtFI (n : Nat) (signed : Bool) (mode : Nat) (a : Word) : Flagged Word :=
  let hi : Int := if signed then 2 ^ (n - 1) - 1 else 2 ^ n - 1
  let lo : Int := if signed then -(2 ^ (n - 1)) else 0
  match f32 a with
  | .nan _ => (0#32, flIV)
  | .inf neg => (BitVec.ofInt 32 (if neg then lo else hi), flIV)
  | .fin neg m e =>
    let (q, inexact) := roundUnits mode neg m e 0 false
    let v : Int := if neg then -q else q
    if v < lo then (BitVec.ofInt 32 lo, flIV)
    else if hi < v then (BitVec.ofInt 32 hi, flIV)
    else (BitVec.ofInt 32 v, flagIf inexact flNX)

/-- VFRND (R182). -/
def frnd (mode : Nat) (a : Word) : Flagged Word :=
  match f32 a with
  | .nan s => (BitVec.ofNat 32 fp32.nan, flagIf s flIV)
  | .inf _ => (a, 0)
  | .fin neg m e => ((asWord (roundMag fp32 0 neg (roundUnits mode neg m e 0 false).1 0 false)).1, 0)

/-- A narrowing to `n` bits that saturates (R117). -/
def satInt (n : Nat) (signed : Bool) (x : Int) : Flagged Int :=
  let hi : Int := if signed then 2 ^ (n - 1) - 1 else 2 ^ n - 1
  let lo : Int := if signed then -(2 ^ (n - 1)) else 0
  if x < lo then (lo, flSAT) else if hi < x then (hi, flSAT) else (x, 0)

/-! ### Trees (R128, R129) -/

/-- One level of the pairwise tree. -/
def treeLevel : List (Flagged Word) → List (Flagged Word)
  | a :: b :: rest =>
    let r := fadd32 a.1 b.1
    (r.1, a.2 ||| b.2 ||| r.2) :: treeLevel rest
  | l => l

/-- The lanes that enter a tree: an inactive lane is −0. -/
def treeLanes (act : DWord) (x : Lanes) : List (Flagged Word) :=
  (List.range 64).map fun l => (if maskBit act l then x.at l else 0x80000000#32, 0)

/-- VREDFADD's sum with the flags of every node. -/
def treeFadd (act : DWord) (x : Lanes) : Flagged Word :=
  (treeLevel (treeLevel (treeLevel (treeLevel (treeLevel (treeLevel (treeLanes act x))))))).headD (0#32, 0)

/-- One step of the doubling schedule; each value carries the flags of the nodes it depends on. -/
def scanStep (d : Nat) (y : List (Flagged Word)) : List (Flagged Word) :=
  y.take d ++ (y.zip (y.drop d)).map fun (a, b) =>
    let r := fadd32 a.1 b.1
    (r.1, a.2 ||| b.2 ||| r.2)

/-- A delivered value: every NaN is the canonical one (R120). -/
def delivered (a : Word) : Word :=
  match f32 a with
  | .nan _ => BitVec.ofNat 32 fp32.nan
  | .inf _ | .fin .. => a

/-- VFSCAN's values with the flags each depends on. Lane 0 passes no node, so its NaN is made canonical at the end (R120). -/
def scanFadd (act : DWord) (x : Lanes) : List (Flagged Word) :=
  ([1, 2, 4, 8, 16, 32].foldl (fun y d => scanStep d y) (treeLanes act x)).map fun r => (delivered r.1, r.2)

/-! ### Keys and random numbers (R140, R143) -/

def fkey (b : Word) : Word := if b.getLsbD 31 then b ^^^ 0xffffffff#32 else b ^^^ 0x80000000#32

/-- One round of VRNG. -/
def rngRound (k : Word) (x : Word) (rnd : Nat) : Word :=
  let kr := k + BitVec.ofNat 32 rnd * 0x6a09e667#32
  let y := (x ^^^ kr) * 0x9e3779b1#32
  y ^^^ (y >>> 15)

def rng (c k : Word) : Word := [0, 1, 2, 3].foldl (rngRound k) c

/-! ### Block formats (R130 to R136) -/

/-- The three block formats by code. -/
inductive BFmt where
  | m7 | m4 | m2
  deriving DecidableEq, Repr

def BFmt.code : BFmt → Nat
  | .m7 => 1 | .m4 => 2 | .m2 => 3
/-- Magnitude width. -/
def BFmt.m : BFmt → Nat
  | .m7 => 7 | .m4 => 4 | .m2 => 2
/-- Bytes of a group record. -/
def BFmt.size : BFmt → Nat
  | .m7 => 18 | .m4 => 12 | .m2 => 8
/-- Groups per block. -/
def BFmt.groups : BFmt → Nat
  | .m7 => 3 | .m4 => 5 | .m2 => 7
def bfmtOf (n : Nat) : Option BFmt :=
  if n = 1 then some .m7 else if n = 2 then some .m4 else if n = 3 then some .m2 else none

/-- Byte `i` of a list as a number. -/
def byteN (bs : List Byte) (i : Nat) : Nat := (bs.getD i 0#8).toNat

/-- Sign and magnitude of element `i` of a group record (R131). -/
def recElem (f : BFmt) (r : List Byte) (i : Nat) : Bool × Nat :=
  match f with
  | .m7 => (byteN r (2 + i) / 128 = 1, byteN r (2 + i) % 128)
  | .m4 => ((byteN r 2 + 256 * byteN r 3) / 2 ^ i % 2 = 1, byteN r (4 + i / 2) / 16 ^ (i % 2) % 16)
  | .m2 => ((byteN r 2 + 256 * byteN r 3) / 2 ^ i % 2 = 1, byteN r (4 + i / 4) / 4 ^ (i % 4) % 4)

/-- The value of an element (R132); a poisoned group is a quiet NaN. -/
def recValue (f : BFmt) (sigma : Int) (r : List Byte) (i : Nat) : FVal :=
  let e := byteN r 0
  if e = 255 then .nan false
  else
    let (s, mag) := recElem f r i
    .fin s mag ((e : Int) - 127 + sigma - (byteN r 1 / 2 ^ (i / 2) % 2 : Nat) - (f.m - 1 : Nat))

/-- A group record from its parts (R131). -/
def recBytes (f : BFmt) (e micro : Nat) (signs : List Bool) (mags : List Nat) : List Byte :=
  let b (n : Nat) : Byte := BitVec.ofNat 8 n
  let plane := listSum ((signs.zip (List.range 16)).map fun (s, i) => if s then 2 ^ i else 0)
  let mag (i : Nat) := mags.getD i 0
  [b e, b micro] ++ match f with
    | .m7 => (List.range 16).map fun i => b ((if signs.getD i false then 128 else 0) + mag i)
    | .m4 => [b plane, b (plane / 256)] ++ (List.range 8).map fun j => b (mag (2 * j) + 16 * mag (2 * j + 1))
    | .m2 => [b plane, b (plane / 256)] ++
      (List.range 4).map fun j => b (mag (4 * j) + 4 * mag (4 * j + 1) + 16 * mag (4 * j + 2) + 64 * mag (4 * j + 3))

/-- The magnitude of a finite value in units of `2^u`, rounded to the nearest even integer; and whether that was exact. -/
def quant (v : FVal) (u : Int) : Nat × Bool :=
  match v with
  | .fin _ m e => let (q, i) := roundUnits 0 false m e u false; (q, !i)
  | _ => (0, true)

/-- The exponent of the leading bit of a finite value that is not zero. -/
def leadExp? : FVal → Option Int
  | .fin _ m e => if m = 0 then none else some (e + m.log2)
  | _ => none

/-- The greatest of a list of integers. -/
def maxInt? : List Int → Option Int
  | [] => none
  | a :: rest => match maxInt? rest with
    | none => some a
    | some b => some (max a b)

def isInf : FVal → Bool
  | .inf _ => true
  | _ => false

/-- Whether pair `j` takes the finer step (R136). -/
def microBit (f : BFmt) (u1 : Int) (xs : List FVal) (j : Nat) : Bool :=
  let a := xs.getD (2 * j) (.fin false 0 0)
  let b := xs.getD (2 * j + 1) (.fin false 0 0)
  let top := 2 ^ f.m - 1
  !isInf a && !isInf b && !(a.isZero && b.isZero) && (quant a u1).1 ≤ top && (quant b u1).1 ≤ top

/-- One element's magnitude and flags against its step (R136). -/
def quantElem (f : BFmt) (u : Int) (v : FVal) : Nat × Nat :=
  let top := 2 ^ f.m - 1
  if isInf v then (top, flSAT)
  else
    let (q, exact) := quant v u
    let big := top < q
    let q' := if big then top else q
    (q', flagIf big flSAT + flagIf (big || !exact) flNX + flagIf (!v.isZero && q' = 0) flUF)

/-- Quantise a group of 16 FP32 encodings (R136). -/
def quantise (f : BFmt) (sigma : Int) (ws : List Word) : Flagged (List Byte) :=
  let xs := ws.map f32
  let signs := ws.map fun (w : Word) => w.getLsbD 31
  if xs.any (·.isNan) then (recBytes f 255 0 [] [], flIV)
  else
    match maxInt? (xs.filterMap leadExp?), xs.any isInf with
    | none, false => (recBytes f 0 0 signs [], 0)
    | top, _ =>
      let e0 : Int := (top.getD (254 + sigma - 127)) + 127 - sigma
      let e : Int := if 254 < e0 then 254 else if e0 < 0 then 0 else e0
      let u0 : Int := e - 127 + sigma - (f.m - 1 : Nat)
      let mu := (List.range 8).map (microBit f (u0 - 1) xs)
      let q := (xs.zip (List.range 16)).map fun (v, i) => quantElem f (if mu.getD (i / 2) false then u0 - 1 else u0) v
      let micro := listSum ((mu.zip (List.range 8)).map fun (b, j) => if b then 2 ^ j else 0)
      (recBytes f e.toNat micro signs (q.map (·.1)), q.foldl (fun a p => a ||| p.2) 0)

/-- A block of one group (R130, R187). -/
def blockOfRecord (f : BFmt) (sigma : Int) (r : List Byte) : List Byte :=
  let bs := [BitVec.ofNat 8 (f.code * 16 + 1), BitVec.ofInt 8 sigma] ++ r
  bs ++ List.replicate (64 - bs.length) 0#8

/-- What a block's header says (R130, R133): a zero block with its number of groups, a format with scale and groups, or
a faulty header. -/
inductive BlockHead where
  | zero (groups : Nat)
  | groups (f : BFmt) (sigma : Int) (n : Nat)
  | bad
  deriving DecidableEq, Repr

def blockHead (b0 b1 : Nat) : BlockHead :=
  let ng := b0 % 16
  if b0 / 16 = 0 then .zero (if ng = 0 then 4 else ng)
  else match bfmtOf (b0 / 16) with
    | none => .bad
    | some f => if f.groups < ng then .bad else .groups f (sextNat 8 b1) ng

/-- Record `g` of a block. -/
def blockRecord (f : BFmt) (bs : List Byte) (g : Nat) : List Byte := (bs.drop (2 + g * f.size)).take f.size

end Sys2Proof.Machine
end

