-- ==== Sys2Proof/Config.lean ====
section
/-!
DEFINITION. What an implementation fixes and the values the manual leaves free. A constant without a body can be
evaluated by nothing: a statement that mentions one holds whatever it is.
-/

namespace Sys2Proof.Config

/-- A value the manual leaves open, numbered by the machine's counter (log 4). -/
opaque freeValue : Nat → BitVec 64
/-- Which of a full set of lines is evicted (R89, R92). -/
opaque evicted : Nat → Nat
/-- The device nonce of a session, by the number of sessions opened (R373, R375). -/
opaque deviceNonce : Nat → List Byte
/-- The pair of 256-bit keys of a draw from the device's random bit generator (R406). -/
opaque randomKeys : Nat → List Byte × List Byte
/-- The ML-DSA-87 signature of a digest by the device identity key derived from MR0 (R411, R413, R462). -/
opaque identitySignature : List Byte → List Byte → List Byte
/-- The identity public key derived from MR0 (R411). -/
opaque identityKey : List Byte → List Byte
/-- Whether a Flielao certificate covers an identity public key (R411). -/
opaque certifies : List Byte → List Byte → Bool
/-- The fused voltage of a die, in mV (R455). -/
opaque vnom : Nat → Nat
/-- The unit of a cluster in which one of its eight path-delay sensors lies (R454). -/
opaque sensorUnit : Nat → Nat → Nat
/-- How far the journal's size exponent lies above 16, taken modulo 9 (R377). -/
opaque journalExtra : Nat
/-- The rate in parts per 10^9 at which the time receiver slews for a measured offset, before its limit (R447). -/
opaque slewRate : Int → Int
/-- Whether an ML-DSA-87 signature over a digest verifies under the Flielao key fused in the die (R410). -/
opaque imageVerifies : List Byte → List Byte → Bool

end Sys2Proof.Config
end

