-- ==== Sys2Proof/Syntax.lean ====
section
/-!
DEFINITION. The instruction syntax: one constructor for each row of spec/opcode_table.json, in the table's order but
for the rows without arguments, which stand last.
The rows up to END are operations of a bundle's slots (R154 to R157); their fields are those of the formats R148 to
R151. The rows after END are the device's own events, whole and indivisible (spec/95); their fields say which object
the event befalls. What the outside world supplies with an event (a frame, a measurement, an image) is the head of the
input queue of State.
-/

namespace Sys2Proof

/-- One constructor for each row of the table of operations and events. A comment before a constructor names the rule
that governs it. Register fields are raw codes: `WellFormed` says which codes a field may hold. -/
inductive Instr where
  /-- VADD (R175). -/
  | vadd (vd va vb : BitVec 7) (nw : Bool)
  /-- VSUB (R175). -/
  | vsub (vd va vb : BitVec 7) (nw : Bool)
  /-- VMUL (R175). -/
  | vmul (vd va vb : BitVec 7) (nw : Bool)
  /-- VMULHI (R175). -/
  | vmulhi (vd va vb : BitVec 7) (nw : Bool)
  /-- VMIN (R175). -/
  | vmin (vd va vb : BitVec 7) (nw : Bool)
  /-- VMAX (R175). -/
  | vmax (vd va vb : BitVec 7) (nw : Bool)
  /-- VMINU (R175). -/
  | vminu (vd va vb : BitVec 7) (nw : Bool)
  /-- VMAXU (R175). -/
  | vmaxu (vd va vb : BitVec 7) (nw : Bool)
  /-- VAND (R175). -/
  | vand (vd va vb : BitVec 7) (nw : Bool)
  /-- VOR (R175). -/
  | vor (vd va vb : BitVec 7) (nw : Bool)
  /-- VXOR (R175). -/
  | vxor (vd va vb : BitVec 7) (nw : Bool)
  /-- VANDN (R175). -/
  | vandn (vd va vb : BitVec 7) (nw : Bool)
  /-- VSHL (R175). -/
  | vshl (vd va vb : BitVec 7) (nw : Bool)
  /-- VSHR (R175). -/
  | vshr (vd va vb : BitVec 7) (nw : Bool)
  /-- VSRA (R175). -/
  | vsra (vd va vb : BitVec 7) (nw : Bool)
  /-- VCLZ (R176). -/
  | vclz (vd va : BitVec 7) (nw : Bool)
  /-- VPOPC (R176). -/
  | vpopc (vd va : BitVec 7) (nw : Bool)
  /-- VSEL (R177). -/
  | vsel (vd va vb : BitVec 7) (nw : Bool)
  /-- VMOV (R178). -/
  | vmov (vd va : BitVec 7) (nw : Bool)
  /-- VMOVI (R179). -/
  | vmovi (vd : BitVec 7) (imm : BitVec 14) (nw : Bool)
  /-- VIOTA (R180). -/
  | viota (vd : BitVec 7) (nw : Bool)
  /-- VFADD (R181). -/
  | vfadd (vd va vb : BitVec 7) (nw : Bool)
  /-- VFSUB (R181). -/
  | vfsub (vd va vb : BitVec 7) (nw : Bool)
  /-- VFMUL (R181). -/
  | vfmul (vd va vb : BitVec 7) (nw : Bool)
  /-- VFMA (R181). -/
  | vfma (vd va vb : BitVec 7) (nw : Bool)
  /-- VFMS (R181). -/
  | vfms (vd va vb : BitVec 7) (nw : Bool)
  /-- VFMIN (R181). -/
  | vfmin (vd va vb : BitVec 7) (nw : Bool)
  /-- VFMAX (R181). -/
  | vfmax (vd va vb : BitVec 7) (nw : Bool)
  /-- VFABS (R181). -/
  | vfabs (vd va : BitVec 7) (nw : Bool)
  /-- VFNEG (R181). -/
  | vfneg (vd va : BitVec 7) (nw : Bool)
  /-- VFDIV (R181). -/
  | vfdiv (vd va vb : BitVec 7) (nw : Bool)
  /-- VFSQRT (R181). -/
  | vfsqrt (vd va : BitVec 7) (nw : Bool)
  /-- VFEXP2 (R181). -/
  | vfexp2 (vd va : BitVec 7) (nw : Bool)
  /-- VFLOG2 (R181). -/
  | vflog2 (vd va : BitVec 7) (nw : Bool)
  /-- VFRND (R182). -/
  | vfrnd (vd va : BitVec 7) (rm : Rm) (nw : Bool)
  /-- VCVT (R183). -/
  | vcvt (vd va : BitVec 7) (rm : Rm) (kind : CvtKind) (nw : Bool)
  /-- VPKH (R184). -/
  | vpkh (vd va : BitVec 7) (rm : Rm) (fmt : HalfFmt) (high : Bool) (nw : Bool)
  /-- VUPKH (R185). -/
  | vupkh (vd va : BitVec 7) (fmt : HalfFmt) (high : Bool) (nw : Bool)
  /-- VBPACK_M7 (R187). -/
  | vbpackM7 (vd va vb : BitVec 7) (nw : Bool)
  /-- VBPACK_M4 (R187). -/
  | vbpackM4 (vd va vb : BitVec 7) (nw : Bool)
  /-- VBPACK_M2 (R187). -/
  | vbpackM2 (vd va vb : BitVec 7) (nw : Bool)
  /-- VBUNPK (R188). -/
  | vbunpk (vd va : BitVec 7) (nw : Bool)
  /-- VCMP_EQ (R189). -/
  | vcmpEq (sd : BitVec 6) (va vb : BitVec 7)
  /-- VCMP_NE (R189). -/
  | vcmpNe (sd : BitVec 6) (va vb : BitVec 7)
  /-- VCMP_LT (R189). -/
  | vcmpLt (sd : BitVec 6) (va vb : BitVec 7)
  /-- VCMP_LE (R189). -/
  | vcmpLe (sd : BitVec 6) (va vb : BitVec 7)
  /-- VCMP_LTU (R189). -/
  | vcmpLtu (sd : BitVec 6) (va vb : BitVec 7)
  /-- VCMP_LEU (R189). -/
  | vcmpLeu (sd : BitVec 6) (va vb : BitVec 7)
  /-- VFCMP_EQ (R189). -/
  | vfcmpEq (sd : BitVec 6) (va vb : BitVec 7)
  /-- VFCMP_NE (R189). -/
  | vfcmpNe (sd : BitVec 6) (va vb : BitVec 7)
  /-- VFCMP_LT (R189). -/
  | vfcmpLt (sd : BitVec 6) (va vb : BitVec 7)
  /-- VFCMP_LE (R189). -/
  | vfcmpLe (sd : BitVec 6) (va vb : BitVec 7)
  /-- VFCMP_UN (R189). -/
  | vfcmpUn (sd : BitVec 6) (va vb : BitVec 7)
  /-- VFKEY (R190). -/
  | vfkey (vd va : BitVec 7) (nw : Bool)
  /-- VRNG (R191). -/
  | vrng (vd va vb : BitVec 7) (nw : Bool)
  /-- VSHFL (R192). -/
  | vshfl (vd va vb : BitVec 7) (nw : Bool)
  /-- VROTL (R193). -/
  | vrotl (vd va vb : BitVec 7) (nw : Bool)
  /-- VREDADD (R194). -/
  | vredadd (vd va : BitVec 7) (nw : Bool)
  /-- VREDFADD (R194). -/
  | vredfadd (vd va : BitVec 7) (nw : Bool)
  /-- VREDMAX (R194). -/
  | vredmax (vd va : BitVec 7) (nw : Bool)
  /-- VSCAN (R194). -/
  | vscan (vd va : BitVec 7) (nw : Bool)
  /-- VFSCAN (R194). -/
  | vfscan (vd va : BitVec 7) (nw : Bool)
  /-- VMATCH (R195). -/
  | vmatch (sd : BitVec 6) (va vb : BitVec 7)
  /-- VPLANE (R196). -/
  | vplane (va : BitVec 7)
  /-- LDV (R203). -/
  | ldv (vt : BitVec 7) (sa : BitVec 6) (wd : Width) (ofs : BitVec 5) (f : BitVec 4)
  /-- STV (R203). -/
  | stv (vt : BitVec 7) (sa : BitVec 6) (wd : Width) (ofs : BitVec 5) (f : BitVec 4)
  /-- LDG (R204). -/
  | ldg (vt vx : BitVec 7) (sa : BitVec 6) (f : BitVec 4)
  /-- STG (R204). -/
  | stg (vt vx : BitVec 7) (sa : BitVec 6) (f : BitVec 4)
  /-- LDS (R205). -/
  | lds (st sa : BitVec 6) (wd : Width) (disp : BitVec 4) (f : BitVec 4)
  /-- LDS_ACQ (R205). -/
  | ldsAcq (st sa : BitVec 6) (sc : Scope) (wd : Width) (disp : BitVec 4) (f : BitVec 4)
  /-- STS (R205). -/
  | sts (st sa : BitVec 6) (wd : Width) (disp : BitVec 4) (f : BitVec 4)
  /-- STS_REL (R205). -/
  | stsRel (st sa : BitVec 6) (sc : Scope) (wd : Width) (disp : BitVec 4) (f : BitVec 4)
  /-- SPLD (R206). -/
  | spld (vt vx : BitVec 7) (sa : BitVec 6)
  /-- SPST (R206). -/
  | spst (vt vx : BitVec 7) (sa : BitVec 6)
  /-- SPLDS (R207). -/
  | splds (st sa : BitVec 6) (wd : Width) (disp : BitVec 4)
  /-- SPSTS (R207). -/
  | spsts (st sa : BitVec 6) (wd : Width) (disp : BitVec 4)
  /-- TLD (R210). -/
  | tld (vt : BitVec 7) (tile : BitVec 6) (rg : BitVec 7)
  /-- ATOMV_ADD (R211). -/
  | atomvAdd (vt vx : BitVec 7) (sa : BitVec 6) (f : BitVec 4)
  /-- ATOMV_AND (R211). -/
  | atomvAnd (vt vx : BitVec 7) (sa : BitVec 6) (f : BitVec 4)
  /-- ATOMV_OR (R211). -/
  | atomvOr (vt vx : BitVec 7) (sa : BitVec 6) (f : BitVec 4)
  /-- ATOMV_XOR (R211). -/
  | atomvXor (vt vx : BitVec 7) (sa : BitVec 6) (f : BitVec 4)
  /-- ATOMV_MIN (R211). -/
  | atomvMin (vt vx : BitVec 7) (sa : BitVec 6) (f : BitVec 4)
  /-- ATOMV_MAX (R211). -/
  | atomvMax (vt vx : BitVec 7) (sa : BitVec 6) (f : BitVec 4)
  /-- ATOMV_MINU (R211). -/
  | atomvMinu (vt vx : BitVec 7) (sa : BitVec 6) (f : BitVec 4)
  /-- ATOMV_MAXU (R211). -/
  | atomvMaxu (vt vx : BitVec 7) (sa : BitVec 6) (f : BitVec 4)
  /-- ATOMS_ADD (R212). -/
  | atomsAdd (st sa sv : BitVec 6) (sc : Scope) (f : BitVec 4)
  /-- ATOMS_AND (R212). -/
  | atomsAnd (st sa sv : BitVec 6) (sc : Scope) (f : BitVec 4)
  /-- ATOMS_OR (R212). -/
  | atomsOr (st sa sv : BitVec 6) (sc : Scope) (f : BitVec 4)
  /-- ATOMS_XOR (R212). -/
  | atomsXor (st sa sv : BitVec 6) (sc : Scope) (f : BitVec 4)
  /-- ATOMS_MIN (R212). -/
  | atomsMin (st sa sv : BitVec 6) (sc : Scope) (f : BitVec 4)
  /-- ATOMS_MAX (R212). -/
  | atomsMax (st sa sv : BitVec 6) (sc : Scope) (f : BitVec 4)
  /-- ATOMS_MINU (R212). -/
  | atomsMinu (st sa sv : BitVec 6) (sc : Scope) (f : BitVec 4)
  /-- ATOMS_MAXU (R212). -/
  | atomsMaxu (st sa sv : BitVec 6) (sc : Scope) (f : BitVec 4)
  /-- CASV (R214). -/
  | casv (vt vx : BitVec 7) (sa : BitVec 6) (f : BitVec 4)
  /-- CASS (R214). -/
  | cass (st sa sv : BitVec 6) (sc : Scope) (f : BitVec 4)
  /-- DACCV (R216). -/
  | daccv (op : DaccOp) (vt vx : BitVec 7) (sa : BitVec 6)
  /-- DACCS (R216). -/
  | daccs (op : DaccOp) (sa sv : BitVec 6)
  /-- FLUSH (R219). -/
  | flush (sc : FlushScope) (f : BitVec 4)
  /-- FENCE (R221). -/
  | fence (kind : FenceKind) (sc : Scope)
  /-- PREF (R223). -/
  | pref (sa : BitVec 6) (disp : BitVec 4)
  /-- VSPILL (R222). -/
  | vspill (vt : BitVec 7) (sa : BitVec 6) (ofs : BitVec 5) (f : BitVec 4)
  /-- VFILL (R222). -/
  | vfill (vt : BitVec 7) (sa : BitVec 6) (ofs : BitVec 5) (f : BitVec 4)
  /-- CPY (R228). -/
  | cpy (ord : Bool) (dst src desc : BitVec 5) (f : Option (BitVec 4))
  /-- CPYIN (R228). -/
  | cpyin (ord : Bool) (dst src desc : BitVec 5) (f : Option (BitVec 4))
  /-- CPYOUT (R228). -/
  | cpyout (ord : Bool) (dst src desc : BitVec 5) (f : Option (BitVec 4))
  /-- CPYR (R228). -/
  | cpyr (ord : Bool) (dst src desc : BitVec 5) (f : Option (BitVec 4))
  /-- CPYM (R232). -/
  | cpym (ord : Bool) (dst src desc : BitVec 5) (f : Option (BitVec 4))
  /-- CPYAT (R232). -/
  | cpyat (ord : Bool) (dst src desc : BitVec 5) (f : Option (BitVec 4))
  /-- CPYZ (R228). -/
  | cpyz (ord : Bool) (dst desc : BitVec 5) (f : Option (BitVec 4))
  /-- TDEF (R238). -/
  | tdef (tile : BitVec 6) (s : BitVec 6)
  /-- TFREE (R239). -/
  | tfree (tile : BitVec 6)
  /-- TSTAT (R239). -/
  | tstat (tile : BitVec 6) (s : BitVec 6)
  /-- MRES (R240). -/
  | mres (f : BitVec 4)
  /-- CHB (R241). -/
  | chb (acc : BitVec 2) (anchor : Option (BitVec 10))
  /-- MSTEP (R242). -/
  | mstep (ta tb : BitVec 6) (k : BitVec 6)
  /-- MSTEP_G (R248). -/
  | mstepG (ta tb : BitVec 6) (k : BitVec 6)
  /-- CHE (R244). -/
  | che (acc : BitVec 2) (f : BitVec 4)
  /-- CHE_G (R248). -/
  | cheG (acc : BitVec 2) (f : BitVec 4)
  /-- MPOP (R245). -/
  | mpop (vd : BitVec 7)
  /-- MDEP (R246). -/
  | mdep (tile : BitVec 6) (acc : BitVec 2) (f : BitVec 4)
  /-- GANG (R249). -/
  | gang (n : BitVec 2) (skew : BitVec 3)
  /-- XSV (R250). -/
  | xsv (vd : BitVec 7) (sa : BitVec 6) (lane : Option (BitVec 6))
  /-- XVS (R251). -/
  | xvs (sd : BitVec 6) (va : BitVec 7) (lane : BitVec 6)
  /-- QBIND (R252). -/
  | qbind (q : BitVec 3) (queue : BitVec 5) (role : Role)
  /-- QUNBIND (R252). -/
  | qunbind (q : BitVec 3)
  /-- QSTAT (R253). -/
  | qstat (sd : BitVec 6) (queue : BitVec 5)
  /-- BARR (R254). -/
  | barr (bar : BitVec 3) (wait : Bool) (f : BitVec 4)
  /-- TPOST (R255). -/
  | tpost (sa : BitVec 6) (f : BitVec 4)
  /-- EVSET (R256). -/
  | evset (ev : BitVec 8)
  /-- LIMM (R153). -/
  | limm (imm : BitVec 22)
  /-- ADD (R262). -/
  | add (sd sa sb : BitVec 6)
  /-- ADDI (R263). -/
  | addi (sd sa : BitVec 6) (imm : BitVec 9)
  /-- SUB (R262). -/
  | sub (sd sa sb : BitVec 6)
  /-- MUL (R262). -/
  | mul (sd sa sb : BitVec 6)
  /-- MULHI (R262). -/
  | mulhi (sd sa sb : BitVec 6)
  /-- MULHU (R262). -/
  | mulhu (sd sa sb : BitVec 6)
  /-- DIV (R264). -/
  | div (sd sa sb : BitVec 6)
  /-- DIVU (R264). -/
  | divu (sd sa sb : BitVec 6)
  /-- REM (R264). -/
  | rem (sd sa sb : BitVec 6)
  /-- REMU (R264). -/
  | remu (sd sa sb : BitVec 6)
  /-- AND (R262). -/
  | and (sd sa sb : BitVec 6)
  /-- ANDI (R263). -/
  | andi (sd sa : BitVec 6) (imm : BitVec 9)
  /-- OR (R262). -/
  | or (sd sa sb : BitVec 6)
  /-- ORI (R263). -/
  | ori (sd sa : BitVec 6) (imm : BitVec 9)
  /-- XOR (R262). -/
  | xor (sd sa sb : BitVec 6)
  /-- XORI (R263). -/
  | xori (sd sa : BitVec 6) (imm : BitVec 9)
  /-- SHL (R262). -/
  | shl (sd sa sb : BitVec 6)
  /-- SHLI (R263). -/
  | shli (sd sa : BitVec 6) (imm : BitVec 6)
  /-- SHR (R262). -/
  | shr (sd sa sb : BitVec 6)
  /-- SHRI (R263). -/
  | shri (sd sa : BitVec 6) (imm : BitVec 6)
  /-- SRA (R262). -/
  | sra (sd sa sb : BitVec 6)
  /-- SRAI (R263). -/
  | srai (sd sa : BitVec 6) (imm : BitVec 6)
  /-- CLZ (R265). -/
  | clz (sd sa : BitVec 6)
  /-- CTZ (R265). -/
  | ctz (sd sa : BitVec 6)
  /-- POPC (R265). -/
  | popc (sd sa : BitVec 6)
  /-- SEL (R266). -/
  | sel (sd sa sb : BitVec 6)
  /-- MOVI (R267). -/
  | movi (sd : BitVec 6) (imm : BitVec 15)
  /-- MOVHI (R267). -/
  | movhi (sd : BitVec 6) (imm : BitVec 15)
  /-- CMP (R268). -/
  | cmp (cc : Cc) (sd sa sb : BitVec 6)
  /-- CMPI (R268). -/
  | cmpi (cc : Cc) (sd sa : BitVec 6) (imm : BitVec 6)
  /-- BR (R272). -/
  | br (inv : Bool) (sa : BitVec 6) (disp : BitVec 14)
  /-- BRF (R273). -/
  | brf (inv : Bool) (f : BitVec 4) (disp : BitVec 14)
  /-- JMP (R274). -/
  | jmp (disp : BitVec 21)
  /-- CALL (R274). -/
  | call (disp : BitVec 21)
  /-- CALLR (R275). -/
  | callr (sa : BitVec 6)
  /-- BRD (R277). -/
  | brd (sc : BitVec 6) (tdisp : BitVec 8) (jdisp : BitVec 7)
  /-- BPREP (R280). -/
  | bprep (tb : BitVec 2) (disp : BitVec 19)
  /-- BGO (R281). -/
  | bgo (tb : BitVec 2) (inv : Bool) (sa : BitVec 6)
  /-- PENTER (R282). -/
  | penter (pl : BitVec 2) (len : BitVec 16)
  /-- FWAIT (R284). -/
  | fwait (flags : BitVec 16)
  /-- FCLR (R285). -/
  | fclr (flags : BitVec 16)
  /-- SETX (R286). -/
  | setx (sa : BitVec 6)
  /-- CRD (R287). -/
  | crd (sd : BitVec 6) (creg : BitVec 8)
  /-- CWR (R287). -/
  | cwr (creg : BitVec 8) (sa : BitVec 6)
  /-- CRD_ENERGY_LO (R453). -/
  | crdEnergyLo (sd : BitVec 6)
  /-- CWR_WTIMER (R288). -/
  | cwrWtimer (sa : BitVec 6)
  /-- CWR_GDEAD (R288). -/
  | cwrGdead (sa : BitVec 6)
  /-- TRAP (R290). -/
  | trap (imm : BitVec 16)
  /-- BRK (R292). -/
  | brk (imm : BitVec 16)
  /-- TRMARK (R292). -/
  | trmark (imm : BitVec 16)
  /-- SPRINT (R293). -/
  | sprint (nt : Bool) (sd sa : BitVec 6) (f : BitVec 4)
  /-- RGROW (R296). -/
  | rgrow (sd : BitVec 6)
  /-- TIMER (R298). -/
  | timer (sa : BitVec 6)
  /-- WARP_SELECT (R17). -/
  | warpSelect (core : Nat)
  /-- BLOCK_END (R16). -/
  | blockEnd (warp : Nat)
  /-- GANG_RENDEZVOUS (R39). -/
  | gangRendezvous (team : Nat)
  /-- LOAD_COMPLETE (R197). -/
  | loadComplete (warp op : Nat) (early : Bool)
  /-- STORE_ACK (R197). -/
  | storeAck (warp op : Nat)
  /-- ATOMIC_COMPLETE (R211). -/
  | atomicComplete (warp op : Nat) (order : List Nat)
  /-- FLUSH_EPISODE_APPLY (R103). -/
  | flushEpisodeApply (sc : FlushScope) (group : Nat)
  /-- COPY_START (R231). -/
  | copyStart (cluster id words : Nat)
  /-- CPYAT_LAUNCH (R232). -/
  | cpyatLaunch (cluster id : Nat)
  /-- COPY_COMPLETE (R231). -/
  | copyComplete (cluster id : Nat)
  /-- COPY_FAULT (R360). -/
  | copyFault (cluster id : Nat)
  /-- MRT_GRANT (R240). -/
  | mrtGrant (cluster : Nat)
  /-- MATRIX_READ_BEAT (R243). -/
  | matrixReadBeat (cluster : Nat)
  /-- CHAIN_CLOSE (R244). -/
  | chainClose (cluster : Nat)
  /-- MDEP_COMPLETE (R246). -/
  | mdepComplete (cluster id : Nat)
  /-- BARRIER_PHASE_COMPLETE (R254). -/
  | barrierPhaseComplete (team bar : Nat)
  /-- NODE_CREATE (R383). -/
  | nodeCreate (post : Nat)
  /-- NODE_DISPATCH (R389). -/
  | nodeDispatch (node : Nat) (clusters : List Nat)
  /-- PREEMPTION_DECISION (R362). -/
  | preemptionDecision (node : Nat)
  /-- DRAIN_REDECIDE (R362). -/
  | drainRedecide (node : Nat)
  /-- TASK_COMPLETE (R386). -/
  | taskComplete (node : Nat)
  /-- TASK_KILL (R363). -/
  | taskKill (node : Nat) (status : BitVec 15)
  /-- TRANSLATION_WALK (R401). -/
  | translationWalk (die ctx page : Nat)
  /-- TRAP_DELIVERY (R350). -/
  | trapDelivery (warp : Nat)
  /-- ASYNC_FAULT_DELIVERY (R360). -/
  | asyncFaultDelivery (warp : Nat)
  /-- PUMAL_TRAP_SERVICE (R351). -/
  | pumalTrapService (warp : Nat)
  /-- FIRST_TOUCH_SERVICE (R394). -/
  | firstTouchService (ctx : Nat) (va : DWord)
  /-- PREEMPT (R364). -/
  | preempt (node : Nat) (switchOut : Bool)
  /-- CONTEXT_SAVE (R364). -/
  | contextSave (node : Nat)
  /-- SAVE_DEADLINE (R365). -/
  | saveDeadline (node : Nat)
  /-- TASK_RESTORE (R366). -/
  | taskRestore (node : Nat) (clusters : List Nat)
  /-- WARP_TIMER (R298). -/
  | warpTimer (warp : Nat)
  /-- DEADLINE (R71). -/
  | deadline (ctx : Nat)
  /-- LEASE_EXPIRED (R294). -/
  | leaseExpired (team : Nat)
  /-- WATCHDOG (R367). -/
  | watchdog (warp : Nat)
  /-- GROW_RELEASE (R47). -/
  | growRelease (core : Nat)
  /-- GROW_DEADLOCK (R47). -/
  | growDeadlock (core : Nat)
  /-- REMOTE_FAIL (R392). -/
  | remoteFail (warp op : Nat)
  /-- UALINK_PORT_FAIL (R392). -/
  | ualinkPortFail (port : Nat)
  /-- DEBUG_CONT (R426). -/
  | debugCont (ctx : Nat)
  /-- DEBUG_DUMP (R428). -/
  | debugDump (ctx : Nat)
  /-- DEBUG_STOP (R423). -/
  | debugStop (warp : Nat)
  /-- STALL_SAMPLE (R421). -/
  | stallSample (core : Nat)
  /-- TLBI_CONTEXT (R402). -/
  | tlbiContext (ctx : Nat)
  /-- TLBI_RANGE (R402). -/
  | tlbiRange (ctx base pages : Nat)
  /-- REGISTER_WRITE (R430). -/
  | registerWrite (reg : CtlReg) (v : DWord)
  /-- CLAMP (R433). -/
  | clamp (src : ClampSource)
  /-- UNCLAMP (R434). -/
  | unclamp (cluster : Nat)
  /-- GB_STEP (R455). -/
  | gbStep (die : Nat)
  /-- GB_HOURLY_FALL (R455). -/
  | gbHourlyFall (die : Nat)
  /-- UNASSIGNED_OPCODE (R158). -/
  | unassignedOpcode (slot : Slot) (op : BitVec 8)
  /-- CONTEXT_SWITCH_IN (R366). -/
  | contextSwitchIn (ctx : Nat)
  /-- BALLAST_PRE_RAMP (R449). -/
  | ballastPreRamp (launch : DWord)
  /-- NOP (R146). -/
  | nop
  /-- MREL (R240). -/
  | mrel
  /-- UNGANG (R249). -/
  | ungang
  /-- RET (R275). -/
  | ret
  /-- JOIN (R278). -/
  | join
  /-- PEXIT (R283). -/
  | pexit
  /-- ERET (R357). -/
  | eret
  /-- SPREL (R295). -/
  | sprel
  /-- RSHRINK (R297). -/
  | rshrink
  /-- YIELD (R299). -/
  | yield
  /-- END (R300). -/
  | endWarp
  /-- SPRINT_GRANT (R438). -/
  | sprintGrant
  /-- BULK_WRITE (R372). -/
  | bulkWrite
  /-- OPEN (R373). -/
  | openSession
  /-- CLOSE (R373). -/
  | closeSession
  /-- JREAD (R380). -/
  | jread
  /-- CTX_CREATE (R370). -/
  | ctxCreate
  /-- CTX_DESTROY (R375). -/
  | ctxDestroy
  /-- WINDOW (R375). -/
  | window
  /-- COMMIT (R375). -/
  | commit
  /-- READ (R375). -/
  | read
  /-- POST (R375). -/
  | post
  /-- EVSET_MESSAGE (R375). -/
  | evsetMessage
  /-- EVCLR (R384). -/
  | evclr
  /-- KILL (R375). -/
  | kill
  /-- QUERY (R375). -/
  | query
  /-- READ_HEALTH_LOG (R465). -/
  | readHealthLog
  /-- READ_WEAR_RECORD (R465). -/
  | readWearRecord
  /-- TLBI_ALL (R402). -/
  | tlbiAll
  /-- HEAT_STORE_UPDATE (R435). -/
  | heatStoreUpdate
  /-- THERMISTOR_CORRECTION (R436). -/
  | thermistorCorrection
  /-- ENERGY_ESTIMATE (R450). -/
  | energyEstimate
  /-- ENERGY_SCALE (R450). -/
  | energyScale
  /-- SUPPLY_LOSS_WARNING (R440). -/
  | supplyLossWarning
  /-- SUPPLY_RETURN (R444). -/
  | supplyReturn
  /-- DEVICE_RESET (R410). -/
  | deviceReset
  /-- COOLANT_CHANGE (R466). -/
  | coolantChange
  /-- MONITOR_READ (R454). -/
  | monitorRead
  /-- WEAR_DAILY_APPEND (R461). -/
  | wearDailyAppend
  /-- PATROL_SCRUB (R464). -/
  | patrolScrub
  /-- PTP_SYNC (R446). -/
  | ptpSync
  /-- PTP_FOLLOW_UP (R446). -/
  | ptpFollowUp
  /-- PTP_DELAY_RESP (R446). -/
  | ptpDelayResp
  /-- PTP_ANNOUNCE (R446). -/
  | ptpAnnounce
  /-- PTP_HOLDOVER (R447). -/
  | ptpHoldover
  /-- UNLISTED_MESSAGE_KIND (R375). -/
  | unlistedMessageKind
  /-- OTHER_TRAFFIC (R371). -/
  | otherTraffic
  /-- PTP_DELAY_REQ (R446). -/
  | ptpDelayReq
  /-- HOST_SECRET_INSTALL (R373). -/
  | hostSecretInstall
  /-- INCOMING_REMOTE_ACCESS (R407). -/
  | incomingRemoteAccess
  /-- REGISTER_UNCORRECTABLE_ERROR (R114). -/
  | registerUncorrectableError
  /-- FRAME_BOUNDARY (R432). -/
  | frameBoundary
  /-- SHUTDOWN (R461). -/
  | shutdown
  deriving DecidableEq, Repr

end Sys2Proof
end

