-- ==== Sys2Proof/WellFormed.lean ====
section
/-!
DEFINITION. Which instructions are well formed: the checks that one slot's fields must pass before the slot means
anything (R54, R71, R147, R152, R155, R156), by name, and the ranks of the decode faults (R158).
-/

namespace Sys2Proof

/-- The decode faults of R158. -/
inductive DecodeFault where
  | poison | opcUndef | fieldRsvd | rmCode | vregCode | regUnalloc | limmUse | cregUndef | crossLimit
  | sdestConflict | qportConflict | flagConflict | planeAlign | planeControl | planeSync | delayBranch
  deriving DecidableEq, Repr

/-- The rank of a decode check (R158). -/
def DecodeFault.rank : DecodeFault → Nat
  | .poison => 1 | .opcUndef => 2 | .fieldRsvd => 3 | .rmCode => 4 | .vregCode => 5 | .regUnalloc => 6
  | .limmUse => 7 | .cregUndef => 8
  | .crossLimit | .sdestConflict | .qportConflict | .flagConflict => 9
  | .planeAlign | .planeControl | .planeSync | .delayBranch => 10

/-- What can be wrong with one instruction's fields. -/
inductive Flaw where
  /-- a field holds a code its format reserves (FIELD_RSVD) -/
  | reserved
  /-- a vector register field holds a code that is not valid there (VREG_CODE, R54) -/
  | vregCode
  /-- CRD or CWR names a number absent from R71 (CREG_UNDEF) -/
  | cregUndef
  /-- the words of this instruction belong to another row of the table (CRD of c.energy.lo, CWR of c.wtimer) -/
  | otherRow
  deriving DecidableEq, Repr

/-- The decode fault a flaw raises. -/
def Flaw.fault : Flaw → DecodeFault
  | .reserved | .otherRow => .fieldRsvd
  | .vregCode => .vregCode
  | .cregUndef => .cregUndef

/-- A vector register destination, or any vector field of the M and X slots: v0 to v111 (R54). -/
def badDest (v : BitVec 7) : Option Flaw := if v.toNat ≤ 111 then none else some .vregCode

/-- A V-slot source: a register, a latch, or bs (R54). -/
def badSource (v : BitVec 7) : Option Flaw :=
  if v.toNat ≤ 117 ∨ v.toNat = 119 then none else some .vregCode

/-- The control registers of R71. -/
def cregDefined (n : BitVec 8) : Bool :=
  n.toNat ≤ 0x17 || (0x20 ≤ n.toNat && n.toNat ≤ 0x30)

/-- A control register number must be in R71. -/
def badCreg (n : BitVec 8) : Option Flaw := if cregDefined n then none else some .cregUndef

/-- A reserved code is present. -/
def reserved (bad : Bool) : Option Flaw := if bad then some .reserved else none

/-- The same word is another row's instruction. -/
def otherRow (bad : Bool) : Option Flaw := if bad then some .otherRow else none

/-- The first flaw of a list of checks, in rank order. -/
def firstFlaw : List (Option Flaw) → Option Flaw
  | [] => none
  | some f :: _ => some f
  | none :: rest => firstFlaw rest

/-- The number of opcodes of a slot (R154 to R157). -/
def Slot.opcodeLimit : Slot → Nat
  | .v => 256 | .m => 64 | .x => 64 | .c => 128

/-- The opcodes a slot's map assigns (R154 to R157). -/
def assigned : Slot → BitVec 8 → Bool
  | .v, op => let n := op.toNat
    n ≤ 0x15 || (0x20 ≤ n && n ≤ 0x2d) || (0x30 ≤ n && n ≤ 0x32) || (0x34 ≤ n && n ≤ 0x37) ||
    (0x40 ≤ n && n ≤ 0x45) || (0x48 ≤ n && n ≤ 0x4c) || n = 0x50 || n = 0x51 || (0x58 ≤ n && n ≤ 0x60)
  | .m, op => let n := op.toNat
    n ≤ 0x0d || (0x10 ≤ n && n ≤ 0x23) || (0x28 ≤ n && n ≤ 0x2a) || n = 0x30 || n = 0x31
  | .x, op => let n := op.toNat
    n ≤ 0x0a || (0x10 ≤ n && n ≤ 0x18) || n = 0x1c || n = 0x1d || n = 0x20 || n = 0x21 ||
    (0x24 ≤ n && n ≤ 0x26) || (0x28 ≤ n && n ≤ 0x2a) || n = 0x3f
  | .c, op => let n := op.toNat
    n ≤ 0x0a || (0x10 ≤ n && n ≤ 0x15) || (0x18 ≤ n && n ≤ 0x20) || (0x24 ≤ n && n ≤ 0x28) ||
    (0x30 ≤ n && n ≤ 0x39) || n = 0x3c || n = 0x3d || (0x40 ≤ n && n ≤ 0x42) || n = 0x44 || n = 0x45 ||
    (0x48 ≤ n && n ≤ 0x4b) || (0x50 ≤ n && n ≤ 0x53) || (0x58 ≤ n && n ≤ 0x5a)

/-- The first flaw of an instruction's fields, `none` when it is well formed. -/
def Instr.flaw : Instr → Option Flaw
  | .nop => none
  | .vadd vd va vb _ => firstFlaw [badDest vd, badSource va, badSource vb]
  | .vsub vd va vb _ => firstFlaw [badDest vd, badSource va, badSource vb]
  | .vmul vd va vb _ => firstFlaw [badDest vd, badSource va, badSource vb]
  | .vmulhi vd va vb _ => firstFlaw [badDest vd, badSource va, badSource vb]
  | .vmin vd va vb _ => firstFlaw [badDest vd, badSource va, badSource vb]
  | .vmax vd va vb _ => firstFlaw [badDest vd, badSource va, badSource vb]
  | .vminu vd va vb _ => firstFlaw [badDest vd, badSource va, badSource vb]
  | .vmaxu vd va vb _ => firstFlaw [badDest vd, badSource va, badSource vb]
  | .vand vd va vb _ => firstFlaw [badDest vd, badSource va, badSource vb]
  | .vor vd va vb _ => firstFlaw [badDest vd, badSource va, badSource vb]
  | .vxor vd va vb _ => firstFlaw [badDest vd, badSource va, badSource vb]
  | .vandn vd va vb _ => firstFlaw [badDest vd, badSource va, badSource vb]
  | .vshl vd va vb _ => firstFlaw [badDest vd, badSource va, badSource vb]
  | .vshr vd va vb _ => firstFlaw [badDest vd, badSource va, badSource vb]
  | .vsra vd va vb _ => firstFlaw [badDest vd, badSource va, badSource vb]
  | .vclz vd va _ => firstFlaw [badDest vd, badSource va]
  | .vpopc vd va _ => firstFlaw [badDest vd, badSource va]
  | .vsel vd va vb _ => firstFlaw [badDest vd, badSource va, badSource vb]
  | .vmov vd va _ => firstFlaw [badDest vd, badSource va]
  | .vmovi vd _ _ => badDest vd
  | .viota vd _ => badDest vd
  | .vfadd vd va vb _ => firstFlaw [badDest vd, badSource va, badSource vb]
  | .vfsub vd va vb _ => firstFlaw [badDest vd, badSource va, badSource vb]
  | .vfmul vd va vb _ => firstFlaw [badDest vd, badSource va, badSource vb]
  | .vfma vd va vb _ => firstFlaw [badDest vd, badSource va, badSource vb]
  | .vfms vd va vb _ => firstFlaw [badDest vd, badSource va, badSource vb]
  | .vfmin vd va vb _ => firstFlaw [badDest vd, badSource va, badSource vb]
  | .vfmax vd va vb _ => firstFlaw [badDest vd, badSource va, badSource vb]
  | .vfabs vd va _ => firstFlaw [badDest vd, badSource va]
  | .vfneg vd va _ => firstFlaw [badDest vd, badSource va]
  | .vfdiv vd va vb _ => firstFlaw [badDest vd, badSource va, badSource vb]
  | .vfsqrt vd va _ => firstFlaw [badDest vd, badSource va]
  | .vfexp2 vd va _ => firstFlaw [badDest vd, badSource va]
  | .vflog2 vd va _ => firstFlaw [badDest vd, badSource va]
  | .vfrnd vd va _ _ => firstFlaw [badDest vd, badSource va]
  | .vcvt vd va rm kind _ => firstFlaw [reserved (kind.narrows && rm != .rne), badDest vd, badSource va]
  | .vpkh vd va _ _ _ _ => firstFlaw [badDest vd, badSource va]
  | .vupkh vd va _ _ _ => firstFlaw [badDest vd, badSource va]
  | .vbpackM7 vd va vb _ => firstFlaw [badDest vd, badSource va, badSource vb]
  | .vbpackM4 vd va vb _ => firstFlaw [badDest vd, badSource va, badSource vb]
  | .vbpackM2 vd va vb _ => firstFlaw [badDest vd, badSource va, badSource vb]
  | .vbunpk vd va _ => firstFlaw [badDest vd, badSource va]
  | .vcmpEq _ va vb => firstFlaw [badSource va, badSource vb]
  | .vcmpNe _ va vb => firstFlaw [badSource va, badSource vb]
  | .vcmpLt _ va vb => firstFlaw [badSource va, badSource vb]
  | .vcmpLe _ va vb => firstFlaw [badSource va, badSource vb]
  | .vcmpLtu _ va vb => firstFlaw [badSource va, badSource vb]
  | .vcmpLeu _ va vb => firstFlaw [badSource va, badSource vb]
  | .vfcmpEq _ va vb => firstFlaw [badSource va, badSource vb]
  | .vfcmpNe _ va vb => firstFlaw [badSource va, badSource vb]
  | .vfcmpLt _ va vb => firstFlaw [badSource va, badSource vb]
  | .vfcmpLe _ va vb => firstFlaw [badSource va, badSource vb]
  | .vfcmpUn _ va vb => firstFlaw [badSource va, badSource vb]
  | .vfkey vd va _ => firstFlaw [badDest vd, badSource va]
  | .vrng vd va vb _ => firstFlaw [badDest vd, badSource va, badSource vb]
  | .vshfl vd va vb _ => firstFlaw [badDest vd, badSource va, badSource vb]
  | .vrotl vd va vb _ => firstFlaw [badDest vd, badSource va, badSource vb]
  | .vredadd vd va _ => firstFlaw [badDest vd, badSource va]
  | .vredfadd vd va _ => firstFlaw [badDest vd, badSource va]
  | .vredmax vd va _ => firstFlaw [badDest vd, badSource va]
  | .vscan vd va _ => firstFlaw [badDest vd, badSource va]
  | .vfscan vd va _ => firstFlaw [badDest vd, badSource va]
  | .vmatch _ va vb => firstFlaw [badSource va, badSource vb]
  | .vplane va => badSource va
  | .ldv vt _ wd _ _ => firstFlaw [reserved (wd == .dword), badDest vt]
  | .stv vt _ wd _ _ => firstFlaw [reserved (wd == .dword), badDest vt]
  | .ldg vt vx _ _ => firstFlaw [badDest vt, badDest vx]
  | .stg vt vx _ _ => firstFlaw [badDest vt, badDest vx]
  | .lds _ _ _ _ _ => none
  | .ldsAcq _ _ _ _ _ _ => none
  | .sts _ _ _ _ _ => none
  | .stsRel _ _ _ _ _ _ => none
  | .spld vt vx _ => firstFlaw [badDest vt, badDest vx]
  | .spst vt vx _ => firstFlaw [badDest vt, badDest vx]
  | .splds _ _ _ _ => none
  | .spsts _ _ _ _ => none
  | .tld vt _ _ => badDest vt
  | .atomvAdd vt vx _ _ => firstFlaw [badDest vt, badDest vx]
  | .atomvAnd vt vx _ _ => firstFlaw [badDest vt, badDest vx]
  | .atomvOr vt vx _ _ => firstFlaw [badDest vt, badDest vx]
  | .atomvXor vt vx _ _ => firstFlaw [badDest vt, badDest vx]
  | .atomvMin vt vx _ _ => firstFlaw [badDest vt, badDest vx]
  | .atomvMax vt vx _ _ => firstFlaw [badDest vt, badDest vx]
  | .atomvMinu vt vx _ _ => firstFlaw [badDest vt, badDest vx]
  | .atomvMaxu vt vx _ _ => firstFlaw [badDest vt, badDest vx]
  | .atomsAdd _ _ _ _ _ => none
  | .atomsAnd _ _ _ _ _ => none
  | .atomsOr _ _ _ _ _ => none
  | .atomsXor _ _ _ _ _ => none
  | .atomsMin _ _ _ _ _ => none
  | .atomsMax _ _ _ _ _ => none
  | .atomsMinu _ _ _ _ _ => none
  | .atomsMaxu _ _ _ _ _ => none
  | .casv vt vx _ _ => firstFlaw [reserved (vt.getLsbD 0), badDest vt, badDest vx]
  | .cass _ _ _ _ _ => none
  | .daccv op vt vx _ => firstFlaw [reserved op.is64, badDest vt, badDest vx]
  | .daccs _ _ _ => none
  | .flush _ _ => none
  | .fence _ _ => none
  | .pref _ _ => none
  | .vspill vt _ _ _ => badDest vt
  | .vfill vt _ _ _ => badDest vt
  | .cpy _ _ _ _ _ => none
  | .cpyin _ _ _ _ _ => none
  | .cpyout _ _ _ _ _ => none
  | .cpyr _ _ _ _ _ => none
  | .cpym _ _ _ desc _ => reserved (desc.getLsbD 0)
  | .cpyat _ _ _ desc _ => reserved (desc.getLsbD 0)
  | .cpyz _ _ _ _ => none
  | .tdef _ _ => none
  | .tfree _ => none
  | .tstat _ _ => none
  | .mres _ => none
  | .mrel => none
  | .chb _ _ => none
  | .mstep _ _ _ => none
  | .mstepG _ _ _ => none
  | .che _ _ => none
  | .cheG _ _ => none
  | .mpop vd => badDest vd
  | .mdep _ _ _ => none
  | .gang n _ => reserved (n == 3#2)
  | .ungang => none
  | .xsv vd _ _ => badDest vd
  | .xvs _ va _ => badDest va
  | .qbind _ _ _ => none
  | .qunbind _ => none
  | .qstat _ _ => none
  | .barr _ _ _ => none
  | .tpost _ _ => none
  | .evset _ => none
  | .limm _ => none
  | .add _ _ _ => none
  | .addi _ _ _ => none
  | .sub _ _ _ => none
  | .mul _ _ _ => none
  | .mulhi _ _ _ => none
  | .mulhu _ _ _ => none
  | .div _ _ _ => none
  | .divu _ _ _ => none
  | .rem _ _ _ => none
  | .remu _ _ _ => none
  | .and _ _ _ => none
  | .andi _ _ _ => none
  | .or _ _ _ => none
  | .ori _ _ _ => none
  | .xor _ _ _ => none
  | .xori _ _ _ => none
  | .shl _ _ _ => none
  | .shli _ _ _ => none
  | .shr _ _ _ => none
  | .shri _ _ _ => none
  | .sra _ _ _ => none
  | .srai _ _ _ => none
  | .clz _ _ => none
  | .ctz _ _ => none
  | .popc _ _ => none
  | .sel _ _ _ => none
  | .movi _ _ => none
  | .movhi _ _ => none
  | .cmp _ _ _ _ => none
  | .cmpi _ _ _ _ => none
  | .br _ _ _ => none
  | .brf _ _ _ => none
  | .jmp _ => none
  | .call _ => none
  | .callr _ => none
  | .ret => none
  | .brd _ _ _ => none
  | .join => none
  | .bprep _ _ => none
  | .bgo _ _ _ => none
  | .penter _ _ => none
  | .pexit => none
  | .fwait _ => none
  | .fclr _ => none
  | .setx _ => none
  | .crd _ creg => firstFlaw [badCreg creg, otherRow (creg == 0x13#8)]
  | .cwr creg _ => firstFlaw [badCreg creg, otherRow (creg == 0x0c#8 || creg == 0x0e#8)]
  | .crdEnergyLo _ => none
  | .cwrWtimer _ => none
  | .cwrGdead _ => none
  | .trap _ => none
  | .eret => none
  | .brk _ => none
  | .trmark _ => none
  | .sprint _ _ _ _ => none
  | .sprel => none
  | .rgrow _ => none
  | .rshrink => none
  | .timer _ => none
  | .yield => none
  | .endWarp => none
  | .warpSelect _ => none
  | .blockEnd _ => none
  | .gangRendezvous _ => none
  | .loadComplete _ _ _ => none
  | .storeAck _ _ => none
  | .atomicComplete _ _ _ => none
  | .flushEpisodeApply _ _ => none
  | .copyStart _ _ _ => none
  | .cpyatLaunch _ _ => none
  | .copyComplete _ _ => none
  | .copyFault _ _ => none
  | .mrtGrant _ => none
  | .matrixReadBeat _ => none
  | .chainClose _ => none
  | .mdepComplete _ _ => none
  | .barrierPhaseComplete _ _ => none
  | .nodeCreate _ => none
  | .nodeDispatch _ _ => none
  | .preemptionDecision _ => none
  | .drainRedecide _ => none
  | .taskComplete _ => none
  | .taskKill _ _ => none
  | .translationWalk _ _ _ => none
  | .trapDelivery _ => none
  | .asyncFaultDelivery _ => none
  | .pumalTrapService _ => none
  | .firstTouchService _ _ => none
  | .preempt _ _ => none
  | .contextSave _ => none
  | .saveDeadline _ => none
  | .taskRestore _ _ => none
  | .warpTimer _ => none
  | .deadline _ => none
  | .leaseExpired _ => none
  | .sprintGrant => none
  | .watchdog _ => none
  | .growRelease _ => none
  | .growDeadlock _ => none
  | .remoteFail _ _ => none
  | .ualinkPortFail _ => none
  | .bulkWrite => none
  | .openSession => none
  | .closeSession => none
  | .jread => none
  | .ctxCreate => none
  | .ctxDestroy => none
  | .window => none
  | .commit => none
  | .read => none
  | .post => none
  | .evsetMessage => none
  | .evclr => none
  | .kill => none
  | .query => none
  | .debugCont _ => none
  | .debugDump _ => none
  | .debugStop _ => none
  | .stallSample _ => none
  | .readHealthLog => none
  | .readWearRecord => none
  | .tlbiContext _ => none
  | .tlbiRange _ _ _ => none
  | .tlbiAll => none
  | .registerWrite _ _ => none
  | .clamp _ => none
  | .unclamp _ => none
  | .heatStoreUpdate => none
  | .thermistorCorrection => none
  | .energyEstimate => none
  | .energyScale => none
  | .supplyLossWarning => none
  | .supplyReturn => none
  | .deviceReset => none
  | .coolantChange => none
  | .monitorRead => none
  | .gbStep _ => none
  | .gbHourlyFall _ => none
  | .wearDailyAppend => none
  | .patrolScrub => none
  | .ptpSync => none
  | .ptpFollowUp => none
  | .ptpDelayResp => none
  | .ptpAnnounce => none
  | .ptpHoldover => none
  | .unlistedMessageKind => none
  | .unassignedOpcode slot op => otherRow (assigned slot op || slot.opcodeLimit ≤ op.toNat)
  | .otherTraffic => none
  | .ptpDelayReq => none
  | .hostSecretInstall => none
  | .incomingRemoteAccess => none
  | .registerUncorrectableError => none
  | .contextSwitchIn _ => none
  | .ballastPreRamp _ => none
  | .frameBoundary => none
  | .shutdown => none

/-- An instruction is well formed when no check of its fields fails. -/
def Instr.wf (i : Instr) : Bool := i.flaw.isNone

end Sys2Proof
end

