-- ==== Sys2Proof/Decode.lean ====
section
/-!
DEFINITION. The decoder of slots and bundles (R145 to R158) and, after it, the encoder written from the same tables.
Decoding is total: every word gives an instruction or a decode fault by name.
-/

namespace Sys2Proof

/-! ### Fields of the V slot (R148) -/

def vVd (w : BitVec 30) : BitVec 7 := w.extractLsb' 15 7
def vVa (w : BitVec 30) : BitVec 7 := w.extractLsb' 8 7
def vVb (w : BitVec 30) : BitVec 7 := w.extractLsb' 1 7
def vNw (w : BitVec 30) : Bool := w.getLsbD 0
def vRm (w : BitVec 30) : BitVec 3 := w.extractLsb' 5 3
def vKind (w : BitVec 30) : BitVec 4 := w.extractLsb' 1 4
def vSd (w : BitVec 30) : BitVec 6 := w.extractLsb' 16 6
def vSa (w : BitVec 30) : BitVec 7 := w.extractLsb' 9 7
def vSb (w : BitVec 30) : BitVec 7 := w.extractLsb' 2 7

/-! ### Fields of the M slot (R149) -/

def mVt (w : BitVec 30) : BitVec 7 := w.extractLsb' 17 7
def mCSa (w : BitVec 30) : BitVec 6 := w.extractLsb' 11 6
def mCW (w : BitVec 30) : BitVec 2 := w.extractLsb' 9 2
def mOfs (w : BitVec 30) : BitVec 5 := w.extractLsb' 4 5
def mF (w : BitVec 30) : BitVec 4 := w.extractLsb' 0 4
def mVx (w : BitVec 30) : BitVec 7 := w.extractLsb' 10 7
def mGSa (w : BitVec 30) : BitVec 6 := w.extractLsb' 4 6
def mSt (w : BitVec 30) : BitVec 6 := w.extractLsb' 18 6
def mSSa (w : BitVec 30) : BitVec 6 := w.extractLsb' 12 6
def mSSc (w : BitVec 30) : BitVec 2 := w.extractLsb' 10 2
def mSW (w : BitVec 30) : BitVec 2 := w.extractLsb' 8 2
def mDisp (w : BitVec 30) : BitVec 4 := w.extractLsb' 4 4
def mSv (w : BitVec 30) : BitVec 6 := w.extractLsb' 6 6
def mASc (w : BitVec 30) : BitVec 2 := w.extractLsb' 4 2
def mTile (w : BitVec 30) : BitVec 6 := w.extractLsb' 11 6
def mRg (w : BitVec 30) : BitVec 7 := w.extractLsb' 4 7
def mKind (w : BitVec 30) : BitVec 2 := w.extractLsb' 22 2
def mOSc (w : BitVec 30) : BitVec 2 := w.extractLsb' 20 2
def mO0 (w : BitVec 30) : BitVec 16 := w.extractLsb' 4 16

/-! ### Fields of the X slot (R150) -/

def xOrd (w : BitVec 28) : Bool := w.getLsbD 21
def xDet (w : BitVec 28) : Bool := w.getLsbD 20
def xDst (w : BitVec 28) : BitVec 5 := w.extractLsb' 15 5
def xSrc (w : BitVec 28) : BitVec 5 := w.extractLsb' 10 5
def xDesc (w : BitVec 28) : BitVec 5 := w.extractLsb' 5 5
def xA6 (w : BitVec 28) : BitVec 6 := w.extractLsb' 16 6
def xB6 (w : BitVec 28) : BitVec 6 := w.extractLsb' 10 6
def xF (w : BitVec 28) : BitVec 4 := w.extractLsb' 0 4
def xVd (w : BitVec 28) : BitVec 7 := w.extractLsb' 15 7

/-! ### Fields of the C slot (R151) -/

def cSd (w : BitVec 28) : BitVec 6 := w.extractLsb' 15 6
def cSa (w : BitVec 28) : BitVec 6 := w.extractLsb' 9 6
def cSb (w : BitVec 28) : BitVec 6 := w.extractLsb' 3 6
def cCc (w : BitVec 28) : BitVec 3 := w.extractLsb' 0 3
def cCreg (w : BitVec 28) : BitVec 8 := w.extractLsb' 7 8

/-! ### Coded fields (R123, R152) -/

def widthOf (w : BitVec 2) : Width :=
  if w = 0#2 then .byte else if w = 1#2 then .half else if w = 2#2 then .word else .dword
def widthCode : Width → BitVec 2
  | .byte => 0#2 | .half => 1#2 | .word => 2#2 | .dword => 3#2
def scopeOf (w : BitVec 2) : Scope :=
  if w = 0#2 then .warp else if w = 1#2 then .team else if w = 2#2 then .device else .pod
def scopeCode : Scope → BitVec 2
  | .warp => 0#2 | .team => 1#2 | .device => 2#2 | .pod => 3#2
def fenceOf (w : BitVec 2) : Option FenceKind :=
  if w = 1#2 then some .acq else if w = 2#2 then some .rel else if w = 3#2 then some .ar else none
def fenceCode : FenceKind → BitVec 2
  | .acq => 1#2 | .rel => 2#2 | .ar => 3#2
def flushOf (w : BitVec 2) : Option FlushScope :=
  if w = 0#2 then some .team else if w = 1#2 then some .task else if w = 2#2 then some .dev else none
def flushCode : FlushScope → BitVec 2
  | .team => 0#2 | .task => 1#2 | .dev => 2#2
def ccOf (w : BitVec 3) : Option Cc :=
  if w = 0#3 then some .eq else if w = 1#3 then some .ne else if w = 2#3 then some .lt else
  if w = 3#3 then some .le else if w = 4#3 then some .ltu else if w = 5#3 then some .leu else none
def ccCode : Cc → BitVec 3
  | .eq => 0#3 | .ne => 1#3 | .lt => 2#3 | .le => 3#3 | .ltu => 4#3 | .leu => 5#3
def rmOf (w : BitVec 3) : Option Rm :=
  if w = 0#3 then some .rne else if w = 1#3 then some .rz else if w = 2#3 then some .ru else
  if w = 3#3 then some .rd else if w = 4#3 then some .dyn else none
def rmCode : Rm → BitVec 3
  | .rne => 0#3 | .rz => 1#3 | .ru => 2#3 | .rd => 3#3 | .dyn => 4#3
def cvtOf (w : BitVec 4) : Option CvtKind :=
  if w = 0#4 then some .f2i else if w = 1#4 then some .f2u else if w = 2#4 then some .i2f else
  if w = 3#4 then some .u2f else if w = 4#4 then some .i16 else if w = 5#4 then some .i8 else
  if w = 6#4 then some .u16 else if w = 7#4 then some .u8 else none
def cvtCode : CvtKind → BitVec 4
  | .f2i => 0#4 | .f2u => 1#4 | .i2f => 2#4 | .u2f => 3#4 | .i16 => 4#4 | .i8 => 5#4 | .u16 => 6#4 | .u8 => 7#4
def halfFmtOf (w : BitVec 4) : HalfFmt := if w.getLsbD 0 then .bf16 else .fp16
def halfCode (fmt : HalfFmt) (high : Bool) : BitVec 4 :=
  0#2 ++ BitVec.ofBool high ++ BitVec.ofBool (fmt == .bf16)
def daccOf (w : BitVec 4) : Option DaccOp :=
  if w = 0#4 then some .addI32 else if w = 1#4 then some .addI64 else if w = 2#4 then some .addF32 else
  if w = 3#4 then some .minI32 else if w = 4#4 then some .maxI32 else if w = 5#4 then some .minI64 else
  if w = 6#4 then some .maxI64 else if w = 7#4 then some .minF32 else if w = 8#4 then some .maxF32 else none
def daccCode : DaccOp → BitVec 4
  | .addI32 => 0#4 | .addI64 => 1#4 | .addF32 => 2#4 | .minI32 => 3#4 | .maxI32 => 4#4
  | .minI64 => 5#4 | .maxI64 => 6#4 | .minF32 => 7#4 | .maxF32 => 8#4
def roleOf (b : Bool) : Role := if b then .consumer else .producer
def roleBit : Role → Bool
  | .producer => false | .consumer => true

/-! ### The decoder -/

/-- The result of decoding one slot. -/
abbrev Decoded := Except DecodeFault Instr

/-- A reserved or unused field must be 0 (R147); otherwise FIELD_RSVD. -/
def need {α : Type} (ok : Prop) [Decidable ok] (a : α) : Except DecodeFault α :=
  if ok then .ok a else .error .fieldRsvd

/-- A coded field whose code must be assigned. -/
def withCode {α : Type} (c : Option α) (bad : DecodeFault) (k : α → Decoded) : Decoded :=
  match c with
  | some a => k a
  | none => .error bad

def withRm (w : BitVec 30) (k : Rm → Decoded) : Decoded := withCode (rmOf (vRm w)) .rmCode k
def withCc (w : BitVec 3) (k : Cc → Decoded) : Decoded := withCode (ccOf w) .fieldRsvd k
def withDacc (w : BitVec 30) (k : DaccOp → Decoded) : Decoded := withCode (daccOf (mF w)) .fieldRsvd k
def withFlushScope (w : BitVec 30) (k : FlushScope → Decoded) : Decoded := withCode (flushOf (mOSc w)) .fieldRsvd k
def withFenceKind (w : BitVec 30) (k : FenceKind → Decoded) : Decoded := withCode (fenceOf (mKind w)) .fieldRsvd k
/-- W of M.C: 11 is reserved (R152). -/
def withWv (w : BitVec 30) (k : Width → Decoded) : Decoded :=
  if mCW w = 3#2 then .error .fieldRsvd else k (widthOf (mCW w))
/-- F of X.K: a detached command (DET = 1) names no flag (R150). -/
def withCopyFlag (w : BitVec 28) (k : Option (BitVec 4) → Decoded) : Decoded :=
  if w.getLsbD 0 then .error .fieldRsvd
  else if xDet w then (if w.extractLsb' 1 4 = 0#4 then k none else .error .fieldRsvd)
  else k (some (w.extractLsb' 1 4))

/-- VCVT: kinds 8 to 15 are reserved, and kinds 4 to 7 leave RM unused (R152, R183). -/
def decodeVcvt (w : BitVec 30) : Decoded :=
  withCode (cvtOf (vKind w)) .fieldRsvd fun kind =>
    if kind.narrows then need (vRm w = 0#3) (.vcvt (vVd w) (vVa w) .rne kind (vNw w))
    else withRm w fun rm => .ok (.vcvt (vVd w) (vVa w) rm kind (vNw w))

/-- CHB: AUTO = 1 requires ANCHOR = 0 (R150). -/
def decodeChb (w : BitVec 28) : Decoded :=
  if w.extractLsb' 0 9 = 0#9 then
    if w.getLsbD 21 then need (w.extractLsb' 11 10 = 0#10) (.chb (w.extractLsb' 9 2) none)
    else .ok (.chb (w.extractLsb' 9 2) (some (w.extractLsb' 11 10)))
  else .error .fieldRsvd

/-- XSV: ALL = 1 requires LANE = 0 (R150). -/
def decodeXsv (w : BitVec 28) : Decoded :=
  if w.extractLsb' 0 2 = 0#2 then
    if w.getLsbD 8 then need (w.extractLsb' 2 6 = 0#6) (.xsv (xVd w) (w.extractLsb' 9 6) none)
    else .ok (.xsv (xVd w) (w.extractLsb' 9 6) (some (w.extractLsb' 2 6)))
  else .error .fieldRsvd

/-- CRD of c.energy.lo is a row of its own (R453). -/
def crdOf (sd : BitVec 6) (creg : BitVec 8) : Instr := if creg = 0x13#8 then .crdEnergyLo sd else .crd sd creg
/-- CWR of c.wtimer and of c.gdead are rows of their own (R288). -/
def cwrOf (sa : BitVec 6) (creg : BitVec 8) : Instr :=
  if creg = 0x0c#8 then .cwrWtimer sa else if creg = 0x0e#8 then .cwrGdead sa else .cwr creg sa

/-- The V slot's map (R154), fields only. -/
def rawV (w : BitVec 30) : Decoded :=
  match w.extractLsb' 22 8 with
  | 0x00#8 => need (w = 0#30) .nop
  | 0x01#8 => .ok (.vadd (vVd w) (vVa w) (vVb w) (vNw w))
  | 0x02#8 => .ok (.vsub (vVd w) (vVa w) (vVb w) (vNw w))
  | 0x03#8 => .ok (.vmul (vVd w) (vVa w) (vVb w) (vNw w))
  | 0x04#8 => .ok (.vmulhi (vVd w) (vVa w) (vVb w) (vNw w))
  | 0x05#8 => .ok (.vmin (vVd w) (vVa w) (vVb w) (vNw w))
  | 0x06#8 => .ok (.vmax (vVd w) (vVa w) (vVb w) (vNw w))
  | 0x07#8 => .ok (.vminu (vVd w) (vVa w) (vVb w) (vNw w))
  | 0x08#8 => .ok (.vmaxu (vVd w) (vVa w) (vVb w) (vNw w))
  | 0x09#8 => .ok (.vand (vVd w) (vVa w) (vVb w) (vNw w))
  | 0x0a#8 => .ok (.vor (vVd w) (vVa w) (vVb w) (vNw w))
  | 0x0b#8 => .ok (.vxor (vVd w) (vVa w) (vVb w) (vNw w))
  | 0x0c#8 => .ok (.vandn (vVd w) (vVa w) (vVb w) (vNw w))
  | 0x0d#8 => .ok (.vshl (vVd w) (vVa w) (vVb w) (vNw w))
  | 0x0e#8 => .ok (.vshr (vVd w) (vVa w) (vVb w) (vNw w))
  | 0x0f#8 => .ok (.vsra (vVd w) (vVa w) (vVb w) (vNw w))
  | 0x10#8 => need (vVb w = 0#7) (.vclz (vVd w) (vVa w) (vNw w))
  | 0x11#8 => need (vVb w = 0#7) (.vpopc (vVd w) (vVa w) (vNw w))
  | 0x12#8 => .ok (.vsel (vVd w) (vVa w) (vVb w) (vNw w))
  | 0x13#8 => need (vVb w = 0#7) (.vmov (vVd w) (vVa w) (vNw w))
  | 0x14#8 => .ok (.vmovi (vVd w) (w.extractLsb' 1 14) (vNw w))
  | 0x15#8 => need (vVa w = 0#7 ∧ vVb w = 0#7) (.viota (vVd w) (vNw w))
  | 0x20#8 => .ok (.vfadd (vVd w) (vVa w) (vVb w) (vNw w))
  | 0x21#8 => .ok (.vfsub (vVd w) (vVa w) (vVb w) (vNw w))
  | 0x22#8 => .ok (.vfmul (vVd w) (vVa w) (vVb w) (vNw w))
  | 0x23#8 => .ok (.vfma (vVd w) (vVa w) (vVb w) (vNw w))
  | 0x24#8 => .ok (.vfms (vVd w) (vVa w) (vVb w) (vNw w))
  | 0x25#8 => .ok (.vfmin (vVd w) (vVa w) (vVb w) (vNw w))
  | 0x26#8 => .ok (.vfmax (vVd w) (vVa w) (vVb w) (vNw w))
  | 0x27#8 => need (vVb w = 0#7) (.vfabs (vVd w) (vVa w) (vNw w))
  | 0x28#8 => need (vVb w = 0#7) (.vfneg (vVd w) (vVa w) (vNw w))
  | 0x29#8 => .ok (.vfdiv (vVd w) (vVa w) (vVb w) (vNw w))
  | 0x2a#8 => need (vVb w = 0#7) (.vfsqrt (vVd w) (vVa w) (vNw w))
  | 0x2b#8 => need (vVb w = 0#7) (.vfexp2 (vVd w) (vVa w) (vNw w))
  | 0x2c#8 => need (vVb w = 0#7) (.vflog2 (vVd w) (vVa w) (vNw w))
  | 0x2d#8 => need (vKind w = 0#4) () *> withRm w fun rm => .ok (.vfrnd (vVd w) (vVa w) rm (vNw w))
  | 0x30#8 => decodeVcvt w
  | 0x31#8 => need ((vKind w).extractLsb' 2 2 = 0#2) () *> withRm w fun rm => .ok (.vpkh (vVd w) (vVa w) rm (halfFmtOf (vKind w)) ((vKind w).getLsbD 1) (vNw w))
  | 0x32#8 => need ((vKind w).extractLsb' 2 2 = 0#2 ∧ vRm w = 0#3) (.vupkh (vVd w) (vVa w) (halfFmtOf (vKind w)) ((vKind w).getLsbD 1) (vNw w))
  | 0x34#8 => .ok (.vbpackM7 (vVd w) (vVa w) (vVb w) (vNw w))
  | 0x35#8 => .ok (.vbpackM4 (vVd w) (vVa w) (vVb w) (vNw w))
  | 0x36#8 => .ok (.vbpackM2 (vVd w) (vVa w) (vVb w) (vNw w))
  | 0x37#8 => need (vVb w = 0#7) (.vbunpk (vVd w) (vVa w) (vNw w))
  | 0x40#8 => need (w.extractLsb' 0 2 = 0#2) (.vcmpEq (vSd w) (vSa w) (vSb w))
  | 0x41#8 => need (w.extractLsb' 0 2 = 0#2) (.vcmpNe (vSd w) (vSa w) (vSb w))
  | 0x42#8 => need (w.extractLsb' 0 2 = 0#2) (.vcmpLt (vSd w) (vSa w) (vSb w))
  | 0x43#8 => need (w.extractLsb' 0 2 = 0#2) (.vcmpLe (vSd w) (vSa w) (vSb w))
  | 0x44#8 => need (w.extractLsb' 0 2 = 0#2) (.vcmpLtu (vSd w) (vSa w) (vSb w))
  | 0x45#8 => need (w.extractLsb' 0 2 = 0#2) (.vcmpLeu (vSd w) (vSa w) (vSb w))
  | 0x48#8 => need (w.extractLsb' 0 2 = 0#2) (.vfcmpEq (vSd w) (vSa w) (vSb w))
  | 0x49#8 => need (w.extractLsb' 0 2 = 0#2) (.vfcmpNe (vSd w) (vSa w) (vSb w))
  | 0x4a#8 => need (w.extractLsb' 0 2 = 0#2) (.vfcmpLt (vSd w) (vSa w) (vSb w))
  | 0x4b#8 => need (w.extractLsb' 0 2 = 0#2) (.vfcmpLe (vSd w) (vSa w) (vSb w))
  | 0x4c#8 => need (w.extractLsb' 0 2 = 0#2) (.vfcmpUn (vSd w) (vSa w) (vSb w))
  | 0x50#8 => need (vVb w = 0#7) (.vfkey (vVd w) (vVa w) (vNw w))
  | 0x51#8 => .ok (.vrng (vVd w) (vVa w) (vVb w) (vNw w))
  | 0x58#8 => .ok (.vshfl (vVd w) (vVa w) (vVb w) (vNw w))
  | 0x59#8 => .ok (.vrotl (vVd w) (vVa w) (vVb w) (vNw w))
  | 0x5a#8 => need (vVb w = 0#7) (.vredadd (vVd w) (vVa w) (vNw w))
  | 0x5b#8 => need (vVb w = 0#7) (.vredfadd (vVd w) (vVa w) (vNw w))
  | 0x5c#8 => need (vVb w = 0#7) (.vredmax (vVd w) (vVa w) (vNw w))
  | 0x5d#8 => need (vVb w = 0#7) (.vscan (vVd w) (vVa w) (vNw w))
  | 0x5e#8 => need (vVb w = 0#7) (.vfscan (vVd w) (vVa w) (vNw w))
  | 0x5f#8 => need (w.extractLsb' 0 2 = 0#2) (.vmatch (vSd w) (vSa w) (vSb w))
  | 0x60#8 => need (vVd w = 0#7 ∧ vVb w = 0#7 ∧ vNw w = false) (.vplane (vVa w))
  | op => .ok (.unassignedOpcode .v op)

/-- The M slot's map (R155), fields only. -/
def rawM (w : BitVec 30) : Decoded :=
  match w.extractLsb' 24 6 with
  | 0x00#6 => need (w = 0#30) .nop
  | 0x01#6 => withWv w fun wd => .ok (.ldv (mVt w) (mCSa w) wd (mOfs w) (mF w))
  | 0x02#6 => withWv w fun wd => .ok (.stv (mVt w) (mCSa w) wd (mOfs w) (mF w))
  | 0x03#6 => .ok (.ldg (mVt w) (mVx w) (mGSa w) (mF w))
  | 0x04#6 => .ok (.stg (mVt w) (mVx w) (mGSa w) (mF w))
  | 0x05#6 => need (mSSc w = 0#2) (.lds (mSt w) (mSSa w) (widthOf (mSW w)) (mDisp w) (mF w))
  | 0x06#6 => .ok (.ldsAcq (mSt w) (mSSa w) (scopeOf (mSSc w)) (widthOf (mSW w)) (mDisp w) (mF w))
  | 0x07#6 => need (mSSc w = 0#2) (.sts (mSt w) (mSSa w) (widthOf (mSW w)) (mDisp w) (mF w))
  | 0x08#6 => .ok (.stsRel (mSt w) (mSSa w) (scopeOf (mSSc w)) (widthOf (mSW w)) (mDisp w) (mF w))
  | 0x09#6 => need (mF w = 0#4) (.spld (mVt w) (mVx w) (mGSa w))
  | 0x0a#6 => need (mF w = 0#4) (.spst (mVt w) (mVx w) (mGSa w))
  | 0x0b#6 => need (mSSc w = 0#2 ∧ mF w = 0#4) (.splds (mSt w) (mSSa w) (widthOf (mSW w)) (mDisp w))
  | 0x0c#6 => need (mSSc w = 0#2 ∧ mF w = 0#4) (.spsts (mSt w) (mSSa w) (widthOf (mSW w)) (mDisp w))
  | 0x0d#6 => need (mF w = 0#4) (.tld (mVt w) (mTile w) (mRg w))
  | 0x10#6 => .ok (.atomvAdd (mVt w) (mVx w) (mGSa w) (mF w))
  | 0x11#6 => .ok (.atomvAnd (mVt w) (mVx w) (mGSa w) (mF w))
  | 0x12#6 => .ok (.atomvOr (mVt w) (mVx w) (mGSa w) (mF w))
  | 0x13#6 => .ok (.atomvXor (mVt w) (mVx w) (mGSa w) (mF w))
  | 0x14#6 => .ok (.atomvMin (mVt w) (mVx w) (mGSa w) (mF w))
  | 0x15#6 => .ok (.atomvMax (mVt w) (mVx w) (mGSa w) (mF w))
  | 0x16#6 => .ok (.atomvMinu (mVt w) (mVx w) (mGSa w) (mF w))
  | 0x17#6 => .ok (.atomvMaxu (mVt w) (mVx w) (mGSa w) (mF w))
  | 0x18#6 => .ok (.atomsAdd (mSt w) (mSSa w) (mSv w) (scopeOf (mASc w)) (mF w))
  | 0x19#6 => .ok (.atomsAnd (mSt w) (mSSa w) (mSv w) (scopeOf (mASc w)) (mF w))
  | 0x1a#6 => .ok (.atomsOr (mSt w) (mSSa w) (mSv w) (scopeOf (mASc w)) (mF w))
  | 0x1b#6 => .ok (.atomsXor (mSt w) (mSSa w) (mSv w) (scopeOf (mASc w)) (mF w))
  | 0x1c#6 => .ok (.atomsMin (mSt w) (mSSa w) (mSv w) (scopeOf (mASc w)) (mF w))
  | 0x1d#6 => .ok (.atomsMax (mSt w) (mSSa w) (mSv w) (scopeOf (mASc w)) (mF w))
  | 0x1e#6 => .ok (.atomsMinu (mSt w) (mSSa w) (mSv w) (scopeOf (mASc w)) (mF w))
  | 0x1f#6 => .ok (.atomsMaxu (mSt w) (mSSa w) (mSv w) (scopeOf (mASc w)) (mF w))
  | 0x20#6 => .ok (.casv (mVt w) (mVx w) (mGSa w) (mF w))
  | 0x21#6 => .ok (.cass (mSt w) (mSSa w) (mSv w) (scopeOf (mASc w)) (mF w))
  | 0x22#6 => withDacc w fun op => need (op.is64 = false) (.daccv op (mVt w) (mVx w) (mGSa w))
  | 0x23#6 => need (mSt w = 0#6 ∧ mASc w = 0#2) () *> withDacc w fun op => .ok (.daccs op (mSSa w) (mSv w))
  | 0x28#6 => need (mKind w = 0#2 ∧ mO0 w = 0#16) () *> withFlushScope w fun sc => .ok (.flush sc (mF w))
  | 0x29#6 => need (mO0 w = 0#16 ∧ mF w = 0#4) () *> withFenceKind w fun kind => .ok (.fence kind (scopeOf (mOSc w)))
  | 0x2a#6 => need (mSt w = 0#6 ∧ mSSc w = 0#2 ∧ mSW w = 0#2 ∧ mF w = 0#4) (.pref (mSSa w) (mDisp w))
  | 0x30#6 => need (mCW w = 2#2) (.vspill (mVt w) (mCSa w) (mOfs w) (mF w))
  | 0x31#6 => need (mCW w = 2#2) (.vfill (mVt w) (mCSa w) (mOfs w) (mF w))
  | op => .ok (.unassignedOpcode .m (op.setWidth 8))

/-- The X slot's map (R156), fields only. -/
def rawX (w : BitVec 28) : Decoded :=
  match w.extractLsb' 22 6 with
  | 0x00#6 => need (w = 0#28) .nop
  | 0x01#6 => withCopyFlag w fun f => .ok (.cpy (xOrd w) (xDst w) (xSrc w) (xDesc w) f)
  | 0x02#6 => withCopyFlag w fun f => .ok (.cpyin (xOrd w) (xDst w) (xSrc w) (xDesc w) f)
  | 0x03#6 => withCopyFlag w fun f => .ok (.cpyout (xOrd w) (xDst w) (xSrc w) (xDesc w) f)
  | 0x04#6 => withCopyFlag w fun f => .ok (.cpyr (xOrd w) (xDst w) (xSrc w) (xDesc w) f)
  | 0x05#6 => withCopyFlag w fun f => .ok (.cpym (xOrd w) (xDst w) (xSrc w) (xDesc w) f)
  | 0x06#6 => withCopyFlag w fun f => .ok (.cpyat (xOrd w) (xDst w) (xSrc w) (xDesc w) f)
  | 0x07#6 => need (xSrc w = 0#5) () *> withCopyFlag w fun f => .ok (.cpyz (xOrd w) (xDst w) (xDesc w) f)
  | 0x08#6 => need (w.extractLsb' 0 10 = 0#10) (.tdef (xA6 w) (xB6 w))
  | 0x09#6 => need (w.extractLsb' 0 10 = 0#10 ∧ xB6 w = 0#6) (.tfree (xA6 w))
  | 0x0a#6 => need (w.extractLsb' 0 10 = 0#10) (.tstat (xA6 w) (xB6 w))
  | 0x10#6 => need (w.extractLsb' 4 18 = 0#18) (.mres (xF w))
  | 0x11#6 => need (w.extractLsb' 0 22 = 0#22) .mrel
  | 0x12#6 => decodeChb w
  | 0x13#6 => need (w.extractLsb' 0 4 = 0#4) (.mstep (xA6 w) (xB6 w) (w.extractLsb' 4 6))
  | 0x14#6 => need (w.extractLsb' 0 4 = 0#4) (.mstepG (xA6 w) (xB6 w) (w.extractLsb' 4 6))
  | 0x15#6 => need (w.extractLsb' 4 16 = 0#16) (.che (w.extractLsb' 20 2) (xF w))
  | 0x16#6 => need (w.extractLsb' 4 16 = 0#16) (.cheG (w.extractLsb' 20 2) (xF w))
  | 0x17#6 => need (w.extractLsb' 0 15 = 0#15) (.mpop (xVd w))
  | 0x18#6 => need (w.extractLsb' 4 10 = 0#10) (.mdep (xA6 w) (w.extractLsb' 14 2) (xF w))
  | 0x1c#6 => need (w.extractLsb' 0 17 = 0#17 ∧ w.extractLsb' 20 2 ≠ 3#2) (.gang (w.extractLsb' 20 2) (w.extractLsb' 17 3))
  | 0x1d#6 => need (w.extractLsb' 0 22 = 0#22) .ungang
  | 0x20#6 => decodeXsv w
  | 0x21#6 => need (w.extractLsb' 0 3 = 0#3) (.xvs (xA6 w) (w.extractLsb' 9 7) (w.extractLsb' 3 6))
  | 0x24#6 => need (w.extractLsb' 0 13 = 0#13) (.qbind (w.extractLsb' 19 3) (w.extractLsb' 14 5) (roleOf (w.getLsbD 13)))
  | 0x25#6 => need (w.extractLsb' 0 19 = 0#19) (.qunbind (w.extractLsb' 19 3))
  | 0x26#6 => need (w.extractLsb' 0 11 = 0#11) (.qstat (xA6 w) (w.extractLsb' 11 5))
  | 0x28#6 => need (w.extractLsb' 4 14 = 0#14) (.barr (w.extractLsb' 19 3) (w.getLsbD 18) (xF w))
  | 0x29#6 => need (w.extractLsb' 4 12 = 0#12) (.tpost (xA6 w) (xF w))
  | 0x2a#6 => need (w.extractLsb' 0 14 = 0#14) (.evset (w.extractLsb' 14 8))
  | 0x3f#6 => .ok (.limm (w.extractLsb' 0 22))
  | op => .ok (.unassignedOpcode .x (op.setWidth 8))

/-- The C slot's map (R157), fields only. -/
def rawC (w : BitVec 28) : Decoded :=
  match w.extractLsb' 21 7 with
  | 0x00#7 => need (w = 0#28) .nop
  | 0x01#7 => need (cCc w = 0#3) (.add (cSd w) (cSa w) (cSb w))
  | 0x02#7 => .ok (.addi (cSd w) (cSa w) (w.extractLsb' 0 9))
  | 0x03#7 => need (cCc w = 0#3) (.sub (cSd w) (cSa w) (cSb w))
  | 0x04#7 => need (cCc w = 0#3) (.mul (cSd w) (cSa w) (cSb w))
  | 0x05#7 => need (cCc w = 0#3) (.mulhi (cSd w) (cSa w) (cSb w))
  | 0x06#7 => need (cCc w = 0#3) (.mulhu (cSd w) (cSa w) (cSb w))
  | 0x07#7 => need (cCc w = 0#3) (.div (cSd w) (cSa w) (cSb w))
  | 0x08#7 => need (cCc w = 0#3) (.divu (cSd w) (cSa w) (cSb w))
  | 0x09#7 => need (cCc w = 0#3) (.rem (cSd w) (cSa w) (cSb w))
  | 0x0a#7 => need (cCc w = 0#3) (.remu (cSd w) (cSa w) (cSb w))
  | 0x10#7 => need (cCc w = 0#3) (.and (cSd w) (cSa w) (cSb w))
  | 0x11#7 => .ok (.andi (cSd w) (cSa w) (w.extractLsb' 0 9))
  | 0x12#7 => need (cCc w = 0#3) (.or (cSd w) (cSa w) (cSb w))
  | 0x13#7 => .ok (.ori (cSd w) (cSa w) (w.extractLsb' 0 9))
  | 0x14#7 => need (cCc w = 0#3) (.xor (cSd w) (cSa w) (cSb w))
  | 0x15#7 => .ok (.xori (cSd w) (cSa w) (w.extractLsb' 0 9))
  | 0x18#7 => need (cCc w = 0#3) (.shl (cSd w) (cSa w) (cSb w))
  | 0x19#7 => need (w.extractLsb' 6 3 = 0#3) (.shli (cSd w) (cSa w) (w.extractLsb' 0 6))
  | 0x1a#7 => need (cCc w = 0#3) (.shr (cSd w) (cSa w) (cSb w))
  | 0x1b#7 => need (w.extractLsb' 6 3 = 0#3) (.shri (cSd w) (cSa w) (w.extractLsb' 0 6))
  | 0x1c#7 => need (cCc w = 0#3) (.sra (cSd w) (cSa w) (cSb w))
  | 0x1d#7 => need (w.extractLsb' 6 3 = 0#3) (.srai (cSd w) (cSa w) (w.extractLsb' 0 6))
  | 0x1e#7 => need (cSb w = 0#6 ∧ cCc w = 0#3) (.clz (cSd w) (cSa w))
  | 0x1f#7 => need (cSb w = 0#6 ∧ cCc w = 0#3) (.ctz (cSd w) (cSa w))
  | 0x20#7 => need (cSb w = 0#6 ∧ cCc w = 0#3) (.popc (cSd w) (cSa w))
  | 0x24#7 => need (cCc w = 0#3) (.sel (cSd w) (cSa w) (cSb w))
  | 0x25#7 => .ok (.movi (cSd w) (w.extractLsb' 0 15))
  | 0x26#7 => .ok (.movhi (cSd w) (w.extractLsb' 0 15))
  | 0x27#7 => withCc (cCc w) fun cc => .ok (.cmp cc (cSd w) (cSa w) (cSb w))
  | 0x28#7 => withCc (w.extractLsb' 6 3) fun cc => .ok (.cmpi cc (cSd w) (cSa w) (w.extractLsb' 0 6))
  | 0x30#7 => .ok (.br (w.getLsbD 20) (w.extractLsb' 14 6) (w.extractLsb' 0 14))
  | 0x31#7 => need (w.extractLsb' 18 2 = 0#2) (.brf (w.getLsbD 20) (w.extractLsb' 14 4) (w.extractLsb' 0 14))
  | 0x32#7 => .ok (.jmp (w.extractLsb' 0 21))
  | 0x33#7 => .ok (.call (w.extractLsb' 0 21))
  | 0x34#7 => need (cSd w = 0#6 ∧ cSb w = 0#6 ∧ cCc w = 0#3) (.callr (cSa w))
  | 0x35#7 => need (w.extractLsb' 0 21 = 0#21) .ret
  | 0x36#7 => .ok (.brd (cSd w) (w.extractLsb' 7 8) (w.extractLsb' 0 7))
  | 0x37#7 => need (w.extractLsb' 0 21 = 0#21) .join
  | 0x38#7 => .ok (.bprep (w.extractLsb' 19 2) (w.extractLsb' 0 19))
  | 0x39#7 => need (w.extractLsb' 0 12 = 0#12) (.bgo (w.extractLsb' 19 2) (w.getLsbD 18) (w.extractLsb' 12 6))
  | 0x3c#7 => need (w.extractLsb' 0 3 = 0#3) (.penter (w.extractLsb' 19 2) (w.extractLsb' 3 16))
  | 0x3d#7 => need (w.extractLsb' 0 21 = 0#21) .pexit
  | 0x40#7 => need (w.extractLsb' 16 5 = 0#5) (.fwait (w.extractLsb' 0 16))
  | 0x41#7 => need (w.extractLsb' 16 5 = 0#5) (.fclr (w.extractLsb' 0 16))
  | 0x42#7 => need (cSd w = 0#6 ∧ cSb w = 0#6 ∧ cCc w = 0#3) (.setx (cSa w))
  | 0x44#7 => need (w.extractLsb' 0 7 = 0#7) (crdOf (cSd w) (cCreg w))
  | 0x45#7 => need (w.extractLsb' 0 7 = 0#7) (cwrOf (cSd w) (cCreg w))
  | 0x48#7 => need (w.extractLsb' 16 5 = 0#5) (.trap (w.extractLsb' 0 16))
  | 0x49#7 => need (w.extractLsb' 0 21 = 0#21) .eret
  | 0x4a#7 => need (w.extractLsb' 16 5 = 0#5) (.brk (w.extractLsb' 0 16))
  | 0x4b#7 => need (w.extractLsb' 16 5 = 0#5) (.trmark (w.extractLsb' 0 16))
  | 0x50#7 => need (w.extractLsb' 4 4 = 0#4) (.sprint (w.getLsbD 8) (cSd w) (cSa w) (w.extractLsb' 0 4))
  | 0x51#7 => need (w.extractLsb' 0 21 = 0#21) .sprel
  | 0x52#7 => need (cSa w = 0#6 ∧ cSb w = 0#6 ∧ cCc w = 0#3) (.rgrow (cSd w))
  | 0x53#7 => need (w.extractLsb' 0 21 = 0#21) .rshrink
  | 0x58#7 => need (cSd w = 0#6 ∧ cSb w = 0#6 ∧ cCc w = 0#3) (.timer (cSa w))
  | 0x59#7 => need (w.extractLsb' 0 21 = 0#21) .yield
  | 0x5a#7 => need (w.extractLsb' 0 21 = 0#21) .endWarp
  | op => .ok (.unassignedOpcode .c (op.setWidth 8))

/-- A decoded slot is kept only when its fields are well formed. -/
def checked : Decoded → Decoded
  | .error e => .error e
  | .ok i =>
    match i.flaw with
    | some f => .error f.fault
    | none => .ok i

def decodeV (w : BitVec 30) : Decoded := checked (rawV w)
def decodeM (w : BitVec 30) : Decoded := checked (rawM w)
def decodeX (w : BitVec 28) : Decoded := checked (rawX w)
def decodeC (w : BitVec 28) : Decoded := checked (rawC w)

/-- A decoded bundle (R145). -/
structure BundleOps where
  gap  : BitVec 4
  sync : Bool
  b    : BitVec 6
  v    : Instr
  m    : Instr
  x    : Instr
  c    : Instr
  deriving DecidableEq, Repr

/-! ### The bundle as a whole (R158) -/

def bundleV (w : Bundle) : BitVec 30 := w.extractLsb' 86 30
def bundleM (w : Bundle) : BitVec 30 := w.extractLsb' 56 30
def bundleX (w : Bundle) : BitVec 28 := w.extractLsb' 28 28
def bundleC (w : Bundle) : BitVec 28 := w.extractLsb' 0 28
def bundleGap (w : Bundle) : BitVec 4 := w.extractLsb' 124 4
def bundleSync (w : Bundle) : Bool := w.getLsbD 123
def bundleB (w : Bundle) : BitVec 6 := w.extractLsb' 116 6

/-- The scalar register an instruction names as its destination (R62, R64, R201, R259). The implicit write of s54 by CALL and CALLR is not
counted (DESIGN CHOICE, log 77): R62 speaks of slots that name a register; where another slot of the bundle names s54, the link lands by
its own latency like every other result, and last where both land in one beat. -/
def Instr.sdest : Instr → Option (BitVec 6)
  | .vcmpEq sd _ _ | .vcmpNe sd _ _ | .vcmpLt sd _ _ | .vcmpLe sd _ _ | .vcmpLtu sd _ _ | .vcmpLeu sd _ _
  | .vfcmpEq sd _ _ | .vfcmpNe sd _ _ | .vfcmpLt sd _ _ | .vfcmpLe sd _ _ | .vfcmpUn sd _ _ | .vmatch sd _ _ => some sd
  | .lds st _ _ _ _ | .ldsAcq st _ _ _ _ _ | .splds st _ _ _ => some st
  | .atomsAdd st _ _ _ _ | .atomsAnd st _ _ _ _ | .atomsOr st _ _ _ _ | .atomsXor st _ _ _ _
  | .atomsMin st _ _ _ _ | .atomsMax st _ _ _ _ | .atomsMinu st _ _ _ _ | .atomsMaxu st _ _ _ _
  | .cass st _ _ _ _ => some st
  | .tstat _ s => some s
  | .xvs sd _ _ => some sd
  | .qstat sd _ => some sd
  | .add sd _ _ | .sub sd _ _ | .mul sd _ _ | .mulhi sd _ _ | .mulhu sd _ _ | .div sd _ _ | .divu sd _ _
  | .rem sd _ _ | .remu sd _ _ | .and sd _ _ | .or sd _ _ | .xor sd _ _ | .shl sd _ _ | .shr sd _ _ | .sra sd _ _
  | .sel sd _ _ | .cmp _ sd _ _ => some sd
  | .addi sd _ _ | .andi sd _ _ | .ori sd _ _ | .xori sd _ _ => some sd
  | .shli sd _ _ | .shri sd _ _ | .srai sd _ _ => some sd
  | .cmpi _ sd _ _ => some sd
  | .clz sd _ | .ctz sd _ | .popc sd _ | .movi sd _ | .movhi sd _ => some sd
  | .crd sd _ | .crdEnergyLo sd | .rgrow sd | .sprint _ sd _ _ => some sd
  | _ => none

/-- The flags an instruction names as completion flags or clears with FCLR (R66), one bit each. -/
def Instr.namedFlags : Instr → BitVec 16
  | .ldv _ _ _ _ f | .stv _ _ _ _ f | .ldg _ _ _ f | .stg _ _ _ f | .lds _ _ _ _ f | .sts _ _ _ _ f
  | .ldsAcq _ _ _ _ _ f | .stsRel _ _ _ _ _ f
  | .atomvAdd _ _ _ f | .atomvAnd _ _ _ f | .atomvOr _ _ _ f | .atomvXor _ _ _ f
  | .atomvMin _ _ _ f | .atomvMax _ _ _ f | .atomvMinu _ _ _ f | .atomvMaxu _ _ _ f
  | .atomsAdd _ _ _ _ f | .atomsAnd _ _ _ _ f | .atomsOr _ _ _ _ f | .atomsXor _ _ _ _ f
  | .atomsMin _ _ _ _ f | .atomsMax _ _ _ _ f | .atomsMinu _ _ _ _ f | .atomsMaxu _ _ _ _ f
  | .casv _ _ _ f | .cass _ _ _ _ f | .flush _ f | .vspill _ _ _ f | .vfill _ _ _ f
  | .cpy _ _ _ _ (some f) | .cpyin _ _ _ _ (some f) | .cpyout _ _ _ _ (some f) | .cpyr _ _ _ _ (some f)
  | .cpym _ _ _ _ (some f) | .cpyat _ _ _ _ (some f) | .cpyz _ _ _ (some f)
  | .mres f | .che _ f | .cheG _ f | .mdep _ _ f | .barr _ _ f | .tpost _ f | .sprint _ _ _ f => 1#16 <<< f.toNat
  | .fclr m => m
  | _ => 0#16

/-- The instruction of a slot, NOP where the slot does not decode. -/
def Decoded.instr : Decoded → Instr
  | .ok i => i
  | .error _ => .nop

/-- The C formats whose immediate a LIMM may widen (R153): all of the table's but SHLI, SHRI and SRAI. -/
def Instr.takesLimm : Instr → Bool
  | .addi .. | .andi .. | .ori .. | .xori .. | .cmpi .. | .movi .. | .movhi .. | .br .. | .brf .. | .jmp .. | .call ..
  | .bprep .. | .brd .. => true
  | _ => false

/-- A vector-to-scalar crossing (R64). -/
def Instr.crossesDown : Instr → Bool
  | .vcmpEq .. | .vcmpNe .. | .vcmpLt .. | .vcmpLe .. | .vcmpLtu .. | .vcmpLeu .. | .vfcmpEq .. | .vfcmpNe ..
  | .vfcmpLt .. | .vfcmpLe .. | .vfcmpUn .. | .vmatch .. | .xvs .. => true
  | _ => false

/-- A queue port's register number (R43). -/
def isPort (s : BitVec 6) : Bool := 56 ≤ s.toNat

/-- A decode fault with the slot it is reported for (`none`: the bundle's own bit [122]). -/
abbrev SlotFault := DecodeFault × Option Slot

/-- The order of the slots within one rank (R158). The bundle's own bit [122] lies in no slot: its fault comes before the slots' of its
rank, and its record names no slot (log 72). -/
def slotOrder : Option Slot → Nat
  | none => 0 | some .v => 1 | some .m => 2 | some .x => 3 | some .c => 4

/-- Whether fault `a` is reported before fault `b`: rank first, then the slot order (R158). -/
def SlotFault.before (a b : SlotFault) : Bool :=
  a.1.rank < b.1.rank || (a.1.rank == b.1.rank && slotOrder a.2 ≤ slotOrder b.2)

/-- The fault that is reported among those found (R158). DESIGN CHOICE (log 79): of two of one rank in one slot, the first in the list. -/
def firstFault : List SlotFault → Option SlotFault
  | [] => none
  | a :: rest =>
    match firstFault rest with
    | none => some a
    | some b => if a.before b then some a else some b

def slotFaults (s : Slot) : Decoded → List SlotFault
  | .error e => [(e, some s)]
  | .ok (.unassignedOpcode _ _) => [(.opcUndef, some s)]
  | .ok _ => []

/-- A pair of slots that name one scalar destination (R62, R44). DESIGN CHOICE (log 79): the record names the later slot. -/
def sdestFaults : List (Slot × Instr) → List SlotFault
  | [] => []
  | (_, i) :: rest =>
    (rest.filterMap fun (t, j) =>
      match i.sdest, j.sdest with
      | some a, some b =>
        if a = b ∧ a ≠ 0#6 then some (if isPort a then .qportConflict else .sdestConflict, some t) else none
      | _, _ => none) ++ sdestFaults rest

/-- A pair of slots that name one flag (R66). DESIGN CHOICE (log 79): the record names the later slot. -/
def flagFaults : List (Slot × Instr) → List SlotFault
  | [] => []
  | (_, i) :: rest =>
    (rest.filterMap fun (t, j) =>
      if i.namedFlags &&& j.namedFlags = 0#16 then none else some (.flagConflict, some t)) ++ flagFaults rest

/-- A LIMM without a C immediate to widen (R153). -/
def limmFaults (x c : Instr) : List SlotFault :=
  match x with
  | .limm _ => if c.takesLimm then [] else [(.limmUse, some .x)]
  | _ => []

/-- The IMM22 that the bundle's LIMM supplies (R153). -/
def Instr.limm22 : Instr → Option (BitVec 22)
  | .limm imm => some imm
  | _ => none

/-- TDISP as R153 widens it: L[21:11] above the field. -/
def brdTarget (l : Option (BitVec 22)) (tdisp : BitVec 8) : Nat :=
  match l with
  | some l => (l.extractLsb' 11 11).toNat * 256 + tdisp.toNat
  | none => tdisp.toNat

/-- JDISP as R153 widens it: L[10:0] above the field. -/
def brdJoin (l : Option (BitVec 22)) (jdisp : BitVec 7) : Nat :=
  match l with
  | some l => (l.extractLsb' 0 11).toNat * 128 + jdisp.toNat
  | none => jdisp.toNat

/-- A TDISP below 3 raises FIELD_RSVD (R151). -/
def brdFaults (x c : Instr) : List SlotFault :=
  match c with
  | .brd _ t _ => if brdTarget x.limm22 t < 3 then [(.fieldRsvd, some .c)] else []
  | _ => []

/-- Two vector-to-scalar crossings in one bundle (R64). -/
def crossFaults (v x : Instr) : List SlotFault :=
  if v.crossesDown && x.crossesDown then [(.crossLimit, some .x)] else []

/-- The operations of a bundle, NOP in a slot that does not decode. -/
def bundleOps (w : Bundle) : BundleOps :=
  { gap := bundleGap w, sync := bundleSync w, b := bundleB w
    v := Decoded.instr (decodeV (bundleV w)), m := Decoded.instr (decodeM (bundleM w))
    x := Decoded.instr (decodeX (bundleX w)), c := Decoded.instr (decodeC (bundleC w)) }

/-- Every decode fault of a bundle that its bits alone decide (R158, all but ranks 1, 6 and 10). -/
def staticFaults (w : Bundle) : List SlotFault :=
  let o := bundleOps w
  let all : List (Slot × Instr) := [(.v, o.v), (.m, o.m), (.x, o.x), (.c, o.c)]
  (if w.getLsbD 122 then [(.fieldRsvd, none)] else []) ++
  slotFaults .v (decodeV (bundleV w)) ++ slotFaults .m (decodeM (bundleM w)) ++
  slotFaults .x (decodeX (bundleX w)) ++ slotFaults .c (decodeC (bundleC w)) ++
  limmFaults o.x o.c ++ brdFaults o.x o.c ++ crossFaults o.v o.x ++ sdestFaults all ++ flagFaults all

/-- The decoder of whole bundles: the operations, or the fault reported first (R158). -/
def decodeBundle (w : Bundle) : Except SlotFault BundleOps :=
  match firstFault (staticFaults w) with
  | some f => .error f
  | none => .ok (bundleOps w)

/-! ### The encoder: formats (R148 to R151) -/

def packVR (op : BitVec 8) (vd va vb : BitVec 7) (nw : Bool) : BitVec 30 := op ++ vd ++ va ++ vb ++ BitVec.ofBool nw
def packVI (op : BitVec 8) (vd : BitVec 7) (imm : BitVec 14) (nw : Bool) : BitVec 30 :=
  op ++ vd ++ imm ++ BitVec.ofBool nw
def packVC (op : BitVec 8) (vd va : BitVec 7) (rm : BitVec 3) (kind : BitVec 4) (nw : Bool) : BitVec 30 :=
  op ++ vd ++ va ++ rm ++ kind ++ BitVec.ofBool nw
def packVS (op : BitVec 8) (sd : BitVec 6) (va vb : BitVec 7) : BitVec 30 := op ++ sd ++ va ++ vb ++ 0#2
def packMC (op : BitVec 6) (vt : BitVec 7) (sa : BitVec 6) (w : BitVec 2) (ofs : BitVec 5) (f : BitVec 4) : BitVec 30 :=
  op ++ vt ++ sa ++ w ++ ofs ++ f
def packMG (op : BitVec 6) (vt vx : BitVec 7) (sa : BitVec 6) (f : BitVec 4) : BitVec 30 := op ++ vt ++ vx ++ sa ++ f
def packMS (op : BitVec 6) (st sa : BitVec 6) (sc w : BitVec 2) (disp f : BitVec 4) : BitVec 30 :=
  op ++ st ++ sa ++ sc ++ w ++ disp ++ f
def packMA (op : BitVec 6) (st sa sv : BitVec 6) (sc : BitVec 2) (f : BitVec 4) : BitVec 30 :=
  op ++ st ++ sa ++ sv ++ sc ++ f
def packMT (op : BitVec 6) (vt : BitVec 7) (tile : BitVec 6) (rg : BitVec 7) : BitVec 30 := op ++ vt ++ tile ++ rg ++ 0#4
def packMO (op : BitVec 6) (kind sc : BitVec 2) (f : BitVec 4) : BitVec 30 := op ++ kind ++ sc ++ 0#16 ++ f
def packXK (op : BitVec 6) (ord : Bool) (dst src desc : BitVec 5) : Option (BitVec 4) → BitVec 28
  | some f => op ++ BitVec.ofBool ord ++ 0#1 ++ dst ++ src ++ desc ++ f ++ 0#1
  | none => op ++ BitVec.ofBool ord ++ 1#1 ++ dst ++ src ++ desc ++ 0#4 ++ 0#1
def packXT (op tile s : BitVec 6) : BitVec 28 := op ++ tile ++ s ++ 0#10
def packXF (op : BitVec 6) (f : BitVec 4) : BitVec 28 := op ++ 0#18 ++ f
def packXH (op : BitVec 6) (acc : BitVec 2) : Option (BitVec 10) → BitVec 28
  | some a => op ++ 0#1 ++ a ++ acc ++ 0#9
  | none => op ++ 1#1 ++ 0#10 ++ acc ++ 0#9
def packXP (op ta tb k : BitVec 6) : BitVec 28 := op ++ ta ++ tb ++ k ++ 0#4
def packXE (op : BitVec 6) (acc : BitVec 2) (f : BitVec 4) : BitVec 28 := op ++ acc ++ 0#16 ++ f
def packXD (op tile : BitVec 6) (acc : BitVec 2) (f : BitVec 4) : BitVec 28 := op ++ tile ++ acc ++ 0#10 ++ f
def packXV (op : BitVec 6) (vd : BitVec 7) : BitVec 28 := op ++ vd ++ 0#15
def packXG (op : BitVec 6) (n : BitVec 2) (skew : BitVec 3) : BitVec 28 := op ++ n ++ skew ++ 0#17
def packXS (op : BitVec 6) (vd : BitVec 7) (sa : BitVec 6) : Option (BitVec 6) → BitVec 28
  | some l => op ++ vd ++ sa ++ 0#1 ++ l ++ 0#2
  | none => op ++ vd ++ sa ++ 1#1 ++ 0#6 ++ 0#2
def packXU (op sd : BitVec 6) (va : BitVec 7) (lane : BitVec 6) : BitVec 28 := op ++ sd ++ va ++ lane ++ 0#3
def packXQ (op : BitVec 6) (q : BitVec 3) (queue : BitVec 5) (role : Bool) : BitVec 28 :=
  op ++ q ++ queue ++ BitVec.ofBool role ++ 0#13
def packXR (op sd : BitVec 6) (queue : BitVec 5) : BitVec 28 := op ++ sd ++ queue ++ 0#11
def packXB (op : BitVec 6) (bar : BitVec 3) (wait : Bool) (f : BitVec 4) : BitVec 28 :=
  op ++ bar ++ BitVec.ofBool wait ++ 0#14 ++ f
def packXN (op sa : BitVec 6) (f : BitVec 4) : BitVec 28 := op ++ sa ++ 0#12 ++ f
def packXW (op : BitVec 6) (ev : BitVec 8) : BitVec 28 := op ++ ev ++ 0#14
def packXL (op : BitVec 6) (imm : BitVec 22) : BitVec 28 := op ++ imm
def packXZ (op : BitVec 6) : BitVec 28 := op ++ 0#22
def packCR (op : BitVec 7) (sd sa sb : BitVec 6) (cc : BitVec 3) : BitVec 28 := op ++ sd ++ sa ++ sb ++ cc
def packCI (op : BitVec 7) (sd sa : BitVec 6) (imm : BitVec 9) : BitVec 28 := op ++ sd ++ sa ++ imm
def packCK (op : BitVec 7) (sd sa : BitVec 6) (cc : BitVec 3) (imm : BitVec 6) : BitVec 28 := op ++ sd ++ sa ++ cc ++ imm
def packCL (op : BitVec 7) (sd : BitVec 6) (imm : BitVec 15) : BitVec 28 := op ++ sd ++ imm
def packCB (op : BitVec 7) (inv : Bool) (x : BitVec 6) (disp : BitVec 14) : BitVec 28 :=
  op ++ BitVec.ofBool inv ++ x ++ disp
def packCJ (op : BitVec 7) (disp : BitVec 21) : BitVec 28 := op ++ disp
def packCD (op : BitVec 7) (sc : BitVec 6) (t : BitVec 8) (j : BitVec 7) : BitVec 28 := op ++ sc ++ t ++ j
def packCP (op : BitVec 7) (tb : BitVec 2) (disp : BitVec 19) : BitVec 28 := op ++ tb ++ disp
def packCG (op : BitVec 7) (tb : BitVec 2) (inv : Bool) (sa : BitVec 6) : BitVec 28 :=
  op ++ tb ++ BitVec.ofBool inv ++ sa ++ 0#12
def packCE (op : BitVec 7) (pl : BitVec 2) (len : BitVec 16) : BitVec 28 := op ++ pl ++ len ++ 0#3
def packCT (op : BitVec 7) (imm : BitVec 16) : BitVec 28 := op ++ 0#5 ++ imm
def packCX (op : BitVec 7) (s : BitVec 6) (creg : BitVec 8) : BitVec 28 := op ++ s ++ creg ++ 0#7
def packCS (op : BitVec 7) (sd sa : BitVec 6) (nt : Bool) (f : BitVec 4) : BitVec 28 :=
  op ++ sd ++ sa ++ BitVec.ofBool nt ++ 0#4 ++ f

/-- The word of a V-slot operation (R154). -/
def encodeV : Instr → Option (BitVec 30)
  | .vadd vd va vb nw => some (packVR 0x01#8 vd va vb nw)
  | .vsub vd va vb nw => some (packVR 0x02#8 vd va vb nw)
  | .vmul vd va vb nw => some (packVR 0x03#8 vd va vb nw)
  | .vmulhi vd va vb nw => some (packVR 0x04#8 vd va vb nw)
  | .vmin vd va vb nw => some (packVR 0x05#8 vd va vb nw)
  | .vmax vd va vb nw => some (packVR 0x06#8 vd va vb nw)
  | .vminu vd va vb nw => some (packVR 0x07#8 vd va vb nw)
  | .vmaxu vd va vb nw => some (packVR 0x08#8 vd va vb nw)
  | .vand vd va vb nw => some (packVR 0x09#8 vd va vb nw)
  | .vor vd va vb nw => some (packVR 0x0a#8 vd va vb nw)
  | .vxor vd va vb nw => some (packVR 0x0b#8 vd va vb nw)
  | .vandn vd va vb nw => some (packVR 0x0c#8 vd va vb nw)
  | .vshl vd va vb nw => some (packVR 0x0d#8 vd va vb nw)
  | .vshr vd va vb nw => some (packVR 0x0e#8 vd va vb nw)
  | .vsra vd va vb nw => some (packVR 0x0f#8 vd va vb nw)
  | .vclz vd va nw => some (packVR 0x10#8 vd va 0#7 nw)
  | .vpopc vd va nw => some (packVR 0x11#8 vd va 0#7 nw)
  | .vsel vd va vb nw => some (packVR 0x12#8 vd va vb nw)
  | .vmov vd va nw => some (packVR 0x13#8 vd va 0#7 nw)
  | .vmovi vd imm nw => some (packVI 0x14#8 vd imm nw)
  | .viota vd nw => some (packVR 0x15#8 vd 0#7 0#7 nw)
  | .vfadd vd va vb nw => some (packVR 0x20#8 vd va vb nw)
  | .vfsub vd va vb nw => some (packVR 0x21#8 vd va vb nw)
  | .vfmul vd va vb nw => some (packVR 0x22#8 vd va vb nw)
  | .vfma vd va vb nw => some (packVR 0x23#8 vd va vb nw)
  | .vfms vd va vb nw => some (packVR 0x24#8 vd va vb nw)
  | .vfmin vd va vb nw => some (packVR 0x25#8 vd va vb nw)
  | .vfmax vd va vb nw => some (packVR 0x26#8 vd va vb nw)
  | .vfabs vd va nw => some (packVR 0x27#8 vd va 0#7 nw)
  | .vfneg vd va nw => some (packVR 0x28#8 vd va 0#7 nw)
  | .vfdiv vd va vb nw => some (packVR 0x29#8 vd va vb nw)
  | .vfsqrt vd va nw => some (packVR 0x2a#8 vd va 0#7 nw)
  | .vfexp2 vd va nw => some (packVR 0x2b#8 vd va 0#7 nw)
  | .vflog2 vd va nw => some (packVR 0x2c#8 vd va 0#7 nw)
  | .vfrnd vd va rm nw => some (packVC 0x2d#8 vd va (rmCode rm) 0#4 nw)
  | .vcvt vd va rm kind nw => some (packVC 0x30#8 vd va (rmCode rm) (cvtCode kind) nw)
  | .vpkh vd va rm fmt high nw => some (packVC 0x31#8 vd va (rmCode rm) (halfCode fmt high) nw)
  | .vupkh vd va fmt high nw => some (packVC 0x32#8 vd va 0#3 (halfCode fmt high) nw)
  | .vbpackM7 vd va vb nw => some (packVR 0x34#8 vd va vb nw)
  | .vbpackM4 vd va vb nw => some (packVR 0x35#8 vd va vb nw)
  | .vbpackM2 vd va vb nw => some (packVR 0x36#8 vd va vb nw)
  | .vbunpk vd va nw => some (packVR 0x37#8 vd va 0#7 nw)
  | .vcmpEq sd va vb => some (packVS 0x40#8 sd va vb)
  | .vcmpNe sd va vb => some (packVS 0x41#8 sd va vb)
  | .vcmpLt sd va vb => some (packVS 0x42#8 sd va vb)
  | .vcmpLe sd va vb => some (packVS 0x43#8 sd va vb)
  | .vcmpLtu sd va vb => some (packVS 0x44#8 sd va vb)
  | .vcmpLeu sd va vb => some (packVS 0x45#8 sd va vb)
  | .vfcmpEq sd va vb => some (packVS 0x48#8 sd va vb)
  | .vfcmpNe sd va vb => some (packVS 0x49#8 sd va vb)
  | .vfcmpLt sd va vb => some (packVS 0x4a#8 sd va vb)
  | .vfcmpLe sd va vb => some (packVS 0x4b#8 sd va vb)
  | .vfcmpUn sd va vb => some (packVS 0x4c#8 sd va vb)
  | .vfkey vd va nw => some (packVR 0x50#8 vd va 0#7 nw)
  | .vrng vd va vb nw => some (packVR 0x51#8 vd va vb nw)
  | .vshfl vd va vb nw => some (packVR 0x58#8 vd va vb nw)
  | .vrotl vd va vb nw => some (packVR 0x59#8 vd va vb nw)
  | .vredadd vd va nw => some (packVR 0x5a#8 vd va 0#7 nw)
  | .vredfadd vd va nw => some (packVR 0x5b#8 vd va 0#7 nw)
  | .vredmax vd va nw => some (packVR 0x5c#8 vd va 0#7 nw)
  | .vscan vd va nw => some (packVR 0x5d#8 vd va 0#7 nw)
  | .vfscan vd va nw => some (packVR 0x5e#8 vd va 0#7 nw)
  | .vmatch sd va vb => some (packVS 0x5f#8 sd va vb)
  | .vplane va => some (packVR 0x60#8 0#7 va 0#7 false)
  | .unassignedOpcode .v op => some (op ++ 0#22)
  | _ => none

/-- The word of an M-slot operation (R155). -/
def encodeM : Instr → Option (BitVec 30)
  | .ldv vt sa wd ofs f => some (packMC 0x01#6 vt sa (widthCode wd) ofs f)
  | .stv vt sa wd ofs f => some (packMC 0x02#6 vt sa (widthCode wd) ofs f)
  | .ldg vt vx sa f => some (packMG 0x03#6 vt vx sa f)
  | .stg vt vx sa f => some (packMG 0x04#6 vt vx sa f)
  | .lds st sa wd disp f => some (packMS 0x05#6 st sa 0#2 (widthCode wd) disp f)
  | .ldsAcq st sa sc wd disp f => some (packMS 0x06#6 st sa (scopeCode sc) (widthCode wd) disp f)
  | .sts st sa wd disp f => some (packMS 0x07#6 st sa 0#2 (widthCode wd) disp f)
  | .stsRel st sa sc wd disp f => some (packMS 0x08#6 st sa (scopeCode sc) (widthCode wd) disp f)
  | .spld vt vx sa => some (packMG 0x09#6 vt vx sa 0#4)
  | .spst vt vx sa => some (packMG 0x0a#6 vt vx sa 0#4)
  | .splds st sa wd disp => some (packMS 0x0b#6 st sa 0#2 (widthCode wd) disp 0#4)
  | .spsts st sa wd disp => some (packMS 0x0c#6 st sa 0#2 (widthCode wd) disp 0#4)
  | .tld vt tile rg => some (packMT 0x0d#6 vt tile rg)
  | .atomvAdd vt vx sa f => some (packMG 0x10#6 vt vx sa f)
  | .atomvAnd vt vx sa f => some (packMG 0x11#6 vt vx sa f)
  | .atomvOr vt vx sa f => some (packMG 0x12#6 vt vx sa f)
  | .atomvXor vt vx sa f => some (packMG 0x13#6 vt vx sa f)
  | .atomvMin vt vx sa f => some (packMG 0x14#6 vt vx sa f)
  | .atomvMax vt vx sa f => some (packMG 0x15#6 vt vx sa f)
  | .atomvMinu vt vx sa f => some (packMG 0x16#6 vt vx sa f)
  | .atomvMaxu vt vx sa f => some (packMG 0x17#6 vt vx sa f)
  | .atomsAdd st sa sv sc f => some (packMA 0x18#6 st sa sv (scopeCode sc) f)
  | .atomsAnd st sa sv sc f => some (packMA 0x19#6 st sa sv (scopeCode sc) f)
  | .atomsOr st sa sv sc f => some (packMA 0x1a#6 st sa sv (scopeCode sc) f)
  | .atomsXor st sa sv sc f => some (packMA 0x1b#6 st sa sv (scopeCode sc) f)
  | .atomsMin st sa sv sc f => some (packMA 0x1c#6 st sa sv (scopeCode sc) f)
  | .atomsMax st sa sv sc f => some (packMA 0x1d#6 st sa sv (scopeCode sc) f)
  | .atomsMinu st sa sv sc f => some (packMA 0x1e#6 st sa sv (scopeCode sc) f)
  | .atomsMaxu st sa sv sc f => some (packMA 0x1f#6 st sa sv (scopeCode sc) f)
  | .casv vt vx sa f => some (packMG 0x20#6 vt vx sa f)
  | .cass st sa sv sc f => some (packMA 0x21#6 st sa sv (scopeCode sc) f)
  | .daccv op vt vx sa => some (packMG 0x22#6 vt vx sa (daccCode op))
  | .daccs op sa sv => some (packMA 0x23#6 0#6 sa sv 0#2 (daccCode op))
  | .flush sc f => some (packMO 0x28#6 0#2 (flushCode sc) f)
  | .fence kind sc => some (packMO 0x29#6 (fenceCode kind) (scopeCode sc) 0#4)
  | .pref sa disp => some (packMS 0x2a#6 0#6 sa 0#2 0#2 disp 0#4)
  | .vspill vt sa ofs f => some (packMC 0x30#6 vt sa 2#2 ofs f)
  | .vfill vt sa ofs f => some (packMC 0x31#6 vt sa 2#2 ofs f)
  | .unassignedOpcode .m op => some (op.setWidth 6 ++ 0#24)
  | _ => none

/-- The word of an X-slot operation (R156). -/
def encodeX : Instr → Option (BitVec 28)
  | .cpy ord dst src desc f => some (packXK 0x01#6 ord dst src desc f)
  | .cpyin ord dst src desc f => some (packXK 0x02#6 ord dst src desc f)
  | .cpyout ord dst src desc f => some (packXK 0x03#6 ord dst src desc f)
  | .cpyr ord dst src desc f => some (packXK 0x04#6 ord dst src desc f)
  | .cpym ord dst src desc f => some (packXK 0x05#6 ord dst src desc f)
  | .cpyat ord dst src desc f => some (packXK 0x06#6 ord dst src desc f)
  | .cpyz ord dst desc f => some (packXK 0x07#6 ord dst 0#5 desc f)
  | .tdef tile s => some (packXT 0x08#6 tile s)
  | .tfree tile => some (packXT 0x09#6 tile 0#6)
  | .tstat tile s => some (packXT 0x0a#6 tile s)
  | .mres f => some (packXF 0x10#6 f)
  | .mrel => some (packXZ 0x11#6)
  | .chb acc anchor => some (packXH 0x12#6 acc anchor)
  | .mstep ta tb k => some (packXP 0x13#6 ta tb k)
  | .mstepG ta tb k => some (packXP 0x14#6 ta tb k)
  | .che acc f => some (packXE 0x15#6 acc f)
  | .cheG acc f => some (packXE 0x16#6 acc f)
  | .mpop vd => some (packXV 0x17#6 vd)
  | .mdep tile acc f => some (packXD 0x18#6 tile acc f)
  | .gang n skew => some (packXG 0x1c#6 n skew)
  | .ungang => some (packXZ 0x1d#6)
  | .xsv vd sa lane => some (packXS 0x20#6 vd sa lane)
  | .xvs sd va lane => some (packXU 0x21#6 sd va lane)
  | .qbind q queue role => some (packXQ 0x24#6 q queue (roleBit role))
  | .qunbind q => some (packXQ 0x25#6 q 0#5 false)
  | .qstat sd queue => some (packXR 0x26#6 sd queue)
  | .barr bar wait f => some (packXB 0x28#6 bar wait f)
  | .tpost sa f => some (packXN 0x29#6 sa f)
  | .evset ev => some (packXW 0x2a#6 ev)
  | .limm imm => some (packXL 0x3f#6 imm)
  | .unassignedOpcode .x op => some (op.setWidth 6 ++ 0#22)
  | _ => none

/-- The word of a C-slot operation (R157). -/
def encodeC : Instr → Option (BitVec 28)
  | .add sd sa sb => some (packCR 0x01#7 sd sa sb 0#3)
  | .addi sd sa imm => some (packCI 0x02#7 sd sa imm)
  | .sub sd sa sb => some (packCR 0x03#7 sd sa sb 0#3)
  | .mul sd sa sb => some (packCR 0x04#7 sd sa sb 0#3)
  | .mulhi sd sa sb => some (packCR 0x05#7 sd sa sb 0#3)
  | .mulhu sd sa sb => some (packCR 0x06#7 sd sa sb 0#3)
  | .div sd sa sb => some (packCR 0x07#7 sd sa sb 0#3)
  | .divu sd sa sb => some (packCR 0x08#7 sd sa sb 0#3)
  | .rem sd sa sb => some (packCR 0x09#7 sd sa sb 0#3)
  | .remu sd sa sb => some (packCR 0x0a#7 sd sa sb 0#3)
  | .and sd sa sb => some (packCR 0x10#7 sd sa sb 0#3)
  | .andi sd sa imm => some (packCI 0x11#7 sd sa imm)
  | .or sd sa sb => some (packCR 0x12#7 sd sa sb 0#3)
  | .ori sd sa imm => some (packCI 0x13#7 sd sa imm)
  | .xor sd sa sb => some (packCR 0x14#7 sd sa sb 0#3)
  | .xori sd sa imm => some (packCI 0x15#7 sd sa imm)
  | .shl sd sa sb => some (packCR 0x18#7 sd sa sb 0#3)
  | .shli sd sa imm => some (packCI 0x19#7 sd sa (0#3 ++ imm))
  | .shr sd sa sb => some (packCR 0x1a#7 sd sa sb 0#3)
  | .shri sd sa imm => some (packCI 0x1b#7 sd sa (0#3 ++ imm))
  | .sra sd sa sb => some (packCR 0x1c#7 sd sa sb 0#3)
  | .srai sd sa imm => some (packCI 0x1d#7 sd sa (0#3 ++ imm))
  | .clz sd sa => some (packCR 0x1e#7 sd sa 0#6 0#3)
  | .ctz sd sa => some (packCR 0x1f#7 sd sa 0#6 0#3)
  | .popc sd sa => some (packCR 0x20#7 sd sa 0#6 0#3)
  | .sel sd sa sb => some (packCR 0x24#7 sd sa sb 0#3)
  | .movi sd imm => some (packCL 0x25#7 sd imm)
  | .movhi sd imm => some (packCL 0x26#7 sd imm)
  | .cmp cc sd sa sb => some (packCR 0x27#7 sd sa sb (ccCode cc))
  | .cmpi cc sd sa imm => some (packCK 0x28#7 sd sa (ccCode cc) imm)
  | .br inv sa disp => some (packCB 0x30#7 inv sa disp)
  | .brf inv f disp => some (packCB 0x31#7 inv (0#2 ++ f) disp)
  | .jmp disp => some (packCJ 0x32#7 disp)
  | .call disp => some (packCJ 0x33#7 disp)
  | .callr sa => some (packCR 0x34#7 0#6 sa 0#6 0#3)
  | .ret => some (packCJ 0x35#7 0#21)
  | .brd sc tdisp jdisp => some (packCD 0x36#7 sc tdisp jdisp)
  | .join => some (packCJ 0x37#7 0#21)
  | .bprep tb disp => some (packCP 0x38#7 tb disp)
  | .bgo tb inv sa => some (packCG 0x39#7 tb inv sa)
  | .penter pl len => some (packCE 0x3c#7 pl len)
  | .pexit => some (packCJ 0x3d#7 0#21)
  | .fwait flags => some (packCT 0x40#7 flags)
  | .fclr flags => some (packCT 0x41#7 flags)
  | .setx sa => some (packCR 0x42#7 0#6 sa 0#6 0#3)
  | .crd sd creg => some (packCX 0x44#7 sd creg)
  | .cwr creg sa => some (packCX 0x45#7 sa creg)
  | .trap imm => some (packCT 0x48#7 imm)
  | .eret => some (packCJ 0x49#7 0#21)
  | .brk imm => some (packCT 0x4a#7 imm)
  | .trmark imm => some (packCT 0x4b#7 imm)
  | .sprint nt sd sa f => some (packCS 0x50#7 sd sa nt f)
  | .sprel => some (packCJ 0x51#7 0#21)
  | .rgrow sd => some (packCR 0x52#7 sd 0#6 0#6 0#3)
  | .rshrink => some (packCJ 0x53#7 0#21)
  | .timer sa => some (packCR 0x58#7 0#6 sa 0#6 0#3)
  | .yield => some (packCJ 0x59#7 0#21)
  | .endWarp => some (packCJ 0x5a#7 0#21)
  | .crdEnergyLo sd => some (packCX 0x44#7 sd 0x13#8)
  | .cwrWtimer sa => some (packCX 0x45#7 sa 0x0c#8)
  | .cwrGdead sa => some (packCX 0x45#7 sa 0x0e#8)
  | .unassignedOpcode .c op => some (op.setWidth 7 ++ 0#21)
  | _ => none

/-- A bundle of four slot words with gap, sync mark and broadcast number (R145). -/
def packBundle (g : BitVec 4) (sync : Bool) (b : BitVec 6) (v m : BitVec 30) (x c : BitVec 28) : Bundle :=
  g ++ BitVec.ofBool sync ++ 0#1 ++ b ++ v ++ m ++ x ++ c

/-- The bundle that holds one operation in its own slot and NOPs elsewhere; `none` for an event, which has no word. -/
def encode (i : Instr) : Option Bundle :=
  if i = .nop then some 0#128
  else match encodeV i with
  | some v => some (packBundle 0#4 false 0#6 v 0#30 0#28 0#28)
  | none =>
    match encodeM i with
    | some m => some (packBundle 0#4 false 0#6 0#30 m 0#28 0#28)
    | none =>
      match encodeX i with
      | some x => some (packBundle 0#4 false 0#6 0#30 0#30 x 0#28)
      | none =>
        match encodeC i with
        | some c => some (packBundle 0#4 false 0#6 0#30 0#30 0#28 c)
        | none => none

/-- The one operation of a bundle: NOP for an all-NOP bundle, the operation of the single slot that is not NOP,
none where several slots act. -/
def BundleOps.single (o : BundleOps) : Option Instr :=
  match [o.v, o.m, o.x, o.c].filter (fun i => i != .nop) with
  | [] => some .nop
  | [i] => some i
  | _ => none

/-- The bundle held by sixteen bytes, lowest address first (R145). -/
def bundleOfBytes (bs : List Byte) : Bundle := ofLe 128 bs

/-- The bytes of a table word: the bits the table numbers from 0, in address order, every higher bit 0 (R145). -/
def tableBytes (nbits w : Nat) : List Byte := leBytes 16 (BitVec.ofNat 128 (w % 2 ^ nbits))

/-- The instruction the decoder reads from a bundle whose bits are `w`: the single operation of a bundle that decodes,
the unassigned opcode where that is the bundle's fault, none elsewhere. -/
def decodeTableWord (nbits w : Nat) : Option Instr :=
  let b := bundleOfBytes (tableBytes nbits w)
  match decodeBundle b with
  | .ok o => o.single
  | .error (.opcUndef, _) => (bundleOps b).single
  | .error _ => none

end Sys2Proof
end

