-- ==== Sys2Proof/Machine/State.lean ====
section
/-!
DEFINITION. The state of one Chanum package as plain data, the reasons a step can stop, and the state after reset.
Times are counts of nanoseconds, which are also master-clock cycles (R445). Keys: a cluster is its physical number
(256 times the die plus the local number, R432); a core is 4 times its cluster plus its number there; a warp is 16
times its cluster plus 4 times its core there plus its hardware context; a team is 512 times its node's handle plus
its task-relative index.
-/

namespace Sys2Proof.Machine

/-! ### Warps: registers, latches and results in flight -/

/-- A vector register with the poison mark of each lane (R53, R114). -/
structure VReg where
  lanes : Lanes
  marks : DWord
  deriving DecidableEq, Repr

/-- One bank of bypass latches (R55), each with its poison marks. -/
structure Bank where
  v1 : VReg
  v2 : VReg
  v3 : VReg
  m1 : VReg
  m2 : VReg
  x1 : VReg
  deriving DecidableEq, Repr

/-- A scalar register with its poison mark (R62, R114). -/
structure SReg where
  value : DWord
  mark  : Bool
  deriving DecidableEq, Repr

/-- The four kinds of fixed-latency results (R356). -/
inductive FlightKind where
  | vector | memory | engine | scalar
  deriving DecidableEq, Repr

/-- A fixed-latency result that is not yet fully delivered (R56, R356). `land` counts the beats until it is written at
the end of the last of them; `mask` holds the operation's active lanes, `dom` the lanes for which it feeds its
latch and `wr` those for which it writes its destination (they narrow at splits and joins, R59); `ticket` is the queue
entry it has reserved (R169, R201, R251); `side` is the path that issued it, which decides between scalars (R35). -/
structure Flight where
  kind   : FlightKind
  path   : Nat
  side   : Nat
  plane  : Nat
  nw     : Bool
  land   : Nat
  dest   : Nat
  mask   : DWord
  dom    : DWord
  wr     : DWord
  data   : Lanes
  value  : DWord
  marks  : DWord
  ticket : Option (Nat × Nat)
  deriving DecidableEq, Repr

/-- A flag with its producer record (R66, R67); `instant` is when the memory operation that set it was performed (R100). -/
structure FlagRec where
  set   : Bool
  pend  : Bool
  seq   : Nat
  plane : Nat
  cidx  : Nat
  instant : Nat
  deriving DecidableEq, Repr

/-- A queue port bound to a queue (R43). -/
structure Binding where
  queue : Nat
  role  : Role
  deriving DecidableEq, Repr

/-- Control state written in a beat and in force from the next one (R62, R252, R286, R287, R296 to R299): `timer` is what TIMER sets,
`chunk` a grant or a return of one chunk, `leave` the end of the selection by YIELD. -/
inductive Late where
  | xm (path : Nat) (v : DWord)
  | exs (v : Nat)
  | round (v : Nat)
  | wtimer (v : Nat)
  | gdead (v : Nat)
  | fpte (v : Nat)
  | stklim (v : Nat)
  | slotmap (v : Nat)
  | target (i : Nat) (addr : Nat)
  | bind (q : Nat) (b : Option Binding)
  | timer (v : Nat)
  | chunk (up : Bool)
  | leave
  deriving DecidableEq, Repr

/-! ### Paths -/

/-- The planed region in force (R28, R69). -/
structure Region where
  base : Nat
  p    : Nat
  len  : Nat
  deriving DecidableEq, Repr

/-- Where a stream goes: an address outside a region, an offset inside one. -/
structure Place where
  addr : Nat
  off  : Nat
  deriving DecidableEq, Repr

/-- A reconvergence entry (R37): the taken lanes, the bundle addresses where they start and where they join. `whole` is the path
mask before the BRD, which the join restores; `inReg` says that the BRD stood in the region in force (R283), `turned` that the
taken lanes run; `origin` names the BRD (R270). -/
structure REntry where
  lanes  : DWord
  target : Nat
  join   : Nat
  whole  : DWord
  inReg  : Bool
  turned : Bool
  origin : Option (Nat × Nat)
  deriving DecidableEq, Repr

/-- What a transfer with delay slots will do after them (R34, R269). -/
inductive Transfer where
  | goto (p : Place)
  | fall
  | enter (r : Region)
  | leave
  | divide (taken : DWord) (fallen : DWord) (target join : Place) (serial : Bool)
  deriving DecidableEq, Repr

/-- A transfer waiting for its delay slots. -/
structure Delay where
  left : Nat
  what : Transfer
  deriving DecidableEq, Repr

/-- The latch bank of one plane's stream of a path (R55). -/
structure PlaneBank where
  plane : Nat
  bank  : Bank
  deriving DecidableEq, Repr

/-- What a spilled reconvergence entry keeps on chip: what the spill area does not hold of it (R470, log 15). -/
structure SpilledEntry where
  whole  : DWord
  inReg  : Bool
  turned : Bool
  origin : Option (Nat × Nat)
  deriving DecidableEq, Repr

/-- How far a path is with the conflict beat of its next bundle (R22, R23, R60): not taken; spent in the beat that is under way, in which
another path issues; taken. -/
inductive Conflict where
  | none | now | past
  deriving DecidableEq, Repr

/-- One path of a warp (R35). `spilled` keeps, for each entry in the spill area from the newest down, what the area does not hold of it;
`origin` is the transfer that led to the next bundle (R270), `joined` says that the JOIN it stands at is satisfied, `waits` that it waits
there for the other path (R279); `stuck` that the beat in which the planes `issued` went ahead is over, or has given way to a block, while
another plane of the offset is still to issue (R35); `rest` the gap of the bundles that have issued at its offset; `skipbp` that a resumed
stop is not taken again at its boundary (R426). -/
structure PathSt where
  mask   : DWord
  xm     : DWord
  place  : Place
  gap    : Nat
  issued : List Nat
  stuck  : Bool
  rest   : Nat
  vp0    : DWord
  vp1    : DWord
  vpv    : DWord
  stack  : List REntry
  spilled : List SpilledEntry
  delay  : Option Delay
  origin : Option (Nat × Nat)
  banks  : List PlaneBank
  joined : Bool
  waits  : Bool
  conf   : Conflict
  skipbp : Bool
  deriving DecidableEq, Repr

/-- A concurrent split: its join address, the masks before it, whether it stood in the region in force, and the entries that path
0 had on its reconvergence stack (R34, R36). -/
structure Split where
  join  : Nat
  depth : Nat
  mask  : DWord
  xm    : DWord
  inReg : Bool
  deriving DecidableEq, Repr

/-! ### Memory operations in progress -/

/-- One lane's, or a scalar's, access: its lane, virtual address, home key, the bytes to write, the bytes a compare expects,
whether a spilled lane carries a poison mark (R114), and the leaf it was checked against with its level (R199, R399). -/
structure Access where
  lane : Nat
  va   : Nat
  key  : Nat
  data : List Byte
  expd : List Byte
  mark : Bool
  leaf : DWord
  level : Nat
  deriving DecidableEq, Repr

/-- The variable-latency operations of the M slot and the other entries of a warp's memory order (R100, R197). A sync point orders the
accesses of its own path, or with `all` those of both (R33, R36, R38). -/
inductive MemKind where
  | loadV (reg : Nat) (n : Nat) | loadS (reg : Nat) (n : Nat) (acq : Option Scope)
  | store (n : Nat) (rel : Option Scope)
  | atomV (reg : Nat) (op : AtomOp) | atomS (reg : Nat) (op : AtomOp)
  | casV (reg : Nat) | casS (reg : Nat)
  | spill | fill (reg : Nat)
  | fence (kind : FenceKind) (sc : Scope)
  | flush (sc : FlushScope) | evset (ev : Nat) | tpost (va : Nat) | sync (all : Bool)
  deriving DecidableEq, Repr

/-- An operation of the warp's memory order that is not finished (R100, R198). `seq`, `plane` and `cidx`
name its bundle; `both` says that it issued before the split in force, so that it precedes both paths; `floor` is the earliest instant at
which one of its reads may be satisfied (R98, R100); `failed` marks a remote store that no port can carry (R392). -/
structure MemOp where
  id     : Nat
  kind   : MemKind
  acc    : List Access
  flag   : Option Nat
  path   : Nat
  plane  : Nat
  cidx   : Nat
  pc     : Nat
  seq    : Nat
  ticket : Option (Nat × Nat)
  both   : Bool
  floor  : Nat
  failed : Bool
  deriving DecidableEq, Repr

/-! ### Traps and blocks -/

/-- A trap record (R354) without the saved registers. -/
structure TrapRec where
  code   : Nat
  cls    : Nat
  slot   : Nat
  plane  : Nat
  path   : Nat
  member : Nat
  lane   : Nat
  imm    : Nat
  issx   : Bool
  nested : Bool
  skip   : Bool
  pc     : Nat
  seq    : Nat
  addr   : Nat
  info   : Nat
  resume : Nat
  vbeat  : Nat
  gtc    : Nat
  deriving DecidableEq, Repr

/-- The causes of a block (R16) in the order of the counters they are charged to (R419). -/
inductive Cause where
  | flag | qempty | qfull | tile | reserve | barrier | fence | xlate | grow | join | lock | gang | stepq
  deriving DecidableEq, Repr

/-- A block in force: its cause and the order in which it began (R16, R17). -/
structure Block where
  cause : Cause
  since : Nat
  deriving DecidableEq, Repr

/-- Where a warp stands with traps: running, in its handler, or frozen for Pumal, for a save too (R350, R351, R364).
`held` is the trap whose frame write faulted (R350). -/
inductive TrapState where
  | running
  | handler (frame : Nat)
  | pumal (frame : Nat) (inHandler : Bool) (held : Option TrapRec)
  deriving DecidableEq, Repr

/-- What the warp keeps on chip while a handler runs, besides its trap frame (R350, R353): `late` and `portsIn` are what bundles
that issued in the trapping beat have written for the next one, `user` the USER_TRAPs that they still have to raise, `conf` is the frame's
CONF bit; s53 and s54 keep their marks and the producers of those (R114). -/
structure Shadow where
  p0     : PathSt
  p1     : Option PathSt
  split  : Option Split
  region : Option Region
  pmlo   : DWord
  pmhi   : DWord
  flight : List Flight
  late   : List (Nat × Late)
  portsIn : Map (Option Binding)
  user   : List TrapRec
  conf   : Bool
  mark53 : Bool
  mark54 : Bool
  prod53 : Nat
  prod54 : Nat
  deriving DecidableEq, Repr

/-- An error mark of a memory word: a single-bit error, an uncorrectable one, the poison syndrome; an error of the L2's copy of the
word (R110 to R115). -/
inductive Ecc where
  | single | double | poison | cacheSingle | cacheDouble
  deriving DecidableEq, Repr

/-- What a VSPILL has left in a stack line and no write-back has carried to memory yet: the operation, without its accesses, the bytes, and
the watchpoints that its earlier write-backs have hit (R427). -/
structure SpillNote where
  op  : MemOp
  va  : Nat
  n   : Nat
  hit : List Nat
  deriving DecidableEq, Repr

/-- One 128-byte line of a warp's stack cache: its bytes, dirty mark and, by offset, its words in error (R89, R110); its memory key, and the
leaf that was in force when it was filled, with its level (R399); the VSPILLs that its write-back will carry (R427). -/
structure StackLine where
  bytes  : List Byte
  dirty  : Bool
  ecc    : Map Ecc
  key    : Nat
  leaf   : DWord
  level  : Nat
  notes  : List SpillNote := []
  deriving DecidableEq, Repr

/-- A debug stop (R423, R424); `header` keeps the STOP record's header for a dump (R428). -/
structure Stop where
  code  : Nat
  value : Nat
  header : List Nat := []
  deriving DecidableEq, Repr

/-- An access of a word that a warp has performed while its core's L1 held an older line: the word, the operation, its instant (R98). -/
structure Touch where
  word : Nat
  op   : Nat
  instant : Nat
  deriving DecidableEq, Repr

/-- One resident warp (R13, R80). For the accesses that each path will issue, `floors` is the earliest instant at which their reads may be
satisfied, and `dones` the instant of the last access performed for it (R100). `prods` names the flagged producers of poisoned values: of
lane `l` of vector register `n` at `64 * n + l`, of scalar `n` at `8192 + n` (R114). `looked` are the pages that DET_ORDER's lookup has
already passed (R233). `mres` is the name word of the newest MRES (R422). `grow` is what a wait in RGROW has come to: a chunk set aside, or
the release with 0 (R46, R47). `late` holds each entry with the path that wrote it, `user` what the last beat's bundles raise after
themselves (R39, R290), `ret` says that an ERET has issued and waits for the stores of the handler (R291). -/
structure Warp where
  team    : Nat
  node    : Nat
  ctx     : Nat
  teamw   : Nat
  v       : Map VReg
  chunks  : Nat
  s       : Map SReg
  prods   : Map Nat
  ports   : Map Binding
  portsIn : Map (Option Binding)
  flags   : Map FlagRec
  pmlo    : DWord
  pmhi    : DWord
  region  : Option Region
  split   : Option Split
  p0      : PathSt
  p1      : Option PathSt
  flight  : List Flight
  late    : List (Nat × Late)
  target  : Map Nat
  seq     : Nat
  vbeat   : Nat
  wtimer  : Nat
  exs     : Nat
  round   : Nat
  gidx    : Nat
  stklim  : Nat
  stktop  : Nat
  sptop   : Nat
  elatch  : BitVec 33
  sup     : Bool
  ops     : List MemOp
  floors  : Nat × Nat
  dones   : Nat × Nat
  touched : List Touch
  stack   : Map StackLine
  trapped : TrapState
  shadow  : Option Shadow
  record  : Option TrapRec
  pend    : List TrapRec
  due     : List TrapRec
  user    : List TrapRec
  enter   : Bool
  ret     : Bool
  ext     : List Nat
  ffault  : List (Nat × Nat × Nat)
  misses  : List Nat
  looked  : List Nat
  mres    : Nat
  block   : Option Block
  arrived : List Nat
  grow    : Option Bool
  watch64 : Option Nat
  gang    : Option Nat
  stopped : Option Stop
  watchHit : Option Nat
  flushes : Nat × Nat × Nat
  count   : Map Nat
  hang    : Nat
  ready   : Nat
  deriving DecidableEq, Repr

/-! ### Cores, teams and clusters -/

/-- A deferred operation in a core's buffer (R103, R216): target, value and the sort key of its issuer. `epTeam`, `epTask` and `epDev`
name for each scope the episode of its issuer that covers it, and once the issuer has ended how many episodes it still lets pass (R220). -/
structure Dacc where
  ctx    : Nat
  team   : Nat
  node   : Nat
  rank   : Nat
  tindex : Nat
  teamw  : Nat
  lane   : Nat
  order  : Nat
  op     : DaccOp
  va     : Nat
  key    : Nat
  value  : DWord
  vbeat  : Nat
  plane  : Nat
  path   : Nat
  cidx   : Nat
  seq    : Nat
  epTeam : Nat
  epTask : Nat
  epDev  : Nat
  deriving DecidableEq, Repr

/-- A translation held by a TLB (R400): the context and page it is for, its level and the whole leaf. -/
structure TlbEntry where
  ctx   : Nat
  page  : Nat
  level : Nat
  leaf  : DWord
  deriving DecidableEq, Repr

/-- A line of the read-only L1 (R92): the instant of its fill, its bytes as they were then and, by offset, its words in error (R110). -/
structure L1Line where
  instant : Nat
  bytes  : List Byte
  ecc    : Map Ecc
  deriving DecidableEq, Repr

/-- One core (R15, R46, R75, R92, R217, R400). `sampledTo` is one above the last count of the clock at which it took a stall sample (R421).
-/
structure Core where
  slotmap  : DWord
  written  : Bool
  selected : Option Nat
  spare    : Nat
  sampledTo : Nat
  l1       : Map L1Line
  tlb      : List TlbEntry
  dacc     : List Dacc
  deriving DecidableEq, Repr

/-- The four states of a defined tile (R81). -/
inductive TileState where
  | empty | filling | ready | draining
  deriving DecidableEq, Repr

/-- A defined tile (R82). -/
structure Tile where
  state  : TileState
  stride : Nat
  base   : Nat
  rows   : Nat
  rowb   : Nat
  fmt    : Nat
  grp    : Nat
  mover  : Nat
  deriving DecidableEq, Repr

/-- A queue entry; no value while it is only reserved (R201). `prod` names the flagged producer of a poisoned value, 0 for none (R114). -/
structure QEntry where
  ticket : Nat
  value  : Option DWord
  mark   : Bool
  prod   : Nat
  deriving DecidableEq, Repr

/-- A hardware queue (R43, R45). -/
structure Queue where
  entries   : List QEntry
  producers : Nat
  closed    : Bool
  deriving DecidableEq, Repr

/-- An arrival at a barrier: the warp, its flag and the phase's arrival number (R254). -/
structure Arrival where
  teamw : Nat
  warp  : Nat
  flag  : Nat
  order : Nat
  deriving DecidableEq, Repr

/-- A team barrier (R254). -/
structure Barrier where
  phase   : Nat
  arrived : List Arrival
  deriving DecidableEq, Repr

/-- A sprint lease (R294). -/
structure Lease where
  left   : Nat
  grant  : Nat
  start  : Nat
  nt     : Bool
  holder : Nat
  deriving DecidableEq, Repr

/-- An arrival at a gang rendezvous (R39). -/
structure GangArrival where
  warp  : Nat
  teamw : Nat
  core  : Nat
  n     : Nat
  skew  : Nat
  deriving DecidableEq, Repr

/-- A bundle that the lead of a gang has broadcast (R40): where it stands, its 16 bytes, whether the lead took a conflict beat before
it, and the planes that issue at its offset (R41). -/
structure Broadcast where
  addr   : Nat
  word   : Bundle
  conf   : Bool
  planes : List Nat
  deriving DecidableEq, Repr

/-- The factors of a warp's stretch in a beat (R25): passes, streams, streams without the second path's, split. -/
structure Stretch where
  p      : Nat
  n      : Nat
  planes : Nat
  f      : Nat
  deriving DecidableEq, Repr

/-- A gang (R40 to R42): members by index, skew, each member's own beats since the rendezvous, which members have left,
the lead's control decisions and its bundles in order with how many of them each member has used; how many requests of the gang have
been granted or withdrawn, how many MRES each member has executed, and the members whose MRES waits (R248); `round` the members that have
taken the gang's present beat, each with its stretch and whether it was a conflict beat (R40, R419); `ahead` how the members come to the
bundle that the lead takes in its beat of that number (R41, log 19). -/
structure Gang where
  team    : Nat
  members : List Nat
  skew    : Nat
  beats   : List Nat
  left    : List Nat
  decided : List (Bool × Nat)
  used    : List Nat
  bundles : List Broadcast
  read    : List Nat
  grants  : Nat
  asked   : List Nat
  mres    : List Nat
  round   : List (Nat × Stretch × Bool) := []
  ahead   : Nat × Map Warp := (0, [])
  deriving DecidableEq, Repr

/-- A team (R13, R86): one task instance on one cluster. `flushing` says that a FLUSH.team of its warps has issued and is not applied
(R220). -/
structure Team where
  node    : Nat
  ctx     : Nat
  index   : Nat
  cluster : Nat
  warps   : Nat
  cores   : Nat
  lima    : Nat
  limb    : Nat
  baseA   : Nat
  baseB   : Nat
  ntiles  : Nat
  nqueues : Nat
  ended   : List Nat
  tiles   : Map Tile
  queues  : Map Queue
  bars    : Map Barrier
  lease   : Option Lease
  rdv     : List GangArrival
  flushing : Bool
  deriving DecidableEq, Repr

/-- The seven copies (R228). -/
inductive CopyOp where
  | cpy | cpyin | cpyout | cpyr | cpym | cpyat | cpyz
  deriving DecidableEq, Repr

/-- One side of a copy: a global address, or a team offset. -/
structure CopySide where
  scratch : Bool
  base    : Nat
  deriving DecidableEq, Repr

/-- What a copy keeps of its source between two units, since it reads each word once (R96, R230): how many blocks or records it has read,
the next group of the block in hand, and the bytes in hand with their poison: an unpack's block, the record that begins a pack's next
block, the rest of a plain copy's last source word. -/
structure CopyHold where
  remote : Bool
  srcAt : Nat
  grp   : Nat
  held  : List (Byte × Bool)
  deriving DecidableEq, Repr

/-- A copy command in progress (R228 to R236). `misses` is the page whose walk it waits for, `ffault` holds the walks that faulted (R401).
-/
structure Copy where
  op      : CopyOp
  warp    : Nat
  team    : Nat
  node    : Nat
  ctx     : Nat
  teamw   : Nat
  seq     : Nat
  flag    : Option Nat
  ord     : Bool
  pc      : Nat
  cidx    : Nat
  plane   : Nat
  path    : Nat
  vbeat   : Nat
  mode    : Nat
  scope   : Nat
  tile    : Option Nat
  qfmt    : Nat
  sig     : Nat
  len     : Nat
  src     : Option CopySide
  dst     : CopySide
  targets : List Nat
  launch  : Option Nat
  waits   : List Nat
  order   : Nat
  started : Bool
  doneW   : Nat
  hold    : CopyHold
  misses  : List Nat
  ffault  : List (Nat × Nat × Nat)
  fault   : Option TrapRec
  live    : Bool
  hits    : List Nat
  exs     : Nat
  deriving DecidableEq, Repr

/-- A range-lock entry (R83). -/
structure RangeLock where
  copy  : Nat
  team  : Nat
  ctx   : Nat
  tindex : Nat
  teamw : Nat
  seq   : Nat
  flag  : Option Nat
  scratch : Bool
  write : Bool
  base  : Nat
  len   : Nat
  order : Nat
  deriving DecidableEq, Repr

/-- One accumulator (R137 to R139): the integer sum of truncated products, the exact sum in units of 2^-2048, and what
its products have shown: a NaN, an invalid product, infinities, lost bits, an overflowing product, a poison mark. -/
structure Acc where
  sum   : Int
  exact : Int
  nan   : Bool
  inval : Bool
  pinf  : Bool
  ninf  : Bool
  lost  : Bool
  bigP  : Nat
  bigN  : Nat
  mark  : Bool
  deriving DecidableEq, Repr

/-- An accumulator slot (R241, R245, R246): its anchor, accumulators (row by row; an empty list is all zero), its
results after the close, who owns it, how often it was popped. -/
structure AccSlot where
  anchor  : Option Int
  acc     : List Acc
  results : List (Word × Bool)
  ready   : Bool
  closed  : Bool
  begun   : Bool
  pops    : Nat
  deriving DecidableEq, Repr

/-- A 32-byte row segment as the matrix engine has read it: its bytes, and the offsets of its poisoned words (R113, R242). -/
structure Segment where
  bytes : List Byte
  bad   : List Nat
  deriving DecidableEq, Repr

/-- A queued MSTEP (R242). `done` counts the k-units taken; `rows` are the segments of rows 0 to 15 of the two tiles once a read beat has
read them and that of rows 16 to 31 is still to come (R243). -/
structure MStep where
  team  : Nat
  ta    : Nat
  tb    : Nat
  k     : Nat
  done  : Nat
  rows  : List (Segment × Segment)
  seq   : Nat
  pc    : Nat
  cidx  : Nat
  plane : Nat
  path  : Nat
  deriving DecidableEq, Repr

/-- The CHE that closed a chain (R244): its flag and its place in logical order (R51). -/
structure Che where
  flag  : Nat
  vbeat : Nat
  plane : Nat
  path  : Nat
  cidx  : Nat
  seq   : Nat
  deriving DecidableEq, Repr

/-- A chain of one warp (R241): its slot, its queued steps, k-elements named so far, the CHE that closes it. `credit` is what is left of
the engine beat that the owner's last beat lets the engine take, in quarters (R241, log 24); `shut` says that its results are delivered and
only the flag of its CHE.g waits for the other members (R248). -/
structure Chain where
  warp    : Nat
  slot    : Nat
  steps   : List MStep
  kelems  : Nat
  credit  : Nat
  che     : Option Che
  group   : Bool
  shut    : Bool
  deriving DecidableEq, Repr

/-- A request of the matrix reservation table (R240). -/
structure MresReq where
  warp   : Nat
  gang   : Option Nat
  flag   : Nat
  tokens : Nat
  order  : Nat
  deriving DecidableEq, Repr

/-- A pending MDEP (R246). -/
structure Mdep where
  id    : Nat
  warp  : Nat
  team  : Nat
  tile  : Nat
  slot  : Nat
  flag  : Nat
  deriving DecidableEq, Repr

/-- The matrix engine of a cluster (R240 to R248): its owner as the warps that hold it. -/
structure Matrix where
  owners : List Nat
  mrt    : List MresReq
  slots  : Map AccSlot
  chains : List Chain
  popOf  : Map Nat
  mdeps  : List Mdep
  deriving DecidableEq, Repr

/-- One cluster (R76, R77, R83, R432, R433, R454). -/
structure Cluster where
  present  : Bool
  cores    : Nat
  clp      : Nat
  hold4    : Bool
  ones     : Nat
  pat      : BitVec 16
  clampAt  : Option Nat
  sourceAt : Option Nat
  margin   : Int
  locks    : List RangeLock
  copies   : Map Copy
  matrix   : Matrix
  tlb      : List TlbEntry
  units    : Map Nat
  busy     : Map Nat
  deriving DecidableEq, Repr

/-! ### Contexts and nodes -/

/-- A context (R370, R384, R415, R452). The debug page's fields are its doublewords 0x000 to 0x138. -/
structure Context where
  slot     : Nat
  root     : Nat
  keyid    : Nat
  dbg      : Bool
  detreq   : Bool
  hentry   : Nat
  route    : BitVec 128
  wdlim    : Nat
  tokmax   : Nat
  drainlim : Nat
  savebase : Nat
  dovf     : Nat
  dovflen  : Nat
  nodeq    : Nat
  fpte     : Nat
  stride   : Nat
  events   : BitVec 256
  gdead    : Nat
  energy   : Nat
  esat     : Bool
  savegen  : Nat
  page     : Map DWord
  drop     : Nat
  head     : Nat
  ddone    : Bool
  derr     : Bool
  pages    : List Nat
  tables   : List Nat
  stackNo  : Nat
  deriving DecidableEq, Repr

/-- The stages of a node (R383 to R389, R362 to R366). -/
inductive NodeStage where
  | waiting | ready | running | draining (mark : Nat) | saving (deadline : Nat) (switchOut : Bool) | switched
  deriving DecidableEq, Repr

/-- The first occurrence of an exception flag in logical order (R51, R387). -/
structure Occurrence where
  tindex : Nat
  teamw  : Nat
  vbeat  : Nat
  plane  : Nat
  path   : Nat
  flag   : Nat
  cmd    : Nat
  cidx   : Nat
  seq    : Nat
  deriving DecidableEq, Repr

/-- A saved task (R364): its warps, teams, deferred entries, copies and pass state as they were sealed, with the trap frame of each warp;
the length of its image after the seal, and the seal's digest. -/
structure SavedTask where
  gen     : Nat
  size    : Nat
  digest  : List Byte
  saveGtc : Nat
  warps   : List (Nat × Nat × Warp)
  frames  : List (List Byte) := []
  teams   : List (Nat × Team)
  copies  : List (Nat × Copy)
  locks   : List (Nat × RangeLock)
  dacc    : List (Nat × Dacc)
  passes  : List (Nat × Matrix)
  gangs   : List (Nat × Gang)
  sram    : List (Nat × Nat × Byte)
  ecc     : List (Nat × Nat × Ecc)
  deriving DecidableEq, Repr

/-- A task node of the HTS (R382 to R388). `flushing` says that a FLUSH.task of its warps has issued and is not applied (R220); `causer`
is the newcomer that pre-empted it last, its context and handle (R362, R451). -/
structure Node where
  ctx      : Nat
  code     : Nat
  tok      : Nat
  rank     : Nat
  fgrp     : Nat
  nq       : Nat
  nt       : Nat
  lima     : Nat
  limb     : Nat
  cm1      : Nat
  wm1      : Nat
  clus     : Nat
  det      : Bool
  ckpt     : Bool
  kill     : Bool
  est      : Nat
  pred     : Nat
  stk      : Nat
  entry    : Nat
  tframe   : Nat
  crec     : Nat
  succ     : List Nat
  wait     : BitVec 256
  set      : BitVec 256
  args     : List DWord
  stage    : NodeStage
  readyAt  : Nat
  readyNo  : Nat
  eff      : Nat
  clusters : List Nat
  overdec  : Bool
  exs      : Nat
  first    : Option Occurrence
  issx     : Bool
  energy   : Nat
  dispGtc  : Nat
  jseq     : Nat
  status   : Option Nat
  saveslot : Nat
  saved    : Option SavedTask
  counts   : Map Nat
  flushing : Bool
  causer   : Option (Nat × Nat)
  deriving DecidableEq, Repr

/-- A node post that the HTS has yet to decide (R255, R375, R383). -/
structure PostReq where
  ctx   : Nat
  va    : Nat
  die   : Nat
  jseq  : Nat
  warp  : Option (Nat × Nat)
  deriving DecidableEq, Repr

/-- An outstanding miss (R401): the die, context and page, and the warps and copies that wait for its walk. -/
structure Miss where
  die   : Nat
  ctx   : Nat
  page  : Nat
  deriving DecidableEq, Repr

/-- An open episode of FLUSH.dev (R220): context, flush group, and the tasks that take part. -/
structure Episode where
  ctx    : Nat
  fgrp   : Nat
  nodes  : List Nat
  deriving DecidableEq, Repr

/-- A sprint request that the PCC has yet to decide (R293, R438). -/
structure SprintReq where
  warp : Nat
  team : Nat
  want : Nat
  reg  : Nat
  flag : Nat
  nt   : Bool
  ticket : Option (Nat × Nat)
  deriving DecidableEq, Repr

/-- A health-log record (R463). -/
structure Health where
  cls    : Nat
  kind   : Nat
  struct : Nat
  pa     : Nat
  gtc    : Nat
  name   : Nat
  keyid  : Nat
  ctx    : Nat
  detail : Nat
  deriving DecidableEq, Repr

/-- A key slot that is not empty (R406): loaded with the key pair of a draw of the device's random bit generator, or being emptied. -/
inductive KeySlot where
  | loaded (draw : Nat) | retiring
  deriving DecidableEq, Repr

/-- The execution part of the package: memory, clusters, cores, warps, teams, contexts, the HTS and the health log. `clock` counts the
cycles of the master clock (R432); `draws` the keys drawn (R406); `retry` holds the operations that move from a failed port, by number, with
the port and their lines (R392). `tick` numbers free values, operations and orders of beginning (log 4). `pod` is the pod id that Pumal
learns with PKG (R390); nothing else reads it. -/
structure Mach where
  mem      : Memory
  ecc      : Map Ecc
  warps    : Map Warp
  cores    : Map Core
  clusters : Map Cluster
  teams    : Map Team
  gangs    : Map Gang
  ctxs     : Map Context
  nodes    : Map Node
  gens     : Map Nat
  posts    : List PostReq
  episodes : List Episode
  misses   : List Miss
  tlb0     : List TlbEntry
  tlb1     : List TlbEntry
  keys     : Map KeySlot
  draws    : Nat
  retry    : Map (Nat × List Nat)
  ports    : List Nat
  pkg      : Nat
  pod      : Nat
  pagenext : Nat
  pinned   : List Nat
  lastctx  : Nat
  sprints  : List SprintReq
  health   : List Health
  healthNo : Nat
  errs     : Nat × Nat
  clock    : Nat
  tick     : Nat
  deriving DecidableEq, Repr

/-! ### The device around the clusters -/

/-- Host-slot state (R372 to R376, R471). `fseq` is one above the last accepted frame's FSEQ, `hseq` one above the highest journalled
HSEQ; 0 says that there was none. -/
structure HostSlot where
  secret  : Option (List Byte)
  session : Nat
  key     : List Byte
  nonce   : List Byte
  fseq    : Nat
  hseq    : Nat
  staging : Memory
  windows : Map (Nat × Nat × Nat)
  deriving DecidableEq, Repr

/-- A journal entry (R377). -/
structure JEntry where
  jseq   : Nat
  hseq   : Nat
  state  : Nat
  slot   : Nat
  kind   : Nat
  ctx    : Nat
  accGtc : Nat
  chgGtc : Nat
  digest : List Byte
  result : Nat
  handle : Nat
  epoch  : Nat
  deriving DecidableEq, Repr

/-- What the device sends out of its Ethernet port or its management port (R376, R443, R465): `count` items one after another. -/
structure OutFrame where
  slot    : Nat
  count   : Nat
  typ     : Nat
  session : Nat
  fseq    : Nat
  item    : List Byte
  tag     : List Byte
  deriving DecidableEq, Repr

/-- A daily wear entry (R461): its 128 bytes as fields. -/
structure WearEntry where
  day    : Nat
  epoch  : Nat
  margin : Int × Int
  gb     : Nat × Nat
  energy : Nat
  lease  : Nat
  freeze : Nat
  errs   : Nat × Nat
  temp   : Nat
  clamps : Nat
  marked : Nat
  config : List Byte
  chain  : List Byte
  deriving DecidableEq, Repr

/-- What the management controller reports (R410, R467): a hold-up that is too short, in µs; a die that stays in recovery. -/
inductive Report where
  | holdup (us : Nat) | recovery (die : Nat)
  deriving DecidableEq, Repr

/-- The time receiver (R446, R447). `foreign` holds the last Announce of every transmitter with the count of the clock at which it came,
`sent` the Delay_Req messages that have gone out: sequence number and domain; `part` is the fraction of the GTC in 10^-9 ns. -/
structure Ptp where
  source  : Option Announce
  foreign : List (Announce × Nat)
  sent    : List (Nat × Nat)
  part    : Nat
  lastSync : Nat
  t1      : Option Nat
  t2      : Option Nat
  t3      : Option Nat
  seqId   : Nat
  dseq    : Nat
  lock    : Bool
  hold    : Bool
  good    : Nat
  offs    : Int
  measured : Bool
  slew    : Int
  domain  : Nat
  deriving DecidableEq, Repr

/-- The power and clock controller (R430 to R439, R450, R452). Energies of the store in 10 nJ; `pending` holds what the estimates
of this millisecond give each node, 0 standing for the system, `early` what of them has been charged before the scale, `frac` the fractions
of a unit that the accounts carry, `owed` the context of a node that is gone and the one that caused its save. `amps`, `load` and `droops`
are what the sensors show: the dies' currents in A, the package's load in W, the clusters whose supply droops. `shaped` is the ballast in
mW, `ballast` the launches it is for, each with the GTC at which it was noted. -/
structure Pcc where
  bstep  : Nat
  sso    : Nat
  ramp   : Nat
  balen  : Bool
  sust   : Nat
  sustSaved : Option Nat
  ilim   : Nat
  ceil   : Nat
  susw   : Nat
  qc     : Nat
  e      : Nat
  melt   : Nat
  rfz    : Bool
  syse   : Nat
  bale   : Nat
  frac   : Map Nat
  pending : Map Nat
  early  : Nat
  owed   : Map (Nat × Nat)
  pendAt : Nat
  ballast : List (Nat × Nat)
  shaped : Nat
  power  : Nat
  amps   : Nat × Nat
  load   : Nat
  droops : List Nat
  deriving DecidableEq, Repr

/-- Wear, guard-band and configuration (R454 to R462); `removed` are the units that the last boot deconfigured. -/
structure Wear where
  gb      : Nat × Nat
  wcl     : Nat × Nat
  wmar    : Int × Int
  above   : Nat × Nat
  stepAt  : Nat × Nat
  entries : List WearEntry
  pending : List LostUnit
  removed : List LostUnit
  headDay : Nat
  headChain : List Byte
  headSig : List Byte
  lastDay : Nat
  today   : WearEntry
  grade   : Nat
  cl0     : Nat
  cl1     : Nat
  t3      : Nat
  mp      : Nat
  spl     : Nat
  deriving DecidableEq, Repr

/-- The package's supply (R440): on, off after the sequence, or held in reset for a hold-up that is too short (R467). -/
inductive Supply where
  | on | off | held
  deriving DecidableEq, Repr

/-- The checkpoint marker (R442). -/
structure Marker where
  epoch   : Nat
  head    : Nat
  gtc     : Nat
  dirty   : Nat
  remote  : Bool
  flushed : Bool
  hash    : List Byte
  deriving DecidableEq, Repr

/-- The device part of the package. `mailbox` holds the items of accepted frames that Pumal has yet to handle, a frame and an item
number each (R374); `records` keeps the completion records of POSTs by JSEQ; `traps` are the faults that Pumal's own register writes have
raised to it, the newest first: code and value (R402); `cert` is the certificate in non-volatile storage (R411). -/
structure Dev where
  gtc      : Nat
  ptp      : Ptp
  pcc      : Pcc
  slots    : Map HostSlot
  journal  : List JEntry
  jhead    : Nat
  records  : Map (List Byte)
  boots    : Nat
  mailbox  : List (Frame × Nat)
  out      : List OutFrame
  outNo    : Nat
  dropped  : Nat
  wear     : Wear
  mr0      : List Byte
  mr1      : List Byte
  mr0b     : List Byte
  mr1b     : List Byte
  mgmt     : List OutFrame
  mgmtNo   : Nat
  reports  : List Report
  cert     : List Byte
  recovery : Bool × Bool
  supply   : Supply
  marker   : Option Marker
  tlbiCtl  : DWord
  tlbiRng  : DWord
  sessions : Nat
  traps    : List (Nat × DWord)
  deriving DecidableEq, Repr

/-! ### Inputs and the issue stage -/

/-- What the outside world supplies with the events whose rows take no argument, in order of arrival. Units: temperatures in 0.1 °C, flow
in 0.01 L/min, hold-up in µs, power in W, store energies in 10 nJ, other energies in 2^-20 J, margins in ps, PTP times in ns, the rates to
which the eight memory stacks are trained in Mb/s per pin. `margins` gives the slacks of the eight sensors of each cluster, the common ones
where a cluster is not listed. -/
inductive Input where
  | frame (f : Frame)
  | sync (src seqId domain t1 : Nat) (twoStep : Bool)
  | followUp (src seqId domain t1 : Nat)
  | delayResp (src seqId domain t4 : Nat)
  | announce (m : Announce)
  | images (standby : Bool) (holdup : Nat) (d0 d1 : DieImage) (lost : List LostUnit) (pkg pod : Nat) (rates : List Nat)
  | coolant (tin flow : Nat)
  | margins (common : List Int) (others : Map (List Int))
  | power (w : Nat)
  | thermistor (eth lid : Nat)
  | energies (clusters tasks saves : List (Nat × Nat)) (system ballast : Nat)
  | measured (e : Nat)
  | scrub (loc : ScrubLoc)
  | mgmt (f : Frame)
  | secret (slot : Nat) (hs : List Byte)
  | remote (key : Nat) (req : RemoteReq)
  | error (t : ErrTarget)
  deriving DecidableEq, Repr

/-- A move of the outside world: an event, the passing of real time, a beat of a core's selected warp, an error that arises in a store, what
the current, power and droop sensors come to show (A, W, clusters). -/
inductive Move where
  | event (i : Instr)
  | elapse (ns : Nat)
  | issue (core : Nat)
  | strike (e : MemError)
  | sense (amps : Nat × Nat) (load : Nat) (droops : List Nat)
  deriving DecidableEq, Repr

/-- The bundle at the issue stage (R145): the warp, the path and plane of its stream, its gap, sync mark and broadcast
number, and the LIMM of its X slot. -/
structure Cur where
  warp  : Nat
  path  : Nat
  plane : Nat
  gap   : Nat
  sync  : Bool
  b     : Nat
  limm  : Option (BitVec 22)
  deriving DecidableEq, Repr

/-- The whole state. `agenda` orders what the outside world does next; `turn` is the core that issues when it is empty;
`cur` is the issue stage. -/
structure State where
  mach   : Mach
  dev    : Dev
  inputs : List Input
  agenda : List Move
  turn   : Nat
  cur    : Option Cur
  deriving DecidableEq, Repr

/-! ### Why a step can stop -/

/-- The reasons a step stops with a fault. -/
inductive Fault where
  /-- Raised by every meaning of a bundle operation when no warp stands at the issue stage: there is then nothing the
  operation could act on. Safe: the machine stops where the hardware has nothing to do. -/
  | noIssuingWarp
  deriving DecidableEq, Repr

/-- The reasons a step is refused. -/
inductive Refusal where
  /-- Raised by the arm of an instruction that has no meaning yet. Safe: nothing is claimed of it. -/
  | notModelled (mnemonic : String)
  deriving DecidableEq, Repr

/-! ### The state after reset -/

/-- An empty latch or whitewashed register (R57, R80). -/
def VReg.zero : VReg := { lanes := Lanes.zero, marks := 0#64 }

/-- A copy that has read nothing. -/
def CopyHold.none : CopyHold := { remote := false, srcAt := 0, grp := 0, held := [] }

/-- A copy before its start, as its replay begins it (R360). -/
def Copy.rewound (c : Copy) : Copy :=
  { c with fault := .none, started := false, doneW := 0, hold := CopyHold.none, misses := [], ffault := [], hits := [], exs := 0 }

/-- A bank with every latch empty (R57). -/
def Bank.empty : Bank :=
  { v1 := VReg.zero, v2 := VReg.zero, v3 := VReg.zero, m1 := VReg.zero, m2 := VReg.zero, x1 := VReg.zero }

/-- A scalar that reads 0 without a mark. -/
def SReg.zero : SReg := { value := 0#64, mark := false }

/-- A flag as at dispatch: set, record 0 (R80). -/
def FlagRec.atDispatch : FlagRec := { set := true, pend := false, seq := 0, plane := 0, cidx := 0, instant := 0 }

/-- A matrix engine that nobody holds (R240). -/
def Matrix.free : Matrix := { owners := [], mrt := [], slots := [], chains := [], popOf := [], mdeps := [] }

/-- A core after reset: every slice and both ports in service (R75, R458), no warp, eight spare chunks (R46). -/
def Core.atReset : Core :=
  { slotmap := 0x2f#64, written := true, selected := none, spare := 8, sampledTo := 0, l1 := [], tlb := [], dacc := [] }

/-- A cluster after reset: pass count 1 (log 14), clock gated since no warp is resident (R432), nothing held. -/
def Cluster.atReset : Cluster :=
  { present := true, cores := 4, clp := 1, hold4 := false, ones := 0, pat := 0#16, clampAt := none
    sourceAt := none, margin := 100, locks := [], copies := [], matrix := Matrix.free, tlb := [], units := []
    busy := [] }

/-- The clusters of a whole package (R432, R459). -/
def clusterNumbers : List Nat := List.range 512

/-- The package's execution part after reset: every cluster and core whole, no warp, no context, key slot 0 loaded
(R406), every port up, memory with nothing listed. -/
def Mach.atReset : Mach :=
  { mem := [], ecc := [], warps := []
    cores := []
    clusters := []
    teams := [], gangs := [], ctxs := [], nodes := [], gens := [], posts := [], episodes := [], misses := []
    tlb0 := [], tlb1 := [], keys := [(0, .loaded 0)], draws := 1, retry := [], ports := List.range 32, pkg := 0, pod := 0, pagenext := 0, pinned := [], lastctx := 0, sprints := []
    health := [], healthNo := 0, errs := (0, 0), clock := 0, tick := 0 }

/-- The time receiver after reset (R448). -/
def Ptp.atReset : Ptp :=
  { source := none, foreign := [], sent := [], part := 0, lastSync := 0, t1 := none, t2 := none, t3 := none, seqId := 0, dseq := 0, lock := false, hold := false
    good := 0, offs := 0, measured := false, slew := 0, domain := 0 }

/-- The PCC after reset (R430, R431, R435, R452). -/
def Pcc.atReset : Pcc :=
  { bstep := 0, sso := 0, ramp := 64, balen := false, sust := 11, sustSaved := none, ilim := 2400, ceil := 3400
    susw := 2200, qc := 2600, e := 0, melt := 0, rfz := false, syse := 0, bale := 0, frac := [], pending := [], early := 0, owed := [], pendAt := 0
    ballast := [], shaped := 0, power := 0, amps := (0, 0), load := 0, droops := [] }

/-- A wear entry with nothing in it. -/
def WearEntry.none : WearEntry :=
  { day := 0, epoch := 0, margin := (32767, 32767), gb := (0, 0), energy := 0, lease := 0, freeze := 0, errs := (0, 0)
    temp := 0, clamps := 0, marked := 0, config := [], chain := [] }

/-- Wear state of a new whole package: guard-band 0, HLTH.CFG as the Reset column of R460 has it, until a boot reports (log 65). -/
def Wear.atReset : Wear :=
  { gb := (0, 0), wcl := (0, 0), wmar := (0, 0), above := (0, 0), stepAt := (0, 0), entries := [], pending := []
    removed := [], headDay := 0, headChain := [], headSig := [], lastDay := 0, today := WearEntry.none, grade := 0
    cl0 := 0, cl1 := 0, t3 := 0, mp := 0, spl := 0 }

/-- The device after its first cold boot: GTC 0, boot count 1, empty journal (R381, R445). -/
def Dev.atReset : Dev :=
  { gtc := 0, ptp := Ptp.atReset, pcc := Pcc.atReset, slots := [], journal := [], jhead := 0, records := [], boots := 1, mailbox := []
    out := []
    outNo := 0, dropped := 0, wear := Wear.atReset, mr0 := List.replicate 64 0#8, mr1 := List.replicate 64 0#8
    mr0b := List.replicate 64 0#8, mr1b := List.replicate 64 0#8, mgmt := [], mgmtNo := 0, reports := [], cert := []
    recovery := (false, false), supply := .on, marker := none, tlbiCtl := 0#64
    tlbiRng := 0#64, sessions := 0, traps := [] }

/-- The machine right after reset: a whole package after its first cold boot, with no context and no warp. Clusters and
cores are listed only where they differ from their reset value. -/
def State.reset : State :=
  { mach := Mach.atReset, dev := Dev.atReset, inputs := [], agenda := [], turn := 0, cur := none }

end Sys2Proof.Machine
end

