-- ==== Sys2Proof/Machine/Xts.lean ====
section
/-!
DEFINITION. XTS-AES-256 (IEEE 1619 over FIPS 197), under which the HBM controllers hold a line (R405). A data unit is one line of 128
bytes, and its tweak is the line's number.
-/

namespace Sys2Proof.Machine

/-! ### The block cipher -/

/-- Twice an element of the field of 256 elements. -/
def aesTwice (b : Byte) : Byte := (b <<< 1) ^^^ (if b.getLsbD 7 then 0x1b#8 else 0#8)

/-- The product in the field, over the bits of the second factor from `n` down. -/
def aesMul (a b : Byte) : Nat → Byte
  | 0 => 0#8
  | n + 1 => aesTwice (aesMul a b n) ^^^ (if b.getLsbD (7 - n) then a else 0#8)

def aesTimes (a b : Byte) : Byte := aesMul a b 8

/-- The inverse in the field: the 254th power. -/
def aesInverse (a : Byte) : Byte :=
  let sq (x : Byte) : Byte := aesTimes x x
  (List.range 6).foldl (fun (x, p) _ => (aesTimes x (sq p), sq p)) (sq a, sq a) |>.1

/-- The substitution of a byte, and back. -/
def aesSub (b : Byte) : Byte :=
  let i := aesInverse b
  i ^^^ i.rotateLeft 1 ^^^ i.rotateLeft 2 ^^^ i.rotateLeft 3 ^^^ i.rotateLeft 4 ^^^ 0x63#8
def aesUnsub (b : Byte) : Byte := aesInverse (b.rotateLeft 1 ^^^ b.rotateLeft 3 ^^^ b.rotateLeft 6 ^^^ 0x05#8)

def xorBytes (a b : List Byte) : List Byte := (a.zip b).map fun (x, y) => x ^^^ y

/-- The words of the key schedule from a 32-byte key, the newest first: 60 in all. -/
def aesSchedule : Nat → List (List Byte) → List (List Byte)
  | 0, ws => ws
  | n + 1, ws =>
    let i := ws.length
    let last := ws.headD []
    let t :=
      if i % 8 = 0 then
        xorBytes (((last.drop 1) ++ last.take 1).map aesSub) [(List.range (i / 8 - 1)).foldl (fun b _ => aesTwice b) 1#8, 0#8, 0#8, 0#8]
      else if i % 8 = 4 then last.map aesSub
      else last
    aesSchedule n (xorBytes (ws.getD 7 []) t :: ws)

/-- The 15 round keys. -/
def aesRoundKeys (key : List Byte) : List (List Byte) :=
  let first := ((List.range 8).map fun i => (key.drop (4 * i)).take 4).reverse
  let ws := (aesSchedule 52 first).reverse
  (List.range 15).map fun r => ((ws.drop (4 * r)).take 4).flatten

/-- Row `r` of a block moves by `s r` columns. -/
def aesShift (s : Nat → Nat) (b : List Byte) : List Byte :=
  (List.range 16).map fun i => b.getD ((4 * (i / 4) + 4 * s (i % 4) + i % 4) % 16) 0#8

/-- Each column times a fixed one. -/
def aesMix (k : List Byte) (b : List Byte) : List Byte :=
  (List.range 16).map fun i =>
    (List.range 4).foldl (fun x j => x ^^^ aesTimes (b.getD (4 * (i / 4) + j) 0#8) (k.getD ((j + 4 - i % 4) % 4) 0#8)) 0#8

/-- One block encrypted under round keys. -/
def aesEncrypt (ks : List (List Byte)) (b : List Byte) : List Byte :=
  let round (x : List Byte) : List Byte := aesShift id (x.map aesSub)
  let x := ((ks.drop 1).take 13).foldl (fun x k => xorBytes (aesMix [2#8, 3#8, 1#8, 1#8] (round x)) k) (xorBytes b (ks.headD []))
  xorBytes (round x) (ks.getD 14 [])

/-- One block decrypted under round keys. -/
def aesDecrypt (ks : List (List Byte)) (b : List Byte) : List Byte :=
  let round (x : List Byte) : List Byte := (aesShift (fun r => 4 - r) x).map aesUnsub
  let x := (((ks.drop 1).take 13).reverse).foldl
    (fun x k => aesMix [14#8, 11#8, 13#8, 9#8] (xorBytes (round x) k)) (xorBytes b (ks.getD 14 []))
  xorBytes (round x) (ks.headD [])

/-! ### A line -/

/-- The bytes of a line in HBM. -/
def lineBytes : Nat := 128

/-- The tweak of each of the eight blocks of a line, by its number (R405). -/
def xtsTweaks (key2 : List Byte) (line : Nat) : List (List Byte) :=
  let first : BitVec 128 := ofLe 128 (aesEncrypt (aesRoundKeys key2) (leBytes 16 (BitVec.ofNat 128 line)))
  let next (t : BitVec 128) : BitVec 128 := (t <<< 1) ^^^ (if t.getLsbD 127 then 0x87#128 else 0#128)
  (List.range 8).map fun i => leBytes 16 ((List.range i).foldl (fun t _ => next t) first)

/-- A line through a block function under a pair of keys. -/
def xtsLine (f : List (List Byte) → List Byte → List Byte) (keys : List Byte × List Byte) (line : Nat) (bs : List Byte) : List Byte :=
  let ks := aesRoundKeys keys.1
  ((xtsTweaks keys.2 line).zip (List.range 8)).flatMap fun (t, i) => xorBytes (f ks (xorBytes ((bs.drop (16 * i)).take 16) t)) t

/-- The ciphertext of a line's plaintext, and back. -/
def xtsEncrypt (keys : List Byte × List Byte) (line : Nat) (bs : List Byte) : List Byte := xtsLine aesEncrypt keys line bs
def xtsDecrypt (keys : List Byte × List Byte) (line : Nat) (bs : List Byte) : List Byte := xtsLine aesDecrypt keys line bs

end Sys2Proof.Machine
end

