-- ==== Sys2Proof/Machine/Ops.lean ====
section
/-!
DEFINITION. The named operations over the state: objects, registers, flags, streams, the end of a beat, memory words
with their error marks, translation, queues, the health log, and taking and leaving a trap (R53 to R70, R110 to R116,
R348 to R361, R395 to R401).
-/

namespace Sys2Proof.Machine

/-! ### Objects by key -/

def clusterOf (warp : Nat) : Nat := warp / 16
def coreOf (warp : Nat) : Nat := warp / 4
def hwOf (warp : Nat) : Nat := warp % 4
def dieOf (cluster : Nat) : Nat := cluster / 256

def getWarp? (m : Mach) (k : Nat) : Option Warp := mapGet? m.warps k
def setWarp (m : Mach) (k : Nat) (w : Warp) : Mach := { m with warps := mapPut m.warps k w }
def updWarp (m : Mach) (k : Nat) (f : Warp → Warp) : Mach :=
  match getWarp? m k with
  | some w => setWarp m k (f w)
  | none => m
def getCore (m : Mach) (c : Nat) : Core := mapGetD m.cores c Core.atReset
def updCore (m : Mach) (c : Nat) (f : Core → Core) : Mach :=
  { m with cores := mapSetD m.cores c Core.atReset (f (getCore m c)) }
def getCluster (m : Mach) (c : Nat) : Cluster := mapGetD m.clusters c Cluster.atReset
def updCluster (m : Mach) (c : Nat) (f : Cluster → Cluster) : Mach :=
  { m with clusters := mapSetD m.clusters c Cluster.atReset (f (getCluster m c)) }
def getTeam? (m : Mach) (t : Nat) : Option Team := mapGet? m.teams t
def updTeam (m : Mach) (t : Nat) (f : Team → Team) : Mach := { m with teams := mapUpd m.teams t f }
def getCtx? (m : Mach) (c : Nat) : Option Context := mapGet? m.ctxs c
def updCtx (m : Mach) (c : Nat) (f : Context → Context) : Mach := { m with ctxs := mapUpd m.ctxs c f }
def getNode? (m : Mach) (n : Nat) : Option Node := mapGet? m.nodes n
def updNode (m : Mach) (n : Nat) (f : Node → Node) : Mach := { m with nodes := mapUpd m.nodes n f }

/-- The next number of the machine's counter. -/
def bump (m : Mach) : Mach := { m with tick := m.tick + 1 }

/-- A core that survives: its cluster is present and counts it (R457). -/
def corePresent (m : Mach) (c : Nat) : Bool :=
  let cl := getCluster m (c / 4)
  cl.present && c / 4 < 512 && c % 4 < cl.cores

/-- The context's trap route, debuggable bit and trap enables of a warp. -/
def ctxOf (m : Mach) (w : Warp) : Option Context := getCtx? m w.ctx

/-- The task's deterministic flag (R72). -/
def detOf (m : Mach) (w : Warp) : Bool := (getNode? m w.node).elim false (·.det)

/-- The task-relative team index of a team key. -/
def teamIndex (t : Nat) : Nat := t % 512

/-- A key slot holds a key pair (R406). -/
def keyLoaded (m : Mach) (slot : Nat) : Bool := match mapGet? m.keys slot with
  | some (.loaded _) => true
  | _ => false

/-! ### The health log (R463) -/

/-- Write a health-log record; the ring keeps the newest 65,536. Memory errors are counted for the wear entry (R461). -/
def logHealth (m : Mach) (h : Health) : Mach :=
  let errs := if h.cls != 1 then m.errs else if h.kind = 0 then (m.errs.1 + 1, m.errs.2) else (m.errs.1, m.errs.2 + 1)
  { m with health := (h :: m.health).take 65536, healthNo := m.healthNo + 1, errs := errs }

/-- A record of class and kind with a detail. -/
def healthOf (cls kind detail : Nat) : Health :=
  { cls := cls, kind := kind, struct := 0, pa := 0, gtc := 0, name := 0, keyid := 0, ctx := 0, detail := detail }

/-! ### Registers (R53, R57, R62) -/

/-- The lanes of `new` under a mask, those of `old` elsewhere (R53). -/
def mergeLanes (mask : DWord) (old new : Lanes) : Lanes :=
  Lanes.ofLane fun l => if maskBit mask l then new.at l else old.at l

def getV (w : Warp) (n : Nat) : VReg := mapGetD w.v n VReg.zero
/-- Write the lanes of a mask; a new value clears or sets the lane's poison mark (R53, R114). -/
def putV (w : Warp) (n : Nat) (mask : DWord) (data : Lanes) (marks : DWord) : Warp :=
  let r := getV w n
  let r' : VReg := { lanes := mergeLanes mask r.lanes data, marks := (r.marks &&& ~~~mask) ||| (marks &&& mask) }
  { w with v := mapSetD w.v n VReg.zero r'
           prods := w.prods.filter fun (i, _) => !(i / 64 = n && maskBit mask (i % 64)) }

/-- Scalar `n`: s0 reads 0 (R62). -/
def getS (w : Warp) (n : Nat) : SReg := if n = 0 then SReg.zero else mapGetD w.s n SReg.zero
/-- Write scalar `n`: s0 discards (R62). -/
def putS (w : Warp) (n : Nat) (v : DWord) (mark : Bool) : Warp :=
  if n = 0 then w
  else { w with s := mapSetD w.s n SReg.zero { value := v, mark := mark }, prods := mapErase w.prods (8192 + n) }

/-- The flagged producer of a poisoned lane, and of a poisoned scalar; 0 for none (R114). -/
def laneProducer (w : Warp) (n lane : Nat) : Nat := mapGetD w.prods (64 * n + lane) 0
def scalarProducer (w : Warp) (n : Nat) : Nat := mapGetD w.prods (8192 + n) 0
/-- Record the flagged producer of the poisoned lanes of a register, and of a poisoned scalar (R114). -/
def nameLanes (w : Warp) (n : Nat) (marks : DWord) (prod : Nat) : Warp :=
  { w with prods := (lanesOf marks).foldl (fun p l => mapPut p (64 * n + l) prod) w.prods }
def nameScalar (w : Warp) (n : Nat) (mark : Bool) (prod : Nat) : Warp :=
  if mark && n != 0 then { w with prods := mapPut w.prods (8192 + n) prod } else w

/-! ### Flags (R66, R67) -/

def getF (w : Warp) (f : Nat) : FlagRec := mapGetD w.flags f FlagRec.atDispatch
def putF (w : Warp) (f : Nat) (r : FlagRec) : Warp := { w with flags := mapSetD w.flags f FlagRec.atDispatch r }
/-- The issue of an operation that names the flag. -/
def armFlag (w : Warp) (f seq plane cidx : Nat) : Warp :=
  putF w f { set := false, pend := true, seq := seq, plane := plane, cidx := cidx, instant := 0 }
/-- The completion of that operation; `instant` is when its accesses were performed, 0 where it made none (R100). -/
def completeFlag (w : Warp) (f : Nat) (instant : Nat := 0) : Warp :=
  putF w f { getF w f with set := true, pend := false, instant := instant }
/-- A named flag under a zero execute mask: record written, flag set at once (R48, R66). -/
def passFlag (w : Warp) (f seq plane cidx : Nat) : Warp := completeFlag (armFlag w f seq plane cidx) f

/-! ### Streams (R27 to R38) -/

def getPath (w : Warp) (p : Nat) : PathSt := if p = 0 then w.p0 else w.p1.getD w.p0
def setPath (w : Warp) (p : Nat) (q : PathSt) : Warp := if p = 0 then { w with p0 := q } else { w with p1 := some q }
def updPath (w : Warp) (p : Nat) (f : PathSt → PathSt) : Warp := setPath w p (f (getPath w p))

/-- The paths of a warp in issue order. -/
def pathsOf (w : Warp) : List Nat := if w.p1.isSome then [0, 1] else [0]

/-- The lanes whose plane is `p` (R65). -/
def planeLanes (w : Warp) (p : Nat) : DWord :=
  (if p % 2 = 1 then w.pmlo else ~~~w.pmlo) &&& (if p / 2 % 2 = 1 then w.pmhi else ~~~w.pmhi)

/-- The execute mask of a stream (R30, R65). -/
def execMask (w : Warp) (path plane : Nat) : DWord :=
  let q := getPath w path
  q.xm &&& q.mask &&& planeLanes w plane

/-- The planes of a region. -/
def planeCount (w : Warp) : Nat := (w.region.map (·.p)).getD 1

/-- The occupied planes of a path (R30). -/
def occupied (w : Warp) (path : Nat) : List Nat :=
  (List.range (planeCount w)).filter fun p => p = 0 || (planeLanes w p &&& (getPath w path).mask) != 0#64

/-- The address of the bundle at a place, for a plane (R28). -/
def bundleAddr (w : Warp) (pl : Place) (plane : Nat) : Nat :=
  match w.region with
  | some r => (r.base + (pl.off * r.p + plane) * 16) % 2 ^ 64
  | none => pl.addr % 2 ^ 64

/-- The address by which joins are compared: plane 0's bundle at a place (R278). -/
def joinCoord (w : Warp) (pl : Place) : Nat := bundleAddr w pl 0

/-- The entries of a path's reconvergence stack, the spilled ones included (R70). -/
def pathDepth (q : PathSt) : Nat := q.stack.length + q.spilled.length

/-- Whether the innermost open construct of a path is an entry of its stack rather than the split (R278). -/
def entryInner (w : Warp) (path : Nat) : Bool :=
  (if path = 0 then (w.split.map (·.depth)).getD 0 else 0) < pathDepth (getPath w path)

/-- The code index of an address: its distance from the task's code base in bundles, modulo 2^29 (R67); that of a bundle below the base
wraps (log 78). -/
def codeIndex (m : Mach) (w : Warp) (addr : Nat) : Nat :=
  (((addr : Int) - ((getNode? m w.node).elim 0 (·.code) : Nat)) / 16 % 2 ^ 29).toNat

def getBank (q : PathSt) (plane : Nat) : Bank := ((q.banks.find? (·.plane = plane)).map (·.bank)).getD Bank.empty
def setBank (q : PathSt) (plane : Nat) (b : Bank) : PathSt :=
  { q with banks := if q.banks.any (·.plane = plane) then
      q.banks.map (fun x => if x.plane = plane then { x with bank := b } else x)
      else q.banks ++ [{ plane := plane, bank := b }] }

/-- A path as at dispatch or in a fresh handler: all lanes, at one place (R80, R350). -/
def freshPath (addr : Nat) : PathSt :=
  { mask := ~~~0#64, xm := ~~~0#64, place := { addr := addr, off := 0 }, gap := 0, issued := [], stuck := false, rest := 0, skipbp := false, vp0 := 0#64
    vp1 := 0#64, vpv := 0#64, stack := [], spilled := [], delay := none, origin := none, banks := [], joined := false, waits := false
    conf := .none }

/-! ### Queues (R43 to R45) -/

/-- The binding of a scalar number seen as a queue port by the bundles of this beat. -/
def portOf (w : Warp) (n : Nat) : Option Binding := if n < 56 then none else mapGet? w.ports (n - 56)
/-- The binding that QBIND and QUNBIND check: updated at once within the beat (R252). -/
def portNow (w : Warp) (q : Nat) : Option Binding := (mapGet? w.portsIn q).getD (mapGet? w.ports q)

def getQueue (m : Mach) (team q : Nat) : Queue :=
  ((getTeam? m team).bind (fun t => mapGet? t.queues q)).getD { entries := [], producers := 0, closed := false }
def updQueue (m : Mach) (team q : Nat) (f : Queue → Queue) : Mach :=
  updTeam m team fun t =>
    let x := f ((mapGet? t.queues q).getD { entries := [], producers := 0, closed := false })
    { t with queues := mapPut t.queues q x }
/-- Append an entry; a value, or a reservation to be placed later. -/
def pushQueue (m : Mach) (team q ticket : Nat) (v : Option DWord) (mark : Bool) : Mach :=
  updQueue m team q fun x => { x with entries := x.entries ++ [{ ticket := ticket, value := v, mark := mark, prod := 0 }] }
/-- Place the value of a reserved entry; a poisoned one keeps its flagged producer (R114, R169, R201, R251). -/
def placeQueue (m : Mach) (team : Nat) (t : Nat × Nat) (v : DWord) (mark : Bool) (prod : Nat := 0) : Mach :=
  updQueue m team t.1 fun x =>
    { x with entries := x.entries.map fun e =>
        if e.ticket = t.2 then { e with value := some v, mark := mark, prod := if mark then prod else 0 } else e }
/-- Remove a reserved entry whose value will not come (R300). -/
def dropTicket (m : Mach) (team : Nat) (t : Nat × Nat) : Mach :=
  updQueue m team t.1 fun x => { x with entries := x.entries.filter fun e => e.ticket != t.2 }
/-- Detach one producer; the queue closes when the count falls from one to zero (R45). -/
def detachProducer (m : Mach) (team q : Nat) : Mach :=
  updQueue m team q fun x =>
    { x with producers := x.producers - 1, closed := x.closed || x.producers = 1 }

/-! ### Memory words and their error marks (R96, R110 to R115) -/

/-- The first key by which a local line is reached under a key slot other than its own (R390, R405): the slot times 2^39 and the physical
address above it. -/
def foreignBase : Nat := 2 ^ 60

/-- The key of a byte under a foreign key slot. -/
def foreignKey (slot pa : Nat) : Nat := foreignBase + slot * 2 ^ 39 + pa

/-- Where the byte of a key lies. -/
def placeOf (a : Nat) : Nat := if a < foreignBase then a else a % 2 ^ 39

/-- The word that holds an address. -/
def wordOf (a : Nat) : Nat := placeOf a / 8 * 8

/-- The words that `n` bytes from an address touch. -/
def wordsOf (a n : Nat) : List Nat :=
  if n = 0 then [] else (List.range ((placeOf a + n - 1) / 8 + 1 - placeOf a / 8)).map fun i => wordOf a + 8 * i

/-- The 128-byte line of an address. -/
def lineOf (a : Nat) : Nat := a / 128 * 128

/-! ### What the HBM holds (R405 to R407) -/

/-- The key pair that a slot holds; one that is not loaded holds none. -/
def slotKeys (m : Mach) (slot : Nat) : List Byte × List Byte :=
  let whole (k : List Byte) : List Byte := (List.range 32).map fun i => k.getD i 0#8
  match mapGet? m.keys slot with
  | some (.loaded n) => (whole (Config.randomKeys n).1, whole (Config.randomKeys n).2)
  | _ => (whole [], whole [])

/-- The key slot under which a line is encrypted: its context's, Pumal's where it is no context's (R406). -/
def lineSlot (m : Mach) (a : Nat) : Nat := ((m.ctxs.find? fun x => x.2.pages.contains (a / 65536)).map (·.2.keyid)).getD 0

/-- The ciphertext that the HBM holds for a line, whose plaintext `Mach.mem` has (R405). -/
def hbmLine (m : Mach) (line : Nat) : List Byte := xtsEncrypt (slotKeys m (lineSlot m line)) (line / 128) (memRead m.mem line 128)

/-- A line as it reads under a key slot. -/
def lineUnder (m : Mach) (slot line : Nat) : List Byte := xtsDecrypt (slotKeys m slot) (line / 128) (hbmLine m line)

/-- Write a byte under a foreign key slot: the whole line is encrypted under that slot's keys, and its own make another plaintext of it. -/
def putUnder (m : Mach) (slot a : Nat) (b : Byte) : Mach :=
  let line := (lineUnder m slot (lineOf a)).set (a % 128) b
  let own := xtsDecrypt (slotKeys m (lineSlot m (lineOf a))) (lineOf a / 128) (xtsEncrypt (slotKeys m slot) (lineOf a / 128) line)
  { m with mem := memWrite m.mem (lineOf a) (own.take 128) }

/-- The slot of a foreign key. -/
def foreignSlot (a : Nat) : Nat := (a - foreignBase) / 2 ^ 39

/-- The bytes from a key up, as the access sees them. -/
def memBytes (m : Mach) (a n : Nat) : List Byte :=
  if a < foreignBase then memRead m.mem a n
  else (List.range n).map fun i => (lineUnder m (foreignSlot a) (lineOf (placeOf a + i))).getD ((placeOf a + i) % 128) 0#8

/-- Write bytes from a key up. -/
def putBytes (m : Mach) (a : Nat) (bs : List Byte) : Mach :=
  if a < foreignBase then { m with mem := memWrite m.mem a bs }
  else (bs.zip (List.range bs.length)).foldl (fun m (b, i) => putUnder m (foreignSlot a) (placeOf a + i) b) m

/-- Whether a write of `n` bytes from a key up can change the plaintext at `x`: its own bytes, or the whole lines that hold them where the
key is of a foreign slot. -/
def writeReaches (a n x : Nat) : Bool :=
  if a < foreignBase then a ≤ x && x < a + n else (List.range n).any fun i => lineOf x = lineOf (placeOf a + i)

/-- An error that a read cannot correct (R113). -/
def Ecc.bad : Ecc → Bool
  | .double | .poison | .cacheDouble => true
  | .single | .cacheSingle => false

/-- The kind of an error in a record (R116, R463). -/
def Ecc.kind : Ecc → Nat
  | .single | .cacheSingle => 0
  | .double | .cacheDouble => 1
  | .poison => 2

/-- An error that lies in the L2's copy of a word. -/
def Ecc.cached : Ecc → Bool
  | .cacheSingle | .cacheDouble => true
  | .single | .double | .poison => false

/-- A word that a read finds uncorrectable or poisoned (R113). -/
def wordBad (m : Mach) (a : Nat) : Bool := (mapGet? m.ecc (wordOf a)).elim false Ecc.bad

/-- Read bytes: the stored value and whether any word of it is poisoned (R113). -/
def readBytes (m : Mach) (a n : Nat) : List Byte × Bool :=
  (memBytes m a n, (wordsOf a n).any (fun w => wordBad m w))

/-- Read bytes where the spec gives those of a poisoned word no value: they are free values (log 4, log 29). -/
def openBytes (m : Mach) (a n : Nat) : List Byte :=
  let bs := memBytes m a n
  (List.range n).map fun i => if wordBad m (a + i) then (Config.freeValue (m.tick + (a + i))).setWidth 8 else bs.getD i 0#8

/-- Who makes an access, as its error records say: the GTC, the context with its key id, the name word (R116). -/
structure Accessor where
  gtc   : Nat
  ctx   : Nat
  keyid : Nat
  name  : Nat

/-- The keys of the clusters' SRAM begin here. -/
def sramBase : Nat := 2 ^ 57

/-- The health record of a word in error (R116, R463). A word of a cluster's SRAM has no physical address (R397): the detail places it
(log 87). -/
def eccRecord (x : Accessor) (struct a kind : Nat) : Health :=
  { cls := 1, kind := kind, struct := struct, pa := if a < sramBase then a else 0, gtc := x.gtc, name := x.name, keyid := x.keyid
    ctx := x.ctx, detail := a - sramBase }

/-- The structure of a memory key: HBM, or a cluster's SRAM. -/
def structOf (m : Mach) (a : Nat) : Nat :=
  if a < sramBase then 0
  else
    let o := a - sramBase
    if (mapGet? (getCluster m (o / 2 ^ 20)).units (o % 2 ^ 20 / 65536)).isSome then 3 else 2

/-- What a read does to the words it finds in error: a single error is corrected and written back, and every error is
recorded (R112, R116). -/
def noteRead (x : Accessor) (m : Mach) (a n : Nat) : Mach :=
  (wordsOf a n).foldl (fun m w =>
    match mapGet? m.ecc w with
    | none => m
    | some e =>
      logHealth { m with ecc := if e.bad then m.ecc else mapErase m.ecc w }
        (eccRecord x (if e.cached then 1 else structOf m w) w e.kind)) m

/-- `noteRead` of a long run: the words of it in error are looked for among the error marks. -/
def noteRange (x : Accessor) (m : Mach) (a n : Nat) : Mach :=
  ((mapKeys m.ecc).filter fun w => a < w + 8 && w < a + n).foldl (fun m w => noteRead x m w 8) m

/-- What a read does to the words of a cached line that it finds in error, as `noteRead` for the line in structure `struct` whose first byte
lies at `base`; the words are offsets (R112, R116). -/
def noteLine (x : Accessor) (struct base : Nat) (m : Mach) (ecc : Map Ecc) (ws : List Nat) : Mach × Map Ecc :=
  ws.foldl (fun (m, ecc) w =>
    match mapGet? ecc w with
    | none => (m, ecc)
    | some e => (logHealth m (eccRecord x struct (base + w) e.kind), if e.bad then ecc else mapErase ecc w)) (m, ecc)

/-- The words a set of writes touches, without repeats. -/
def touchedWords (ws : List (Nat × List Byte)) : List Nat :=
  (ws.flatMap fun (a, bs) => wordsOf a bs.length).eraseDups

/-- Whether a set of writes covers all eight bytes of a word (R111). -/
def coversWord (ws : List (Nat × List Byte)) (w : Nat) : Bool :=
  (List.range 8).all fun i => ws.any fun (a, bs) => placeOf a ≤ w + i && w + i < placeOf a + bs.length

/-- Perform the writes of one instruction in order. A word written whole gets fresh check bits; a part of a word in
error leaves the word poisoned (R111, R115). -/
def writeWords (m : Mach) (ws : List (Nat × List Byte)) : Mach :=
  let mem := (ws.foldl (fun m (a, bs) => putBytes m a bs) m).mem
  let ecc := (touchedWords ws).foldl (fun e w =>
    if coversWord ws w then mapErase e w
    else match mapGet? m.ecc w with
      | some x => if x.bad then mapPut e w .poison else mapErase e w
      | none => e) m.ecc
  { m with mem := mem, ecc := ecc }

/-- Write one run of bytes. -/
def writeBytes (m : Mach) (a : Nat) (bs : List Byte) : Mach := writeWords m [(a, bs)]

/-- The key id that encrypts a context's pages. -/
def keyIdOf (m : Mach) (ctx : Nat) : Nat := (getCtx? m ctx).elim 0 (·.keyid)

/-- An access made for a context under a name. -/
def accessorOf (gtc : Nat) (m : Mach) (ctx name : Nat) : Accessor := { gtc := gtc, ctx := ctx, keyid := keyIdOf m ctx, name := name }

/-- The writes of one instruction, with the records of the words in error that it writes in part: a single error is corrected, an
uncorrectable one named by its address (R112, R115, R116). -/
def writeNoted (x : Accessor) (m : Mach) (ws : List (Nat × List Byte)) : Mach :=
  writeWords ((touchedWords ws).foldl (fun m w => if coversWord ws w then m else noteRead x m w 8) m) ws

/-- Write a word with the poison syndrome (R113). -/
def poisonWord (m : Mach) (a : Nat) : Mach := { m with ecc := mapPut m.ecc (wordOf a) .poison }

/-- Whitewash a range: zero with fresh check bits (R408). -/
def whitewash (m : Mach) (a n : Nat) : Mach :=
  { m with mem := memZero m.mem a n, ecc := m.ecc.filter fun (w, _) => w + 8 ≤ a || a + n ≤ w }

/-- Write zeros from a key up, under a foreign slot as any other bytes. -/
def zeroRun (m : Mach) (a n : Nat) : Mach := if a < foreignBase then whitewash m a n else writeBytes m a (List.replicate n 0#8)

/-! ### Scratchpad keys (R86, R88) -/

/-- The memory key of byte `o` of a cluster's SRAM. -/
def sramKey (cluster o : Nat) : Nat := sramBase + cluster * 2 ^ 20 + o

/-- Whether `n` bytes at a team offset lie in one window and inside its limit (R88). -/
def spInBounds (t : Team) (o n : Nat) : Bool :=
  (o + n ≤ t.lima && o < 0x80000) || (0x80000 ≤ o && o - 0x80000 + n ≤ t.limb && o < 0x100000)

/-- The memory key of a team offset (R86). -/
def spKey (t : Team) (o : Nat) : Nat :=
  sramKey t.cluster (if o < 0x80000 then t.baseA + o else 0x80000 + t.baseB + (o - 0x80000))

/-! ### Translation (R85, R395 to R401) -/

/-- The kinds of access in the order of INFO[63:61] (R404). -/
inductive AccKind where
  | read | write | atomic | fetch | deferred | copySrc | copyDst
  deriving DecidableEq, Repr

def AccKind.code : AccKind → Nat
  | .read => 0 | .write => 1 | .atomic => 2 | .fetch => 3 | .deferred => 4 | .copySrc => 5 | .copyDst => 6

/-- A translation fault: its code and the level that decided it. -/
structure XFault where
  code  : Nat
  level : Nat
  deriving DecidableEq, Repr

/-- A canonical address has bits [63:57] equal to bit 56 (R85). -/
def canonical (va : Nat) : Bool := va / 2 ^ 56 % 256 = 0 || va / 2 ^ 56 % 256 = 255

/-- The low address bits a leaf of a level leaves to the page offset (R395). -/
def pageBits : Nat → Nat
  | 0 => 16 | 1 => 21 | 2 => 26 | _ => 39

/-- The index of an address in the table of a level (R395). -/
def levelIndex (level va : Nat) : Nat :=
  match level with
  | 3 => va / 2 ^ 39 % 2 ^ 18
  | 2 => va / 2 ^ 26 % 2 ^ 13
  | 1 => va / 2 ^ 21 % 32
  | _ => va / 2 ^ 16 % 32

/-- The size of the table of a level (R395). -/
def tableSize : Nat → Nat
  | 3 => 2 ^ 21 | 2 => 2 ^ 16 | _ => 256

def leafKeyId (l : DWord) : Nat := bits l 61 49
def leafHome (l : DWord) : Nat := bits l 48 47
def leafSd (l : DWord) : Bool := l.getLsbD 46
def leafDs (l : DWord) : Bool := l.getLsbD 45
def leafX (l : DWord) : Bool := l.getLsbD 44
def leafW (l : DWord) : Bool := l.getLsbD 43
def leafR (l : DWord) : Bool := l.getLsbD 42
def leafPpn (l : DWord) : Nat := bits l 32 0
def leafPa (l : DWord) : Nat := leafPpn l * 65536
/-- A leaf that designates another package's memory (R390, R398). -/
def leafRemote (pkg : Nat) (l : DWord) : Bool :=
  leafHome l != 2 && 2 ^ 48 ≤ leafPa l && leafPa l / 2 ^ 39 % 256 != pkg

/-- The format and range rules of a leaf (R397, R398). -/
def leafFault (level : Nat) (l : DWord) : Option Nat :=
  let pa := leafPa l
  if level = 3 || bits l 41 33 != 0 then some 0x44
  else if (level = 1 && leafPpn l % 32 != 0) || (level = 2 && leafPpn l % 1024 != 0) then some 0x44
  else if leafW l && !leafR l then some 0x44
  else if leafHome l = 2 then
    (if level != 0 || leafKeyId l != 0 || leafPpn l / 16 % 2 ^ 20 != 0 then some 0x44 else none)
  else if 2 ^ 48 ≤ pa then (if leafHome l != 3 || leafSd l then some 0x44 else none)
  else if 2 ^ 39 ≤ pa then some 0x45
  else none

/-- Where an address of a leaf's page lies (R86, R390, R397). -/
def leafTarget (pkg level : Nat) (l : DWord) (va : Nat) : Nat :=
  if leafHome l = 2 then sramKey (leafPpn l / 2 ^ 24) (leafPpn l % 16 * 65536 + va % 65536)
  else
    let pa := leafPa l + va % 2 ^ pageBits level
    if 2 ^ 48 ≤ pa && pa / 2 ^ 39 % 256 = pkg then pa % 2 ^ 39 else pa

/-- The memory key that an address of a leaf's page reaches: one in another slot's line of this package reaches it under the leaf's own key
slot (R390, R405). -/
def homeKey (m : Mach) (level : Nat) (l : DWord) (va : Nat) : Nat :=
  let a := leafTarget m.pkg level l va
  if leafHome l = 3 && 2 ^ 48 ≤ leafPa l && a < 2 ^ 39 && lineSlot m a != leafKeyId l then foreignKey (leafKeyId l) a else a

/-- Walk the tables from a level down (R395 to R398, R401). -/
def walkFrom (m : Mach) (va : Nat) : List Nat → Nat → Except XFault (DWord × Nat)
  | [], _ => .error { code := 0x44, level := 0 }
  | level :: rest, table =>
    let a := table + 8 * levelIndex level va
    let (bs, bad) := readBytes m a 8
    let e : DWord := ofLe 64 bs
    if bad then .error { code := 0x47, level := level }
    else if !e.getLsbD 63 then .error { code := 0x40, level := level }
    else if e.getLsbD 62 then
      match leafFault level e with
      | some c => .error { code := c, level := level }
      | none => .ok (e, level)
    else
      let next := bits e 40 0 * 256
      if level = 0 || bits e 61 41 != 0 || next % tableSize (level - 1) != 0 then .error { code := 0x44, level := level }
      else walkFrom m va rest next

/-- The addresses of the entries that a walk reads. -/
def walkKeys (m : Mach) (va : Nat) : List Nat → Nat → List Nat
  | [], _ => []
  | level :: rest, table =>
    let a := table + 8 * levelIndex level va
    let (bs, bad) := readBytes m a 8
    let e : DWord := ofLe 64 bs
    a :: if !bad && e.getLsbD 63 && !e.getLsbD 62 then walkKeys m va rest (bits e 40 0 * 256) else []

/-- The whole walk of a context's address. -/
def walk (m : Mach) (ctx va : Nat) : Except XFault (DWord × Nat) :=
  match getCtx? m ctx with
  | some c => walkFrom m va [3, 2, 1, 0] c.root
  | none => .error { code := 0x40, level := 3 }

/-- The page number that a TLB entry of a level holds for an address. -/
def pageOf (level va : Nat) : Nat := va % 2 ^ 57 / 2 ^ pageBits level * 2 ^ (pageBits level - 16)

/-- Look an address up in one TLB (R400). -/
def tlbFind (l : List TlbEntry) (ctx va : Nat) : Option TlbEntry :=
  l.find? fun e => e.ctx = ctx && e.page = pageOf e.level va

def dieTlb (m : Mach) (die : Nat) : List TlbEntry := if die = 0 then m.tlb0 else m.tlb1

/-- Look an address up in every level that serves a core (R400). -/
def tlbLookup (m : Mach) (core ctx va : Nat) : Option TlbEntry :=
  (tlbFind (getCore m core).tlb ctx va).orElse fun _ =>
  (tlbFind (getCluster m (core / 4)).tlb ctx va).orElse fun _ => tlbFind (dieTlb m (dieOf (core / 4))) ctx va

/-- Look an address up in the levels that serve the engines of a cluster (R400). -/
def engineLookup (m : Mach) (cluster ctx va : Nat) : Option TlbEntry :=
  (tlbFind (getCluster m cluster).tlb ctx va).orElse fun _ => tlbFind (dieTlb m (dieOf cluster)) ctx va

/-- Keep the first `n` entries of one set, and every entry outside it. -/
def keepWays (inSet : TlbEntry → Bool) : Nat → List TlbEntry → List TlbEntry
  | _, [] => []
  | n, x :: rest =>
    if inSet x then match n with
      | 0 => keepWays inSet 0 rest
      | n + 1 => x :: keepWays inSet n rest
    else x :: keepWays inSet n rest

/-- Put an entry in front of its set of `ways` entries; the oldest gives way (log 69). -/
def tlbPut (ways : Nat) (setOf : TlbEntry → Nat) (l : List TlbEntry) (e : TlbEntry) : List TlbEntry :=
  e :: keepWays (fun x => setOf x = setOf e) (ways - 1) (l.filter fun x => !(x.ctx = e.ctx && x.page = e.page))

/-- The set of a cluster TLB: 1,024 entries in 8 ways make 128, numbered by the page (R400, log 69). -/
def tlbSet (e : TlbEntry) : Nat := e.page / 2 ^ (pageBits e.level - 16) % 128

/-- The bank of the last-level TLB (R400). -/
def tlbBank (e : TlbEntry) : Nat := Nat.xor (Nat.xor (e.page % 8) (e.page / 2 ^ 5 % 8)) (e.page / 2 ^ 10 % 8)

/-- Put an entry in a cluster's TLB. -/
def clusterFill (m : Mach) (cluster : Nat) (e : TlbEntry) : Mach :=
  updCluster m cluster fun c => { c with tlb := tlbPut 8 tlbSet c.tlb e }

/-- Put an entry in the L1 and cluster TLBs of a core. -/
def tlbFill (m : Mach) (core : Nat) (e : TlbEntry) : Mach :=
  clusterFill (updCore m core fun c => { c with tlb := tlbPut 64 (fun _ => 0) c.tlb e }) (core / 4) e

/-- A miss enters its die's miss table, which holds 4,096 (R401). -/
def postMiss (m : Mach) (x : Miss) : Mach :=
  if m.misses.contains x || 4096 ≤ (m.misses.filter (·.die = x.die)).length then m else { m with misses := m.misses ++ [x] }

/-- The permission, key and cluster checks of an access against a leaf (R399, R403, R406). -/
def leafAccess (m : Mach) (k : AccKind) (sd : Bool) (l : DWord) : Option Nat :=
  let needR := k = .read || k = .atomic || k = .deferred || k = .copySrc
  let needW := k = .write || k = .atomic || k = .deferred || k = .copyDst
  if needR && !leafR l then some 0x41
  else if needW && !leafW l then some 0x42
  else if k = .fetch && !leafX l then some 0x43
  else if sd && !leafSd l then some 0x46
  else if leafHome l = 2 then
    let cl := leafPpn l / 2 ^ 24
    if cl < 512 && (getCluster m cl).present && (mapGet? (getCluster m cl).units (leafPpn l % 16)).isSome then none
    else some 0x49
  else if !leafRemote m.pkg l && !keyLoaded m (leafKeyId l) then some 0x48
  else none

/-- A translated access. -/
structure Hit where
  key    : Nat
  leaf   : DWord
  level  : Nat
  deriving DecidableEq, Repr

/-- Translate without waiting: the walk's answer at once, with the access checks. -/
def translateNow (m : Mach) (ctx va : Nat) (k : AccKind) (sd : Bool) : Except XFault Hit :=
  match walk m ctx va with
  | .error e => .error e
  | .ok (l, level) =>
    match leafAccess m k sd l with
    | some c => .error { code := c, level := level }
    | none => .ok { key := homeKey m level l va, leaf := l, level := level }

/-- Put an entry in a die's last-level TLB (R400). -/
def dieTlbPut (m : Mach) (die : Nat) (e : TlbEntry) : Mach :=
  if die = 0 then { m with tlb0 := tlbPut 1536 tlbBank m.tlb0 e } else { m with tlb1 := tlbPut 1536 tlbBank m.tlb1 e }

/-- A walk's fault reaches the warps and copies that wait for the page (R401). -/
def noteFault (m : Mach) (ctx page : Nat) (e : XFault) : Mach :=
  let f := (page, e.code, e.level)
  { m with
    warps := m.warps.map fun (k, w) =>
      (k, if w.ctx = ctx && w.misses.contains page then { w with ffault := w.ffault ++ [f] } else w)
    clusters := m.clusters.map fun (k, x) => (k, { x with copies := x.copies.map fun (i, c) =>
      (i, if c.ctx = ctx && c.misses.contains page then { c with ffault := c.ffault ++ [f] } else c) }) }

/-- The address of a page number. -/
def pageVa (page : Nat) : Nat := page * 65536

/-- One walk ends for every miss of a context's page. It reads each entry with key id 0; what it finds in error is corrected or logged
(R112, R116, R401). -/
def finishWalk (gtc : Nat) (m : Mach) (ctx page : Nat) : Mach :=
  let joined := m.misses.filter fun x => x.ctx = ctx && x.page = page
  if joined.isEmpty then m
  else
    let m := { m with misses := m.misses.filter fun x => !(x.ctx = ctx && x.page = page) }
    let found := walk m ctx (pageVa page)
    let m := (walkKeys m (pageVa page) [3, 2, 1, 0] ((getCtx? m ctx).elim 0 (·.root))).foldl
      (fun m a => noteRead { gtc := gtc, ctx := ctx, keyid := 0, name := 0 } m a 8) m
    match found with
    | .error e => noteFault m ctx page e
    | .ok (leaf, level) =>
      joined.foldl (fun m x => dieTlbPut m x.die { ctx := ctx, page := pageOf level (pageVa page), level := level, leaf := leaf }) m

/-- A walk whose outcome is needed at once: it joins the misses of its page, if there are any, and ends for all of them (R401). -/
def joinWalk (gtc : Nat) (m : Mach) (die ctx va : Nat) : Mach :=
  let x : Miss := { die := die, ctx := ctx, page := va / 65536 }
  finishWalk gtc (if m.misses.contains x then m else { m with misses := m.misses ++ [x] }) ctx (va / 65536)

/-- Translate through what a TLB holds, else through the tables. -/
def translateFor (m : Mach) (held : Option TlbEntry) (ctx va : Nat) (k : AccKind) : Except XFault Hit :=
  match held with
  | none => translateNow m ctx va k false
  | some e => match leafAccess m k false e.leaf with
    | some c => .error { code := c, level := e.level }
    | none => .ok { key := homeKey m e.level e.leaf va, leaf := e.leaf, level := e.level }

/-- A unit of a die that no core's or cluster's TLB serves has an address translated: through the die's TLB, else by a walk that it joins
(R400, R401). -/
def dieWalk (gtc : Nat) (m : Mach) (die ctx va : Nat) : Mach :=
  if (tlbFind (dieTlb m die) ctx va).isSome then m else joinWalk gtc m die ctx va

/-- What such a unit then finds. -/
def dieHit (m : Mach) (die ctx va : Nat) (k : AccKind) : Except XFault Hit := translateFor m (tlbFind (dieTlb m die) ctx va) ctx va k

/-- The INFO word of a translation fault (R404). -/
def xinfo (k : AccKind) (level : Nat) : Nat := k.code * 2 ^ 61 + level * 2 ^ 59

/-! ### The L1 (R92) -/

/-- A leaf whose lines the read-only L1 may hold. -/
def l1Leaf (m : Mach) (leaf : DWord) : Bool := leafHome leaf = 0 && !leafRemote m.pkg leaf
def dropL1 (m : Mach) (core : Nat) : Mach := updCore m core fun c => { c with l1 := [] }
def dropLines (m : Mach) (core : Nat) (as : List Nat) : Mach :=
  updCore m core fun c => { c with l1 := c.l1.filter fun (l, _) => !(as.any fun a => lineOf a = l) }

/-- Drop the lines that hold any byte of a run. -/
def dropRun (m : Mach) (core a n : Nat) : Mach :=
  updCore m core fun c => { c with l1 := c.l1.filter fun (l, _) => !(l < a + n && a < l + 128) }

/-! ### The stack cache's translations (R89, R399) -/

/-- The line of the warp's stack cache that services an ordinary access of the warp to an address. -/
def stackLine? (w : Warp) (va : Nat) : Option StackLine :=
  if w.stklim ≤ va && va < w.stktop then mapGet? w.stack (lineOf va) else none

/-- A line of the warp's stack cache that an ordinary access of the warp finds present (R89). -/
def stackHit (w : Warp) (va : Nat) : Bool := (stackLine? w va).isSome

/-- The translation that serves a warp's access, with its level: the one in force when its stack line was filled for a load or store that
the stack cache services, else that of the TLBs (R199, R399). -/
def heldLeaf (m : Mach) (k : Nat) (w : Warp) (va : Nat) (kind : AccKind) : Option (DWord × Nat) :=
  match if kind = .read || kind = .write then stackLine? w va else none with
  | some l => some (l.leaf, l.level)
  | none => (tlbLookup m (coreOf k) w.ctx va).map fun e => (e.leaf, e.level)

/-! ### The end of a beat (R20 to R22, R55 to R61) -/

/-- The latch that the arrivals of a beat fill: each lane from the last of them that covers it (R57 to R59). -/
def latchOf (fs : List Flight) : VReg :=
  match fs with
  | [] => VReg.zero
  | _ =>
    let pick (l : Nat) : Option Flight := fs.reverse.find? fun f => maskBit f.dom l
    { lanes := Lanes.ofLane fun l => match pick l with
        | some f => if maskBit f.mask l then f.data.at l else 0
        | none => 0
      marks := maskOf fun l => match pick l with
        | some f => maskBit f.mask l && maskBit f.marks l
        | none => false }

/-- Shift one bank and take in the results that reach their first latch (R56). -/
def shiftBank (fs : List Flight) (b : Bank) : Bank :=
  { v1 := latchOf (fs.filter fun f => f.kind = .vector && f.land = 2), v2 := b.v1, v3 := b.v2
    m1 := latchOf (fs.filter fun f => f.kind = .memory && f.land = 2), m2 := b.m1
    x1 := latchOf (fs.filter fun f => f.kind = .engine && f.land = 1) }

/-- A result with one beat less to run. -/
def ageFlight (adv : List Nat) (f : Flight) : Flight := if adv.contains f.path then { f with land := f.land - 1 } else f

/-- Shift the banks of an advancing path. -/
def shiftPath (fs : List Flight) (p : Nat) (q : PathSt) : PathSt :=
  let mine := fs.filter fun f => f.path = p && (f.land = 1 || f.land = 2)
  let planes := (q.banks.map (·.plane) ++ mine.map (·.plane)).eraseDups
  let bank (pl : Nat) : PlaneBank := { plane := pl, bank := shiftBank (mine.filter (·.plane = pl)) (getBank q pl) }
  { q with banks := (planes.map bank).filter fun x => x.bank != Bank.empty }

/-- Write a landed result to its destination (R56, R62, R64). -/
def landFlight (m : Mach) (k : Nat) (f : Flight) : Mach :=
  match f.kind with
  | .scalar =>
    match f.ticket, getWarp? m k with
    | some t, some w => placeQueue m w.team t f.value (f.marks != 0#64)
    | _, _ => updWarp m k fun w => putS w f.dest f.value (f.marks != 0#64)
  | _ => if f.nw then m else updWarp m k fun w => putV w f.dest (f.mask &&& f.wr) f.data f.marks

/-- The matrix engine's open pass of a warp (R241). -/
def openChain (m : Mach) (k : Nat) : Option Chain :=
  (getCluster m (clusterOf k)).matrix.chains.find? fun c => c.warp = k && c.che.isNone

/-- A warp leaves selection (R15). -/
def deselect (m : Mach) (k : Nat) : Mach :=
  updCore m (coreOf k) fun c => if c.selected = some k then { c with selected := none } else c

/-- Raise an external event in a warp once (R358). -/
def raiseExt (w : Warp) (code : Nat) : Warp := if w.ext.contains code then w else { w with ext := w.ext ++ [code] }

/-- Put control state that was written in the beat into force. A CWR of c.exs decides over the bits raised in its beat (log 71); a chunk is
whitewashed as it is granted (R46, R296); a warp whose pass is open by then, or that runs in a gang, stays selected (R299). -/
def applyLate (m : Mach) (k : Nat) (l : Late) : Mach :=
  match l with
  | .xm _ _ => m
  | .exs v => updWarp m k fun w => { w with exs := v }
  | .round v => updWarp m k fun w => { w with round := v }
  | .wtimer v => updWarp m k fun w =>
      if v != 0 && v ≤ w.vbeat then raiseExt { w with wtimer := 0 } 0x61 else { w with wtimer := v }
  | .stklim v => updWarp m k fun w => { w with stklim := v, sptop := v }
  | .target i a => updWarp m k fun w => { w with target := mapPut w.target i a }
  | .timer v => updWarp m k fun w => { w with wtimer := v }
  | .leave => match getWarp? m k with
    | none => m
    | some w =>
      if (openChain m k).isSome || w.gang.isSome then m
      else deselect (updWarp (bump m) k fun w => { w with ready := m.tick }) k
  | .chunk up => match getWarp? m k with
    | none => m
    | some w =>
      let n := if up then w.chunks + 1 else w.chunks - 1
      let fl := w.flight.map fun f => if f.kind != .scalar && 64 + 16 * n ≤ f.dest then { f with nw := true } else f
      let m := setWarp m k { w with chunks := n, v := w.v.filter fun (r, _) => r < 64 + 16 * min n w.chunks, flight := fl }
      updCore m (coreOf k) fun c => { c with spare := c.spare + (w.chunks - n) }
  | .bind q (some x) => updWarp m k fun w => { w with ports := mapPut w.ports q x }
  | .bind q none => updWarp m k fun w => { w with ports := mapErase w.ports q, s := mapErase w.s (56 + q) }
  | .gdead v => match getWarp? m k with
    | some w => updCtx m w.ctx fun c => { c with gdead := v }
    | none => m
  | .fpte v => match getWarp? m k with
    | some w => updCtx m w.ctx fun c => { c with fpte := v }
    | none => m
  | .slotmap v => updCore m (coreOf k) fun c =>
      if c.written then c else { c with slotmap := BitVec.ofNat 64 v, written := true }

/-- A scalar result that path 1 has issued. -/
def Flight.second (f : Flight) : Bool := f.kind = .scalar && f.side = 1

/-- The order in which results that land in one beat are written: the order of issue (R58), but path 1's scalars after path 0's (R35). -/
def landingOrder (fs : List Flight) : List Flight := fs.filter (!·.second) ++ fs.filter (·.second)

/-- The order in which the control state written in a beat comes into force: path 1's after path 0's (R35). -/
def lateOrder (l : List (Nat × Late)) : List Late := (l.filter (·.1 = 0) ++ l.filter (·.1 != 0)).map (·.2)

/-- The latches and results of the advancing paths move on by one beat (R21 to R23). -/
def shiftWarp (m : Mach) (k : Nat) (adv : List Nat) : Mach :=
  match getWarp? m k with
  | none => m
  | some w =>
    let aged := w.flight.map (ageFlight adv)
    let landed := aged.filter (·.land = 0)
    let w := { w with flight := aged.filter (·.land != 0)
                      p0 := if adv.contains 0 then shiftPath aged 0 w.p0 else w.p0
                      p1 := w.p1.map fun q => if adv.contains 1 then shiftPath aged 1 q else q }
    (landingOrder landed).foldl (fun m f => landFlight m k f) (setWarp m k w)

/-- The end of a lease's 16 ns for each granted beat has passed (R294). -/
def leaseOver (gtc : Nat) (l : Lease) : Bool := l.start + 16 * l.grant ≤ gtc

/-- A beat of the warp's team's lease when the warp holds it (R294). -/
def leaseBeat (m : Mach) (k : Nat) (w : Warp) : Mach :=
  match (getTeam? m w.team).bind (·.lease) with
  | some l =>
    if l.holder != k then m
    else if l.left ≤ 1 then
      updWarp (updTeam m w.team fun t => { t with lease := none }) k
        fun w => if l.nt then w else raiseExt w 0x63
    else updTeam m w.team fun t => { t with lease := some { l with left := l.left - 1 } }
  | none => m

/-- The core's minimum pass count (R75). -/
def minPass (c : Core) : Nat :=
  let n := (List.range 4).countP fun i => c.slotmap.getLsbD i
  if n = 4 then 1 else if n = 1 then 4 else 2

/-- The split factor of a core (R75). -/
def splitFactor (c : Core) : Nat := if c.slotmap.getLsbD 4 = c.slotmap.getLsbD 5 then 2 else 1

/-- The effective pass count of a warp (R25, R76). -/
def passCount (m : Mach) (k : Nat) : Nat := max (getCluster m (clusterOf k)).clp (minPass (getCore m (coreOf k)))

/-- Charge cycles to a counter of a warp (R419). -/
def charge (w : Warp) (counter n : Nat) : Warp :=
  if n = 0 then w else { w with count := mapPut w.count counter (satAdd 64 (mapGetD w.count counter 0) n) }

/-- The issue cycles of a beat (R25). -/
def Stretch.product (x : Stretch) : Nat := x.p * x.n * x.f

/-- The stretch of a warp with the numbers of streams that issue on each of its paths; a beat in which none issues takes one stream's
edges (log 14). -/
def stretchOf (m : Mach) (k : Nat) (issued : List Nat) : Stretch :=
  { p := passCount m k, n := max 1 (listSum issued), planes := max 1 (listMax issued), f := splitFactor (getCore m (coreOf k)) }

/-- The greatest stretch of a gang's beat (R40). -/
def Gang.stretch (x : Gang) : Stretch :=
  x.round.foldl (fun a (_, s, _) => if a.product < s.product then s else a) { p := 0, n := 0, planes := 0, f := 0 }

/-- The cycles of one beat of a running warp: its first edge, the further edges of pass, plane, path and split, or a conflict beat as a
whole (R25, R419). -/
def chargeStretch (x : Stretch) (conflict : Bool) (w : Warp) : Warp :=
  if conflict then charge w 1 x.product
  else charge (charge (charge (charge (charge w 0 1) 2 (x.p - 1)) 3 ((x.planes - 1) * x.p)) 4 ((x.n - x.planes) * x.p)) 5
    ((x.f - 1) * x.p * x.n)

/-- Every member that a gang still has has taken its present beat. -/
def Gang.roundOver (x : Gang) : Bool :=
  (List.range x.members.length).all fun i => x.left.contains i || x.round.any fun r => r.1 = i

/-- The end of a gang's beat: its members are charged the greatest stretch among them (R40). -/
def closeRound (m : Mach) (g : Nat) : Mach :=
  match mapGet? m.gangs g with
  | none => m
  | some x =>
    if !x.roundOver then m
    else x.round.foldl (fun m (i, _, conflict) => updWarp m (x.members.getD i 0) (chargeStretch x.stretch conflict))
      { m with gangs := mapPut m.gangs g { x with round := [] } }

/-- Charge the cycles of one beat; the beats of a handler apart, those of a gang member when the gang's beat is over (R25, R40, R419).
`issued` are the numbers of streams of each path that issue in it. -/
def chargeBeat (m : Mach) (k : Nat) (w : Warp) (conflict : Bool) (issued : List Nat) : Mach :=
  let x := stretchOf m k issued
  if w.trapped != .running then setWarp m k (charge w 20 x.product)
  else match w.gang with
    | none => setWarp m k (chargeStretch x conflict w)
    | some g => closeRound { m with gangs := mapUpd m.gangs g fun y => { y with round := y.round ++ [(w.gidx, x, conflict)] } } g

/-- A beat of a gang member (R40). -/
def gangBeat (m : Mach) (w : Warp) : Mach :=
  match w.gang with
  | none => m
  | some g => { m with gangs := mapUpd m.gangs g fun x =>
      { x with beats := x.beats.set w.gidx (x.beats.getD w.gidx 0 + 1) } }

/-- A beat of an owner lets the engine advance its open chain by one engine beat at most (R241). -/
def creditChain (m : Mach) (k : Nat) : Mach :=
  let open_ (c : Chain) : Bool := c.warp = k && c.che.isNone
  if (getCluster m (clusterOf k)).matrix.chains.any open_ then
    updCluster m (clusterOf k) fun x => { x with matrix := { x.matrix with
      chains := x.matrix.chains.map fun c => if open_ c then { c with credit := 4 } else c } }
  else m

/-- Count a beat: the counters, and in user mode c.vbeat, the warp timer, the lease, the grow watch, the gang's beats (R40, R47,
R71, R294). -/
def countBeat (m : Mach) (k : Nat) (conflict : Bool) (issued : List Nat) : Mach :=
  match getWarp? m k with
  | none => m
  | some w =>
    let m := chargeBeat m k w conflict issued
    if w.trapped != .running then m
    else
      let m := creditChain (gangBeat m w) k
      let vb := (w.vbeat + 1) % 2 ^ 64
      let fire := w.wtimer != 0 && vb = w.wtimer
      leaseBeat (updWarp m k fun w =>
        let w' := { w with vbeat := vb, wtimer := if fire then 0 else w.wtimer
                           watch64 := w.watch64.bind fun n => if n ≤ 1 then none else some (n - 1) }
        if fire then raiseExt w' 0x61 else w') k w

/-- A path that stands in the middle of an offset as the beat ends. -/
def leaveOff (q : PathSt) : PathSt := { q with stuck := !q.issued.isEmpty }

/-- A path that has spent the beat: its conflict beat, or the beat of its issue or of its gap. -/
def spendBeat (q : PathSt) : PathSt :=
  if q.conf = .now then leaveOff { q with conf := .past } else { q with gap := q.gap - 1, issued := [], stuck := false }

/-- The streams of a path that issue in a beat; in a conflict beat, those that it holds back (R25). -/
def issuedOf (w : Warp) (conflict : Bool) (p : Nat) : Nat :=
  let q := getPath w p
  if !conflict then q.issued.length else if q.conf = .now then (occupied w p).length else 0

/-- The end of a beat in which the paths `adv` advanced; in a conflict beat nothing issued (R23, R60). -/
def endBeat (m : Mach) (k : Nat) (adv : List Nat) (conflict : Bool := false) : Mach :=
  match getWarp? m k with
  | none => m
  | some w =>
    let m := (lateOrder w.late).foldl (fun m l => applyLate m k l) (setWarp m k { w with late := [], portsIn := [] })
    let m := shiftWarp m k adv
    (countBeat · k conflict (adv.map (issuedOf w conflict))) (updWarp m k fun w =>
      { w with p0 := if adv.contains 0 then spendBeat w.p0 else leaveOff w.p0
               p1 := w.p1.map fun q => if adv.contains 1 then spendBeat q else leaveOff q })

/-- The paths of a list stand in a stage of their conflict beat. -/
def markConflict (w : Warp) (ps : List Nat) (c : Conflict) : Warp :=
  ps.foldl (fun w p => updPath w p fun q => { q with conf := c }) w

/-- The paths that idle in a gap. -/
def gapPaths (w : Warp) : List Nat := (pathsOf w).filter fun p => 0 < (getPath w p).gap

/-- A conflict beat: the paths `ps` and those that idle in a gap advance, and nothing issues; a path that is blocked or waits at a join
stays as it is (R22, R23, R60). -/
def conflictBeat (m : Mach) (k : Nat) (ps : List Nat) : Mach :=
  match getWarp? m k with
  | none => m
  | some w => endBeat (setWarp m k (markConflict w ps .now)) k (ps ++ gapPaths w) true

/-! ### Memory operations in progress (R100, R198) -/

/-- Operations that the unacknowledged-store count counts (R198). -/
def MemKind.counted : MemKind → Bool
  | .store _ _ | .atomV _ _ | .atomS _ _ | .casV _ | .casS _ => true
  | .loadV _ _ | .loadS _ _ _ | .spill | .fill _ | .fence _ _ | .flush _ | .evset _ | .tpost _ | .sync _ => false

/-- The unacknowledged-store count of a warp (R100, R198). -/
def unacked (w : Warp) : Nat := (w.ops.filter fun o => o.kind.counted).length

/-- An observation of flags (R100): later reads are satisfied no earlier than the instants at which the flags' operations were performed.
The observing bundle sees the flags of `seen`, before another slot of it arms one of them anew (R66). -/
def observe (seen : Warp) (fs : List Nat) (w : Warp) : Warp :=
  let n := listMax (fs.map fun f => (getF seen f).instant)
  { w with floors := (max w.floors.1 n, max w.floors.2 n) }

/-- One of a pair that stands for the two paths. -/
def ofPath {α : Type} (x : α × α) (path : Nat) : α := if path = 0 then x.1 else x.2

/-- Raise one path's number of a pair, or with `all` both. -/
def raisePath (x : Nat × Nat) (path : Nat) (all : Bool) (n : Nat) : Nat × Nat :=
  (if all || path = 0 then max x.1 n else x.1, if all || path != 0 then max x.2 n else x.2)

/-- An operation that reads or writes memory for its warp (R100). -/
def MemKind.accesses : MemKind → Bool
  | .store _ _ | .atomV _ _ | .atomS _ _ | .casV _ | .casS _ | .loadV _ _ | .loadS _ _ _ | .spill | .fill _ => true
  | .fence _ _ | .flush _ | .evset _ | .tpost _ | .sync _ => false

/-- An unfinished operation that stands before what a path does, or with `all` before what either does (R33, R36, R38). -/
def MemOp.before (o : MemOp) (path : Nat) (all : Bool) : Bool := all || o.both || o.path = path

/-- The words an operation touches. -/
def opWords (o : MemOp) : List Nat :=
  let n := match o.kind with
    | .loadV _ n | .loadS _ n _ | .store n _ => n
    | .atomS _ _ | .casS _ => 8
    | _ => 4
  o.acc.flatMap fun a => wordsOf a.key n

/-- Operations that read memory at their instant. -/
def MemKind.reads : MemKind → Bool
  | .loadV _ _ | .loadS _ _ _ | .atomV _ _ | .atomS _ _ | .casV _ | .casS _ | .fill _ => true
  | .store _ _ | .spill | .fence _ _ | .flush _ | .evset _ | .tpost _ | .sync _ => false

/-- Operations that write memory at their instant. -/
def MemKind.writes : MemKind → Bool
  | .store _ _ | .atomV _ _ | .atomS _ _ | .casV _ | .casS _ | .spill => true
  | .loadV _ _ | .loadS _ _ _ | .fill _ | .fence _ _ | .flush _ | .evset _ | .tpost _ | .sync _ => false

/-- Operations that wait until every earlier store is acknowledged and every earlier read satisfied (R100, R103, R255, R256). -/
def MemKind.releases : MemKind → Bool
  | .store _ (some sc) => sc != .warp
  | .flush _ | .evset _ | .tpost _ => true
  | _ => false

/-- An access of kind `k` on words `ws` of a stream is ordered after an unfinished operation (R100). -/
def orderedAfter (e : MemOp) (k : MemKind) (path plane : Nat) (ws : List Nat) : Bool :=
  match e.kind with
  | .sync all => e.before path all
  | .fence f _ => f != .rel || k.writes || k.releases
  | .loadS _ _ (some _) => true
  | _ => (k.releases && (e.kind.counted || e.kind.reads)) ||
      (e.before path false && e.plane = plane && (opWords e).any ws.contains)

/-- The unfinished operations that stand behind a store whose REMOTE_FAIL is delivered, that store among them (R392). -/
def heldBack (w : Warp) : List Nat :=
  w.ops.foldl (fun held o =>
    if o.failed || w.ops.any (fun e => held.contains e.id && orderedAfter e o.kind o.path o.plane (opWords o)) then o.id :: held else held) []

/-- The stores that a handler's first bundle and an ERET wait for: those without an acknowledgement, but for the ones that cannot have any
before an ERET sends a failed store again (R291, R350, R392, log 82). -/
def awaited (w : Warp) : Nat := (w.ops.filter fun o => o.kind.counted && !(heldBack w).contains o.id).length

/-- A point that orders every access before it before every access after it: a sync point of a path, or with `all` of both, a join, the
turn from the fall-through to the taken lanes (R33, R36 to R38, R100). Where nothing is outstanding it only bounds the reads to come. -/
def addSync (m : Mach) (k path : Nat) (all : Bool) : Mach :=
  updWarp (bump m) k fun w =>
    if w.ops.all fun o => !(o.kind.accesses && o.before path all) then
      { w with floors := raisePath w.floors path all (if all then max w.dones.1 w.dones.2 else ofPath w.dones path) }
    else { w with ops := w.ops ++ [{ id := m.tick, kind := .sync all, acc := [], flag := none, path := path, plane := 0, cidx := 0
                                     pc := 0, seq := w.seq, ticket := none, both := false, floor := 0, failed := false }] }

/-! ### Trap frames (R353 to R356) -/

/-- Bits of a doubleword from fields `(low, value)`. -/
def packFields (l : List (Nat × Nat)) : Nat := listSum (l.map fun (lo, v) => v * 2 ^ lo)

def bitNat (b : Bool) : Nat := if b then 1 else 0

/-- The descriptor of a trap record with a given number of pending records (R354). -/
def descriptor (r : TrapRec) (pend : Nat) : Nat :=
  packFields [(63, bitNat r.skip), (62, bitNat r.nested), (61, bitNat r.issx), (56, pend), (32, r.imm), (26, r.lane),
    (24, r.member), (23, r.path), (21, r.plane), (18, r.slot), (8, r.cls), (0, r.code)]

/-- The first eight doublewords of a record (R354). -/
def recordWords (r : TrapRec) (pend : Nat) : List Nat :=
  [descriptor r pend, r.pc, r.seq, r.addr, r.info, r.resume, r.vbeat, r.gtc]

/-- A record read back from its eight doublewords. -/
def recordOfWords (l : List Nat) : TrapRec :=
  let d : DWord := BitVec.ofNat 64 (l.getD 0 0)
  { code := bits d 7 0, cls := bits d 9 8, slot := bits d 20 18, plane := bits d 22 21, path := bits d 23 23
    member := bits d 25 24, lane := bits d 31 26, imm := bits d 47 32, issx := d.getLsbD 61, nested := d.getLsbD 62
    skip := d.getLsbD 63, pc := l.getD 1 0, seq := l.getD 2 0, addr := l.getD 3 0, info := l.getD 4 0
    resume := l.getD 5 0, vbeat := l.getD 6 0, gtc := l.getD 7 0 }

/-- Doublewords as bytes. -/
def wordsBytes (l : List Nat) : List Byte := l.flatMap fun n => leBytes 8 (BitVec.ofNat 64 n)
/-- The 256 bytes of 64 lanes. -/
def lanesBytes (v : Lanes) : List Byte := v.toList.flatMap fun (w : Word) => leBytes 4 w
/-- 64 lanes from bytes. -/
def lanesOfBytes (bs : List Byte) : Lanes := Lanes.ofLane fun l => ofLe 32 ((bs.drop (4 * l)).take 4)

/-- The streams of a warp as path and plane, in issue order, at most four (R30, R38): where VPLANE under a split makes more, a frame keeps
the first four (DESIGN CHOICE, log 80). -/
def streamsOf (w : Warp) : List (Nat × Nat) :=
  ((pathsOf w).flatMap fun p => (occupied w p).map fun pl => (p, pl)).take 4

/-- The path's bundles have all issued in the beat that is under way: its gap still counts that beat. -/
def pathSpent (q : PathSt) : Bool := 0 < q.gap && !q.issued.isEmpty

/-- The place after a bundle. -/
def nextPlace (w : Warp) (pl : Place) : Place :=
  if w.region.isSome then { pl with off := pl.off + 1 } else { addr := (pl.addr + 16) % 2 ^ 64, off := 0 }

/-- The address and the offset of the bundle that follows one a plane has issued, while its path still stands at that one's place. -/
def comingBundle (w : Warp) (q : PathSt) (plane : Nat) : Nat × Nat :=
  let at_ (p : Place) : Nat × Nat := (bundleAddr w p plane, p.off)
  match q.delay, w.region with
  | some { left := 0, what := .goto p }, _ => at_ p
  | some { left := 0, what := .leave }, some r => ((r.base + r.len * r.p * 16) % 2 ^ 64, 0)
  | _, _ => at_ (nextPlace w q.place)

/-- A stream-state block (R355): a stream that has issued in the trapping beat stands at its next bundle, with the idle beats before it. -/
def streamWords (w : Warp) (path plane : Nat) : List Nat :=
  let q := getPath w path
  let ahead := q.issued.contains plane && q.gap = 0
  let (addr, off) := if ahead then comingBundle w q plane else (bundleAddr w q.place plane, q.place.off)
  [packFields [(63, 1), (62, bitNat (q.issued.contains plane)), (61, path), (59, plane),
     (16, (if ahead then q.rest else if pathSpent q then q.gap - 1 else q.gap) % 16),
     (0, off)],
   addr, q.xm.toNat, q.mask.toNat, q.vp0.toNat, q.vp1.toNat, q.vpv.toNat,
   packFields [(0, pathDepth q), (16, (w.sptop - w.stklim) / 32)]]

/-- The latches of a bank in frame order (R353). -/
def bankLatches (b : Bank) : List VReg := [b.v1, b.v2, b.v3, b.m1, b.m2, b.x1]

/-- The number of the stream's block among the warp's streams. -/
def streamNo (w : Warp) (path plane : Nat) : Nat := (streamsOf w).findIdx (· = (path, plane))

/-- The header of an in-flight entry: REM counts to the first latch, or to a scalar's visibility; a result that has
passed its first latch holds 63 (R356, log 30). -/
def flightRem (f : Flight) : Nat :=
  match f.kind with
  | .scalar => f.land
  | .engine => (f.land + 63) % 64
  | _ => (f.land + 62) % 64

def flightKindCode : FlightKind → Nat
  | .vector => 0 | .memory => 1 | .engine => 2 | .scalar => 3

/-- The pieces of an in-flight entry. -/
def flightPieces (w : Warp) (at_ : Nat) (f : Flight) : List (Nat × List Byte) :=
  [(at_, wordsBytes [packFields [(63, 1), (61, flightKindCode f.kind), (59, streamNo w f.path f.plane % 4),
      (58, bitNat f.nw), (52, flightRem f), (0, f.dest)], f.mask.toNat]),
   (at_ + 16, if f.kind = .scalar then leBytes 8 f.value else lanesBytes f.data),
   (at_ + 272, leBytes 8 f.marks)]

/-- c.region as read by a path (R69). -/
def regionWord (w : Warp) (path : Nat) : Nat :=
  match w.region with
  | none => 0
  | some r => packFields [(63, 1), (48, if r.p = 4 then 2 else if r.p = 2 then 1 else 0), (32, r.len),
      (16, (getPath w path).place.off)]

/-- c.path as read by a path (R70). -/
def pathWord (w : Warp) (path : Nat) : Nat :=
  let q := getPath w path
  packFields [(63, bitNat w.split.isSome), (62, path), (0, pathDepth q)]

/-- Every piece of the latch image that is not zero (R353, R355, R356). `conf` says that a conflict beat is to come. -/
def latchImage (m : Mach) (k : Nat) (w : Warp) (conf : Bool) : List (Nat × List Byte) :=
  let ss := streamsOf w
  let idx := List.range ss.length
  (ss.zip idx).map (fun ((p, pl), i) => (0x100 + 64 * i, wordsBytes (streamWords w p pl))) ++
  (ss.zip idx).flatMap (fun ((p, pl), i) =>
    ((bankLatches (getBank (getPath w p) pl)).zip (List.range 6)).flatMap fun (r, j) =>
      if r = VReg.zero then [] else
        [(0x600 + 0x600 * i + 0x100 * j, lanesBytes r.lanes), (0x1e00 + 8 * (6 * i + j), leBytes 8 r.marks)]) ++
  [(0x1ec0, wordsBytes [w.pmlo.toNat, w.pmhi.toNat, regionWord w 0, pathWord w 0,
     packFields [(0, bitNat conf), (1, bitNat (openChain m k).isSome)]])] ++
  ((w.flight.zip (List.range 86)).flatMap fun (f, i) => flightPieces w (0x1f00 + 288 * i) f)

/-! ### Trace records (R415 to R418) -/

/-- The debug page's address in every context (R415). -/
def pageBase : Nat := 0x200000010000

/-- A doubleword of a context's debug page by its offset. -/
def dbgWord (c : Context) (off : Nat) : DWord := mapGetD c.page off 0#64

/-- Bits of the page's first doubleword (R415). -/
def dbgCtl (c : Context) (bit : Nat) : Bool := c.dbg && (dbgWord c 0).getLsbD bit

/-- Write a doubleword of the page that the device keeps (R415). -/
def writePage (m : Mach) (ctx off v : Nat) : Mach :=
  match translateNow m ctx (pageBase + off) .read false with
  | .ok h => writeBytes m h.key (leBytes 8 (BitVec.ofNat 64 v))
  | .error _ => m

/-- The stopped warps of a context, those that a save holds among them (R415, R423). -/
def stoppedWarps (m : Mach) (ctx : Nat) : Nat :=
  (m.warps.filter fun (_, v) => v.ctx = ctx && v.stopped.isSome).length +
  listSum ((m.nodes.filter fun (_, n) => n.ctx = ctx).map fun (_, n) => n.saved.elim 0 fun s =>
    (s.warps.filter fun (_, _, v) => v.stopped.isSome).length)

/-- The doubleword at 0x110 of a context's debug page (R415). -/
def dumpWord (m : Mach) (ctx : Nat) : Nat :=
  (getCtx? m ctx).elim (stoppedWarps m ctx) fun c =>
    packFields [(63, bitNat c.ddone), (62, bitNat c.derr), (0, stoppedWarps m ctx)]

/-- The device writes that doubleword (R415). -/
def noteStops (m : Mach) (ctx : Nat) : Mach := writePage m ctx 0x110 (dumpWord m ctx)

/-- The fields of a record (R417). -/
structure TraceRec where
  typ    : Nat
  code   : Nat
  issx   : Bool
  member : Nat
  path   : Nat
  tindex : Nat
  teamw  : Nat
  nameA  : Nat
  b      : Nat
  gtc    : Nat
  extra  : List Nat
  deriving DecidableEq, Repr

/-- A name word (R414). -/
def nameWord (seq plane cidx : Nat) : Nat := packFields [(32, seq), (29, plane), (0, cidx)]

/-- The doublewords of a record. -/
def traceWords (r : TraceRec) : List Nat :=
  [packFields [(56, r.typ), (52, (4 + r.extra.length) / 4), (44, r.code), (43, bitNat r.issx), (41, r.member), (40, r.path),
     (31, r.tindex), (27, r.teamw)], r.nameA, r.b, r.gtc] ++ r.extra

/-- A stretch of memory holds a poisoned word. -/
def meetsPoison (m : Mach) (key n : Nat) : Bool := (wordsOf key n).any fun a => mapGet? m.ecc a = some .poison

/-- Where the 32-byte units of a record lie in the ring, when all can be written: none meets a translation fault or poison (R416). -/
def traceKeys (m : Mach) (ctx base len head units : Nat) : Option (List Nat) :=
  (List.range units).mapM fun i =>
    match translateNow m ctx (base + (head + 32 * i) % len) .write false with
    | .ok h => if meetsPoison m h.key 32 then none else some h.key
    | .error _ => none

/-- Write a record to the context's ring, or lose it and count it (R416). -/
def traceWrite (m : Mach) (ctx : Nat) (r : TraceRec) : Mach :=
  match getCtx? m ctx with
  | none => m
  | some c =>
    let ws := traceWords r
    let units := ws.length / 4
    let len := bits (dbgWord c 0x18) 31 0
    let wrap := (dbgWord c 0).getLsbD 1
    let keys := if len = 0 || (!wrap && len < c.head + 32 * units) then none
      else traceKeys m ctx (dbgWord c 0x10).toNat len c.head units
    match keys with
    | none =>
      let n := satAdd 32 c.drop 1
      writePage (updCtx m ctx fun c => { c with drop := n }) ctx 0x100 n
    | some ks =>
      let bs := wordsBytes ws
      let head := if wrap then (c.head + 32 * units) % len else c.head + 32 * units
      let m := writeWords m ((ks.zip (List.range units)).map fun (k, i) => (k, (bs.drop (32 * i)).take 32))
      writePage (updCtx m ctx fun c => { c with head := head }) ctx 0x108 head

/-- The header fields of a record about a warp. -/
def traceOf (w : Warp) (typ code path nameA b gtc : Nat) : TraceRec :=
  { typ := typ, code := code, issx := false, member := if w.gang.isSome then w.gidx else 0, path := path
    tindex := teamIndex w.team, teamw := w.teamw, nameA := nameA, b := b, gtc := gtc, extra := [] }

/-- The record of a trap that is delivered (R418). -/
def traceTrap (m : Mach) (w : Warp) (r : TrapRec) : Mach :=
  if (ctxOf m w).elim false (dbgCtl · 7) then
    traceWrite m w.ctx (traceOf w 5 r.code r.path (nameWord r.seq r.plane (codeIndex m w r.pc)) r.addr r.gtc)
  else m

/-- The record area of a frame: the trap record with the saved scalars, and the pending records (R353, R354). -/
def recordPieces (r : TrapRec) (rest : List TrapRec) (s53 s54 : Nat) : List (Nat × List Byte) :=
  [(0, wordsBytes (recordWords r rest.length ++ [s53, s54]))] ++
  ((rest.zip (List.range 16)).map fun (p, i) => (0x200 + 64 * i, wordsBytes (recordWords p 0)))

/-- Write the pieces of an image at a key, everything else in its `n` bytes zero. -/
def writeImage (m : Mach) (key n : Nat) (ps : List (Nat × List Byte)) : Mach :=
  writeWords (zeroRun m key n) (ps.map fun (o, bs) => (key + o, bs))

/-- Where a warp's trap frame lies (R350). -/
def frameAddr (m : Mach) (w : Warp) : Nat :=
  ((getNode? m w.node).elim 0 (·.tframe)) + (teamIndex w.team * 16 + w.teamw) * 0x8000

/-- The frame of a warp: that of the trap it has taken, else that of the next one. -/
def frameOf (m : Mach) (w : Warp) : Nat :=
  match w.trapped with
  | .handler f | .pumal f _ _ => f
  | .running => frameAddr m w

/-- The translation of a warp's frame, from the TLBs that serve its core, or else from the tables (R350, R400, R401). -/
def frameHit (m : Mach) (k : Nat) (w : Warp) (kind : AccKind) : Except XFault Hit :=
  translateFor m (tlbLookup m (coreOf k) w.ctx (frameOf m w)) w.ctx (frameOf m w) kind

/-- The walk for a warp's frame, where no TLB holds its page. -/
def frameWalk (gtc : Nat) (m : Mach) (k : Nat) (w : Warp) : Mach :=
  if (tlbLookup m (coreOf k) w.ctx (frameOf m w)).isSome then m
  else joinWalk gtc m (dieOf (clusterOf k)) w.ctx (frameOf m w)

/-- The frame of a warp in its handler or frozen, when it can be read. -/
def frameKey? (m : Mach) (k : Nat) (w : Warp) : Option Nat := (frameHit m k w .read).toOption.map (·.key)

/-! ### Taking a trap (R348 to R352) -/

/-- Codes that always go to the supervisor (R349). -/
def alwaysPumal (code : Nat) : Bool := code = 0x60 || code = 0x64 || code = 0x65

/-- Whether a code is routed to the context's handler (R349). -/
def routed (m : Mach) (w : Warp) (code : Nat) : Bool :=
  !alwaysPumal code && (ctxOf m w).elim false (fun c => c.route.getLsbD code)

/-- What the warp keeps on chip. -/
def shadowOf (w : Warp) (conf : Bool) : Shadow :=
  { p0 := w.p0, p1 := w.p1, split := w.split, region := w.region, pmlo := w.pmlo, pmhi := w.pmhi, flight := w.flight
    late := w.late, portsIn := w.portsIn, user := w.user, conf := conf, mark53 := (getS w 53).mark, mark54 := (getS w 54).mark
    prod53 := scalarProducer w 53, prod54 := scalarProducer w 54 }

/-- Enter the handler with a record: s53, s54 and a fresh stream at HENTRY (R350). -/
def enterHandler (m : Mach) (k frame : Nat) (r : TrapRec) (rest : List TrapRec) : Mach :=
  updWarp m k fun w =>
    let h := (ctxOf m w).elim 0 (·.hentry)
    let w := putS (putS w 53 (BitVec.ofNat 64 frame) false) 54 (BitVec.ofNat 64 (descriptor r rest.length)) false
    { w with trapped := .handler frame, record := some r, pend := rest, p0 := freshPath h, p1 := none, split := none
             region := none, pmlo := 0#64, pmhi := 0#64, flight := [], late := [], portsIn := []
             user := [], block := none, enter := true, ret := false }

/-- Freeze the warp for Pumal with a record (R351). -/
def freezeForPumal (m : Mach) (k frame : Nat) (r : TrapRec) (rest : List TrapRec) (inHandler : Bool)
    (held : Option TrapRec) : Mach :=
  updWarp m k fun w => { w with trapped := .pumal frame inHandler held, record := some r, pend := rest, block := none }

/-- Take a trap at the warp's boundary: the one operation for every class (R350 to R352). `conf` says that the boundary
bundle's conflict beat is still to come; `rest` are the records that join the pending list. -/
def takeTrap (m : Mach) (k : Nat) (r : TrapRec) (rest : List TrapRec) (conf : Bool) : Mach :=
  match getWarp? m k with
  | none => m
  | some w =>
    match w.trapped with
    | .pumal .. => m
    | .handler frame =>
      let m := traceTrap m w { r with nested := true }
      deselect (freezeForPumal m k frame { r with nested := true } w.pend true none) k
    | .running =>
      let rest := rest.take 16
      let frame := frameAddr m w
      let m := frameWalk r.gtc (updWarp m k fun w => { w with shadow := some (shadowOf w conf) }) k w
      match frameHit m k w .write with
      | .error e =>
        let fr := { r with code := e.code, cls := 1, slot := 4, lane := 0, imm := 0, addr := frame
                           info := xinfo .write e.level }
        let m := traceTrap m w fr
        deselect (freezeForPumal m k frame fr rest false (some r)) k
      | .ok h =>
        let m := writeImage (dropRun m (coreOf k) h.key 0x8000) h.key 0x8000
          (recordPieces r rest (getS w 53).value.toNat (getS w 54).value.toNat ++ latchImage m k w conf)
        let m := traceTrap m w r
        if routed m w r.code then enterHandler m k frame r rest
        else deselect (freezeForPumal m k frame r rest false none) k

/-! ### Leaving a trap (R357) -/

/-- Doubleword `i` of bytes. -/
def wordAt (bs : List Byte) (o : Nat) : DWord := ofLe 64 ((bs.drop o).take 8)

/-- A bank read back from a frame (R353). -/
def bankOfFrame (bs : List Byte) (i : Nat) : Bank :=
  let l (j : Nat) : VReg := { lanes := lanesOfBytes (bs.drop (0x600 + 0x600 * i + 0x100 * j))
                              marks := wordAt bs (0x1e00 + 8 * (6 * i + j)) }
  { v1 := l 0, v2 := l 1, v3 := l 2, m1 := l 3, m2 := l 4, x1 := l 5 }

/-- The streams a frame holds: block number, path and plane. -/
def frameStreams (bs : List Byte) : List (Nat × Nat × Nat) :=
  (List.range 4).filterMap fun i =>
    let d := wordAt bs (0x100 + 64 * i)
    if d.getLsbD 63 then some (i, bits d 61 61, bits d 60 59) else none

/-- A stream of a frame has issued in the trapping beat: DONE (R355). -/
def frameDone (bs : List Byte) (i : Nat) : Bool := (wordAt bs (0x100 + 64 * i)).getLsbD 62

/-- A path with what its stream blocks hold (R355); what the blocks do not hold is kept on chip. Its place is that of a stream which is
still to issue, if there is one. -/
def pathOfFrame (bs : List Byte) (p : Nat) (q : PathSt) : PathSt :=
  let mine := (frameStreams bs).filter fun (_, path, _) => path = p
  match mine.filter (fun x => !frameDone bs x.1) ++ mine with
  | [] => q
  | (i, _, _) :: _ =>
    let base := 0x100 + 64 * i
    let d := wordAt bs base
    let issued := (mine.filter fun x => frameDone bs x.1).map (·.2.2)
    { q with
      issued := issued
      gap := if pathSpent q && !issued.isEmpty then bits d 19 16 + 1 else bits d 19 16
      place := { addr := if q.place.off = bits d 15 0 then (wordAt bs (base + 8)).toNat else q.place.addr
                 off := bits d 15 0 }
      xm := wordAt bs (base + 16), mask := wordAt bs (base + 24)
      vp0 := wordAt bs (base + 32), vp1 := wordAt bs (base + 40), vpv := wordAt bs (base + 48)
      banks := (mine.map fun (j, _, pl) => { plane := pl, bank := bankOfFrame bs j : PlaneBank }).filter
        fun x => x.bank != Bank.empty }

/-- The kind of a frame's in-flight entry. -/
def kindOfCode (n : Nat) : FlightKind :=
  if n = 0 then .vector else if n = 1 then .memory else if n = 2 then .engine else .scalar

/-- A result of which nothing is known but what a frame holds: it covers every lane and has reserved no queue entry. -/
def Flight.blank : Flight :=
  { kind := .vector, path := 0, plane := 0, nw := false, land := 0, dest := 0, mask := 0#64, dom := ~~~0#64, wr := ~~~0#64
    data := Lanes.zero, value := 0#64, marks := 0#64, ticket := none, side := 0 }

/-- An in-flight entry read back; the on-chip part keeps what the table does not hold. -/
def flightOfFrame (bs : List Byte) (ss : List (Nat × Nat × Nat)) (f : Flight) (i : Nat) : Option Flight :=
  let a := 0x1f00 + 288 * i
  let d := wordAt bs a
  if !d.getLsbD 63 then none
  else
    let kind := kindOfCode (bits d 62 61)
    let rem := bits d 57 52
    let st := (ss.find? fun (j, _, _) => j = bits d 60 59).getD (0, f.path, f.plane)
    some { f with kind := kind, nw := d.getLsbD 58, dest := bits d 6 0, path := st.2.1, plane := st.2.2
                  side := if st.2.1 = f.path then f.side else st.2.1
                  land := match kind with
                    | .scalar => rem
                    | .engine => (rem + 1) % 64
                    | _ => (rem + 2) % 64
                  mask := wordAt bs (a + 8)
                  data := if kind = .scalar then f.data else lanesOfBytes (bs.drop (a + 16))
                  value := if kind = .scalar then wordAt bs (a + 16) else f.value
                  marks := wordAt bs (a + 272) }

/-- The region of a frame's c.region word: the one kept on chip where the word is as it was written, else the region that holds the
bundle of the first stream at its offset (R69, R353). -/
def regionOfFrame (bs : List Byte) (old : Nat) (r : Option Region) : Option Region :=
  let d := wordAt bs 0x1ed0
  if d.toNat = old then r
  else if !d.getLsbD 63 then none
  else
    let p := 2 ^ min 2 (bits d 49 48)
    some { base := ((wordAt bs 0x108).toNat + 2 ^ 64 - bits (wordAt bs 0x100) 15 0 * p * 16) % 2 ^ 64, p := p, len := bits d 47 32 }

/-- Restore a warp from its frame and its shadow (R357 step 3, log 33). -/
def thaw (w : Warp) (bs : List Byte) : Warp :=
  match w.shadow with
  | none => { w with trapped := .running, record := none, pend := [] }
  | some sh =>
    let ss := frameStreams bs
    let was := { w with p0 := sh.p0, region := sh.region }
    let split := (wordAt bs 0x1ed8).getLsbD 63
    let toCome := (wordAt bs 0x1ee0).getLsbD 0
    let conf (q : PathSt) : PathSt := if toCome = sh.conf then q else { q with conf := if toCome then .none else .past }
    let w := putS (putS w 53 (wordAt bs 0x40) sh.mark53) 54 (wordAt bs 0x48) sh.mark54
    let w := nameScalar (nameScalar w 53 sh.mark53 sh.prod53) 54 sh.mark54 sh.prod54
    { w with trapped := .running, shadow := none, record := none, pend := [], enter := false, ret := false, late := sh.late
             portsIn := sh.portsIn, user := sh.user, block := none, sptop := w.stklim + 32 * (bits (wordAt bs 0x138) 31 16)
             p0 := conf (pathOfFrame bs 0 sh.p0), p1 := if split then sh.p1.map fun q => conf (pathOfFrame bs 1 q) else none
             split := if split then sh.split else none, region := regionOfFrame bs (regionWord was 0) sh.region
             pmlo := wordAt bs 0x1ec0, pmhi := wordAt bs 0x1ec8
             flight := (List.range 86).filterMap fun i => flightOfFrame bs ss (sh.flight.getD i Flight.blank) i }


end Sys2Proof.Machine
end

