-- ==== Sys2Proof/Machine/Operands.lean ====
section
/-!
DEFINITION. Operands of bundle operations: what each operation names, how a scalar, a vector source, a latch, the
broadcast scalar and a queue port are read, how results are sent, and the checks that operands make (R44, R54, R60,
R61, R114, R200, R227, R260).
-/

namespace Sys2Proof

/-- The scalar registers an operation reads, in operand order (R44, R258). PREF never pops (R223). -/
def Instr.sreads : Instr → List (BitVec 6)
  | .ldv _ sa _ _ _ | .stv _ sa _ _ _ | .ldg _ _ sa _ | .stg _ _ sa _ | .lds _ sa _ _ _ | .ldsAcq _ sa _ _ _ _
  | .spld _ _ sa | .spst _ _ sa | .splds _ sa _ _
  | .atomvAdd _ _ sa _ | .atomvAnd _ _ sa _ | .atomvOr _ _ sa _ | .atomvXor _ _ sa _
  | .atomvMin _ _ sa _ | .atomvMax _ _ sa _ | .atomvMinu _ _ sa _ | .atomvMaxu _ _ sa _
  | .casv _ _ sa _ | .daccv _ _ _ sa | .vspill _ sa _ _ | .vfill _ sa _ _ => [sa]
  | .sts st sa _ _ _ | .stsRel st sa _ _ _ _ | .spsts st sa _ _ => [st, sa]
  | .atomsAdd _ sa sv _ _ | .atomsAnd _ sa sv _ _ | .atomsOr _ sa sv _ _ | .atomsXor _ sa sv _ _
  | .atomsMin _ sa sv _ _ | .atomsMax _ sa sv _ _ | .atomsMinu _ sa sv _ _ | .atomsMaxu _ sa sv _ _
  | .daccs _ sa sv => [sa, sv]
  | .cass st sa sv _ _ => [st, sa, sv]
  | .cpy _ d s x _ | .cpyin _ d s x _ | .cpyout _ d s x _ | .cpyr _ d s x _ =>
    [d.setWidth 6, s.setWidth 6, x.setWidth 6]
  | .cpym _ d s x _ | .cpyat _ d s x _ => [d.setWidth 6, s.setWidth 6, x.setWidth 6, x.setWidth 6 + 1]
  | .cpyz _ d x _ => [d.setWidth 6, x.setWidth 6]
  | .tdef _ s => [s]
  | .xsv _ sa _ | .tpost sa _ => [sa]
  | .add _ sa sb | .sub _ sa sb | .mul _ sa sb | .mulhi _ sa sb | .mulhu _ sa sb | .div _ sa sb | .divu _ sa sb
  | .rem _ sa sb | .remu _ sa sb | .and _ sa sb | .or _ sa sb | .xor _ sa sb | .shl _ sa sb | .shr _ sa sb
  | .sra _ sa sb | .cmp _ _ sa sb => [sa, sb]
  | .addi _ sa _ | .andi _ sa _ | .ori _ sa _ | .xori _ sa _ | .shli _ sa _ | .shri _ sa _ | .srai _ sa _
  | .clz _ sa | .ctz _ sa | .popc _ sa | .cmpi _ _ sa _ => [sa]
  | .sel sd sa sb => [sd, sa, sb]
  | .br _ sa _ | .callr sa | .bgo _ _ sa | .setx sa | .cwr _ sa | .cwrWtimer sa | .cwrGdead sa | .timer sa
  | .sprint _ _ sa _ => [sa]
  | .brd sc _ _ => [sc]
  | .ret => [54#6]
  | _ => []

/-- The per-lane operations of the M slot that name a scalar: under a zero execute mask they read nothing (R48). -/
def Instr.perLane : Instr → Bool
  | .ldv .. | .stv .. | .ldg .. | .stg .. | .spld .. | .spst .. | .atomvAdd .. | .atomvAnd .. | .atomvOr .. | .atomvXor .. | .atomvMin ..
  | .atomvMax .. | .atomvMinu .. | .atomvMaxu .. | .casv .. | .daccv .. | .vspill .. | .vfill .. => true
  | _ => false

/-- The vector register fields that a V-slot operation reads, vd included where it accumulates (R60, R154). -/
def Instr.vsources : Instr → List (BitVec 7)
  | .vadd _ a b _ | .vsub _ a b _ | .vmul _ a b _ | .vmulhi _ a b _ | .vmin _ a b _ | .vmax _ a b _ | .vminu _ a b _
  | .vmaxu _ a b _ | .vand _ a b _ | .vor _ a b _ | .vxor _ a b _ | .vandn _ a b _ | .vshl _ a b _ | .vshr _ a b _
  | .vsra _ a b _ | .vfadd _ a b _ | .vfsub _ a b _ | .vfmul _ a b _ | .vfmin _ a b _ | .vfmax _ a b _
  | .vfdiv _ a b _ | .vbpackM7 _ a b _ | .vbpackM4 _ a b _ | .vbpackM2 _ a b _ | .vrng _ a b _ | .vshfl _ a b _
  | .vrotl _ a b _ => [a, b]
  | .vcmpEq _ a b | .vcmpNe _ a b | .vcmpLt _ a b | .vcmpLe _ a b | .vcmpLtu _ a b | .vcmpLeu _ a b
  | .vfcmpEq _ a b | .vfcmpNe _ a b | .vfcmpLt _ a b | .vfcmpLe _ a b | .vfcmpUn _ a b | .vmatch _ a b => [a, b]
  | .vsel d a b _ | .vfma d a b _ | .vfms d a b _ => [d, a, b]
  | .vclz _ a _ | .vpopc _ a _ | .vmov _ a _ | .vfabs _ a _ | .vfneg _ a _ | .vfsqrt _ a _ | .vfexp2 _ a _
  | .vflog2 _ a _ | .vfrnd _ a _ _ | .vcvt _ a _ _ _ | .vupkh _ a _ _ _ | .vbunpk _ a _ | .vfkey _ a _
  | .vredadd _ a _ | .vredfadd _ a _ | .vredmax _ a _ | .vscan _ a _ | .vfscan _ a _ | .vplane a => [a]
  | .vpkh d a _ _ _ _ => [d, a]
  | _ => []

/-- The vector registers an operation of any slot names besides V-slot sources. -/
def Instr.vothers : Instr → List (BitVec 7)
  | .vadd d _ _ _ | .vsub d _ _ _ | .vmul d _ _ _ | .vmulhi d _ _ _ | .vmin d _ _ _ | .vmax d _ _ _ | .vminu d _ _ _
  | .vmaxu d _ _ _ | .vand d _ _ _ | .vor d _ _ _ | .vxor d _ _ _ | .vandn d _ _ _ | .vshl d _ _ _ | .vshr d _ _ _
  | .vsra d _ _ _ | .vfadd d _ _ _ | .vfsub d _ _ _ | .vfmul d _ _ _ | .vfmin d _ _ _ | .vfmax d _ _ _
  | .vfdiv d _ _ _ | .vbpackM7 d _ _ _ | .vbpackM4 d _ _ _ | .vbpackM2 d _ _ _ | .vrng d _ _ _ | .vshfl d _ _ _
  | .vrotl d _ _ _ | .vsel d _ _ _ | .vfma d _ _ _ | .vfms d _ _ _ => [d]
  | .vclz d _ _ | .vpopc d _ _ | .vmov d _ _ | .vfabs d _ _ | .vfneg d _ _ | .vfsqrt d _ _ | .vfexp2 d _ _
  | .vflog2 d _ _ | .vfrnd d _ _ _ | .vcvt d _ _ _ _ | .vupkh d _ _ _ _ | .vbunpk d _ _ | .vfkey d _ _
  | .vredadd d _ _ | .vredfadd d _ _ | .vredmax d _ _ | .vscan d _ _ | .vfscan d _ _ | .vpkh d _ _ _ _ _
  | .vmovi d _ _ | .viota d _ => [d]
  | .ldv t _ _ _ _ | .stv t _ _ _ _ | .tld t _ _ | .vspill t _ _ _ | .vfill t _ _ _ => [t]
  | .ldg t x _ _ | .stg t x _ _ | .spld t x _ | .spst t x _ | .atomvAdd t x _ _ | .atomvAnd t x _ _
  | .atomvOr t x _ _ | .atomvXor t x _ _ | .atomvMin t x _ _ | .atomvMax t x _ _ | .atomvMinu t x _ _
  | .atomvMaxu t x _ _ | .daccv _ t x _ => [t, x]
  | .casv t x _ _ => [t, t + 1, x]
  | .mpop d | .xsv d _ _ => [d]
  | .xvs _ a _ => [a]
  | _ => []

/-- Whether the V slot names bs, code 119 (R61). -/
def Instr.namesBs (i : Instr) : Bool := i.vsources.contains 119#7

/-- A bundle whose V slot conflicts: two different registers of one bank among its sources (R60). -/
def Instr.bankConflict (i : Instr) : Bool :=
  let rs := (i.vsources.filter fun r => r.toNat ≤ 111).map (·.toNat) |>.eraseDups
  rs.any fun a => rs.any fun b => a != b && a % 4 = b % 4

/-- The transfer instructions (R269). -/
def Instr.transfers : Instr → Bool
  | .br .. | .brf .. | .jmp _ | .call _ | .callr _ | .ret | .brd .. | .join | .bgo .. | .penter .. | .pexit | .trap _
  | .eret => true
  | _ => false

namespace Machine

/-- The execute and asynchronous faults by name (R347). -/
inductive TrapName where
  | poison | queueRole | queueClosed | queueRange | queueBind | flagBusy | flagUnowned | flushBusy
  | addrCanon | addrAlign | spBounds | stackLimit | rangeLock | detAtomic | detOrder | daccFull | tileRange
  | tileState | tileDesc | copyDesc | meState | meOperand | bankConflict | chainLimit | gangState
  | gangMismatch | gangDiverge | barrState | planeRange | privOp | cregReserved | tbEmpty | joinAddr
  | regBusy | blockFormat | fpTrap | userTrap | copyRemote | copyLength | remoteFail
  deriving DecidableEq, Repr

/-- The code of a fault (R347). -/
def TrapName.code : TrapName → Nat
  | .poison => 0x10 | .queueRole => 0x11 | .queueClosed => 0x12 | .queueRange => 0x13 | .queueBind => 0x14
  | .flagBusy => 0x15 | .flagUnowned => 0x16 | .flushBusy => 0x17 | .addrCanon => 0x18 | .addrAlign => 0x19
  | .spBounds => 0x1a | .stackLimit => 0x1b | .rangeLock => 0x1c | .detAtomic => 0x1d | .detOrder => 0x1e
  | .daccFull => 0x1f | .tileRange => 0x20 | .tileState => 0x21 | .tileDesc => 0x22 | .copyDesc => 0x23
  | .meState => 0x24 | .meOperand => 0x25 | .bankConflict => 0x26 | .chainLimit => 0x27
  | .gangState => 0x28 | .gangMismatch => 0x29 | .gangDiverge => 0x2a | .barrState => 0x2b
  | .planeRange => 0x2c | .privOp => 0x2d | .cregReserved => 0x2e | .tbEmpty => 0x2f | .joinAddr => 0x30
  | .regBusy => 0x31 | .blockFormat => 0x32 | .fpTrap => 0x33 | .userTrap => 0x34 | .copyRemote => 0x38
  | .copyLength => 0x39 | .remoteFail => 0x3a

/-- An exception found by a check: its code and what its record holds (R354). -/
structure Exn where
  code : Nat
  lane : Nat := 0
  addr : Nat := 0
  info : Nat := 0
  imm  : Nat := 0
  deriving DecidableEq, Repr

/-- What one operation of a bundle would do at its boundary: the debug stop it makes (R292), the first check that fails, the exceptions of
c.exs its active lanes raise, the condition that blocks it with the pages it misses, its effect, what it does when every check passes
although its bundle blocks (R39, R254), what it does once its bundle and the beat it closes are over (R291, R300), and the trap that
follows its bundle (R290, R359). -/
structure Action where
  trap   : Option Exn := none
  raised : Nat := 0
  block  : Option Cause := none
  miss   : List Nat := []
  fx     : Mach → Mach := id
  early  : Mach → Mach := id
  stop   : Option Stop := none
  last   : Mach → Mach := id
  after  : Option Exn := none

/-- A queue entry that a port read pops: port, queue, the entry's value if it can be popped now, the flagged producer of a poisoned one. -/
structure Pop where
  port  : Nat
  queue : Nat
  value : Option SReg
  prod  : Nat
  shut  : Bool
  deriving DecidableEq, Repr

/-- What an operation sees when its bundle is examined: the machine and its warp as they are at issue, its stream, its
execute mask, its own bundle's address and code index, b and LIMM, the queue entries the bundle pops, whether the bundle is a sync bundle of
a region, and the GTC. -/
structure Ctx where
  d     : Dev
  m     : Mach
  k     : Nat
  w     : Warp
  path  : Nat
  plane : Nat
  mask  : DWord
  addr  : Nat
  cidx  : Nat
  b     : Nat
  limm  : Option (BitVec 22)
  pops  : List Pop
  sync  : Bool

/-- The meaning of an operation inside a bundle. -/
abbrev Act := Ctx → Action

/-- The issuing path. -/
def Ctx.q (c : Ctx) : PathSt := getPath c.w c.path

/-- NOP: nothing (R146). -/
def nopAct : Act := fun _ => {}

/-- The first exception found. -/
def firstExn : List (Option Exn) → Option Exn
  | [] => none
  | some e :: _ => some e
  | none :: rest => firstExn rest

/-- The counter that a block's cause is charged to (R419). -/
def Cause.counter : Cause → Nat
  | .flag => 7 | .qempty => 8 | .qfull => 9 | .tile => 10 | .reserve => 11 | .stepq => 11 | .barrier => 12 | .fence => 13
  | .xlate => 14 | .grow => 15 | .join => 16 | .lock => 17 | .gang => 18

/-- The lower-numbered of two causes, the former where they are charged alike (R419). -/
def Cause.least (a b : Cause) : Cause := if b.counter < a.counter then b else a

/-- The lowest-numbered cause of those that hold at once (R419). -/
def leastCause : List (Option Cause) → Option Cause
  | [] => none
  | some a :: rest => some ((leastCause rest).elim a a.least)
  | none :: rest => leastCause rest

/-- An exception with nothing but its name, when a condition holds. -/
def exnIf (b : Bool) (t : TrapName) : Option Exn := if b then some { code := t.code } else none
def causeIf (b : Bool) (c : Cause) : Option Cause := if b then some c else none

/-- The lowest lane of a mask for which a test holds. -/
def firstLane (mask : DWord) (p : Nat → Bool) : Option Nat := (lanesOf mask).find? p

/-! ### Translation of an operation's addresses (R199, R401) -/

/-- What the translation of one address gives: the access's key and leaf, a fault, or a miss of a page. -/
inductive Xlate where
  | hit (key : Nat) (leaf : DWord) (level : Nat)
  | fault (e : Exn)
  | miss (page : Nat)
  deriving DecidableEq, Repr

/-- The fault of a translation, and the page it misses. -/
def Xlate.fault? : Xlate → Option Exn
  | .fault e => some e
  | .hit .. | .miss _ => none
def Xlate.missed : Xlate → List Nat
  | .miss p => [p]
  | .hit .. | .fault _ => []

/-- Translate an address of the warp through what its stack cache and the TLBs hold; a finished walk that faulted gives its fault (R199,
R399, R401). -/
def Ctx.xlate (c : Ctx) (va : Nat) (kind : AccKind) : Xlate :=
  if !canonical va then .fault { code := TrapName.addrCanon.code, addr := va, info := xinfo kind 0 }
  else
    match heldLeaf c.m c.k c.w va kind with
    | some (leaf, level) =>
      match leafAccess c.m kind false leaf with
      | some code => .fault { code := code, addr := va, info := xinfo kind level }
      | none => .hit (homeKey c.m level leaf va) leaf level
    | none =>
      match c.w.ffault.find? (·.1 = va / 65536) with
      | some (_, code, level) => .fault { code := code, addr := va, info := xinfo kind level }
      | none => .miss (va / 65536)

/-! ### Scalars -/

/-- Scalar `n` as the bundle reads it: the popped entry of a consumer-bound port, else the register (R44, R62). -/
def Ctx.s (c : Ctx) (n : BitVec 6) : SReg :=
  match portOf c.w n.toNat with
  | some { queue := _, role := .consumer } =>
    ((c.pops.find? (·.port = n.toNat)).bind (·.value)).getD SReg.zero
  | _ => getS c.w n.toNat

/-- The value of scalar `n`. -/
def Ctx.sv (c : Ctx) (n : BitVec 6) : DWord := (c.s n).value

/-- The flagged producer recorded for scalar `n` as the bundle reads it; 0 for none (R114). -/
def Ctx.scalarProd (c : Ctx) (n : BitVec 6) : Nat :=
  match portOf c.w n.toNat with
  | some { queue := _, role := .consumer } => ((c.pops.find? (·.port = n.toNat)).map (·.prod)).getD 0
  | _ => scalarProducer c.w n.toNat

/-- The poison check of scalar operands; the record names the value's flagged producer (R114). -/
def Ctx.poisonS (c : Ctx) (ns : List (BitVec 6)) : Option Exn :=
  (ns.find? fun n => (c.s n).mark).map fun n => { code := TrapName.poison.code, info := c.scalarProd n }

/-- The role checks of scalar sources and destinations (R44). -/
def Ctx.roles (c : Ctx) (srcs : List (BitVec 6)) (dst : Option (BitVec 6)) : Option Exn :=
  exnIf ((srcs.any fun n => (portOf c.w n.toNat).elim false (·.role = .producer)) ||
    (dst.elim false fun n => (portOf c.w n.toNat).elim false (·.role = .consumer))) .queueRole

/-- A consumer-bound port read while its queue is empty and closed (R44). -/
def Ctx.shut (c : Ctx) (srcs : List (BitVec 6)) : Option Exn :=
  exnIf (srcs.any fun n => c.pops.any fun p => p.port = n.toNat && p.shut) .queueClosed

/-- FLAG_BUSY: the named flag is pending (R66). -/
def Ctx.flagBusy (c : Ctx) (f : Nat) : Option Exn := exnIf (getF c.w f).pend .flagBusy

/-- The checks every scalar operand makes, in order: POISON, QUEUE_ROLE, QUEUE_CLOSED. DESIGN CHOICE (log 79): R200's table has no row for
QUEUE_CLOSED, and the model puts it behind QUEUE_ROLE. -/
def Ctx.scalars (c : Ctx) (srcs : List (BitVec 6)) (dst : Option (BitVec 6)) : Option Exn :=
  firstExn [c.poisonS srcs, c.roles srcs dst, c.shut srcs]

/-- Add a result in flight to the issuing warp. -/
def addFlight (m : Mach) (k : Nat) (f : Flight) : Mach := updWarp m k fun w => { w with flight := w.flight ++ [f] }

/-- Send a scalar result that is visible `l` beats after issue; a producer-bound port reserves its entry at issue
(R62, R64, R169, R251, R259). -/
def Ctx.sendS (c : Ctx) (dst : BitVec 6) (v : DWord) (mark : Bool) (l : Nat) (m : Mach) : Mach :=
  if dst = 0#6 then m
  else
    let f : Flight := { kind := .scalar, path := c.path, plane := c.plane, nw := false, land := l, dest := dst.toNat
                        mask := 0#64, dom := 0#64, wr := 0#64, data := Lanes.zero, value := v
                        marks := if mark then 1#64 else 0#64, ticket := none, side := c.path }
    match portOf c.w dst.toNat with
    | some { queue := q, role := .producer } =>
      addFlight (pushQueue (bump m) c.w.team q m.tick none false) c.k { f with ticket := some (q, m.tick) }
    | _ => addFlight m c.k f

/-! ### Vectors -/

/-- A V-slot source: a register, a latch of the stream's own bank, or bs (R54, R55, R61). -/
def Ctx.src (c : Ctx) (n : BitVec 7) : VReg :=
  let b := getBank (getPath c.w c.path) c.plane
  if n.toNat ≤ 111 then getV c.w n.toNat
  else if n = 112#7 then b.v1 else if n = 113#7 then b.v2 else if n = 114#7 then b.v3
  else if n = 115#7 then b.m1 else if n = 116#7 then b.m2 else if n = 117#7 then b.x1
  else
    let r := c.s (BitVec.ofNat 6 c.b)
    { lanes := Lanes.splat (r.value.setWidth 32), marks := if r.mark then ~~~0#64 else 0#64 }

/-- The flagged producer recorded for a lane of the first marked source; 0 for none (R114). -/
def Ctx.laneProd (c : Ctx) (rs : List (BitVec 7)) (l : Nat) : Nat :=
  match rs.find? fun r => maskBit (c.src r).marks l with
  | none => 0
  | some r => if r.toNat ≤ 111 then laneProducer c.w r.toNat l
    else if r = 119#7 then c.scalarProd (BitVec.ofNat 6 c.b) else 0

/-- The poison check of vector operands in active lanes (R114): the lowest marked lane, and the value's flagged producer. -/
def Ctx.poisonV (c : Ctx) (rs : List (BitVec 7)) : Option Exn :=
  (firstLane c.mask fun l => rs.any fun r => maskBit (c.src r).marks l).map fun l =>
    { code := TrapName.poison.code, lane := l, info := c.laneProd rs l }

/-- Send a vector result with latency `l`: the V and M paths land at the end of beat t + l + 1, the X path at the end of
beat t + l (R56). -/
def Ctx.sendV (c : Ctx) (kind : FlightKind) (l : Nat) (dst : BitVec 7) (nw : Bool) (mask : DWord) (data : Lanes)
    (marks : DWord) (m : Mach) : Mach :=
  addFlight m c.k
    { kind := kind, path := c.path, plane := c.plane, nw := nw, land := if kind = .engine then l + 1 else l + 2
      dest := dst.toNat, mask := mask, dom := ~~~0#64, wr := ~~~0#64, data := data, value := 0#64, marks := marks
      ticket := none, side := c.path }

/-! ### Engine sequence numbers (R71, R226) -/

/-- The value c.seq takes when the warp issues a command in this machine. -/
def Ctx.nextSeq (c : Ctx) (m : Mach) : Nat := ((getWarp? m c.k).elim 0 (·.seq) + 1) % 2 ^ 32

/-- Count an engine command (R226). -/
def Ctx.countCommand (c : Ctx) (m : Mach) : Mach := updWarp m c.k fun w => { w with seq := (w.seq + 1) % 2 ^ 32 }

/-- The gang of the warp with the number of its record (R40). -/
def Ctx.gang? (c : Ctx) : Option (Nat × Gang) := c.w.gang.bind fun g => (mapGet? c.m.gangs g).map fun x => (g, x)

/-- The gang of a warp that runs in it: a member's handler takes its own decisions. -/
def Ctx.runningGang? (c : Ctx) : Option (Nat × Gang) := if c.w.trapped = .running then c.gang? else none

/-- A control decision in gang mode (R41): the lead's is recorded; a member compares its own with it. -/
def Ctx.decide (c : Ctx) (taken : Bool) (target : Nat) : Option Exn × (Mach → Mach) :=
  match c.runningGang? with
  | none => (none, id)
  | some (g, x) =>
    let upd (f : Gang → Gang) : Mach → Mach := fun m => { m with gangs := mapUpd m.gangs g f }
    let i := c.w.gidx
    if i = 0 then (none, upd fun x => { x with decided := x.decided ++ [(taken, target)] })
    else
      let u := x.used.getD i 0
      (exnIf (x.decided[u]? != some (taken, target)) .gangDiverge, upd fun x => { x with used := x.used.set i (u + 1) })

/-- Arm a flag for an operation of this bundle (R66, R67). -/
def Ctx.arm (c : Ctx) (f : Nat) (m : Mach) : Mach := updWarp m c.k fun w => armFlag w f w.seq c.plane c.cidx

/-- Add an operation to the warp's memory order. -/
def addOp (m : Mach) (k : Nat) (o : MemOp) : Mach := updWarp m k fun w => { w with ops := w.ops ++ [o] }

end Machine
end Sys2Proof
end

