-- ==== Sys2Proof/Machine/Flags.lean ====
section
/-!
DEFINITION. Flag computations: raising exception flags in c.exs and the task's record with the first occurrence in
logical order (R51, R72, R73, R121, R171), FP_TRAP, the condition codes of scalar and vector compares (R189, R268).
-/

namespace Sys2Proof.Machine

/-- Logical order of two raisings (R51). -/
def occBefore (a b : Occurrence) : Bool :=
  let key (o : Occurrence) : List Nat := [o.tindex, o.teamw, o.vbeat, o.plane, o.path, o.flag, o.cmd]
  before (key a) (key b)
where
  /-- Lexicographic order of two lists of equal length. -/
  before : List Nat → List Nat → Bool
    | x :: xs, y :: ys => x < y || (x = y && before xs ys)
    | _, _ => false

/-- The lowest flag number of a set of flags. -/
def lowestFlag (fl : Nat) : Nat := ((List.range 7).find? fun i => fl.testBit i).getD 0

/-- Merge raised flags into a task's record: EXS and the first occurrence (R51, R73, R387). -/
def raiseNode (m : Mach) (node fl : Nat) (o : Occurrence) : Mach :=
  if fl = 0 then m
  else updNode m node fun n =>
    let o := { o with flag := lowestFlag fl }
    { n with exs := n.exs ||| fl
             first := match n.first with
               | none => some o
               | some p => if occBefore o p then some o else some p }

/-- Set bits of c.exs of a warp (R73). -/
def raiseWarp (m : Mach) (k fl : Nat) : Mach :=
  if fl = 0 then m else updWarp m k fun w => { w with exs := w.exs ||| fl }

/-- The point of logical order of an operation of this bundle. -/
def Ctx.occurrence (c : Ctx) : Occurrence :=
  { tindex := teamIndex c.w.team, teamw := c.w.teamw, vbeat := c.w.vbeat, plane := c.plane, path := c.path, flag := 0
    cmd := 0, cidx := c.cidx, seq := c.w.seq }

/-- Raise flags of an operation of this bundle (R121, R171). -/
def Ctx.raise (c : Ctx) (fl : Nat) (m : Mach) : Mach := raiseNode (raiseWarp m c.k fl) c.w.node fl c.occurrence

/-- The trap enables of the warp's context (R72). -/
def Ctx.fpte (c : Ctx) : Nat := (ctxOf c.m c.w).elim 0 (·.fpte)

/-- FP_TRAP: a raised flag whose FPTE bit is 1; the lane is the lowest that raises one (R72, R171). -/
def Ctx.fpTrap (c : Ctx) (flags : Nat → Nat) : Option Exn :=
  (firstLane c.mask fun l => flags l &&& c.fpte != 0).map fun l => { code := TrapName.fpTrap.code, lane := l }

/-- All flags raised in the active lanes. -/
def allFlags (mask : DWord) (flags : Nat → Nat) : Nat := (lanesOf mask).foldl (fun a l => a ||| flags l) 0

/-- A condition code on 64-bit operands (R268). -/
def ccHolds (cc : Cc) (a b : DWord) : Bool :=
  match cc with
  | .eq => a = b
  | .ne => a != b
  | .lt => a.slt b
  | .le => a.sle b
  | .ltu => a.ult b
  | .leu => a.ule b

/-- A condition code on 32-bit lanes (R189). -/
def ccLane (cc : Cc) (a b : Word) : Bool :=
  match cc with
  | .eq => a = b
  | .ne => a != b
  | .lt => a.slt b
  | .le => a.sle b
  | .ltu => a.ult b
  | .leu => a.ule b

end Sys2Proof.Machine
end

