-- ==== Sys2Proof/Machine/Stack.lean ====
section
/-!
DEFINITION. The stack cache of a warp (R89) and the reconvergence spill area that lives in it (R470).
-/

namespace Sys2Proof.Machine

/-! ### Watchpoints (R427) -/

/-- One access as a watchpoint sees it. -/
structure Seen where
  va    : Nat
  n     : Nat
  write : Bool
  deriving DecidableEq, Repr

/-- The lowest hit of watchpoint `i`: address and whether it is a write. -/
def watchHitOf (c : Context) (i : Nat) (ss : List Seen) : Option (Nat × Bool) :=
  let base := (dbgWord c (0x80 + 16 * i)).toNat
  let w := dbgWord c (0x88 + 16 * i)
  let len := bits w 31 0
  if !w.getLsbD 63 then none
  else
    let hit (s : Seen) : Option (Nat × Bool) :=
      if (if s.write then w.getLsbD 61 else w.getLsbD 62) && s.va < base + len && base < s.va + s.n then
        some (max s.va base, s.write) else none
    listBest (fun a b => a.1 < b.1 || (a.1 = b.1 && a.2)) (ss.filterMap hit)

/-- The watchpoints that some accesses hit. -/
def watchedBy (m : Mach) (ctx : Nat) (ss : List Seen) : List Nat :=
  (getCtx? m ctx).elim [] fun c => if c.dbg then (List.range 8).filter fun i => (watchHitOf c i ss).isSome else []

/-- Record the hits of one instruction or command but those of the watchpoints `but`; with WSTOP the live warp `stop` is to stop
(R427). -/
def watchHits (m : Mach) (ctx : Nat) (r : TraceRec) (accessor : Nat) (stop : Option Nat) (but : List Nat) (ss : List Seen) :
    Mach :=
  match getCtx? m ctx with
  | none => m
  | some c =>
    if !c.dbg then m
    else ((List.range 8).filter fun i => !but.contains i).foldl (fun m i =>
      match watchHitOf c i ss with
      | none => m
      | some (a, wr) =>
        let m := traceWrite m ctx { r with typ := 4, code := 32 * i + 16 * bitNat wr + accessor, b := a }
        match stop, dbgCtl c 2 with
        | some k, true => updWarp m k fun w => if w.watchHit.isSome then w else { w with watchHit := some i }
        | _, _ => m) m

/-- The hits of a thread's operation. -/
def threadHits (gtc : Nat) (m : Mach) (k : Nat) (o : MemOp) (ss : List Seen) : Mach :=
  match getWarp? m k with
  | none => m
  | some w => watchHits m w.ctx (traceOf w 4 0 o.path (nameWord o.seq o.plane o.cidx) 0 gtc) 0 (some k) [] ss

/-! ### Lines -/

/-- The most lines a stack cache holds (R89). -/
def stackLines : Nat := 64

/-- The watch hits of a VSPILL's write-back, at most one record for a watchpoint (R427). -/
def spillHit (gtc : Nat) (m : Mach) (k : Nat) (notes : List SpillNote) (h : SpillNote) : Mach :=
  match getWarp? m k with
  | none => m
  | some w =>
    let mine := notes.filter (·.op.id = h.op.id)
    let ss := mine.map fun x => { va := x.va, n := x.n, write := true : Seen }
    let r := traceOf w 4 0 h.op.path (nameWord h.op.seq h.op.plane h.op.cidx) 0 gtc
    let more (x : SpillNote) : SpillNote := if x.op.id = h.op.id then { x with hit := x.hit ++ watchedBy m w.ctx ss } else x
    updWarp (watchHits m w.ctx r 0 (some k) (mine.flatMap (·.hit)) ss) k fun w =>
      { w with stack := w.stack.map fun (a, l) => (a, { l with notes := l.notes.map more }) }

/-- One note for each VSPILL of a line. -/
def noteHeads : List SpillNote → List SpillNote
  | [] => []
  | h :: rest => h :: (noteHeads rest).filter fun x => x.op.id != h.op.id

/-- A line leaves a warp's stack cache: a dirty one is written back to memory, what it holds in error recorded and its poisoned words
given the poison syndrome (R89, R112 to R114), with the watch hits of the VSPILLs whose bytes it carries (R427); the core's L1 loses its own
copy, so that no later read of the warp is older than what the warp has read and written here (R98). -/
def writeBack (x : Accessor) (k : Nat) (m : Mach) (line : StackLine) : Mach :=
  let m := dropRun m (coreOf k) line.key 128
  if line.dirty then
    let m := (noteLine x 5 line.key m line.ecc (mapKeys line.ecc)).1
    let m := line.ecc.foldl (fun m (o, e) => if e.bad then poisonWord m (line.key + o) else m) (writeBytes m line.key line.bytes)
    (noteHeads line.notes).foldl (fun m h => spillHit x.gtc m k line.notes h) m
  else m

/-- The line of an address leaves a warp's stack cache. -/
def evictLine (x : Accessor) (k : Nat) (m : Mach) (a : Nat) : Mach :=
  match (getWarp? m k).bind fun w => mapGet? w.stack a with
  | none => m
  | some l => updWarp (writeBack x k m l) k fun w => { w with stack := mapErase w.stack a }

/-- Fetch the line of an address into the stack cache, noting its words in error; a full cache evicts a line that the manual leaves
open. -/
def stackFetch (x : Accessor) (m : Mach) (k va : Nat) (h : Hit) : Mach :=
  match getWarp? m k with
  | none => m
  | some w =>
    if (mapGet? w.stack (lineOf va)).isSome then m
    else
      let base := h.key - va % 128
      let line : StackLine :=
        { bytes := memBytes m base 128, dirty := false, key := base, leaf := h.leaf, level := h.level
          ecc := (List.range 16).filterMap fun i => if wordBad m (base + 8 * i) then some (8 * i, .poison) else none }
      let m := noteRead x m base 128
      let put (m : Mach) : Mach := updWarp m k fun w => { w with stack := mapPut w.stack (lineOf va) line }
      if w.stack.length < stackLines then put m
      else
        match w.stack[Config.evicted m.tick % stackLines]? with
        | some (a, _) => put (evictLine x k (bump m) a)
        | none => put m

/-- Replace bytes of a list from an offset. -/
def patch (bs : List Byte) (o : Nat) (new : List Byte) : List Byte :=
  bs.take o ++ new ++ bs.drop (o + new.length)

/-- The line of an address of the stack cache with words of it read: the records of those in error (R112, R116). -/
def stackNote (x : Accessor) (m : Mach) (k va : Nat) (ws : List Nat) : Mach :=
  match (getWarp? m k).bind fun w => mapGet? w.stack (lineOf va) with
  | none => m
  | some l =>
    let (m, ecc) := noteLine x 5 l.key m l.ecc ws
    updWarp m k fun w => { w with stack := mapUpd w.stack (lineOf va) fun l => { l with ecc := ecc } }

/-- What one instruction writes through the stack cache: all its bytes, and those of them that carry no mark; the VSPILL that it is. -/
structure StackWrites where
  all   : List (Nat × List Byte)
  good  : List (Nat × List Byte)
  spill : Option MemOp := none

/-- Write bytes of an instruction that lie in one line through the stack cache; `bad` marks their word poisoned. A word that the instruction
writes whole, if by several lanes, is not read and gets fresh check bits (R111, R114, R115, R222). -/
def stackWrite (x : Accessor) (m : Mach) (k : Nat) (ws : StackWrites) (va : Nat) (h : Hit) (bs : List Byte) (bad : Bool) : Mach :=
  let o := va % 128
  let words := wordsOf o bs.length
  let m := stackNote x (stackFetch x m k va h) k va (words.filter fun p => !coversWord ws.all (lineOf va + p))
  updWarp m k fun w =>
    let upd (l : StackLine) : StackLine :=
      { l with bytes := patch l.bytes o bs, dirty := true
               notes := l.notes.filter (·.va != va) ++ ws.spill.toList.map fun p =>
                 { op := { p with acc := [] }, va := va, n := bs.length, hit := [] }
               ecc := words.foldl (fun e p =>
                 if bad then mapPut e p .poison
                 else if coversWord ws.good (lineOf va + p) then mapErase e p
                 else if (mapGet? e p).elim false Ecc.bad then mapPut e p .poison else e) l.ecc }
    { w with stack := mapUpd w.stack (lineOf va) upd }

/-- One unmarked write of its own. -/
def stackPut (x : Accessor) (m : Mach) (k va : Nat) (h : Hit) (bs : List Byte) : Mach :=
  stackWrite x m k { all := [(va, bs)], good := [(va, bs)] } va h bs false

/-- What an access was translated to. -/
def Access.hit (a : Access) : Hit := { key := a.key, leaf := a.leaf, level := a.level }

/-- The writes of one instruction through the stack cache (R89, R111, R222). -/
def stackStore (x : Accessor) (m : Mach) (k : Nat) (as : List Access) (spill : Option MemOp := none) : Mach :=
  let ws : StackWrites :=
    { all := as.map fun a => (a.va, a.data), good := (as.filter fun a => !a.mark).map fun a => (a.va, a.data), spill := spill }
  as.foldl (fun m a => stackWrite x m k ws a.va a.hit a.data a.mark) m

/-- Read bytes that lie in one line through the stack cache, with their poison. -/
def stackRead (x : Accessor) (m : Mach) (k va : Nat) (h : Hit) (n : Nat) : Mach × List Byte × Bool :=
  let m := stackFetch x m k va h
  let o := va % 128
  match (getWarp? m k).bind fun w => mapGet? w.stack (lineOf va) with
  | some l =>
    (stackNote x m k va (wordsOf o n), (l.bytes.drop o).take n, (wordsOf o n).any fun p => (mapGet? l.ecc p).elim false Ecc.bad)
  | none => (m, List.replicate n 0#8, false)

/-! ### Reconvergence entries in memory (R470) -/

/-- The doublewords of a spilled entry: lanes, target, join, path and free mark. -/
def entryWords (path : Nat) (e : REntry) : List Byte :=
  wordsBytes [e.lanes.toNat, e.target, e.join, path]

/-- An entry read back; `kept` is what the warp kept of it on chip. -/
def entryOf (bs : List Byte) (kept : SpilledEntry) : REntry :=
  { lanes := wordAt bs 0, target := (wordAt bs 8).toNat, join := (wordAt bs 16).toNat, whole := kept.whole, inReg := kept.inReg
    turned := kept.turned, origin := kept.origin }

/-- The translation of an address of the spill area: what the stack cache or the TLBs hold, else a walk. -/
def spillHit? (m : Mach) (k : Nat) (w : Warp) (va : Nat) : Option Hit :=
  match heldLeaf m k w va .write with
  | some (leaf, level) => some { key := homeKey m level leaf va, leaf := leaf, level := level }
  | none => (translateNow m w.ctx va .write false).toOption

/-- A translation of the next bytes of the same line. -/
def Hit.plus (h : Hit) (n : Nat) : Hit := { h with key := h.key + n }

/-- The reconvergence stack's accesses, named by the bundle at which a path stands or, for a push, by the BRD (R116). -/
def stackAccessor (gtc : Nat) (m : Mach) (w : Warp) (path : Nat) : Accessor :=
  let q := getPath w path
  let (pc, seq) := q.origin.getD (joinCoord w q.place, w.seq)
  accessorOf gtc m w.ctx (nameWord seq 0 (codeIndex m w pc))

/-- Push an entry: the ninth of a path sends its oldest on-chip entry to the spill top (R470). -/
def pushEntry (gtc : Nat) (m : Mach) (k path : Nat) (e : REntry) : Mach :=
  match getWarp? m k with
  | none => m
  | some w =>
    let q := getPath w path
    let keep (w : Warp) : Mach := setWarp m k (updPath w path fun q => { q with stack := e :: q.stack })
    match q.stack.getLast?, if 8 ≤ q.stack.length then spillHit? m k w w.sptop else none with
    | some old, some h =>
      updWarp (stackPut (stackAccessor gtc m w path) m k w.sptop h (entryWords path old)) k fun w =>
        let kept : SpilledEntry := { whole := old.whole, inReg := old.inReg, turned := old.turned, origin := old.origin }
        { updPath w path (fun q => { q with stack := e :: q.stack.dropLast, spilled := kept :: q.spilled }) with
          sptop := w.sptop + 32 }
    | _, _ => keep w

/-- The spilled slots of the area from the newest down: address and contents. -/
def spillSlots (x : Accessor) (m : Mach) (k : Nat) (w : Warp) : List (Nat × Hit × List Byte) :=
  ((List.range ((w.sptop - w.stklim) / 32)).map fun i => w.sptop - 32 * (i + 1)).filterMap fun a =>
    (spillHit? m k w a).map fun h => (a, h, (stackRead x m k a h 32).2.1)

/-- The spill top without the free slots at the top of the area (R470). -/
def trimTop (slots : List (Nat × Hit × List Byte)) (top : Nat) : Nat :=
  match slots with
  | [] => top
  | (a, _, bs) :: rest => if (wordAt bs 24).getLsbD 1 then trimTop rest a else top

/-- After a pop: the path's newest spilled entry returns to the chip (R470). -/
def refill (gtc : Nat) (m : Mach) (k path : Nat) : Mach :=
  match getWarp? m k with
  | none => m
  | some w =>
    let q := getPath w path
    let x := stackAccessor gtc m w path
    if 8 ≤ q.stack.length then m
    else
      let slot := (spillSlots x m k w).find? fun (_, _, bs) =>
        bits (wordAt bs 24) 0 0 = path && !(wordAt bs 24).getLsbD 1
      match q.spilled, slot with
      | [], _ => m
      | _, none => m
      | kept :: more, some (a, h, bs) =>
        let m := (stackRead x m k a h 32).1
        let m := stackPut x m k (a + 24) (h.plus 24) (leBytes 8 (wordAt bs 24 ||| 2#64))
        updWarp m k fun w =>
          let w := updPath w path fun q => { q with stack := q.stack ++ [entryOf bs kept], spilled := more }
          { w with sptop := trimTop (spillSlots x m k w) w.sptop }

/-- Pop the newest entry of a path. -/
def popEntry (gtc : Nat) (m : Mach) (k path : Nat) : Mach :=
  refill gtc (updWarp m k fun w => updPath w path fun q => { q with stack := q.stack.drop 1 }) k path

end Sys2Proof.Machine
end

