-- ==== Sys2Proof/Machine/Issue.lean ====
section
/-!
DEFINITION. How a bundle comes to issue: fetch, decode and the three stages of examination (R158, R359), the streams of
a beat in issue order (R30, R35), conflict beats, blocks, the traps a beat finds (R358), and where a path goes next
(R34 to R38, R269).
-/

namespace Sys2Proof.Machine

/-- Codes of the decode faults (R347). -/
def decodeCode : DecodeFault → Nat
  | .opcUndef => 0x01 | .fieldRsvd => 0x02 | .rmCode => 0x03 | .vregCode => 0x04 | .regUnalloc => 0x05
  | .limmUse => 0x06 | .cregUndef => 0x07 | .crossLimit => 0x08 | .sdestConflict => 0x09 | .qportConflict => 0x0a
  | .flagConflict => 0x0b | .planeAlign => 0x0c | .planeControl => 0x0d | .planeSync => 0x0e | .delayBranch => 0x0f
  | .poison => 0x10

def slotCode : Option Slot → Nat
  | some .v => 0 | some .m => 1 | some .x => 2 | some .c => 3 | none => 4

/-! ### Fetch (R90, R113, R270) -/

/-- The bundle at an address of a warp, or why it cannot be had. The spec allows any instant from the dispatch on; the model fetches as it
examines the bundle (R90, log 66). -/
inductive Fetch where
  | got (w : Bundle)
  | poisoned
  | fault (e : Exn)
  | miss (page : Nat)
  deriving DecidableEq, Repr

def fetchAt (m : Mach) (k : Nat) (w : Warp) (addr : Nat) : Fetch :=
  if !canonical addr then .fault { code := TrapName.addrCanon.code, addr := addr, info := xinfo .fetch 0 }
  else
    let read (key : Nat) : Fetch :=
      let (bs, bad) := readBytes m key 16
      if bad then .poisoned else .got (bundleOfBytes bs)
    match tlbLookup m (coreOf k) w.ctx addr with
    | some e =>
      match leafAccess m .fetch false e.leaf with
      | some code => .fault { code := code, addr := addr, info := xinfo .fetch e.level }
      | none => read (leafTarget m.pkg e.level e.leaf addr)
    | none =>
      match w.ffault.find? (·.1 = addr / 65536) with
      | some (_, code, level) => .fault { code := code, addr := addr, info := xinfo .fetch level }
      | none => .miss (addr / 65536)

/-! ### Decode faults that the state decides (R28, R29, R31, R34, R46) -/

/-- A vector register in a chunk the warp does not hold. -/
def unheld (w : Warp) (n : BitVec 7) : Bool := n.toNat ≤ 111 && 64 + 16 * w.chunks ≤ n.toNat

/-- Rank 6 and rank 10 faults of a decoded bundle of a stream. `lead` is plane 0's bundle at the same offset. PLANE_SYNC names no slot,
and comes before the C slot's faults of its rank (log 72). -/
def stateFaults (w : Warp) (path plane addr : Nat) (o : BundleOps) (lead : Option BundleOps) : List SlotFault :=
  let slots : List (Slot × Instr) := [(.v, o.v), (.m, o.m), (.x, o.x), (.c, o.c)]
  (slots.filterMap fun (s, i) =>
    if (i.vsources ++ i.vothers).any (unheld w) then some (.regUnalloc, some s) else none) ++
  (match w.region, o.c with
   | none, .penter pl len =>
     let p := 2 ^ pl.toNat
     if pl = 3#2 || len = 0#16 || (addr + 16) % (p * 16) != 0 then [(.planeAlign, some .c)] else []
   | none, .pexit => [(.planeControl, some .c)]
   | none, _ => []
   | some _, c =>
     (if plane != 0 && c != .nop then [(.planeControl, some .c)] else
       match c with
       | .jmp _ | .call _ | .callr _ | .ret | .bprep .. | .bgo .. | .penter .. => [(.planeControl, some .c)]
       | _ => []) ++
     (match lead with
      | some l => if l.gap = o.gap && l.sync = o.sync then [] else [(.planeSync, none)]
      | none => [])) ++
  (if (getPath w path).delay.isSome && o.c.transfers then [(.delayBranch, some .c)] else [])

/-! ### A gang's broadcast (R40, R41) -/

/-- The gang of a warp that runs as one of its members; a member's handler is its own. -/
def gangOf? (m : Mach) (w : Warp) : Option Gang :=
  if w.trapped = .running then w.gang.bind fun g => mapGet? m.gangs g else none

/-- The first bundle for an address that a member has yet to take from the lead's broadcast, with its number. -/
def Gang.unread (x : Gang) (i addr : Nat) : Option (Broadcast × Nat) :=
  ((x.bundles.zip (List.range x.bundles.length)).drop (x.read.getD i 0)).find? (·.1.addr = addr)

/-- The last bundle for an address that a member has taken. -/
def Gang.taken (x : Gang) (i addr : Nat) : Option Broadcast :=
  ((x.bundles.take (x.read.getD i 0)).reverse).find? (·.addr = addr)

/-- What a member hears from the lead for the bundle of a stream (R40). -/
def heard (m : Mach) (w : Warp) (path plane : Nat) : Option Broadcast :=
  (gangOf? m w).bind fun x =>
    if w.gidx = 0 then none else (x.unread w.gidx (bundleAddr w (getPath w path).place plane)).map (·.1)

/-- The bundle of a stream: a gang member has it from the lead (R40). -/
def fetchFor (m : Mach) (k : Nat) (w : Warp) (path plane : Nat) : Fetch :=
  match heard m w path plane with
  | some b => .got b.word
  | none => fetchAt m k w (bundleAddr w (getPath w path).place plane)

/-- What the fetch of a stream's bundle finds in error is recorded, and a single error corrected, as the bundle issues or raises POISON
(R112, R113, R116, log 66). -/
def noteFetch (gtc : Nat) (m : Mach) (k : Nat) (w : Warp) (path plane : Nat) : Mach :=
  let addr := bundleAddr w (getPath w path).place plane
  match heard m w path plane, tlbLookup m (coreOf k) w.ctx addr with
  | none, some e => noteRead (accessorOf gtc m w.ctx (nameWord w.seq plane (codeIndex m w addr))) m (leafTarget m.pkg e.level e.leaf addr) 16
  | _, _ => m

/-- What a member knows of plane 0's bundle at its offset: the one it has taken, or the one that comes next. -/
def leadHeard (m : Mach) (w : Warp) (path : Nat) : Option Broadcast :=
  if (getPath w path).issued.isEmpty then heard m w path 0
  else (gangOf? m w).bind fun x =>
    if w.gidx = 0 then none else x.taken w.gidx (bundleAddr w (getPath w path).place 0)

/-- The bundle of plane 0 at the place of a path, as far as it decodes. -/
def leadOps (m : Mach) (k : Nat) (w : Warp) (path : Nat) : Option BundleOps :=
  match leadHeard m w path with
  | some b => some (bundleOps b.word)
  | none => match fetchAt m k w (bundleAddr w (getPath w path).place 0) with
    | .got b => some (bundleOps b)
    | _ => none

/-- Bundles that every member has long taken are dropped; the last eight stay for the planes of an offset. -/
def Gang.trim (x : Gang) : Gang :=
  let waiting := (List.range x.members.length).filter fun i => i != 0 && !x.left.contains i
  let n := (listBest (· < ·) (waiting.map fun i => x.read.getD i 0)).getD x.bundles.length - 8
  { x with bundles := x.bundles.drop n, read := x.read.map (· - n) }

/-- The issue of a stream's bundle in a gang: the lead broadcasts it, a member has taken it (R40). The GANG bundle itself is each
member's own. -/
def noteIssue (m : Mach) (w : Warp) (path plane : Nat) (word : Bundle) (planes : List Nat) : Mach :=
  match w.gang, gangOf? m w with
  | some g, some x =>
    let addr := bundleAddr w (getPath w path).place plane
    let x' : Gang := if w.gidx != 0 then
        match x.unread w.gidx addr with
        | some (_, n) => { x with read := x.read.set w.gidx (n + 1) }
        | none => x
      else if x.beats.getD 0 0 = 0 then x
      else { x with bundles := x.bundles ++
        [{ addr := addr, word := word, conf := (getPath w path).conf = .past, planes := planes }] }
    { m with gangs := mapPut m.gangs g x'.trim }
  | _, _ => m

/-! ### Examination (R359) -/

/-- The result of examining one stream's bundle: a debug stop, a fault with its class and slot, a block with the pages it misses, or
the bundle ready to issue. -/
inductive Exam where
  | stop (s : Stop)
  | fault (cls : Nat) (slot : Nat) (e : Exn)
  | wait (c : Cause) (miss : List Nat) (early : Mach → Mach)
  | ready (v m x c : Action)

/-- The scalar that a V slot reads as bs (R48, R61). -/
def vReads (mask : DWord) (o : BundleOps) (b : Nat) : List Nat := if o.v.namesBs && mask != 0#64 then [b] else []

/-- The scalars that an M slot reads: a per-lane operation reads none under a zero mask (R48, R114, log 81). -/
def mReads (mask : DWord) (o : BundleOps) : List (BitVec 6) := if mask = 0#64 && o.m.perLane then [] else o.m.sreads

/-- The ports a bundle reads, in slot order, each once (R44). PREF reads none. -/
def readPorts (w : Warp) (mask : DWord) (o : BundleOps) (b : Nat) : List Nat :=
  ((vReads mask o b ++
    (mReads mask o ++ o.x.sreads ++ o.c.sreads).map (·.toNat)).filter fun n =>
      (portOf w n).elim false (·.role = .consumer)).eraseDups

/-- The entries a bundle pops: the second port of one queue takes the second entry. -/
def popPlan (m : Mach) (w : Warp) (ports : List Nat) : List Pop :=
  (ports.zip (List.range ports.length)).filterMap fun (p, i) =>
    (portOf w p).map fun b =>
      let earlier := (ports.take i).filter fun r => (portOf w r).elim false fun x => x.queue = b.queue
      let q := getQueue m w.team b.queue
      let e := q.entries[earlier.length]?
      { port := p, queue := b.queue
        value := e.bind fun e => e.value.map fun v => { value := v, mark := e.mark }
        prod := e.elim 0 (·.prod)
        shut := e.isNone && q.closed }

/-- The pushes of a bundle that would find their queue full (R44, R201, R259). -/
def pushFull (m : Mach) (w : Warp) (o : BundleOps) : Bool :=
  let qs := ([o.v.sdest, o.m.sdest, o.x.sdest, o.c.sdest].filterMap id).filterMap fun d =>
    (portOf w d.toNat).bind fun b => if b.role = .producer then some b.queue else none
  (qs.zip (List.range qs.length)).any fun (q, i) =>
    16 ≤ (getQueue m w.team q).entries.length + ((qs.take i).filter (· = q)).length

/-- The flags of FWAIT that are clear, split by whether they are pending (R284). -/
def waitFlags (w : Warp) (mask : BitVec 16) (pend : Bool) : Bool :=
  (List.range 16).any fun f => mask.getLsbD f && !(getF w f).set && (getF w f).pend = pend

/-- A slot reads a port whose queue is empty and open: it has no operand yet (R44). -/
def starved (c : Ctx) (ns : List Nat) : Bool :=
  ns.any fun n => c.pops.any fun p => p.port = n && p.value.isNone && !p.shut

/-- Checks that read no scalar's value, and stand before those that do (R44, R200, R227, R260). -/
def valueFree : List Nat := [0x0d, 0x10, 0x11, 0x12, 0x15, 0x16, 0x24, 0x28, 0x2b, 0x2d, 0x2f, 0x31]

/-- What a slot without its operand can already show: a check that reads no value; its other checks, blocks and pages wait for the
operand (R44). -/
def Action.unfed (a : Action) (b : Bool) : Action :=
  if b then { trap := a.trap.filter fun e => valueFree.contains e.code, stop := a.stop } else a

/-- What is wrong with the place of a bundle: it follows the end of a region under a construct opened inside, or stands at its path's join
without a JOIN (R278, R283): of the streams at one place plane 0's alone, since the C slot is its. -/
inductive Misplaced where
  | pastEnd | noJoin
  deriving DecidableEq, Repr

/-- The faults of a misplaced bundle among those of its C slot, in the order of R260. -/
def placeTrap (p : Option Misplaced) (t : Option Exn) : Option Exn :=
  match p with
  | none => t
  | some .pastEnd =>
    if t.elim false fun e => [0x10, 0x11, 0x12, 0x2d, 0x15, 0x2e, 0x19].contains e.code then t
    else some { code := decodeCode .planeControl }
  | some .noJoin =>
    if t.elim true fun e => [0x31, 0x2a].contains e.code then some { code := TrapName.joinAddr.code } else t

/-- Stages 2 and 3 for decoded operations with their meanings. -/
def examOps (c : Ctx) (o : BundleOps) (av am ax ac : Act) (place : Option Misplaced := none) : Exam :=
  let flagStage : Option Exam := match o.c with
    | .fwait mask =>
      if waitFlags c.w mask false then some (.fault 1 3 { code := TrapName.flagUnowned.code })
      else if waitFlags c.w mask true then some (.wait .flag [] id) else none
    | _ => none
  match flagStage with
  | some e => e
  | none =>
    let v := (av c).unfed (starved c (vReads c.mask o c.b))
    let m := (am c).unfed (starved c ((mReads c.mask o).map (·.toNat)))
    let x := (ax c).unfed (starved c (o.x.sreads.map (·.toNat)))
    let k := (ac c).unfed (starved c (o.c.sreads.map (·.toNat)))
    match k.stop with
    | some s => .stop s
    | none =>
    match v.trap, m.trap, x.trap, placeTrap place k.trap with
    | some e, _, _, _ => .fault 1 0 e
    | none, some e, _, _ => .fault 1 1 e
    | none, none, some e, _ => .fault 1 2 e
    | none, none, none, some e => .fault 1 3 e
    | none, none, none, none =>
      let empty := c.pops.any fun p => p.value.isNone
      match leastCause [v.block, m.block, x.block, k.block, causeIf empty .qempty,
          causeIf (pushFull c.m c.w o) .qfull] with
      | some cause => .wait cause (v.miss ++ m.miss ++ x.miss ++ k.miss) x.early
      | none => .ready v m x k

/-- What an operation sees of a stream's bundle. -/
def ctxFor (d : Dev) (m : Mach) (k : Nat) (w : Warp) (path plane : Nat) (o : BundleOps) : Ctx :=
  let addr := bundleAddr w (getPath w path).place plane
  let mask := execMask w path plane
  { d := d, m := m, k := k, w := w, path := path, plane := plane, mask := mask, addr := addr
    cidx := codeIndex m w addr, b := o.b.toNat, limm := o.x.limm22
    pops := popPlan m w (readPorts w mask o o.b.toNat), sync := o.sync && w.region.isSome }

/-- The innermost join of a path: its newest entry's, else the split's (R278). -/
def joinOf (w : Warp) (path : Nat) : Option Nat :=
  if entryInner w path then (getPath w path).stack.head?.map (·.join) else w.split.map (·.join)

/-- A path stands at its join address and the bundle there has no JOIN (R278). -/
def joinMissing (w : Warp) (path : Nat) (o : BundleOps) : Bool :=
  let q := getPath w path
  !q.joined && joinOf w path = some (joinCoord w q.place) && o.c != .join

/-- A path stands at or past the end of its region with no transfer under way (R29). -/
def pastEnd (w : Warp) (path : Nat) : Bool :=
  let q := getPath w path
  (w.region.elim false fun r => r.len ≤ q.place.off) && (match q.delay with
    | none => true
    | some d => d.what = .fall)

/-- Leave the planed region (R29, R283): past its last bundle, every plane 0, pending plane numbers dropped. -/
def leaveRegion (w : Warp) (path : Nat) : Warp :=
  match w.region with
  | none => w
  | some r =>
    let w := updPath w path fun q =>
      { q with place := { addr := (r.base + r.len * r.p * 16) % 2 ^ 64, off := 0 }, vp0 := 0#64, vp1 := 0#64, vpv := 0#64 }
    { w with region := none, pmlo := 0#64, pmhi := 0#64 }

/-- How a stream's bundle is misplaced. -/
def misplaced (w : Warp) (path : Nat) (o : BundleOps) : Option Misplaced :=
  if pastEnd w path then some .pastEnd else if joinMissing w path o then some .noJoin else none

/-- The decode faults of a stream's bundle (R158); a bundle that follows the end of a region is judged as one outside it. -/
def decodeFault (m : Mach) (k : Nat) (w : Warp) (path plane : Nat) (b : Bundle) : Option SlotFault :=
  let wd := if pastEnd w path then leaveRegion w path else w
  let lead := if plane = 0 then none else leadOps m k w path
  firstFault (staticFaults b ++ stateFaults wd path plane (bundleAddr w (getPath w path).place plane) (bundleOps b) lead)

/-- Examine one stream's bundle: fetch, decode, flag wait, execute checks, blocks. -/
def examine (act : Instr → Act) (d : Dev) (m : Mach) (k : Nat) (w : Warp) (path plane : Nat) :
    Exam × Option BundleOps :=
  match fetchFor m k w path plane with
  | .miss p => (.wait .xlate [p] id, none)
  | .fault e => (.fault 1 4 e, none)
  | .poisoned => (.fault 0 4 { code := TrapName.poison.code }, none)
  | .got b =>
    let o := bundleOps b
    match decodeFault m k w path plane b with
    | some (f, s) => (.fault 0 (slotCode s) { code := decodeCode f }, some o)
    | none => (examOps (ctxFor d m k w path plane o) o (act o.v) (act o.m) (act o.x) (act o.c)
        (if plane = 0 then misplaced w path o else none), some o)

/-! ### Where a path goes (R34 to R38, R269 to R271) -/

/-- The place of a bundle address. -/
def placeAt (w : Warp) (addr : Nat) (pl : Place) : Place :=
  match w.region with
  | some r => { pl with off := (addr - r.base) / (16 * r.p) }
  | none => { addr := addr, off := 0 }

/-- Divide the results in flight of a path between both paths, in their order of issue (R59, R356). -/
def splitFlights (fs : List Flight) (taken : DWord) : List Flight :=
  fs.flatMap fun f =>
    if f.path = 0 && f.kind != .scalar then [{ f with wr := f.wr &&& ~~~taken }, { f with path := 1, wr := f.wr &&& taken }] else [f]

/-- A path leaves its region, by PEXIT or past its last offset: a sync point (R29, R33). -/
def exitRegion (m : Mach) (k path : Nat) (w : Warp) : Mach :=
  addSync (setWarp m k (updPath (leaveRegion w path) path fun q => { q with origin := none })) k path false

/-- Carry out a transfer after its delay slots (R34, R37). DESIGN CHOICE (log 92): the pending planes of lanes that go to neither path stay
with path 0 (R38, R196), and the sync points of PENTER and PEXIT lie after their bundles, whose own accesses stand before them (R33). -/
def performTransfer (gtc : Nat) (m : Mach) (k path : Nat) (t : Transfer) : Mach :=
  match getWarp? m k with
  | none => m
  | some w =>
    let q := getPath w path
    let after := nextPlace w q.place
    match t with
    | .goto p => setWarp m k (updPath w path fun q => { q with place := p })
    | .fall => setWarp m k (updPath w path fun q => { q with place := after, origin := none })
    | .enter r =>
      let w := updPath w path fun q => { q with place := { addr := 0, off := 0 } }
      addSync (setWarp m k { w with region := some r, pmlo := 0#64, pmhi := 0#64 }) k path false
    | .leave => exitRegion m k path w
    | .divide taken fallen target join false =>
      let p1 : PathSt := { q with mask := taken, place := target, delay := none, stack := [], spilled := [], joined := false
                                  vp0 := q.vp0 &&& taken, vp1 := q.vp1 &&& taken, vpv := q.vpv &&& taken }
      let p0 : PathSt := { q with mask := fallen, place := after, delay := none, origin := none
                                  vp0 := q.vp0 &&& ~~~taken, vp1 := q.vp1 &&& ~~~taken, vpv := q.vpv &&& ~~~taken }
      let sp : Split := { join := joinCoord w join, depth := pathDepth q, mask := q.mask, xm := q.xm, inReg := w.region.isSome }
      setWarp m k
        { w with p0 := p0, p1 := some p1, split := some sp
                 flight := splitFlights w.flight taken
                 ops := w.ops.map fun o => { o with both := true }
                 floors := (w.floors.1, w.floors.1), dones := (w.dones.1, w.dones.1) }
    | .divide taken fallen target join true =>
      let m := setWarp m k (updPath w path fun q => { q with mask := fallen, place := after, origin := none })
      pushEntry gtc m k path
        { lanes := taken, target := joinCoord w target, join := joinCoord w join, whole := q.mask, inReg := w.region.isSome
          turned := false, origin := q.origin }

/-- The execute mask that the bundles of this beat have written for a path comes into force (R62, R286). -/
def newMask (w : Warp) (path : Nat) : Warp :=
  w.late.foldl (fun w l => match l.2 with
    | .xm p v => if p = path then updPath w p fun q => { q with xm := v } else w
    | _ => w) w

/-- A path's bundles at its place have all issued: it moves on with its gap, or counts a delay slot. -/
def advancePath (gtc : Nat) (m : Mach) (k path gap : Nat) : Mach :=
  let m := updWarp m k fun w => updPath (newMask w path) path fun q => { q with gap := gap + 1, joined := false, conf := .none, skipbp := false }
  match getWarp? m k with
  | none => m
  | some w =>
    let q := getPath w path
    match q.delay with
    | none => setWarp m k (updPath w path fun q => { q with place := nextPlace w q.place, origin := none })
    | some { left := n + 1, what := t } =>
      setWarp m k (updPath w path fun q => { q with place := nextPlace w q.place, delay := some { left := n, what := t } })
    | some { left := 0, what := t } =>
      performTransfer gtc (setWarp m k (updPath w path fun q => { q with delay := none })) k path t

/-- Take each lane's latches from the path it belonged to (R59). -/
def joinReg (taken : DWord) (a b : VReg) : VReg :=
  { lanes := mergeLanes taken a.lanes b.lanes, marks := (a.marks &&& ~~~taken) ||| (b.marks &&& taken) }

def joinBank (taken : DWord) (a b : Bank) : Bank :=
  { v1 := joinReg taken a.v1 b.v1, v2 := joinReg taken a.v2 b.v2, v3 := joinReg taken a.v3 b.v3
    m1 := joinReg taken a.m1 b.m1, m2 := joinReg taken a.m2 b.m2, x1 := joinReg taken a.x1 b.x1 }

/-- Merge the two paths at their join (R36, R59); the results in flight stay in their order of issue (R356). -/
def mergePaths (w : Warp) : Warp :=
  match w.p1, w.split with
  | some q1, some sp =>
    let q0 := w.p0
    let t := q1.mask
    let planes := (q0.banks.map (·.plane) ++ q1.banks.map (·.plane)).eraseDups
    let banks := (planes.map fun pl => { plane := pl, bank := joinBank t (getBank q0 pl) (getBank q1 pl) : PlaneBank }).filter
      fun x => x.bank != Bank.empty
    let xm := (q0.xm &&& q0.mask) ||| (q1.xm &&& t) ||| (sp.xm &&& ~~~(q0.mask ||| t))
    { w with
      p0 := { q0 with mask := sp.mask, xm := xm, joined := true, waits := false, gap := 0, issued := [], stuck := false, banks := banks
                      vp0 := (q0.vp0 &&& ~~~t) ||| (q1.vp0 &&& t), vp1 := (q0.vp1 &&& ~~~t) ||| (q1.vp1 &&& t)
                      vpv := (q0.vpv &&& ~~~t) ||| (q1.vpv &&& t) }
      p1 := none, split := none
      floors := (max w.floors.1 w.floors.2, 0), dones := (max w.dones.1 w.dones.2, 0)
      flight := w.flight.map fun f =>
          if f.kind = .scalar then { f with path := 0 }
          else if f.path = 1 then { f with path := 0, dom := f.dom &&& t, wr := f.wr &&& t }
          else { f with dom := f.dom &&& ~~~t, wr := f.wr &&& ~~~t } }
  | _, _ => w

/-- A split or entry opened inside the region is still open (R283). -/
def openInside (w : Warp) (path : Nat) : Bool :=
  let q := getPath w path
  w.region.isSome && (w.split.elim false (·.inReg) || q.stack.any (·.inReg) || q.spilled.any (·.inReg))

/-- Put the pending plane numbers of a path into force (R32, R38). -/
def applyPlanes (w : Warp) (path : Nat) : Warp :=
  let q := getPath w path
  { updPath w path (fun q => { q with vp0 := 0#64, vp1 := 0#64, vpv := 0#64 }) with
    pmlo := (w.pmlo &&& ~~~q.vpv) ||| (q.vp0 &&& q.vpv), pmhi := (w.pmhi &&& ~~~q.vpv) ||| (q.vp1 &&& q.vpv) }

/-- A path comes into its innermost join, whose bundle is a JOIN (R36, R37): the taken lanes of an entry start, the union
is restored, or the path waits for the other one and merges with it. -/
def arriveJoin (gtc : Nat) (m : Mach) (k path : Nat) (w : Warp) : Mach :=
  let q := getPath w path
  match q.stack, entryInner w path with
  | e :: more, true =>
    let m := addSync m k path false
    if e.turned then
      popEntry gtc (updWarp m k fun w => updPath w path fun q => { q with mask := e.whole, joined := true }) k path
    else
      updWarp m k (updPath · path fun q =>
        { q with mask := e.lanes, place := placeAt w e.target q.place, origin := e.origin
                 stack := { e with turned := true } :: more })
  | _, _ =>
    let w := updPath w path fun q => { q with joined := true, waits := true }
    if w.p0.waits && w.p1.elim false (·.waits) then addSync (setWarp m k (mergePaths w)) k 0 true else setWarp m k w

/-- A path at a boundary of its own stands at its innermost join, whose bundle is a JOIN that is not satisfied; one in a delay slot is left
to its decode fault (R269, R278). -/
def atJoin (m : Mach) (k : Nat) (w : Warp) (path : Nat) : Bool :=
  let q := getPath w path
  (pathsOf w).contains path && q.gap = 0 && q.issued.isEmpty && !q.joined && q.delay.isNone &&
    joinOf w path = some (joinCoord w q.place) && (leadOps m k w path).elim false (fun o => o.c = .join)

/-- Bring a path to its boundary: what happens there without a beat (R29, R37). A JOIN of a concurrent split is a bundle of its own, which
comes to its join when every check of it has passed (R260, R359). -/
def settle (gtc : Nat) : Nat → Mach → Nat → Nat → Mach
  | 0, m, _, _ => m
  | n + 1, m, k, path =>
    match getWarp? m k with
    | none => m
    | some w =>
      let q := getPath w path
      if !(pathsOf w).contains path || q.gap != 0 || !q.issued.isEmpty || q.joined then m
      else if pastEnd w path then
        (if openInside w path then m else settle gtc n (exitRegion m k path w) k path)
      else if entryInner w path && atJoin m k w path then
        settle gtc n (arriveJoin gtc m k path w) k path
      else m

/-- The sync point before a path's bundle: pending plane numbers come into force (R32, R38). -/
def settleSync (m : Mach) (k path : Nat) : Mach :=
  match getWarp? m k with
  | none => m
  | some w =>
    let q := getPath w path
    if (pathsOf w).contains path && q.gap = 0 && q.issued.isEmpty && !q.waits && q.vpv != 0#64 && w.region.isSome && !atJoin m k w path &&
        (leadOps m k w path).elim false (·.sync) then setWarp m k (applyPlanes w path)
    else m

/-! ### Issue (R15 to R23, R44) -/

/-- Remove the entries a bundle popped. -/
def takePops (m : Mach) (team : Nat) (ps : List Pop) : Mach :=
  ps.foldl (fun m p => updQueue m team p.queue fun q => { q with entries := q.entries.drop 1 }) m

/-- A record for an exception at a warp's boundary (R354). -/
def recordAt (d : Dev) (m : Mach) (w : Warp) (path plane cls slot : Nat) (e : Exn) : TrapRec :=
  let q := getPath w path
  let addr := bundleAddr w q.place plane
  let fetch := slot = 4 && cls = 1 && q.delay.isNone
  let _ := m
  { code := e.code, cls := cls, slot := slot, plane := plane, path := path, member := if w.gang.isSome then w.gidx else 0
    lane := e.lane, imm := e.imm, issx := false, nested := false, skip := false
    pc := if fetch then (q.origin.map (·.1)).getD addr else addr
    seq := if fetch then (q.origin.map (·.2)).getD w.seq else w.seq
    addr := e.addr, info := e.info, resume := addr, vbeat := w.vbeat, gtc := d.gtc }

/-- The number of a stream in the list of arrivals that await their bundle's issue; a handler's streams count apart. -/
def streamKey (w : Warp) (path plane : Nat) : Nat := 4 * (if w.trapped = .running then path else path + 2) + plane

/-- The other path has a bundle of its own to issue, whose walks and lookups are not this path's to forget. -/
def otherDue (w : Warp) (path : Nat) : Bool :=
  (pathsOf w).any fun p => p != path && (getPath w p).gap = 0 && !(getPath w p).waits

/-- Mark a plane's bundle issued; when every occupied plane has issued, the path moves on. -/
def markIssued (gtc : Nat) (m : Mach) (k path plane gap : Nat) (planes : List Nat) : Mach :=
  let m := updWarp m k fun w => { updPath w path (fun q => { q with issued := q.issued ++ [plane], stuck := false, rest := gap }) with
    ffault := if otherDue w path then w.ffault else [], misses := [], looked := if otherDue w path then w.looked else []
    block := none, enter := false, hang := 0
    arrived := w.arrived.filter fun n => n / 16 != streamKey w path plane }
  match getWarp? m k with
  | none => m
  | some w =>
    if planes.all fun p => (getPath w path).issued.contains p then advancePath gtc m k path gap else m

/-- Let a bundle that is ready take effect: pops, the sync point of a path's offset, then the slots in issue order (R33, R99). -/
def effects (m : Mach) (c : Ctx) (sync : Bool) (v x1 x2 x3 : Action) : Mach :=
  let m := takePops m c.w.team c.pops
  let m := if sync && c.w.region.isSome && c.q.issued.isEmpty then addSync m c.k c.path false else m
  x3.fx (x2.fx (x1.fx (v.fx m)))

/-- Whether every planned stream of a path has issued in this beat, so that the path's part of the beat is over. -/
def pathDone (w : Warp) (path : Nat) : Bool := 0 < (getPath w path).gap

/-- A gang member as it comes to the bundle that the lead issues: as it was run ahead to it where the lead's present beat says, else as it
stands (R41, log 19). -/
def Gang.comes? (x : Gang) (m : Mach) (k : Nat) : Option Warp :=
  if x.ahead.1 = x.beats.getD 0 0 then (mapGet? x.ahead.2 k).orElse fun _ => getWarp? m k else getWarp? m k

/-- The planes that a gang issues at a path's offset beside the warp's own: for the lead those occupied in any member, for a member those
that the lead issued (R41, log 19). -/
def gangPlanes (m : Mach) (w : Warp) (path : Nat) : List Nat :=
  match gangOf? m w with
  | none => []
  | some x => match leadHeard m w path with
    | some b => b.planes
    | none => if w.gidx != 0 then [] else x.members.flatMap fun k => (x.comes? m k).elim [] fun v => occupied v path

/-- The planes of a path's current offset that still have to issue (R30, R41); past the end of a region there is plane 0 alone. -/
def duePlanes (m : Mach) (w : Warp) (path : Nat) : List Nat :=
  let mine := if pastEnd w path then [0] else occupied w path ++ gangPlanes m w path
  (List.range (planeCount w)).filter fun p => mine.contains p && !(getPath w path).issued.contains p

/-- A stream of the path has issued in the beat that is under way. -/
def begun (w : Warp) (path : Nat) : Bool := let q := getPath w path; !q.issued.isEmpty && !q.stuck

/-- Path 1 has issued in the beat that is under way, so that path 0, which was blocked, does not issue in it any more (R35). -/
def passedOver (w : Warp) (path : Nat) : Bool := path = 0 && w.p1.isSome && begun w 1

/-- The streams that are due in this beat: paths with no gap left that neither wait at a join nor spend their conflict beat in it (R35, R60,
R279); path 0's before path 1's. Under a split they are issued whatever their number (log 80). -/
def dueStreams (m : Mach) (w : Warp) : List (Nat × Nat) :=
  (pathsOf w).flatMap fun p =>
    let q := getPath w p
    if q.gap = 0 && !q.waits && q.conf != .now && !passedOver w p then (duePlanes m w p).map fun pl => (p, pl) else []

/-- A beat has begun: some stream of the warp has issued in it. -/
def midBeat (w : Warp) : Bool := (pathsOf w).any (begun w)

/-- The paths that spend this beat: all but those that wait at a join. -/
def beatPaths (w : Warp) : List Nat := (pathsOf w).filter fun p => !(getPath w p).waits

/-- The paths whose part of the beat needs nothing more: their bundles have issued, they idle in a gap, or they spend their conflict beat.
-/
def spentPaths (w : Warp) : List Nat := (beatPaths w).filter fun p => pathDone w p || (getPath w p).conf = .now

/-- The V operation of a stream's bundle conflicts under a mask that is not zero (R60). A gang member takes a conflict beat where the lead
took one (R40, log 19). -/
def streamConflict (m : Mach) (k : Nat) (w : Warp) (s : Nat × Nat) : Bool :=
  match heard m w s.1 s.2 with
  | some b => b.conf
  | none =>
    execMask w s.1 s.2 != 0#64 &&
    (match fetchAt m k w (bundleAddr w (getPath w s.1).place s.2) with
     | .got b => match decodeV (bundleV b) with
       | .ok i => i.bankConflict
       | .error _ => false
     | _ => false)

/-- The conflict beat of a due stream's bundle is still to come (R22, R60). -/
def conflictPending (m : Mach) (k : Nat) (w : Warp) (s : Nat × Nat) : Bool :=
  (getPath w s.1).conf = .none && streamConflict m k w s

/-- The boundary bundles' conflict beat is still to come: CONF of a frame (R355). -/
def conflictDue (m : Mach) (k : Nat) (w : Warp) : Bool := (dueStreams m w).any (conflictPending m k w)

/-- The paths of due streams in a stage of their conflict beat. -/
def duePaths (w : Warp) (due : List (Nat × Nat)) (c : Conflict) : List Nat :=
  ((due.map (·.1)).eraseDups).filter fun p => (getPath w p).conf = c

/-- The machine as bundles of this beat are examined whose conflict beat, when one is due, is still to come (R22, R23). -/
def beatView (m : Mach) (k : Nat) (w : Warp) (due : List (Nat × Nat)) : Mach :=
  if due.any (conflictPending m k w) then conflictBeat m k (duePaths w due .none) else m

/-- Note the pages a block misses in the die's miss table (R401). -/
def postMisses (m : Mach) (k : Nat) (w : Warp) (pages : List Nat) : Mach :=
  let die := dieOf (clusterOf k)
  let m := updWarp m k fun w => { w with misses := pages }
  pages.foldl (fun m p => postMiss m { die := die, ctx := w.ctx, page := p }) m

/-- Put a warp in a block that begins now, or keep the one in force (R16, R17). It gives up selection unless it holds
an open matrix pass or runs in a gang (R16, R42). -/
def blockWarp (m : Mach) (k : Nat) (w : Warp) (cause : Cause) (pages : List Nat) : Mach :=
  let m := updWarp (postMisses m k w pages) k fun w => { w with p0 := leaveOff w.p0, p1 := w.p1.map leaveOff }
  match w.block with
  | some b => updWarp m k fun w => { w with block := some { b with cause := cause } }
  | none =>
    let m := updWarp (bump m) k fun w => { w with block := some { cause := cause, since := m.tick } }
    if (openChain m k).isSome then m else deselect m k

/-- A debug stop at the warp's boundary (R423, R424): the warp freezes, is counted, and a STOP record is written. -/
def stopWarp (d : Dev) (m : Mach) (k path plane : Nat) (s : Stop) : Mach :=
  match getWarp? m k with
  | none => m
  | some w =>
    let addr := bundleAddr w (getPath w path).place plane
    let r := traceOf w 3 s.code path (nameWord w.seq plane (codeIndex m w addr)) s.value d.gtc
    let m := setWarp (bump m) k { w with stopped := some { s with header := traceWords r }, watchHit := none, ready := m.tick }
    let m := traceWrite m w.ctx r
    deselect (noteStops m w.ctx) k

/-- End the beat when no stream is left that could issue in it. -/
def closeBeat (m : Mach) (k : Nat) : Mach :=
  match getWarp? m k with
  | none => m
  | some w =>
    if (dueStreams m w).isEmpty then endBeat m k (spentPaths w) else m

/-- Issue one stream's ready bundle: effects, then the stream's place, then the beat's end when it was the last. -/
def issueStream (m : Mach) (c : Ctx) (o : BundleOps) (word : Bundle) (planes : List Nat) (v x1 x2 x3 : Action) : Mach :=
  let m := effects (noteIssue m c.w c.path c.plane word planes) c o.sync v x1 x2 x3
  let m := markIssued c.d.gtc m c.k c.path c.plane o.gap.toNat planes
  let m := closeBeat m c.k
  let m := x3.last (x2.last (x1.last (v.last m)))
  match firstExn [v.after, x1.after, x2.after, x3.after] with
  | none => m
  | some e => updWarp m c.k fun w => { w with user := w.user ++ [recordAt c.d m c.w c.path c.plane 1 3 e] }

/-- The bits of c.exs that an FP_TRAP sets before it is taken (R72). -/
def fpTrapBits (v : Act) (c : Ctx) (e : Exn) : Nat := if e.code = TrapName.fpTrap.code then (v c).raised else 0

/-- A fault found in a beat, with the flags that its bundle raises first and the point of logical order at which it does (R51, R72). -/
structure Found where
  fault  : TrapRec
  raised : Nat
  occ    : Occurrence

/-- The fault of a stream's bundle as it is found. -/
def foundAt (d : Dev) (m : Mach) (w : Warp) (path plane cls slot : Nat) (e : Exn) (raised : Nat) : Found :=
  { fault := recordAt d m w path plane cls slot e, raised := raised
    occ := { tindex := teamIndex w.team, teamw := w.teamw, vbeat := w.vbeat, plane := plane, path := path, flag := 0, cmd := 0
             cidx := codeIndex m w (bundleAddr w (getPath w path).place plane), seq := w.seq } }

/-- What an examination has found against a stream's bundle. -/
def foundBy (act : Instr → Act) (d : Dev) (m : Mach) (k : Nat) (w : Warp) (path plane : Nat) : Option Found :=
  match examine act d m k w path plane with
  | (.fault cls slot e, o) =>
    some (foundAt d m w path plane cls slot e (o.elim 0 fun o => fpTrapBits (act o.v) (ctxFor d m k w path plane o) e))
  | _ => none

/-- The fetches of the streams that an examination has found a fault against are recorded (R112, R113). -/
def noteFaults (act : Instr → Act) (d : Dev) (m : Mach) (k : Nat) (w : Warp) (ss : List (Nat × Nat)) : Mach :=
  ss.foldl (fun x (p, pl) => if (foundBy act d m k w p pl).isSome then noteFetch d.gtc x k w p pl else x) m

/-- The order of faults found in one beat: class, plane, path (R358). -/
def recordBefore (a b : TrapRec) : Bool :=
  a.cls < b.cls || (a.cls = b.cls && (a.plane < b.plane || (a.plane = b.plane && a.path < b.path)))

/-- The first failing stream's bundle traps, and the faults of later streams join the pending list (R358); each FP_TRAP's flags are set
first (R72). `m0` is the machine at the boundary. -/
def faultStream (m0 : Mach) (k : Nat) (first : Found) (later : List Found) : Mach :=
  match getWarp? m0 k with
  | none => m0
  | some w =>
    let conf := conflictDue m0 k w
    let m0 := updWarp m0 k fun w0 => { w0 with ffault := [], misses := [], looked := [] }
    let m0 := (first :: later).foldl (fun m f => raiseNode (raiseWarp m k f.raised) w.node f.raised f.occ) m0
    match listSort recordBefore ((first :: later).map fun f => { f.fault with vbeat := w.vbeat }) with
    | r :: more => takeTrap m0 k r more conf
    | [] => m0

/-- Every due stream is blocked: the paths that need nothing more spend the beat; or a path that the other has passed over is examined
again, or the warp blocks (R22, R35). -/
def waitBeat (m : Mach) (k : Nat) (c : Cause) (pages : List Nat) : Mach :=
  match getWarp? m k with
  | none => m
  | some w =>
    let idle := spentPaths w
    if !idle.isEmpty then endBeat (postMisses m k w pages) k idle
    else if passedOver w 0 then updWarp (postMisses m k w pages) k fun w => { w with p1 := w.p1.map leaveOff }
    else blockWarp m k w c pages

/-- What the blocked paths of a beat leave: which they are, the lowest-numbered cause (R419), the pages they miss. -/
structure Held where
  paths : List Nat
  cause : Cause
  pages : List Nat

/-- A path joins those that are blocked. -/
def Held.add (h : Held) (p : Nat) (c : Cause) (pages : List Nat) : Held :=
  { paths := p :: h.paths, cause := if h.paths.isEmpty then c else h.cause.least c, pages := h.pages ++ pages }

/-- Go through the due streams in issue order: the first that faults traps with the later ones' faults, the first that
is ready issues, and a path that is blocked lets the other go on (R35, R358). -/
def tryStreams (act : Instr → Act) (d : Dev) (k : Nat) : Mach → List (Nat × Nat) → Held → Mach
  | m, [], h => waitBeat m k h.cause h.pages
  | m, (p, pl) :: rest, h =>
    if h.paths.contains p then tryStreams act d k m rest h
    else
      match getWarp? m k with
      | none => m
      | some w =>
        match examine act d m k w p pl, fetchFor m k w p pl with
        | (.stop s, _), _ => stopWarp d m k p pl s
        | (.fault .., _), _ =>
          match (foundBy act d m k w p pl) with
          | some f => faultStream (noteFaults act d m k w ((p, pl) :: rest)) k f (rest.filterMap fun (p, pl) => foundBy act d m k w p pl)
          | none => m
        | (.wait c ps early, _), _ => tryStreams act d k (early m) rest (h.add p c ps)
        | (.ready v x1 x2 x3, some o), .got word =>
          let m := issueStream (noteFetch d.gtc m k w p pl) (ctxFor d m k w p pl o) o word (duePlanes m w p ++ (getPath w p).issued) v x1 x2 x3
          if h.pages.isEmpty then m else postMisses m k w h.pages
        | (.ready .., _), _ => m

/-- The first due bundle of each of some paths is examined in a view of the machine: the paths that are blocked, and the machine after what
their bundles do all the same. -/
def heldIn (act : Instr → Act) (d : Dev) (k : Nat) (view : Mach) (due : List (Nat × Nat)) (ps : List Nat) (m : Mach) : Mach × Held :=
  ps.foldl (fun (m, h) p =>
    match due.find? (·.1 = p), getWarp? view k with
    | some s, some w => match (examine act d view k w s.1 s.2).1 with
      | .wait c pages early => (early m, h.add p c pages)
      | _ => (m, h)
    | _, _ => (m, h)) (m, { paths := [], cause := .join, pages := [] })

/-- The conflict beat that is due before any of the paths `free` issues (R23, R60): the first of them that fails a check traps at the
boundary before it; else they and the paths in a gap spend it. -/
def spendConflict (act : Instr → Act) (d : Dev) (m : Mach) (k : Nat) (due : List (Nat × Nat)) (free : List Nat) : Mach :=
  let view := conflictBeat m k free
  match due.find? fun s => free.contains s.1, getWarp? view k with
  | some s, some w => match (examine act d view k w s.1 s.2).1 with
    | .stop x => stopWarp d m k s.1 s.2 x
    | .fault .. => match foundBy act d view k w s.1 s.2 with
      | some f =>
        let others := due.filter fun t => free.contains t.1 && t != s
        faultStream (noteFaults act d m k w (s :: others)) k f (others.filterMap fun t => foundBy act d view k w t.1 t.2)
      | none => view
    | _ => updWarp view k fun w => { w with block := none }
  | _, _ => m

/-- The streams of a beat begin to issue. A path whose bundle is blocked takes no conflict beat and forces none (R22). Where a bundle that
can issue conflicts, its path and every other whose bundle would issue with it spend one conflict beat first: a beat of its own, or the beat
in which a path that has spent its own goes on (R23, R60, R159). -/
def startBeat (act : Instr → Act) (d : Dev) (m : Mach) (k : Nat) (w : Warp) (due : List (Nat × Nat)) : Mach :=
  let none_ : Held := { paths := [], cause := .join, pages := [] }
  if !due.any (conflictPending m k w) then tryStreams act d k m due none_
  else
    let fresh := duePaths w due .none
    let hit := ((due.filter (conflictPending m k w)).map (·.1)).eraseDups
    let view := conflictBeat m k fresh
    let (m1, h1) := heldIn act d k view due hit m
    if hit.all h1.paths.contains then tryStreams act d k m1 due h1
    else
      let (m2, h2) := heldIn act d k view due fresh m
      let free := fresh.filter fun p => !h2.paths.contains p
      let going := duePaths w due .past
      if midBeat w || (heldIn act d k m due going m).2.paths.length < going.length then
        let m3 := updWarp m2 k fun w => markConflict w free .now
        tryStreams act d k m3 (due.filter fun s => !free.contains s.1) h2
      else spendConflict act d m2 k (due.filter fun s => fresh.contains s.1) free

/-- A bundle that holds one operation in its slot, with the gap, sync mark, broadcast number and LIMM of the issue stage. -/
def stageOps (cur : Cur) (slot : Slot) (i : Instr) : BundleOps :=
  { gap := BitVec.ofNat 4 cur.gap, sync := cur.sync, b := BitVec.ofNat 6 cur.b
    v := if slot = .v then i else .nop, m := if slot = .m then i else .nop
    x := if slot = .x then i else match cur.limm with
      | some l => .limm l
      | none => .nop
    c := if slot = .c then i else .nop }

/-- A bundle of one operation at the issue stage: its warp, path and plane, the bundle, and what its operation sees. -/
structure Stage where
  cur  : Cur
  o    : BundleOps
  c    : Ctx

/-- The issue stage for one operation, if a warp stands there; the conflict beat of R22 comes before it. -/
def opStage (s : State) (slot : Slot) (i : Instr) : Option Stage :=
  match s.cur with
  | none => none
  | some cur =>
    match getWarp? s.mach cur.warp with
    | none => none
    | some w0 =>
      let o := stageOps cur slot i
      let conf := (getPath w0 cur.path).conf = .none && (match heard s.mach w0 cur.path cur.plane with
        | some b => b.conf
        | none => execMask w0 cur.path cur.plane != 0#64 && o.v.bankConflict)
      let m := if conf then conflictBeat s.mach cur.warp [cur.path] else s.mach
      let w := (getWarp? m cur.warp).getD w0
      some { cur := cur, o := o, c := ctxFor s.dev m cur.warp w cur.path cur.plane o }

/-- What the four slots do when one holds an operation and the others NOP. -/
def stageExam (st : Stage) (slot : Slot) (a : Act) : Exam :=
  let pick (t : Slot) : Act := if t = slot then a else nopAct
  examOps st.c st.o (pick .v) (pick .m) (pick .x) (pick .c)

/-- The planes of the stage's path that share its offset. -/
def Stage.planes (st : Stage) : List Nat := duePlanes st.c.m st.c.w st.cur.path ++ (getPath st.c.w st.cur.path).issued

/-- The stage's bundle as a word. -/
def Stage.word (st : Stage) : Bundle :=
  packBundle st.o.gap st.o.sync st.o.b ((encodeV st.o.v).getD 0#30) ((encodeM st.o.m).getD 0#30) ((encodeX st.o.x).getD 0#28)
    ((encodeC st.o.c).getD 0#28)

/-- The machine after the stage: a stop, a trap, a block, or the issue of the bundle. -/
def stageMach (s : State) (st : Stage) (slot : Slot) (a : Act) : Mach :=
  let k := st.cur.warp
  match stageExam st slot a with
  | .stop x => stopWarp s.dev s.mach k st.cur.path st.cur.plane x
  | .fault cls sl e =>
    let raised := fpTrapBits (if slot = .v then a else nopAct) st.c e
    faultStream s.mach k (foundAt s.dev st.c.m st.c.w st.cur.path st.cur.plane cls sl e raised) []
  | .wait cause ps early => waitBeat (early s.mach) k cause ps
  | .ready v x1 x2 x3 => issueStream st.c.m st.c st.o st.word st.planes v x1 x2 x3

/-- The meaning of one operation as an instruction of its own: the bundle at the issue stage is examined and traps,
blocks or issues, with NOPs in its other slots. -/
def runOp (s : State) (slot : Slot) (i : Instr) (a : Act) : Host.Outcome State Fault Refusal :=
  match opStage s slot i with
  | none => .fault .noIssuingWarp
  | some st => .next { s with mach := stageMach s st slot a }

/-- The order of external events at one boundary (R358). -/
def extOrder : List Nat := [0x64, 0x65, 0x60, 0x62, 0x61, 0x63]

/-- The stream that stands at the warp's boundary: the first that is due. -/
def boundaryStream (m : Mach) (w : Warp) : Nat × Nat := (dueStreams m w).headD ((pathsOf w).headD 0, 0)

/-- A record of an external event at the boundary (R354, R358). -/
def extRecord (d : Dev) (m : Mach) (w : Warp) (code : Nat) : TrapRec :=
  let s := boundaryStream m w
  recordAt d m w s.1 s.2 3 4 { code := code }

/-- The first external event due at the warp's boundary. -/
def firstExt (w : Warp) : Option Nat := extOrder.find? fun c => w.ext.contains c

/-- The asynchronous fault due first: ascending c.seq from the warp's oldest outstanding command (R358). -/
def firstAsync (w : Warp) : Option TrapRec :=
  listBest (fun a b => (a.seq + 2 ^ 32 - w.seq - 1) % 2 ^ 32 < (b.seq + 2 ^ 32 - w.seq - 1) % 2 ^ 32) w.due

/-- Deliver one asynchronous fault (R360). -/
def deliverAsync (d : Dev) (m : Mach) (k : Nat) : Mach :=
  match getWarp? m k with
  | none => m
  | some w =>
    match firstAsync w with
    | none => m
    | some a =>
      let s := boundaryStream m w
      takeTrap (setWarp m k { w with due := w.due.erase a }) k
        { a with vbeat := w.vbeat, gtc := d.gtc, resume := bundleAddr w (getPath w s.1).place s.2 } [] (conflictDue m k w)

/-- Deliver the first external event due (R358). -/
def deliverExt (d : Dev) (m : Mach) (k : Nat) : Mach :=
  match getWarp? m k with
  | none => m
  | some w =>
    match firstExt w with
    | none => m
    | some c => takeTrap (setWarp m k { w with ext := w.ext.erase c }) k (extRecord d m w c) [] (conflictDue m k w)

/-- Deliver the traps that follow the last beat's bundles, in the order of faults of one beat (R290, R358); the resume point of each is the
next bundle of its stream (R354). -/
def deliverUser (d : Dev) (m : Mach) (k : Nat) : Mach :=
  match getWarp? m k with
  | none => m
  | some w =>
    let stamp (r : TrapRec) : TrapRec :=
      { r with seq := w.seq, vbeat := w.vbeat, gtc := d.gtc, resume := bundleAddr w (getPath w r.path).place r.plane }
    match listSort recordBefore (w.user.map stamp) with
    | [] => m
    | r :: more => takeTrap (setWarp m k { w with user := [] }) k r more (conflictDue m k w)

/-- Some due stream's bundle fails a check. -/
def anyFault (act : Instr → Act) (d : Dev) (m : Mach) (k : Nat) (w : Warp) (ss : List (Nat × Nat)) : Bool :=
  ss.any fun (p, pl) => match (examine act d m k w p pl).1 with
    | .fault .. => true
    | _ => false

/-- A handler's first bundle waits until the warp's stores, its frame among them, are acknowledged, and so does the way out after its ERET
(R291, R350). -/
def entryWaits (w : Warp) : Bool := (w.enter || w.ret) && awaited w != 0

/-- A warp that can take a step of its own: running or in its handler, not stopped. -/
def stepsItself (w : Warp) : Bool :=
  w.stopped.isNone && (match w.trapped with | .pumal .. => false | _ => true)

/-- The PC breakpoint that stands at an address (R415, R424). -/
def breakAt (c : Context) (addr : Nat) : Option Nat :=
  (List.range 8).find? fun i =>
    let b := dbgWord c (0x40 + 8 * i)
    b.getLsbD 63 && bits b 56 4 = addr / 16 % 2 ^ 53

/-- The stop that a due stream's bundle makes at its boundary: a PC breakpoint at its address, or its BRK, in any plane and before the
bundle's decode checks (R423, R424, log 93). -/
def bundleStop (m : Mach) (k : Nat) (w : Warp) (c : Context) (s : Nat × Nat) : Option Stop :=
  if (getPath w s.1).skipbp || (w.gang.isSome && w.gidx != 0) then none
  else
    let at_ := if dbgCtl c 3 then breakAt c (bundleAddr w (getPath w s.1).place s.2) else none
    match at_, fetchFor m k w s.1 s.2 with
    | some i, _ => some { code := 2, value := i }
    | none, .got b => match (bundleOps b).c with
      | .brk imm => if dbgCtl c 4 then some { code := 1, value := imm.toNat } else none
      | _ => none
    | none, _ => none

/-- The debug stop due at the warp's boundary, before every check and delivery: a watch hit, or a breakpoint or BRK, which a gang's lead
alone tests (R423, R424). -/
def stopDue (m : Mach) (k : Nat) (w : Warp) (due : List (Nat × Nat)) : Option (Nat × Nat × Stop) :=
  match ctxOf m w with
  | none => none
  | some c =>
    if !c.dbg || midBeat w then none
    else match w.watchHit with
      | some i => some ((due.headD (0, 0)).1, (due.headD (0, 0)).2, { code := 3, value := i })
      | none => due.findSome? fun (p, pl) => (bundleStop m k w c (p, pl)).map fun st => (p, pl, st)

/-- Where a gang member stands in the gang's beats: it may go on, it trails the lead, or it waits for the others (R40, R42). -/
inductive GangTurn where
  | go | idle | hold
  deriving DecidableEq, Repr

def gangTurn (m : Mach) (w : Warp) : GangTurn :=
  match w.gang.bind fun g => mapGet? m.gangs g with
  | none => .go
  | some g =>
    let mine := g.beats.getD w.gidx 0
    let ahead := (List.range g.members.length).all fun j =>
      j = w.gidx || g.left.contains j || mine < g.beats.getD j 0 || (w.gidx < j && mine = g.beats.getD j 0)
    let together := g.members.zip (List.range g.members.length) |>.all fun (j, i) =>
      g.left.contains i || (getCore m (coreOf j)).selected = some j
    if w.trapped != .running then .go
    else if !ahead || !together then .hold
    else if mine != 0 && mine < 1 + w.gidx * g.skew then .idle
    else .go

/-- What is delivered at a boundary before its bundle: the trap that follows the last bundle (R290), an asynchronous fault, an
external event. -/
inductive Delivery where
  | user | async | ext
  deriving DecidableEq, Repr

/-- An event that is delivered in a handler too: it goes to Pumal at once (R352). -/
def nestedExt (w : Warp) : Bool := w.trapped != .running && (w.ext.contains 0x64 || w.ext.contains 0x65)

/-- The trap due at a warp's boundary before the bundles of its beat, with the machine after it (R348, R352, R358). A TRAP of a handler is
nested (R352). -/
def boundaryTrap (act : Instr → Act) (d : Dev) (m : Mach) (k : Nat) (w : Warp) (due : List (Nat × Nat)) :
    Option (Delivery × Mach) :=
  let view := beatView m k w due
  match getWarp? view k with
  | none => none
  | some wv =>
    if midBeat w then none
    else if !w.user.isEmpty then some (.user, deliverUser d m k)
    else if w.trapped != .running then (if nestedExt w then some (.ext, deliverExt d m k) else none)
    else if (w.due.isEmpty && (firstExt w).isNone) || anyFault act d view k wv due then none
    else if w.due.isEmpty then some (.ext, deliverExt d m k)
    else some (.async, deliverAsync d m k)

/-- A path at the join of its split comes into it once its bundles pass every check, whatever else holds them back; a page that one of them
still misses leaves that open (R260, R279, R359). -/
def reachJoin (act : Instr → Act) (d : Dev) (m : Mach) (k path : Nat) : Mach :=
  match getWarp? m k with
  | none => m
  | some w =>
    let due := (dueStreams m w).filter (·.1 = path)
    let view := beatView m k w due
    let passes (s : Nat × Nat) : Bool := (getWarp? view k).elim false fun wv =>
      match (examine act d view k wv s.1 s.2).1 with
      | .wait _ misses _ => misses.isEmpty
      | .ready .. => true
      | .fault .. | .stop _ => false
    if !entryInner w path && atJoin m k w path && !due.isEmpty && due.all passes then arriveJoin d.gtc m k path w else m

/-- Both paths of a split at its join: where the second comes into it the merged path begins with the sync point before it (R32, R36). -/
def reachJoins (act : Instr → Act) (d : Dev) (m : Mach) (k : Nat) : Mach :=
  match getWarp? m k with
  | none => m
  | some w => if w.split.isNone then m else settleSync (reachJoin act d (reachJoin act d m k 0) k 1) k 0

/-- A warp brought to its boundary, on both its paths. -/
def atBoundary (gtc : Nat) (m : Mach) (k : Nat) : Mach :=
  settleSync (settleSync (settle gtc 40 (settle gtc 40 m k 0) k 1) k 0) k 1

/-- A warp at its boundary goes on: a trap that is due, an idle gap beat, or the next bundle of its beat. -/
def warpBeat (act : Instr → Act) (d : Dev) (m : Mach) (k : Nat) (w : Warp) : Mach :=
  if entryWaits w then (if nestedExt w then deliverExt d m k else blockWarp m k w .fence [])
  else if w.ret then updWarp m k fun w => { w with block := none }
  else
    let m := reachJoins act d m k
    let w := (getWarp? m k).getD w
    let due := dueStreams m w
    if due.isEmpty then
      (if (beatPaths w).isEmpty then blockWarp m k w .join [] else endBeat m k (spentPaths w))
    else
      match stopDue m k w due, boundaryTrap act d m k w due with
      | some (p, pl, st), _ => stopWarp d m k p pl st
      | none, some (_, t) => t
      | none, none => startBeat act d m k w due

/-- One step of a warp; a gang member goes on, spends an idle beat or waits for the others (R40, R42). -/
def warpStep (act : Instr → Act) (d : Dev) (m : Mach) (k : Nat) : Mach :=
  let m := atBoundary d.gtc m k
  match getWarp? m k with
  | none => m
  | some w =>
    if !stepsItself w then m
    else match gangTurn m w with
      | .hold => m
      | .idle => countBeat (shiftWarp m k [0]) k false []
      | .go => warpBeat act d m k w

/-- A warp goes on with the streams of its beat: one has issued, or has spent its conflict beat, and nothing holds the warp back. -/
def goesOn (m : Mach) (k : Nat) : Bool :=
  (getWarp? m k).elim false fun w =>
    (midBeat w || (pathsOf w).any fun p => (getPath w p).conf = .past) && stepsItself w && w.block.isNone

/-- The streams of one beat, at most four, issue one after the other with nothing between them (R30, R202). -/
def wholeBeat (act : Instr → Act) (d : Dev) : Nat → Mach → Nat → Mach
  | 0, m, _ => m
  | fuel + 1, m, k =>
    let m := warpStep act d m k
    if goesOn m k then wholeBeat act d fuel m k else m

end Sys2Proof.Machine
end

