-- ==== Sys2Proof/Machine/Memops.lean ====
section
/-!
DEFINITION. How the operations of a warp's memory order are performed and completed (R91 to R102, R112 to R116, R197,
R211 to R215, R222, R427): which may be performed next, what a load, store, atomic, spill or fill does at its instant.
-/

namespace Sys2Proof.Machine

/-! ### Order (R99 to R101, R208) -/

/-- The unfinished operations before one. -/
def opsBefore (w : Warp) (id : Nat) : List MemOp := w.ops.takeWhile fun o => o.id != id

/-- Whether nothing keeps an operation from being performed now. -/
def opReady (w : Warp) (o : MemOp) : Bool :=
  (opsBefore w o.id).all fun e => !orderedAfter e o.kind o.path o.plane (opWords o)

/-- A fence or sync point whose condition holds (R100): an acquire waits for earlier reads, a release for the stores too, a sync point for
every earlier access of its path, or of both. -/
def fenceDone (o : MemOp) (before : List MemOp) : Bool :=
  match o.kind with
  | .sync all => before.all fun e => !(e.kind.accesses && e.before o.path (all || o.both))
  | .fence .acq _ => before.all fun e => !e.kind.reads
  | .fence _ _ => before.all fun e => !e.kind.reads && !e.kind.counted
  | _ => false

/-- Reads of the operations that follow one, and of those to come, are not satisfied before this instant (R98, R100). -/
def raiseFloors (w : Warp) (o : MemOp) (all : Bool) (now : Nat) : Warp :=
  { w with floors := raisePath w.floors o.path all now
           ops := w.ops.map fun e => if o.id < e.id && (all || e.path = o.path) then { e with floor := max e.floor now } else e }

/-- Complete every fence and sync point whose condition holds; an acquire empties the core's L1 (R92, R101). -/
def drainFences : Nat → Mach → Nat → Mach
  | 0, m, _ => m
  | n + 1, m, k =>
    match getWarp? m k with
    | none => m
    | some w =>
      match w.ops.find? fun o => fenceDone o (opsBefore w o.id) with
      | none => m
      | some o =>
        let w := { w with ops := w.ops.filter fun e => e.id != o.id }
        drainFences n (match o.kind with
          | .sync all =>
            let all := all || o.both
            setWarp m k (raiseFloors w o all (if all then max w.dones.1 w.dones.2 else ofPath w.dones o.path))
          | .fence .acq _ | .fence .ar _ => dropL1 (setWarp m k w) (coreOf k)
          | _ => setWarp m k w) k

/-- Take an operation out of the order and complete its flag (R197); `at_` is the instant at which its accesses were performed, for a load
that the L1 served that of its line (R98, R100). An acquiring load bounds what follows it (R100). -/
def finishAt (m : Mach) (k : Nat) (o : MemOp) (at_ : Nat) : Mach :=
  let m := updWarp m k fun w =>
    let w := { w with ops := w.ops.filter fun e => e.id != o.id, dones := raisePath w.dones o.path o.both at_ }
    let w := match o.kind with
      | .loadS _ _ (some _) => raiseFloors w o true at_
      | _ => w
    match o.flag with
    | some f => completeFlag w f at_
    | none => w
  match getWarp? m k with
  | some w => drainFences (w.ops.length + 1) m k
  | none => m

/-- An operation that is performed now is finished. -/
def finishOp (m : Mach) (k : Nat) (o : MemOp) : Mach := finishAt m k o m.tick

/-! ### The L1 (R92, R98) -/

/-- The line of a key read from memory at one instant; a word in error is held poisoned (R113). -/
def readLine (m : Mach) (key : Nat) : L1Line :=
  { instant := m.tick, bytes := memBytes m (lineOf key) 128
    ecc := (List.range 16).filterMap fun i => if wordBad m (lineOf key + 8 * i) then some (8 * i, .poison) else none }

/-- Fill a line of a core's L1, noting its words in error; a full L1 loses a line that the manual leaves open. -/
def l1Fill (x : Accessor) (m : Mach) (core key : Nat) : Mach :=
  let line := readLine m key
  let m := noteRead x m (lineOf key) 128
  let lines := (getCore m core).l1
  if (mapGet? lines (lineOf key)).isSome || lines.length < 256 then
    updCore m core fun c => { c with l1 := mapPut c.l1 (lineOf key) line }
  else
    let out := (lines[Config.evicted m.tick % 256]?.map Prod.fst).getD 0
    updCore (bump m) core fun c => { c with l1 := mapPut (mapErase c.l1 out) (lineOf key) line }

/-- Bytes of a line held in the L1 with their poison, noting the words in error (R110, R112). -/
def l1Read (x : Accessor) (m : Mach) (core : Nat) (line : L1Line) (key n : Nat) : Mach × List Byte × Bool :=
  let o := key % 128
  let ws := wordsOf o n
  let (m, ecc) := noteLine x 4 (lineOf key) m line.ecc ws
  (updCore m core fun c => { c with l1 := mapUpd c.l1 (lineOf key) fun l => { l with ecc := ecc } },
   (line.bytes.drop o).take n, ws.any fun p => (mapGet? line.ecc p).elim false Ecc.bad)

/-- A line may serve an early read of some words: it was filled no earlier than what is ordered before the read, and no earlier than any
access of these words that the warp has issued before it was performed (R98, R100). -/
def mayServe (w : Warp) (o : MemOp) (line : L1Line) (ws : List Nat) : Bool :=
  o.floor ≤ line.instant && w.touched.all fun t => !(t.op < o.id && ws.contains t.word) || t.instant ≤ line.instant

/-- Accesses of words have been performed: where the core's L1 holds an older line, it no longer serves the warp's later reads of them
(R98). -/
def noteTouch (m : Mach) (k op : Nat) (ws : List Nat) : Mach :=
  let l1 := (getCore m (coreOf k)).l1
  updWarp m k fun w =>
    { w with touched := (w.touched ++ ws.map fun a => { word := a, op := op, instant := m.tick : Touch }).filter fun t =>
        (mapGet? l1 (lineOf t.word)).elim false (·.instant < t.instant) }

/-! ### One access -/

/-- A key of another package's memory (R390). -/
def remoteKey (key : Nat) : Bool := 2 ^ 48 ≤ key && key < sramBase

/-- The UALink port of a remote line (R392). -/
def linePort (key : Nat) : Nat := Nat.xor (Nat.xor (key / 2 ^ 7 % 32) (key / 2 ^ 12 % 32)) (key / 2 ^ 39 % 32)

/-- The port that carries a remote line: its own, or the next higher one that survives, modulo 32; none when no port does (R392). -/
def portFor (m : Mach) (key : Nat) : Option Nat :=
  ((List.range 32).map fun i => (linePort key + i) % 32).find? m.ports.contains

/-- A key of another package that no port reaches. -/
def cutOff (m : Mach) (key : Nat) : Bool := remoteKey key && (portFor m key).isNone

/-- A warp's operation as an accessor: the name of its bundle (R116). -/
def opAccessor (gtc : Nat) (m : Mach) (w : Warp) (o : MemOp) : Accessor :=
  accessorOf gtc m w.ctx (nameWord o.seq o.plane o.cidx)

/-- Whether an operation's reads may fill the L1 and be served from it: plain LDV, LDG and LDS (R92). -/
def MemKind.plain : MemKind → Bool
  | .loadV _ _ | .loadS _ _ none => true
  | _ => false

/-- A read whose remote home no port reaches: poison, and a link record (R392). -/
def linkLost (x : Accessor) (m : Mach) (key n : Nat) : Mach × List Byte × Bool :=
  (logHealth m { healthOf 2 0 0 with pa := key, gtc := x.gtc, ctx := x.ctx, name := x.name }, List.replicate n 0#8, true)

/-- Read `n` bytes for a warp: through its stack cache where the line is present, from the L1 when `early` asks for it and a line may
serve, from its home otherwise (R89, R92, R98, R113, R392). The first of the pair is the instant at which the read is satisfied. -/
def accessRead (gtc : Nat) (m : Mach) (k : Nat) (o : MemOp) (a : Access) (n : Nat) (early : Bool) : Nat × Mach × List Byte × Bool :=
  match getWarp? m k with
  | none => (m.tick, m, List.replicate n 0#8, false)
  | some w =>
    let x := opAccessor gtc m w o
    if stackHit w a.va then (m.tick, stackRead x m k a.va a.hit n)
    else if cutOff m a.key then (m.tick, linkLost x m a.key n)
    else
      let ws := wordsOf a.key n
      let l1 := o.kind.plain && l1Leaf m a.leaf
      match if early && l1 then mapGet? (getCore m (coreOf k)).l1 (lineOf a.key) |>.filter (mayServe w o · ws) else none with
      | some line => (line.instant, l1Read x m (coreOf k) line a.key n)
      | none =>
        let (bs, bad) := readBytes m a.key n
        (m.tick, noteTouch (if l1 then l1Fill x m (coreOf k) a.key else noteRead x m a.key n) k o.id ws, bs, bad)

/-- The value a load delivers: 0 with a mark for poison (R113). -/
def loaded (w : Nat) (r : List Byte × Bool) : BitVec w × Bool := if r.2 then (0, true) else (ofLe w r.1, false)

/-- Read all accesses of an operation in turn; the latest instant at which one is satisfied. -/
def readAll (gtc : Nat) (m : Mach) (k : Nat) (o : MemOp) (n : Nat) (early : Bool) :
    List Access → Nat × Mach × List (Nat × DWord × Bool)
  | [] => (0, m, [])
  | a :: rest =>
    let (t, m, r) := accessRead gtc m k o a n early
    let (u, m, l) := readAll gtc m k o n early rest
    let v : DWord × Bool := loaded 64 r
    (max t u, m, (a.lane, v.1, v.2) :: l)

/-- Write one access of a warp through its stack cache where the line is present; the other accesses are one write (R111). -/
def writeAll (gtc : Nat) (m : Mach) (k : Nat) (o : MemOp) : Mach :=
  match getWarp? m k with
  | none => m
  | some w =>
    let x := opAccessor gtc m w o
    let (hits, homes) := o.acc.partition fun a => stackHit w a.va
    let ws := homes.map fun a => (a.key, a.data)
    let m := writeNoted x m ws
    noteTouch (stackStore x m k (hits.map fun a => { a with mark := false })) k o.id (touchedWords ws)

/-! ### Atomics (R211 to R215) -/

def atomFn (op : AtomOp) (w : Nat) (old v : BitVec w) : BitVec w :=
  match op with
  | .add => old + v
  | .and => old &&& v
  | .or => old ||| v
  | .xor => old ^^^ v
  | .min => if v.slt old then v else old
  | .max => if old.slt v then v else old
  | .minu => if v.ult old then v else old
  | .maxu => if old.ult v then v else old

/-- One read-modify-write of `n` bytes at one instant: `f` gives the new value or none; a poisoned word is not updated. -/
def rmw (gtc : Nat) (m : Mach) (k : Nat) (o : MemOp) (a : Access) (n : Nat) (f : DWord → Option DWord) : Mach × DWord × Bool :=
  match getWarp? m k with
  | none => (m, 0#64, false)
  | some w =>
    let x := opAccessor gtc m w o
    if cutOff m a.key then ((linkLost x m a.key n).1, 0#64, true)
    else
      let (bs, bad) := readBytes m a.key n
      let m := noteTouch (noteRead x m a.key n) k o.id (wordsOf a.key n)
      if bad then (m, 0#64, true)
      else
        let old : DWord := ofLe 64 bs
        match f old with
        | some v => (writeBytes m a.key (leBytes n v), old, false)
        | none => (m, old, false)

/-- The new value an atomic or compare-and-swap access writes over an old one. -/
def rmwNew (kind : MemKind) (a : Access) (old : DWord) : Option DWord :=
  match kind with
  | .atomV _ op => some ((atomFn op 32 (old.setWidth 32) (ofLe 32 a.data)).setWidth 64)
  | .atomS _ op => some (atomFn op 64 old (ofLe 64 a.data))
  | .casV _ | .casS _ => if old = ofLe 64 a.expd then some (ofLe 64 a.data) else none
  | _ => none

/-- Perform the accesses of an atomic one by one in a given order. -/
def rmwAll (gtc : Nat) (m : Mach) (k n : Nat) (o : MemOp) : List Access → Mach × List (Nat × DWord × Bool)
  | [] => (m, [])
  | a :: rest =>
    let (m, v) := rmw gtc m k o a n (rmwNew o.kind a)
    let (m, l) := rmwAll gtc m k n o rest
    (m, (a.lane, v.1, v.2) :: l)

/-- The accesses in the order that an event names; those it does not name follow in lane order. -/
def inOrder (as : List Access) (order : List Nat) : List Access :=
  (order.eraseDups.filterMap fun l => as.find? (·.lane = l)) ++ as.filter fun a => !order.contains a.lane

/-! ### Results -/

/-- Write returned lanes to a vector register; `prod` names the operation to those that are poisoned (R114). -/
def putLanes (w : Warp) (reg prod : Nat) (l : List (Nat × DWord × Bool)) : Warp :=
  let at? (i : Nat) := l.find? fun r => r.1 = i
  let marks := maskOf fun i => ((at? i).map fun r => r.2.2).getD false
  nameLanes (putV w reg (maskOf fun i => (at? i).isSome)
    (Lanes.ofLane fun i => ((at? i).map fun r => r.2.1.setWidth 32).getD 0#32) marks) reg marks prod

/-- Deliver a returned scalar to its register or its reserved queue entry (R63, R201); `prod` names the operation to a poisoned one
(R114). -/
def putScalar (m : Mach) (k reg : Nat) (ticket : Option (Nat × Nat)) (v : DWord) (mark : Bool) (prod : Nat := 0) : Mach :=
  match ticket, getWarp? m k with
  | some t, some w => placeQueue m w.team t v mark prod
  | _, _ => updWarp m k fun w => nameScalar (putS w reg v mark) reg mark prod

/-- What watchpoints see of an operation: its reads, and the writes of the accesses for which `wrote` holds. -/
def seenOf (o : MemOp) (n : Nat) (wrote : Access → Bool := fun _ => true) : List Seen :=
  (if o.kind.reads then o.acc.map fun a => { va := a.va, n := n, write := false } else []) ++
  (if o.kind.writes then (o.acc.filter wrote).map fun a => { va := a.va, n := n, write := true } else [])

/-- Whether an atomic or compare-and-swap has written for an access, by what its accesses found: not over poison, nor where the compare
failed. -/
def rmwWrote (o : MemOp) (l : List (Nat × DWord × Bool)) (a : Access) : Bool :=
  (l.find? fun r => r.1 = a.lane).elim false fun r => !r.2.2 && (rmwNew o.kind a r.2.1).isSome

/-! ### Readiness of nodes (R384) -/

/-- A node's predecessors have completed and its events are set. -/
def nodeReady (events : BitVec 256) (n : Node) : Bool := n.pred = 0 && events &&& n.wait = n.wait

/-- Latch the readiness of a context's waiting nodes at this instant. -/
def wakeNodes (m : Mach) (ctx : Nat) : Mach :=
  let events := (getCtx? m ctx).elim 0 (·.events)
  { m with nodes := m.nodes.map fun (h, n) =>
      (h, if n.ctx = ctx && n.stage = .waiting && nodeReady events n then { n with stage := .ready, readyAt := m.clock } else n) }

/-- OR bits into a context's event vector; the nodes that wait on them become ready (R256, R384). -/
def setEvents (m : Mach) (ctx : Nat) (bits : BitVec 256) : Mach :=
  wakeNodes (updCtx m ctx fun c => { c with events := c.events ||| bits }) ctx

/-- Perform an operation at one instant, all its lanes with nothing between them, and complete it: what it reads and writes, the delivery of
its result, its flag. `early` lets a plain load take lines from the L1; `order` orders the lanes of an atomic (R99, log 66). -/
def performOp (gtc : Nat) (m : Mach) (k : Nat) (o : MemOp) (early : Bool) (order : List Nat) : Mach :=
  let m := bump m
  let prod := nameWord o.seq o.plane o.cidx
  match o.kind with
  | .loadV reg n =>
    let (t, m, l) := readAll gtc m k o n early o.acc
    finishAt (threadHits gtc (updWarp m k fun w => putLanes w reg prod l) k o (seenOf o n)) k o t
  | .loadS reg n acq =>
    let (t, m, l) := readAll gtc m k o n early o.acc
    let m := match acq with
      | some .warp | none => m
      | some _ => dropL1 m (coreOf k)
    let v := (l.head?.map fun r => r.2).getD (0#64, false)
    finishAt (threadHits gtc (putScalar m k reg o.ticket v.1 v.2 prod) k o (seenOf o n)) k o t
  | .store n _ => finishOp (threadHits gtc (writeAll gtc m k o) k o (seenOf o n)) k o
  | .atomV reg _ | .casV reg =>
    let (m, l) := rmwAll gtc m k 4 o (inOrder o.acc order)
    finishOp (threadHits gtc (updWarp m k fun w => putLanes w reg prod l) k o (seenOf o 4 (rmwWrote o l))) k o
  | .atomS reg _ | .casS reg =>
    let (m, l) := rmwAll gtc m k 8 o o.acc
    let v := (l.head?.map fun r => r.2).getD (0#64, false)
    finishOp (threadHits gtc (putScalar m k reg o.ticket v.1 v.2 prod) k o (seenOf o 8 (rmwWrote o l))) k o
  | .spill =>
    finishOp ((getWarp? m k).elim m fun w => stackStore (opAccessor gtc m w o) m k o.acc (some o)) k o
  | .fill reg =>
    let read (s : Mach × List (Nat × DWord × Bool)) (a : Access) : Mach × List (Nat × DWord × Bool) :=
      match getWarp? s.1 k with
      | none => s
      | some w =>
        let (m, r) := stackRead (opAccessor gtc m w o) s.1 k a.va a.hit 4
        let v : DWord × Bool := loaded 64 r
        (m, s.2 ++ [(a.lane, v.1, v.2)])
    let (m, l) := o.acc.foldl read (m, [])
    finishOp (threadHits gtc (updWarp m k fun w => putLanes w reg prod l) k o (seenOf o 4)) k o
  | .fence .. | .sync _ => m
  | .evset ev =>
    match getWarp? m k with
    | none => m
    | some w => finishOp (setEvents m w.ctx (BitVec.ofNat 256 (2 ^ ev))) k o
  | .flush _ => finishOp m k o
  | .tpost _ => finishOp m k o

/-- The record of an asynchronous fault of an operation of slot `slot` (R354, R360). -/
def opRecord (w : Warp) (o : MemOp) (slot : Nat) (e : Exn) : TrapRec :=
  { code := e.code, cls := 2, slot := slot, plane := o.plane, path := o.path, member := if w.gang.isSome then w.gidx else 0
    lane := e.lane, imm := 0, issx := false, nested := false, skip := false, pc := o.pc, seq := o.seq, addr := e.addr, info := e.info
    resume := 0, vbeat := 0, gtc := 0 }

/-- An operation has met an asynchronous fault: it waits, and the fault is due to its warp (R360, R392). -/
def failOp (w : Warp) (o : MemOp) (slot : Nat) (e : Exn) : Warp :=
  { w with ops := w.ops.map fun x => if x.id = o.id then { x with failed := true } else x, due := w.due ++ [opRecord w o slot e] }

/-- An operation that a remote package must perform while no port leads there is never acknowledged (R392). -/
def remoteStuck (m : Mach) (o : MemOp) : Bool := o.acc.any fun a => cutOff m a.key

end Sys2Proof.Machine
end

