-- ==== Sys2Proof/Machine/Accum.lean ====
section
/-!
DEFINITION. The matrix engine's chains (R137 to R139, R243, R244, R246, R468): reading one k-unit of both tiles, exact
accumulation, the results of a closed chain, deposits.
-/

namespace Sys2Proof.Machine

/-! ### Tiles (R210, R237) -/

/-- The team offset of a tile byte (R210). -/
def tileOffset (t : Tile) (k : Nat) : Nat := (t.base + k / (32 * t.rowb) * t.stride) * 32 + k % (32 * t.rowb)

/-- A team's tile by its number. -/
def teamTile? (m : Mach) (team n : Nat) : Option Tile := (getTeam? m team).bind fun t => mapGet? t.tiles n

/-- The memory key of a tile byte. -/
def tileKey (m : Mach) (team : Nat) (t : Tile) (k : Nat) : Nat :=
  (getTeam? m team).elim 0 fun x => spKey x (tileOffset t k)

/-! ### One k-unit (R242, R243) -/

/-- A row's piece of one k-unit: its elements, and whether a poisoned word lies in it. -/
structure UnitRow where
  elems : List FVal
  bad   : Bool

/-- The bytes of a k-unit in one row: 16 for halves, 32 for a group record. -/
def unitBytes (fmt : Nat) : Nat := if fmt = 4 then 32 else 16

/-- A faulty group record: a reserved format, or a magnitude too large for its format (R468). -/
def recordFaulty (bs : List Byte) : Bool :=
  let f := byteN bs 0
  3 < f || (f != 0 && (List.range 16).any fun i =>
    (bfmtOf f).elim false fun b => 2 ^ b.m ≤ byteN bs (4 + i) % 128)

/-- The sixteen elements of a 32-byte group record (R132, R230). -/
def recordElems (bs : List Byte) : List FVal :=
  match bfmtOf (byteN bs 0) with
  | none => List.replicate 16 (.fin false 0 0)
  | some f => (List.range 16).map fun i =>
    let e := byteN bs 2
    if e = 255 then .nan false
    else .fin (byteN bs (4 + i) / 128 = 1) (byteN bs (4 + i) % 128)
      ((e : Int) - 127 + (bs.getD 1 0#8).toInt - (byteN bs 3 / 2 ^ (i / 2) % 2 : Nat) - (f.m - 1 : Nat))

/-- The elements of a k-unit's bytes in a format. -/
def unitElems (fmt : Nat) (bs : List Byte) : List FVal :=
  if fmt = 4 then recordElems bs
  else (List.range 8).map fun i => fval (if fmt = 1 then bf16 else fp16) (leNat ((bs.drop (2 * i)).take 2))

/-- The team offset of segment `j` of a tile's row `r`, from its first byte (R242). -/
def segAt (t : Tile) (r j : Nat) : Nat := r * (32 * t.rowb) + 32 * j

/-- Read segment `j` of a tile's row `r`. Poisoned bytes have no value: what is computed from them is free and marked (log 29). -/
def readSegment (m : Mach) (team : Nat) (t : Tile) (r j : Nat) : Segment :=
  let key := tileKey m team t (segAt t r j)
  { bytes := openBytes m key 32, bad := [0, 8, 16, 24].filter fun i => wordBad m (key + i) }

/-- The faulty record of R468 in a segment of a group tile. No check looks at the bytes of a poisoned word (log 29). -/
def segmentFaulty (t : Tile) (s : Segment) : Bool :=
  t.fmt = 4 && recordFaulty ((s.bytes.zip (List.range 32)).map fun (b, i) => if s.bad.contains (i / 8 * 8) then 0#8 else b)

/-- A segment's k-unit `i`. -/
def segmentUnit (fmt i : Nat) (s : Segment) : UnitRow :=
  let n := unitBytes fmt
  { elems := unitElems fmt ((s.bytes.drop (n * i)).take n), bad := s.bad.any fun b => n * i ≤ b && b < n * (i + 1) }

/-! ### Accumulation (R137, R138) -/

/-- An accumulator with nothing in it. -/
def Acc.zero : Acc :=
  { sum := 0, exact := 0, nan := false, inval := false, pinf := false, ninf := false, lost := false, bigP := 0, bigN := 0
    mark := false }

/-- The exponent of the unit in which exact sums are kept; no product reaches below it. -/
def exactUnit : Int := -2048

/-- Add one product to an accumulator of anchor `a`. -/
def accAdd (a : Int) (s : Acc) (p : FVal) : Acc :=
  match p with
  | .nan sig => { s with nan := true, inval := s.inval || sig }
  | .inf neg => if neg then { s with ninf := true } else { s with pinf := true }
  | .fin neg man exp =>
    let d := exp - (a - 160)
    let q : Nat := if 0 ≤ d then man * 2 ^ d.toNat else man / 2 ^ (-d).toNat
    let lost := d < 0 && man % 2 ^ (-d).toNat != 0
    let mag := man * 2 ^ (exp - exactUnit).toNat
    let big := 2 ^ 255 ≤ q
    { s with sum := s.sum + (if neg then -(q : Int) else q), exact := s.exact + (if neg then -(mag : Int) else mag)
             lost := s.lost || lost
             bigP := if big && !neg then max s.bigP mag else s.bigP
             bigN := if big && neg then max s.bigN mag else s.bigN }

/-- floor(log2 |p|) of a non-zero finite product. -/
def productLog : FVal → Option Int
  | .fin _ man exp => if man = 0 then none else some (man.log2 + exp)
  | _ => none

/-- AUTO (R137): the greatest product of k index 0 plus 24, clamped. -/
def autoAnchor (ps : List FVal) : Int :=
  match ps.filterMap productLog with
  | [] => 0
  | x :: rest => max (-512) (min 511 (rest.foldl max x + 24))

/-- The element of the first k index of a row. -/
def firstElem (r : UnitRow) : FVal := r.elems.headD (.fin false 0 0)

/-- The products of the first k index over all elements. -/
def firstProducts (rs : List (UnitRow × UnitRow)) : List FVal :=
  rs.flatMap fun x => rs.map fun y => mulVal (firstElem x.1) (firstElem y.2)

/-- Add a k-unit of rows `rs` of both tiles to 32 × 32 accumulators, row by row; poisoned rows mark what depends on them. -/
def accUnit (a : Int) (acc : List Acc) (rs : List (UnitRow × UnitRow)) : List Acc :=
  let acc := if acc.isEmpty then List.replicate 1024 Acc.zero else acc
  (acc.zip (List.range 1024)).map fun (s, i) =>
    match rs[i / 32]?, rs[i % 32]? with
    | some (x, _), some (_, y) =>
      let s := (x.elems.zip y.elems).foldl (fun s (u, v) => accAdd a s (mulVal u v)) s
      { s with mark := s.mark || x.bad || y.bad }
    | _, _ => s

/-- Mark every element of a slot poisoned. -/
def markSlot (s : AccSlot) : AccSlot :=
  { s with acc := (if s.acc.isEmpty then List.replicate 1024 Acc.zero else s.acc).map fun x => { x with mark := true } }

/-- Take the k-units of a segment's rows into a slot. The first of a chain fixes an AUTO anchor; an anchor that a poisoned word takes
part in poisons every element (R113, R137). -/
def takeUnits (fmt n : Nat) (s : AccSlot) (rs : List (Segment × Segment)) : AccSlot :=
  (List.range n).foldl (fun s i =>
    let us := rs.map fun x => (segmentUnit fmt i x.1, segmentUnit fmt i x.2)
    let anchor := s.anchor.getD (autoAnchor (firstProducts us))
    let taken := { s with anchor := some anchor, acc := accUnit anchor s.acc us }
    if s.anchor.isNone && rs.any (fun x => x.1.bad.contains 0 || x.2.bad.contains 0) then markSlot taken else taken) s

/-! ### Results (R139) -/

/-- The flags of a result of step 5: those of its rounding, NX for lost bits, UF for a tiny value that is not the exact sum. An exact sum of
0 that gives 0 raises neither, whatever its products lost (log 68). -/
def sumFlags (s : Acc) (r : Word) (fl : Nat) : Nat :=
  let value : Int := match f32 r with
    | .fin n man e => (if n then -1 else 1) * ((man * 2 ^ (e - exactUnit).toNat : Nat) : Int)
    | _ => 0
  let tiny := r.toNat / 2 ^ 23 % 256 = 0
  if s.sum = 0 && s.exact = 0 then 0 else fl ||| flagIf s.lost flNX ||| flagIf (tiny && value != s.exact) flUF

/-- The result of an accumulator with the flags it raises; a poisoned element delivers 0 with its mark (R113). -/
def accResult (a : Int) (s : Acc) : Word × Bool × Nat :=
  let maxF (neg : Bool) : Word := if neg then 0xff7fffff#32 else 0x7f7fffff#32
  if s.mark then (0#32, true, 0)
  else if s.nan then (BitVec.ofNat 32 fp32.nan, false, flagIf s.inval flIV)
  else if s.pinf && s.ninf then (BitVec.ofNat 32 fp32.nan, false, flIV)
  else if s.pinf then (0x7f800000#32, false, 0)
  else if s.ninf then (0xff800000#32, false, 0)
  else if s.bigP != 0 || s.bigN != 0 then (maxF (s.bigP < s.bigN), false, flAR ||| flNX)
  else if s.sum < -(2 ^ 255) || 2 ^ 255 ≤ s.sum then (maxF (s.sum < 0), false, flAR ||| flNX)
  else
    let (r, fl) := roundFp fp32 0 (.fin (s.sum < 0) s.sum.natAbs (a - 160))
    let r : Word := if s.sum = 0 then 0 else if fl &&& flOF != 0 then maxF (s.sum < 0) else BitVec.ofNat 32 r
    (r, false, sumFlags s r fl)

/-! ### Steps of a chain -/

/-- An accumulator slot; one that no CHB has named since the grant is whitewashed (R240). -/
def getSlot (mx : Matrix) (n : Nat) : AccSlot :=
  mapGetD mx.slots n { anchor := some 0, acc := [], results := [], ready := false, closed := false, begun := false, pops := 0 }

/-- Change a cluster's matrix engine. -/
def updMatrix (m : Mach) (cluster : Nat) (f : Matrix → Matrix) : Mach :=
  updCluster m cluster fun x => { x with matrix := f x.matrix }

/-- A cluster's matrix engine. -/
def getMatrix (m : Mach) (cluster : Nat) : Matrix := (getCluster m cluster).matrix

/-- The record of a faulty group record (R468). -/
def formatRecord (w : Warp) (s : MStep) (addr : Nat) : TrapRec :=
  { code := TrapName.blockFormat.code, cls := 2, slot := 2, plane := s.plane, path := s.path
    member := if w.gang.isSome then w.gidx else 0, lane := 0, imm := 0, issx := false, nested := false, skip := false
    pc := s.pc, seq := s.seq, addr := addr, info := 0, resume := 0, vbeat := 0, gtc := 0 }

/-- Read segment `j` of the rows from `r0`, sixteen of each tile, as one read beat does; what it finds in error is noted under the step's
name (R112, R116, R243). -/
def readRows (x : Accessor) (m : Mach) (team : Nat) (ta tb : Tile) (r0 j : Nat) : List (Segment × Segment) × Mach :=
  let rows := List.range' r0 16
  (rows.map fun r => (readSegment m team ta r j, readSegment m team tb r j),
    rows.foldl (fun m r => noteRead x (noteRead x m (tileKey m team ta (segAt ta r j)) 32)
      (tileKey m team tb (segAt tb r j)) 32) m)

/-- Change the chain of a warp and a slot. -/
def updChain (mx : Matrix) (k slot : Nat) (f : Chain → Chain) : Matrix :=
  { mx with chains := mx.chains.map fun c => if c.warp = k && c.slot = slot && !c.shut then f c else c }

/-- None of the 64 group records at index `j` of two tiles is of format M7 (R243). -/
def fastIndex (m : Mach) (team : Nat) (ta tb : Tile) (j : Nat) : Bool :=
  [ta, tb].all fun t => (List.range 32).all fun r =>
    (bfmtOf (byteN (memRead m.mem (tileKey m team t (segAt t r j)) 1) 0)).elim true fun f => f.m != 7

/-- The quarters of an engine beat that the next read beat of a step takes, of `credit` that are left. An engine beat takes two group
indices where no record at either is of format M7, and one index otherwise; a k-unit of halves takes one read beat (R243, log 24). -/
def readCost (m : Mach) (s : MStep) (ta tb : Tile) (credit : Nat) : Nat :=
  let fast := fastIndex m s.team ta tb
  if ta.fmt != 4 then 4
  else if !s.rows.isEmpty then (if credit % 2 = 1 then 1 else 2)
  else if credit = 2 then (if 0 < s.done && fast (s.done - 1) && fast s.done then 1 else 2)
  else if s.done + 1 < s.k && fast s.done && fast (s.done + 1) then 1 else 2

/-- One read beat of the first step of a chain (R242, R243, R468): segment `j` of rows 0 to 15 of both tiles, then of rows 16 to 31, after
which the segment's k-units are accumulated. -/
def takeBeat (gtc : Nat) (m : Mach) (cluster : Nat) (c : Chain) : Mach :=
  match c.steps with
  | [] => m
  | s :: rest =>
    match teamTile? m s.team s.ta, teamTile? m s.team s.tb, getWarp? m c.warp with
    | some ta, some tb, some w =>
      let n := 32 / unitBytes ta.fmt
      let j := s.done / n
      let r0 := s.rows.length
      let cost := readCost m s ta tb c.credit
      let (rows, m) := readRows (accessorOf gtc m w.ctx (nameWord s.seq s.plane s.cidx)) m s.team ta tb r0 j
      let badAt (t : Tile) (f : Segment × Segment → Segment) : Option Nat :=
        ((rows.zip (List.range' r0 16)).find? fun x => segmentFaulty t (f x.1)).map fun x => tileOffset t (segAt t x.2 j)
      let put (steps : List MStep) (f : AccSlot → AccSlot) (m : Mach) : Mach := updMatrix m cluster fun mx =>
        { updChain mx c.warp c.slot (fun x => { x with steps := steps, credit := x.credit - cost }) with
          slots := mapPut mx.slots c.slot (f (getSlot mx c.slot)) }
      match (badAt ta (·.1)).orElse fun _ => badAt tb (·.2) with
      | some addr => updWarp (put rest markSlot m) c.warp fun w => { w with due := w.due ++ [formatRecord w s addr] }
      | none =>
        if r0 = 0 then put ({ s with rows := rows } :: rest) id m
        else
          let units := min n (s.k - s.done)
          let s' := { s with done := s.done + units, rows := [] }
          put (if s'.done < s.k then s' :: rest else rest) (fun x => takeUnits ta.fmt units x (s.rows ++ rows)) m
    | _, _, _ => updMatrix m cluster fun mx => updChain mx c.warp c.slot fun x => { x with steps := rest }

/-- Take every k-unit that a chain still has queued. -/
def takeAll (gtc : Nat) : Nat → Mach → Nat → Nat → Nat → Mach
  | 0, m, _, _, _ => m
  | n + 1, m, cluster, k, slot =>
    match (getMatrix m cluster).chains.find? fun c => c.warp = k && c.slot = slot && !c.shut with
    | some c => if c.steps.isEmpty then m else takeAll gtc n (takeBeat gtc m cluster c) cluster k slot
    | none => m

/-! ### Closing and deposits (R244, R246, R248) -/

/-- Deliver the results of a chain whose steps are done, with the flags of the issuer; what is left of it is CHE's flag (R244). -/
def deliverChain (m : Mach) (cluster : Nat) (c : Chain) (h : Che) : Mach :=
  let slot := getSlot (getMatrix m cluster) c.slot
  let a := slot.anchor.getD 0
  let acc := if slot.acc.isEmpty then List.replicate 1024 Acc.zero else slot.acc
  let rs := acc.map (accResult a)
  let fl := rs.foldl (fun n r => n ||| r.2.2) 0
  let m := updMatrix m cluster fun mx =>
    { updChain mx c.warp c.slot (fun x => { x with steps := [], shut := true }) with
      slots := mapPut mx.slots c.slot { slot with results := rs.map fun r => (r.1, r.2.1), ready := true, acc := [] } }
  match getWarp? m c.warp with
  | none => m
  | some w =>
    let o : Occurrence := { tindex := teamIndex w.team, teamw := w.teamw, vbeat := h.vbeat, plane := h.plane, path := h.path
                            flag := 0, cmd := 1 + h.seq, cidx := h.cidx, seq := h.seq }
    raiseNode (updWarp m c.warp fun w => { w with exs := w.exs ||| fl }) w.node fl o

/-- Set the flag of a chain's CHE; the chain is over (R244, R248). -/
def endChain (m : Mach) (cluster : Nat) (c : Chain) (h : Che) : Mach :=
  updWarp (updMatrix m cluster fun mx => { mx with chains := mx.chains.filter fun x => !(x.warp = c.warp && x.che = some h) })
    c.warp fun w => completeFlag w h.flag

/-- Close one chain whose steps are done (R244, R248). -/
def closeChain (m : Mach) (cluster : Nat) (c : Chain) (h : Che) : Mach :=
  endChain (if c.shut then m else deliverChain m cluster c h) cluster c h

/-- Write a ready slot's results to an FP32 tile and complete the deposit (R246). -/
def deposit (m : Mach) (cluster : Nat) (d : Mdep) : Mach :=
  let slot := getSlot (getMatrix m cluster) d.slot
  match teamTile? m d.team d.tile with
  | none => m
  | some t =>
    let cells := (List.range 1024).map fun i => tileKey m d.team t (i / 32 * (32 * t.rowb) + 4 * (i % 32))
    let m := writeWords m ((cells.zip slot.results).map fun (a, r) => (a, leBytes 4 r.1))
    let m := (cells.zip slot.results).foldl (fun m (a, r) => if r.2 then poisonWord m a else m) m
    let m := updTeam m d.team fun x => { x with tiles := mapUpd x.tiles d.tile fun t => { t with state := .ready } }
    let m := updMatrix m cluster fun mx => { mx with mdeps := mx.mdeps.filter fun x => x.id != d.id }
    updWarp (bump m) d.warp fun w => completeFlag w d.flag (m.tick + 1)

/-- Finish what a warp's closed chains and deposits still have to do (R240, R241, log 24). The flag of a CHE.g waits for the other
members (R248). -/
def finishClosed (gtc : Nat) (m : Mach) (k : Nat) (only : Option Nat) : Mach :=
  let cluster := clusterOf k
  let want (n : Nat) : Bool := only.elim true (· = n)
  let cs := (getMatrix m cluster).chains.filter fun c => c.warp = k && c.che.isSome && !c.shut && want c.slot
  let m := cs.foldl (fun m c =>
    let m := takeAll gtc (4 * 2 * 64 + 1) m cluster k c.slot
    match c.che with
    | some h => (if c.group then deliverChain else closeChain) m cluster c h
    | none => m) m
  ((getMatrix m cluster).mdeps.filter fun d => d.warp = k && want d.slot && (getSlot (getMatrix m cluster) d.slot).ready).foldl
    (fun m d => deposit m cluster d) m

/-- Set the flags of a warp's chains that are closed but for them: its engine is released, and that of its gang with it (R240, R248). -/
def endShut (m : Mach) (k : Nat) : Mach :=
  ((getMatrix m (clusterOf k)).chains.filter fun c => c.warp = k && c.shut).foldl
    (fun m c => c.che.elim m (endChain m (clusterOf k) c)) m

/-! ### Answers to a request (R240, R248) -/

/-- A request is granted or withdrawn: the flags of those that have executed its MRES are set. A gang member that executes it later finds
it answered. -/
def answerRequest (r : MresReq) (m : Mach) : Mach :=
  match r.gang.bind fun g => (mapGet? m.gangs g).map fun x => (g, x) with
  | none => updWarp m r.warp fun w => completeFlag w r.flag
  | some (g, x) =>
    let m := (x.mres.filterMap fun i => x.members[i]?).foldl (fun m k => updWarp m k fun w => completeFlag w r.flag) m
    { m with gangs := mapUpd m.gangs g fun x => { x with grants := x.grants + 1, mres := [] } }

/-- A gang member executes MRES: its flag is set at once when the request is answered (R248). -/
def askGang (m : Mach) (g k gidx flag : Nat) : Mach :=
  match mapGet? m.gangs g with
  | none => m
  | some x =>
    let n := x.asked.getD gidx 0 + 1
    let x := { x with asked := x.asked.set gidx n }
    if n ≤ x.grants then updWarp { m with gangs := mapPut m.gangs g x } k fun w => completeFlag w flag
    else { m with gangs := mapPut m.gangs g { x with mres := x.mres ++ [gidx] } }

end Sys2Proof.Machine
end

