-- ==== Sys2Proof/Machine/Trap.lean ====
section
/-!
DEFINITION. Leaving a trap (R357), the replay or abandonment of a faulted command (R360), the retirement of a warp
(R300, R363) and the deadline event (R71).
-/

namespace Sys2Proof.Machine

/-! ### Commands named by a trap record (R360) -/

/-- The copy that an asynchronous record of a warp names: one that stands still for its fault. -/
def faultedCopy (m : Mach) (k : Nat) (r : TrapRec) : Option (Nat × Copy) :=
  if r.cls != 2 then none
  else (getCluster m (clusterOf k)).copies.find? fun (_, c) => c.warp = k && c.live && c.seq = r.seq && c.fault.isSome

/-- Start a faulted copy again from its beginning. -/
def replayCopy (m : Mach) (cluster id : Nat) : Mach :=
  updCluster m cluster fun x =>
    { x with copies := mapUpd x.copies id Copy.rewound }

/-- A failed operation of the warp that a record names. -/
def MemOp.namedBy (o : MemOp) (r : TrapRec) : Bool := o.failed && o.seq = r.seq && o.pc = r.pc

/-- A remote store that no port carried is sent again, a TPOST that faulted is replayed (R360, R392). -/
def resendOp (w : Warp) (r : TrapRec) : Warp :=
  { w with ops := w.ops.map fun o => if o.namedBy r then { o with failed := false } else o }

/-- The warp's record is closed: the command it names is replayed (R360). -/
def closeRecord (m : Mach) (k : Nat) : Mach :=
  match (getWarp? m k).bind (·.record) with
  | none => m
  | some r =>
    let m := if r.cls = 2 then updWarp m k (resendOp · r) else m
    match faultedCopy m k r with
    | some (id, _) => replayCopy m (clusterOf k) id
    | none => m

/-- Remove a copy with its range locks in every cluster (R231, R236, R360). -/
def removeCopy (m : Mach) (cluster id : Nat) : Mach :=
  let order := ((mapGet? (getCluster m cluster).copies id).map (·.order)).getD 0
  let m := updCluster m cluster fun x => { x with copies := mapErase x.copies id }
  { m with clusters := m.clusters.map fun (n, x) =>
      (n, { x with locks := x.locks.filter fun l => !(l.copy = id && l.order = order) }) }

/-! ### Pending records (R352, R353, R357) -/

/-- The pending records that a frame holds. -/
def framePending (bs : List Byte) : List TrapRec :=
  (List.range (min 16 (bits (wordAt bs 0) 60 56))).map fun i =>
    recordOfWords ((List.range 8).map fun j => (wordAt bs (0x200 + 64 * i + 8 * j)).toNat)

/-- Due asynchronous faults in the order of R358. -/
def dueInOrder (w : Warp) : List TrapRec :=
  listSort (fun a b => (a.seq + 2 ^ 32 - w.seq - 1) % 2 ^ 32 < (b.seq + 2 ^ 32 - w.seq - 1) % 2 ^ 32) w.due

/-- The external events that may join a pending list: not those that go to Pumal at once, nor PREEMPT (R352). -/
def joinable (w : Warp) : List Nat :=
  extOrder.filter fun c => w.ext.contains c && c != 0x60 && c != 0x64 && c != 0x65

/-- A warp as it stood at the boundary where it trapped, for the records of what joins the pending list (R354). -/
def trappedAt (w : Warp) : Warp :=
  match w.shadow with
  | none => w
  | some sh => { w with trapped := .running, p0 := sh.p0, p1 := sh.p1, split := sh.split, region := sh.region, pmlo := sh.pmlo, pmhi := sh.pmhi }

/-- What arose in handler state joins the pending list as far as it has room (R352, R358). -/
def joinPending (d : Dev) (m : Mach) (k : Nat) (pend : List TrapRec) : Mach × List TrapRec :=
  match getWarp? m k with
  | none => (m, pend)
  | some w =>
    let stood := trappedAt w
    let at_ := (extRecord d m stood 0).resume
    let stamp (r : TrapRec) : TrapRec := { r with resume := at_, vbeat := w.vbeat, gtc := d.gtc }
    let due := (dueInOrder w).take (16 - pend.length)
    let pend := pend ++ due.map stamp
    let exts := (joinable w).take (16 - pend.length)
    let pend := pend ++ exts.map fun c => stamp (extRecord d m stood c)
    (setWarp m k { w with due := w.due.filter fun a => !due.contains a, ext := w.ext.filter fun c => !exts.contains c },
     pend)

/-- Rewrite the record and the pending list of a frame; the saved scalars and the image stay. -/
def writeRecords (m : Mach) (key : Nat) (r : TrapRec) (rest : List TrapRec) : Mach :=
  writeWords m [(key, wordsBytes (recordWords r rest.length)),
    (key + 0x200, (List.range 16).flatMap fun i => match rest[i]? with
      | some p => wordsBytes (recordWords p 0)
      | none => List.replicate 64 0#8)]

/-! ### Leaving (R357) -/

/-- A PREEMPT that has waited stops the warp where it would resume (R352, R364). -/
def stopResumed (d : Dev) (m : Mach) (k : Nat) : Mach :=
  match getWarp? m k with
  | none => m
  | some w =>
    if w.ext.contains 0x60 then
      takeTrap (setWarp m k { w with ext := w.ext.erase 0x60 }) k (extRecord d m w 0x60) [] (conflictDue m k w)
    else m

/-- A bundle of four NOPs with a gap. -/
def nopBundle (gap : BitVec 4) : Bundle :=
  packBundle gap false 0#6 ((encodeV .nop).getD 0#30) ((encodeM .nop).getD 0#30) ((encodeX .nop).getD 0#28) ((encodeC .nop).getD 0#28)

/-- The bundle of a stream as SKIP spends it; where it cannot be fetched its gap is a free value (log 17). -/
def skipWord (m : Mach) (k : Nat) (w : Warp) (path plane : Nat) : Bundle :=
  match fetchFor m k w path plane with
  | .got b => b
  | _ => nopBundle ((Config.freeValue m.tick).setWidth 4)

/-- SKIP: the trapping stream's bundle counts as issued with no effect (R357 step 4); in a gang it is passed on like one that issues. -/
def skipBundle (gtc : Nat) (m : Mach) (k : Nat) (r : TrapRec) : Mach :=
  match getWarp? m k with
  | none => m
  | some w =>
    let planes := duePlanes m w r.path ++ (getPath w r.path).issued
    let word := skipWord m k w r.path r.plane
    closeBeat (markIssued gtc (bump (noteIssue m w r.path r.plane word planes)) k r.path r.plane (bundleGap word).toNat planes) k

/-- Enter the handler again with the next pending record; from Pumal's side s53 is set as at a delivery (R350, R357). -/
def enterNext (m : Mach) (k frame : Nat) (r : TrapRec) (rest : List TrapRec) (fresh : Bool) : Mach :=
  let s53 := ((getWarp? m k).map fun w => getS w 53).getD SReg.zero
  let m := enterHandler m k frame r rest
  if fresh then m else updWarp m k fun w => putS w 53 s53.value s53.mark

/-- Results of the handler that are still in flight land as it is left. -/
def landAll (m : Mach) (k : Nat) : Mach :=
  match getWarp? m k with
  | none => m
  | some w => (landingOrder w.flight).foldl (fun m f => landFlight m k f) (setWarp m k { w with flight := [] })

/-- The one way out of a trap: ERET, or a resumption by Pumal (R351, R357). `byPumal` says that Pumal acted on the record. -/
def leaveTrap (d : Dev) (m : Mach) (k key : Nat) (byPumal : Bool) : Mach :=
  let m := closeRecord (if byPumal then m else landAll m k) k
  let bs := openBytes m key 0x8000
  let m := (getWarp? m k).elim m fun w => noteRange (accessorOf d.gtc m w.ctx (w.record.elim 0 fun r =>
    nameWord r.seq r.plane (codeIndex m w r.pc))) m key 0x8000
  let (m, pend) := joinPending d m k (framePending bs)
  match getWarp? m k with
  | none => m
  | some w =>
    let frame := frameOf m w
    match pend with
    | r :: rest =>
      let r := { r with gtc := d.gtc }
      let m := dropRun (writeRecords m key r rest) (coreOf k) key 0x8000
      let m := traceTrap m w r
      if routed m w r.code then enterNext m k frame r rest byPumal
      else deselect (freezeForPumal m k frame r rest false none) k
    | [] =>
      let old := w.record
      let m := setWarp m k (thaw w bs)
      let m := match old with
        | some r =>
          if (wordAt bs 0).getLsbD 63 && r.cls < 2 && r.code != TrapName.userTrap.code then skipBundle d.gtc m k r else m
        | none => m
      stopResumed d m k

/-- Resume a restored warp as ERET does, from the frame that its save image holds (R357, R366): what is pending is delivered where it
resumes. -/
def resumeSaved (d : Dev) (m : Mach) (k : Nat) (bs : List Byte) : Mach :=
  let (m, pend) := joinPending d (closeRecord m k) k (framePending bs)
  match getWarp? m k with
  | none => m
  | some w =>
    let m := setWarp m k (thaw w bs)
    match pend with
    | r :: rest => takeTrap m k { r with gtc := d.gtc } rest ((wordAt bs 0x1ee0).getLsbD 0)
    | [] => stopResumed d m k

/-- Leave a trap for good once the stores before the frame is read are acknowledged; until then the warp waits (R291, R357). A frame that
can no longer be read is a fault of the handler. -/
def leaveAfter (d : Dev) (m : Mach) (k : Nat) : Mach :=
  match getWarp? m k with
  | none => m
  | some w =>
    if awaited w != 0 then setWarp m k { w with ret := true }
    else match frameHit m k w .read with
      | .ok h => leaveTrap d m k h.key false
      | .error e => takeTrap m k
          { recordAt d m w 0 0 1 4 { code := e.code, addr := frameOf m w, info := xinfo .read e.level } with nested := true } [] false

/-! ### Retirement (R300, R363) -/

/-- Release the matrix engine as far as a warp holds or awaits it; it is whitewashed when nobody is left (R240). -/
def releaseMatrix (gtc : Nat) (m : Mach) (k : Nat) : Mach :=
  updCluster (endShut (finishClosed gtc m k none) k) (clusterOf k) fun x =>
    let mx := x.matrix
    let owners := mx.owners.erase k
    let mrt := mx.mrt.filter (·.warp != k)
    { x with matrix := if owners.isEmpty then { Matrix.free with mrt := mrt } else
        { mx with owners := owners, mrt := mrt, chains := mx.chains.filter (·.warp != k), popOf := mapErase mx.popOf k
                  mdeps := mx.mdeps.filter (·.warp != k) } }

/-- A member that leaves its gang is charged for the beat it has taken (R40, R42). -/
def chargeLeaver (m : Mach) (w : Warp) (x : Gang) : Mach :=
  (x.round.filter fun r => r.1 = w.gidx).foldl (fun m (i, _, conflict) =>
    updWarp m (x.members.getD i 0) (chargeStretch x.stretch conflict)) m

/-- A member leaves its gang; the gang ends with its last member (R42). -/
def leaveGang (m : Mach) (w : Warp) : Mach :=
  match w.gang with
  | none => m
  | some g => match mapGet? m.gangs g with
    | none => m
    | some x =>
      let left := x.left ++ [w.gidx]
      let m := chargeLeaver m w x
      if left.length = x.members.length then { m with gangs := mapErase m.gangs g }
      else closeRound { m with gangs := mapPut m.gangs g { x with left := left, round := x.round.filter fun r => r.1 != w.gidx } } g

/-- The lease ends silently when its holder goes (R295). -/
def dropLease (m : Mach) (k team : Nat) : Mach :=
  updTeam m team fun t => { t with lease := t.lease.filter fun l => l.holder != k }

/-- Perform what a warp still has outstanding, in order; results and flags are lost, a reserved queue entry with them. A store that no port
carries is not performed, nor is what its order holds back behind it, such as a later release (R300, R392). A TPOST's record is then
read. -/
def performRest (gtc : Nat) (m : Mach) (k : Nat) : Mach :=
  match getWarp? m k with
  | none => m
  | some w =>
    w.ops.foldl (fun m o =>
      let m := o.ticket.elim m fun t => dropTicket m w.team t
      if !(getWarp? m k).elim false (opReady · o) || (o.kind.writes && !o.kind.reads && (o.failed || remoteStuck m o)) then m
      else match o.kind with
      | .tpost va => { finishOp m k o with posts := m.posts ++
          [{ ctx := w.ctx, va := va, die := dieOf (clusterOf k), jseq := 0, warp := none }] }
      | _ => performOp gtc m k { o with ticket := none } false []) m

/-- Place the fixed-latency results that an ending warp has on their way to queues (R300). -/
def placeRest (m : Mach) (k : Nat) (w : Warp) : Mach :=
  (w.flight ++ w.shadow.elim [] (·.flight)).foldl (fun m f => if f.ticket.isSome then landFlight m k f else m) m

/-- The bindings of an ending warp, with what its last bundles have asked for (R45, R252). -/
def lastPorts (w : Warp) : List Binding :=
  (List.range 8).filterMap fun q =>
    ((mapGet? w.portsIn q).orElse fun _ => w.shadow.bind fun s => mapGet? s.portsIn q).getD (mapGet? w.ports q)

/-- Add two maps of counters. -/
def addCounts (a b : Map Nat) : Map Nat :=
  b.foldl (fun m (i, n) => mapPut m i (satAdd 64 (mapGetD m i 0) n)) a

/-- The chunks that a warp's bundles of this beat, or of the beat that trapped, have been granted (R296). -/
def granted (w : Warp) : Nat := ((w.late ++ w.shadow.elim [] (·.late)).filter fun l => l.2 matches .chunk true).length

/-- The chunks that a warp has taken from its core's pool. -/
def heldChunks (w : Warp) : Nat := w.chunks + granted w + if w.grow = some true then 1 else 0

/-- How many episodes of a scope an entry of an ending warp still lets pass: those appended after a FLUSH of the scope that is issued
and not applied let that one pass (R220). -/
def episodesLeft (w : Warp) (sc : FlushScope) (issued at' : Nat) : Nat :=
  if w.ops.any fun o => o.kind = .flush sc then at' + 1 - issued else 0

/-- The deferred entries of a warp that ends (R220). -/
def settleEntries (m : Mach) (k : Nat) : Mach :=
  match getWarp? m k with
  | none => m
  | some w => updCore m (coreOf k) fun c => { c with dacc := c.dacc.map fun e =>
      if e.team = w.team && e.teamw = w.teamw then
        { e with
          epTeam := episodesLeft w .team w.flushes.1 e.epTeam
          epTask := episodesLeft w .task w.flushes.2.1 e.epTask
          epDev := episodesLeft w .dev w.flushes.2.2 e.epDev }
      else e }

/-- The copies of an ending warp go on as detached, and their entries in every range-lock table say so (R83, R236). -/
def detachCopies (m : Mach) (k : Nat) : Mach :=
  let mine (c : Copy) : Bool := c.warp = k && c.live
  let ids := ((getCluster m (clusterOf k)).copies.filter fun (_, c) => mine c).map fun (i, c) => (i, c.order)
  if ids.isEmpty then m
  else { m with clusters := m.clusters.map fun (n, x) =>
    (n, { x with
      copies := x.copies.map fun (i, c) => (i, if mine c then { c with live := false, flag := none } else c)
      locks := x.locks.map fun l => if ids.contains (l.copy, l.order) then { l with flag := none } else l }) }

/-- The requests for a lease of a warp that ends go with it, and the queue entries that they have reserved (R300). -/
def dropSprints (m : Mach) (k : Nat) : Mach :=
  let gone := m.sprints.filter (·.warp = k)
  gone.foldl (fun m r => r.ticket.elim m (dropTicket m r.team)) { m with sprints := m.sprints.filter (·.warp != k) }

/-- Take a warp out of the machine: END, or a kill at its boundary (R300, R363). -/
def retireWarp (d : Dev) (m : Mach) (k : Nat) : Mach :=
  let m := performRest d.gtc (settleEntries m k) k
  match getWarp? m k with
  | none => m
  | some w =>
    let m := (lastPorts w).foldl (fun m b => if b.role = .producer then detachProducer m w.team b.queue else m) (placeRest m k w)
    let m := dropLease (leaveGang (releaseMatrix d.gtc m k) w) k w.team
    let m := updTeam m w.team fun t => { t with ended := t.ended ++ [w.teamw], rdv := t.rdv.filter (·.warp != k) }
    let counts := (getWarp? m k).elim w.count (·.count)
    let m := updNode m w.node fun n => { n with counts := addCounts n.counts counts }
    let m := detachCopies m k
    let m := updCore (deselect m k) (coreOf k) fun c => { c with spare := c.spare + heldChunks w }
    let m := { dropSprints m k with warps := mapErase m.warps k }
    if w.stopped.isSome then noteStops m w.ctx else m

/-- END in a handler abandons the command that its record names; the task's status is the fault's code (R360). -/
def abandonRecord (m : Mach) (k : Nat) : Mach :=
  match getWarp? m k with
  | none => m
  | some w => match w.trapped, w.record with
    | .handler _, some r =>
      if r.cls != 2 then m
      else
        let m := match faultedCopy m k r with
          | some (id, _) => removeCopy m (clusterOf k) id
          | none => updWarp m k fun w => { w with ops := w.ops.filter fun o => !(o.namedBy r && o.kind matches .tpost _) }
        updNode m w.node fun n => { n with status := some (n.status.getD (0x100 + r.code)) }
    | _, _ => m

/-- END of a warp: in a gang every member retires, each at its own END, or all at once from a handler (R42, R300, log 18). -/
def endWarp (d : Dev) (m : Mach) (k : Nat) : Mach :=
  match getWarp? m k with
  | none => m
  | some w =>
    let mates := match w.trapped, w.gang.bind fun g => mapGet? m.gangs g with
      | .handler _, some g => g.members.filter fun j => j != k && (getWarp? m j).elim false (·.gang = w.gang)
      | _, _ => []
    mates.foldl (retireWarp d) (retireWarp d (abandonRecord m k) k)

/-! ### The deadline (R71, R368) -/

/-- The live warp of a node that takes an event meant for its task: the lowest team index, then c.teamw. -/
def firstWarp (m : Mach) (node : Nat) : Option Nat :=
  (listBest (fun a b => teamIndex a.2.team * 16 + a.2.teamw < teamIndex b.2.team * 16 + b.2.teamw)
    (m.warps.filter fun (_, w) => w.node = node)).map (·.1)

/-- A task that is resident and not in a save (R368). -/
def Node.resident (n : Node) : Bool :=
  match n.stage with
  | .running | .draining _ => true
  | _ => false

/-- The designated warps of a context's resident tasks. -/
def deadlineWarps (m : Mach) (ctx : Nat) : List Nat :=
  (m.nodes.filter fun (_, n) => n.ctx = ctx && n.resident).filterMap fun (h, _) => firstWarp m h

/-- DEADLINE in a saved task: pending in the warp that takes it after the restore (R368). -/
def savedDeadline (v : SavedTask) : SavedTask :=
  let first := (listBest (fun a b : Nat × Nat × Warp => a.1 * 16 + a.2.1 < b.1 * 16 + b.2.1) v.warps).map fun x => (x.1, x.2.1)
  { v with warps := v.warps.map fun (i, j, w) => (i, j, if first = some (i, j) then raiseExt w 0x62 else w) }

/-- DEADLINE: once for the context, whose deadline is then 0, in each of its resident tasks, and after the restore in those that a save
holds; while no task of it is resident it waits (R71, R368). -/
def raiseDeadline (m : Mach) (ctx : Nat) : Mach :=
  if (deadlineWarps m ctx).isEmpty then m
  else
    let ks := (m.nodes.filter fun (_, n) => n.ctx = ctx).filterMap fun (h, _) => firstWarp m h
    let m := ks.foldl (fun m k => updWarp m k fun w => raiseExt w 0x62) m
    let fix (n : Node) : Node := if n.ctx = ctx then { n with saved := n.saved.map savedDeadline } else n
    updCtx { m with nodes := m.nodes.map fun (h, n) => (h, fix n) } ctx fun c => { c with gdead := 0 }

end Sys2Proof.Machine
end

