-- ==== Sys2Proof/Machine/Image.lean ====
section
/-!
DEFINITION. What a save image holds (R364), as bytes. The spec lists the content and not its layout: this order of fields is the
model's (log 22). Only the digest over the bytes is ever read back.
-/

namespace Sys2Proof.Machine

/-- A count of entries, then each of them. -/
def listBytes {α : Type} (f : α → List Byte) (l : List α) : List Byte := wordsBytes [l.length] ++ l.flatMap f

/-- The entries of a map with their keys. -/
def mapBytes {α : Type} (f : α → List Byte) (m : Map α) : List Byte := listBytes (fun (k, x) => wordsBytes [k] ++ f x) m

/-- A list of numbers. -/
def natsBytes (l : List Nat) : List Byte := listBytes (fun n => wordsBytes [n]) l

/-- A number in as many bytes as it takes, after their count. -/
def intBytes (x : Int) : List Byte :=
  let n := x.natAbs.log2 / 8 + 2
  leBytes 1 (BitVec.ofNat 64 n) ++ leBytes n (BitVec.ofInt (8 * n) x)

/-- Flags, eight to a byte. -/
def flagBytes (l : List Bool) : List Byte :=
  (List.range ((l.length + 7) / 8)).map fun i => BitVec.ofNat 8 (packFields (((l.drop (8 * i)).take 8).zip (List.range 8) |>.map fun (b, j) => (j, bitNat b)))

def VReg.bytes (r : VReg) : List Byte := lanesBytes r.lanes ++ wordsBytes [r.marks.toNat]
def SReg.bytes (r : SReg) : List Byte := wordsBytes [r.value.toNat, bitNat r.mark]
def FlagRec.bytes (r : FlagRec) : List Byte := wordsBytes [bitNat r.set, bitNat r.pend, r.seq, r.plane, r.cidx]
def Binding.bytes (b : Binding) : List Byte := wordsBytes [b.queue, bitNat (b.role = .producer)]
def TrapRec.bytes (r : TrapRec) : List Byte := wordsBytes (recordWords r 0)

/-- A reconvergence stack with what its spilled entries keep on chip. -/
def stackBytes (q : PathSt) : List Byte :=
  listBytes (fun e => wordsBytes [e.lanes.toNat, e.target, e.join, e.whole.toNat, bitNat e.inReg, bitNat e.turned]) q.stack ++
    listBytes (fun e => wordsBytes [e.whole.toNat, bitNat e.inReg, bitNat e.turned]) q.spilled

/-- A warp beside its trap frame: its registers with their marks, flags with their producer records, control registers, target buffers,
reconvergence stacks, due faults and events, the dirty lines of its stack cache. -/
def warpBytes (w : Warp) : List Byte :=
  wordsBytes [teamIndex w.team, w.teamw, w.chunks, w.pmlo.toNat, w.pmhi.toNat, w.seq, w.vbeat, w.wtimer, w.exs, w.round, w.gidx, w.stklim,
    w.stktop, w.sptop, w.elatch.toNat] ++
  mapBytes VReg.bytes w.v ++ mapBytes SReg.bytes w.s ++ mapBytes FlagRec.bytes w.flags ++ mapBytes Binding.bytes w.ports ++
  mapBytes (fun a => wordsBytes [a]) w.target ++ stackBytes w.p0 ++ listBytes stackBytes w.p1.toList ++
  listBytes TrapRec.bytes w.due ++ natsBytes w.ext ++
  mapBytes (fun l => l.bytes ++ flagBytes ((List.range 16).map fun i => (mapGet? l.ecc (8 * i)).isSome)) w.stack

/-- The number of a tile's state. -/
def TileState.index : TileState → Nat
  | .empty => 0 | .filling => 1 | .ready => 2 | .draining => 3

def Tile.bytes (t : Tile) : List Byte := wordsBytes [t.state.index, t.stride, t.base, t.rows, t.rowb, t.fmt, t.grp, t.mover]
def QEntry.bytes (e : QEntry) : List Byte := wordsBytes [e.ticket, bitNat e.value.isSome, (e.value.getD 0#64).toNat, bitNat e.mark, e.prod]
def Queue.bytes (q : Queue) : List Byte := wordsBytes [q.producers, bitNat q.closed] ++ listBytes QEntry.bytes q.entries
def Barrier.bytes (b : Barrier) : List Byte :=
  wordsBytes [b.phase] ++ listBytes (fun a => wordsBytes [a.teamw, a.flag, a.order]) b.arrived

/-- A team: its scratchpad's shape, tiles, queues, barrier phases, rendezvous. -/
def teamBytes (t : Team) : List Byte :=
  wordsBytes [t.index, t.lima, t.limb] ++ natsBytes t.ended ++ mapBytes Tile.bytes t.tiles ++ mapBytes Queue.bytes t.queues ++
    mapBytes Barrier.bytes t.bars ++ listBytes (fun a => wordsBytes [a.teamw, a.n, a.skew]) t.rdv

def RangeLock.bytes (l : RangeLock) : List Byte :=
  wordsBytes [l.tindex, l.teamw, l.seq, bitNat l.flag.isNone, bitNat l.scratch, bitNat l.write, l.base, l.len, l.order]

/-- The number of a copy's kind. -/
def CopyOp.index : CopyOp → Nat
  | .cpy => 0 | .cpyin => 1 | .cpyout => 2 | .cpyr => 3 | .cpym => 4 | .cpyat => 5 | .cpyz => 6

/-- The number of a deferred operation's kind. -/
def daccIndex : DaccOp → Nat
  | .addI32 => 0 | .addI64 => 1 | .addF32 => 2 | .minI32 => 3 | .maxI32 => 4 | .minI64 => 5 | .maxI64 => 6 | .minF32 => 7 | .maxF32 => 8

/-- A copy that is recorded for its start or replay. -/
def copyBytes (c : Copy) : List Byte :=
  wordsBytes [c.op.index, c.teamw, c.seq, bitNat c.live, c.flag.elim 0 (· + 1), c.tile.elim 0 (· + 1), bitNat c.ord, c.pc, c.plane, c.path, c.mode, c.scope, c.qfmt, c.sig, c.len, (c.src.map (·.base)).getD 0,
    c.dst.base, c.launch.getD 0, c.order] ++ natsBytes c.targets ++ natsBytes c.waits

/-- A deferred entry in 40 bytes. -/
def Dacc.bytes (e : Dacc) : List Byte :=
  wordsBytes [packFields [(57, daccIndex e.op), (0, e.va)], e.value.toNat, packFields [(32, e.seq), (31, e.path), (29, e.plane), (0, e.cidx)],
    e.vbeat, packFields [(28, e.order), (19, e.tindex), (10, e.lane), (6, e.teamw)]]

/-- An accumulator: its sum, its flags, and of its exact sum what its result depends on. -/
def Acc.bytes (s : Acc) : List Byte :=
  intBytes s.sum ++ flagBytes [s.nan, s.inval, s.pinf, s.ninf, s.lost, s.mark, s.bigP != 0, s.bigN != 0, decide (s.bigP < s.bigN), s.exact != 0]

/-- An accumulator slot. -/
def AccSlot.bytes (s : AccSlot) : List Byte :=
  intBytes (s.anchor.getD 0) ++ listBytes Acc.bytes s.acc ++ listBytes (fun (x, b) => wordsBytes [x.toNat, bitNat b]) s.results ++
    wordsBytes [bitNat s.ready, bitNat s.closed, bitNat s.begun, s.pops]

/-- The matrix engine's frozen pass and slots. -/
def matrixBytes (mx : Matrix) : List Byte :=
  natsBytes mx.owners ++ mapBytes AccSlot.bytes mx.slots ++ mapBytes (fun n => wordsBytes [n]) mx.popOf ++
    listBytes (fun d => wordsBytes [d.warp, d.tile, d.slot, d.flag]) mx.mdeps ++
    listBytes (fun c => wordsBytes [c.warp, c.slot, c.kelems, bitNat c.group, bitNat c.che.isSome] ++ listBytes (fun s => wordsBytes [s.ta, s.tb, s.k, s.done, s.seq]) c.steps)
      mx.chains ++
    listBytes (fun r => wordsBytes [r.flag, r.tokens, r.order]) mx.mrt

/-- A gang: members, skew, beats, which have left, the lead's decisions and broadcast, its reservations. -/
def Gang.bytes (g : Gang) : List Byte :=
  wordsBytes [g.team, g.skew, g.grants] ++ natsBytes g.members ++ natsBytes g.beats ++ natsBytes g.left ++
    listBytes (fun (t, n) => wordsBytes [bitNat t, n]) g.decided ++ natsBytes g.used ++
    listBytes (fun b => wordsBytes [b.addr, bitNat b.conf] ++ leBytes 16 b.word ++ natsBytes b.planes) g.bundles ++ natsBytes g.read ++
    natsBytes g.asked ++ natsBytes g.mres

/-- The number of an error mark in two bits: none, single, uncorrectable, poison. -/
def markBits : Option Ecc → List Bool
  | none => [false, false]
  | some .single | some .cacheSingle => [true, false]
  | some .double | some .cacheDouble => [false, true]
  | some .poison => [true, true]

/-- A team's scratchpad: the bytes of both parts, and two bits for the marks of each word. -/
def sramBytes (v : SavedTask) (t : Nat × Team) : List Byte :=
  let cells : Memory := v.sram.filterMap fun (i, o, b) => if i = t.1 then some (o, b) else none
  let marks : Map Ecc := v.ecc.filterMap fun (i, o, e) => if i = t.1 then some (o, e) else none
  let part (base n : Nat) : List Byte :=
    memRead cells base n ++ flagBytes ((List.range (n / 8)).flatMap fun i => markBits (mapGet? marks (base + 8 * i)))
  part 0 t.2.lima ++ part 0x80000 t.2.limb

/-- A save image after its seal (R364). -/
def imageBytes (v : SavedTask) : List Byte :=
  wordsBytes [v.gen, v.saveGtc] ++ listBytes (fun (_, _, w) => warpBytes w) v.warps ++ listBytes id v.frames ++ mapBytes teamBytes v.teams ++
    mapBytes copyBytes v.copies ++ mapBytes RangeLock.bytes v.locks ++ listBytes (fun (_, e) => e.bytes) v.dacc ++ mapBytes matrixBytes v.passes ++
    mapBytes Gang.bytes v.gangs ++ v.teams.flatMap (sramBytes v)

end Sys2Proof.Machine
end

