-- ==== Sys2Proof/Machine/Sha.lean ====
section
/-!
DEFINITION. SHA3-512 (FIPS 202), which frames, journal entries, seals, measurements and wear entries use by name
(R364, R373, R375, R377, R410, R442, R461). A lane of the sponge is a number below 2^64.
-/

namespace Sys2Proof.Machine

/-- A number's low 64 bits. -/
def lane64 (n : Nat) : Nat := n % 2 ^ 64

/-- Rotate a 64-bit lane left. -/
def laneRotl (x n : Nat) : Nat := if n = 0 then x else lane64 (x <<< n) ||| (x >>> (64 - n))

/-- The lane at position `(x, y)` of the 5 by 5 array. -/
def laneAt (a : List Nat) (x y : Nat) : Nat := a.getD (x % 5 + 5 * (y % 5)) 0

/-- The 25 positions in array order. -/
def lanePositions : List (Nat × Nat) := (List.range 25).map (fun i => (i % 5, i / 5))

/-- The rotation of each position, in array order. -/
def rhoOffsets : List Nat :=
  [0, 1, 62, 28, 27, 36, 44, 6, 55, 20, 3, 10, 43, 25, 39, 41, 45, 15, 21, 8, 18, 2, 61, 56, 14]

/-- The constants of the 24 rounds. -/
def roundConstants : List Nat :=
  [0x0000000000000001, 0x0000000000008082, 0x800000000000808A, 0x8000000080008000, 0x000000000000808B,
   0x0000000080000001, 0x8000000080008081, 0x8000000000008009, 0x000000000000008A, 0x0000000000000088,
   0x0000000080008009, 0x000000008000000A] ++
  [0x000000008000808B, 0x800000000000008B, 0x8000000000008089, 0x8000000000008003, 0x8000000000008002,
   0x8000000000000080, 0x000000000000800A, 0x800000008000000A, 0x8000000080008081, 0x8000000000008080,
   0x0000000080000001, 0x8000000080008008]

/-- The column parities. -/
def keccakColumns (a : List Nat) : List Nat :=
  (List.range 5).map fun x => laneAt a x 0 ^^^ laneAt a x 1 ^^^ laneAt a x 2 ^^^ laneAt a x 3 ^^^ laneAt a x 4

/-- The theta step. -/
def keccakTheta (a : List Nat) : List Nat :=
  let c := keccakColumns a
  lanePositions.map fun (x, y) => laneAt a x y ^^^ c.getD ((x + 4) % 5) 0 ^^^ laneRotl (c.getD ((x + 1) % 5) 0) 1

/-- The rho and pi steps: position `(x, y)` takes the rotated lane of `(x + 3 y, x)`. -/
def keccakRhoPi (a : List Nat) : List Nat :=
  lanePositions.map fun (x, y) =>
    let sx := (x + 3 * y) % 5
    laneRotl (laneAt a sx x) (rhoOffsets.getD (sx + 5 * x) 0)

/-- The chi step. -/
def keccakChi (a : List Nat) : List Nat :=
  lanePositions.map fun (x, y) =>
    laneAt a x y ^^^ ((2 ^ 64 - 1 - laneAt a (x + 1) y) &&& laneAt a (x + 2) y)

/-- One round with its constant. -/
def keccakRound (a : List Nat) (rc : Nat) : List Nat :=
  match keccakChi (keccakRhoPi (keccakTheta a)) with
  | [] => []
  | l :: rest => (l ^^^ rc) :: rest

/-- The permutation of 24 rounds. -/
def keccakF (a : List Nat) : List Nat := roundConstants.foldl keccakRound a

/-- Bytes as 64-bit lanes, lowest byte first. -/
def bytesToLanes : Nat → List Byte → List Nat
  | 0, _ => []
  | n + 1, bs => leNat (bs.take 8) :: bytesToLanes n (bs.drop 8)

/-- A message with the padding of SHA3-512 to whole blocks of 72 bytes. -/
def sha3Pad (bs : List Byte) : List Byte :=
  let n := 72 - bs.length % 72
  if n = 1 then bs ++ [0x86#8] else bs ++ [0x06#8] ++ List.replicate (n - 2) 0#8 ++ [0x80#8]

/-- Absorb `n` blocks. -/
def sha3Absorb : Nat → List Nat → List Byte → List Nat
  | 0, a, _ => a
  | n + 1, a, bs =>
    let block := bytesToLanes 9 bs
    sha3Absorb n (keccakF ((List.range 25).map fun i => a.getD i 0 ^^^ block.getD i 0)) (bs.drop 72)

/-- SHA3-512: 64 bytes. -/
def sha3 (bs : List Byte) : List Byte :=
  let p := sha3Pad bs
  let a := sha3Absorb (p.length / 72) (List.replicate 25 0) p
  (a.take 8).flatMap fun l => leBytes 8 (BitVec.ofNat 64 l)

end Sys2Proof.Machine
end

