-- ==== Sys2Proof/Machine/Energy.lean ====
section
/-!
DEFINITION. The energy accounts (R450 to R452): how a charge reaches a context, a task and the system.
-/

namespace Sys2Proof.Machine

def updPcc (d : Dev) (f : Pcc → Pcc) : Dev := { d with pcc := f d.pcc }

/-- Fractions of a unit are kept in parts of 2^-32. -/
def fracUnit : Nat := 2 ^ 32

/-- Add parts to an account's carried fraction: the whole units that result. A context has its id, the system 0. -/
def carry (p : Pcc) (key parts : Nat) : Pcc × Nat :=
  let n := mapGetD p.frac key 0 + parts
  ({ p with frac := mapPut p.frac key (n % fracUnit) }, n / fracUnit)

/-- Add whole units to a context's account (R452). -/
def chargeCtx (m : Mach) (ctx n : Nat) : Mach :=
  updCtx m ctx fun c =>
    if c.esat then c else if 2 ^ 64 ≤ c.energy + n then { c with energy := 2 ^ 64 - 1, esat := true } else { c with energy := c.energy + n }

/-- Charge parts to the system account (R451). -/
def chargeSystem (d : Dev) (parts : Nat) : Dev :=
  let (p, k) := carry d.pcc 0 parts
  { d with pcc := { p with syse := satAdd 64 p.syse k } }

/-- Charge parts to a context that lives, else to the system (R450, R451). -/
def chargeLive (d : Dev) (m : Mach) (ctx : Option Nat) (parts : Nat) : Dev × Mach :=
  match ctx.filter fun c => (getCtx? m c).isSome with
  | some c =>
    let (p, k) := carry d.pcc c parts
    ({ d with pcc := p }, chargeCtx m c k)
  | none => (chargeSystem d parts, m)

/-- Charge parts for a node: to its context and the node, to the context that it had when it is gone, else to the system (R450, R451). -/
def chargeNode (d : Dev) (m : Mach) (node parts : Nat) : Dev × Mach :=
  match getNode? m node with
  | some n =>
    let (p, k) := carry d.pcc n.ctx parts
    ({ d with pcc := p }, updNode (chargeCtx m n.ctx k) node fun n => { n with energy := satAdd 64 n.energy k })
  | none => chargeLive d m ((mapGet? d.pcc.owed node).map (·.1)) parts

/-- Charge parts for the save or restore of a task to the context of the node that caused it, or to the system account (R451). -/
def chargeSave (d : Dev) (m : Mach) (node parts : Nat) : Dev × Mach :=
  chargeLive d m (match getNode? m node with
    | some n => n.causer.map (·.1)
    | none => (mapGet? d.pcc.owed node).map (·.2)) parts

/-- Cut a number in shares that stand as a list of weights do, so that they sum to it. -/
def cutShares (total sum : Nat) : Nat → List (Nat × Nat) → List (Nat × Nat)
  | _, [] => []
  | before, (h, n) :: rest => (h, total * (before + n) / sum - total * before / sum) :: cutShares total sum (before + n) rest

/-- A task that completes is charged what the estimates of this millisecond give it, so that its record holds it (R387, R451, log 84). -/
def settleEnergy (s : State) (h : Nat) : State :=
  match mapGet? s.dev.pcc.pending h with
  | none => s
  | some parts =>
    let d := updPcc s.dev fun p => { p with pending := mapErase p.pending h, early := p.early + parts }
    let (d, m) := chargeNode d s.mach h parts
    { s with dev := d, mach := m }

/-- A node that goes leaves its context, and the one that caused its save, for charges that are still to come (R450, R451). -/
def oweNode (d : Dev) (h : Nat) (n : Node) : Dev :=
  updPcc d fun p => { p with owed := mapPut p.owed h (n.ctx, n.causer.elim 0 (·.1)) }

end Sys2Proof.Machine
end

