-- ==== Sys2Proof/Machine/Flush.lean ====
section
/-!
DEFINITION. Applying deferred operations (R103, R218, R220): the FLUSH episodes and the implicit flush of a team that ends.
-/

namespace Sys2Proof.Machine

/-- The bytes of a deferred operation's target (R216). -/
def daccBytes (op : DaccOp) : Nat := if op.is64 then 8 else 4

/-- The new value of a target with the flags it raises (R218). -/
def daccNew (op : DaccOp) (old v : DWord) : Flagged DWord :=
  let a : Word := old.setWidth 32
  let b : Word := v.setWidth 32
  let wide (r : Flagged Word) : Flagged DWord := (r.1.setWidth 64, r.2)
  match op with
  | .addI32 => wide (a + b, 0)
  | .addI64 => (old + v, 0)
  | .addF32 => wide (fadd32 a b)
  | .minI32 => wide (if b.slt a then b else a, 0)
  | .maxI32 => wide (if a.slt b then b else a, 0)
  | .minI64 => (if v.slt old then v else old, 0)
  | .maxI64 => (if old.slt v then v else old, 0)
  | .minF32 => wide (fminmax false a b)
  | .maxF32 => wide (fminmax true a b)

/-- The fixed order of entries (R103). -/
def daccBefore (a b : Dacc) : Bool :=
  let key (e : Dacc) : List Nat := [e.rank, e.tindex, e.teamw, e.lane, e.order]
  occBefore.before (key a) (key b)

/-- The live warp of a team by its number there. -/
def liveWarp (m : Mach) (team teamw : Nat) : Option Nat :=
  (m.warps.find? fun (_, w) => w.team = team && w.teamw = teamw).map (·.1)

/-- The point of logical order of an entry: its DACC instruction's issue (R51). -/
def Dacc.occurrence (e : Dacc) : Occurrence :=
  { tindex := e.tindex, teamw := e.teamw, vbeat := e.vbeat, plane := e.plane, path := e.path, flag := 0, cmd := 0
    cidx := e.cidx, seq := e.seq }

/-- The flags an entry raises reach its issuer's c.exs where a save holds the issuer (R144, R218). -/
def raiseSaved (m : Mach) (e : Dacc) (fl : Nat) : Mach :=
  let fix (w : Warp) : Warp := if w.team = e.team && w.teamw = e.teamw then { w with exs := w.exs ||| fl } else w
  updNode m e.node fun n =>
    { n with saved := n.saved.map fun s => { s with warps := s.warps.map fun (i, j, w) => (i, j, fix w) } }

/-- Apply one entry; a poisoned word is left as it is (R113, R218). -/
def applyEntry (m : Mach) (e : Dacc) : Mach :=
  let n := daccBytes e.op
  let (bs, bad) := readBytes m e.key n
  if bad then m
  else
    let (v, fl) := daccNew e.op (ofLe 64 bs) e.value
    let m := writeBytes m e.key (leBytes n v)
    let m := match liveWarp m e.team e.teamw with
      | some k => raiseWarp m k fl
      | none => raiseSaved m e fl
    raiseNode m e.node fl e.occurrence

/-- Entries of one DACC instruction. -/
def sameDacc (a b : Dacc) : Bool :=
  a.team = b.team && a.teamw = b.teamw && a.vbeat = b.vbeat && a.plane = b.plane && a.path = b.path && a.cidx = b.cidx &&
    a.seq = b.seq

/-- The last entry applied to each target among sorted entries. -/
def lastEntries : List Dacc → List Dacc
  | [] => []
  | e :: rest => if rest.any fun x => x.key = e.key then lastEntries rest else e :: lastEntries rest

/-- One entry for each DACC instruction among entries. -/
def daccHeads : List Dacc → List Dacc
  | [] => []
  | e :: rest => e :: (daccHeads rest).filter fun x => !sameDacc e x

/-- The warps that a save holds. -/
def savedWarps (n : Node) : List Warp := n.saved.toList.flatMap fun s => s.warps.map fun (_, _, w) => w

/-- A warp of a team, live or saved. -/
def anyWarp (m : Mach) (team teamw : Nat) : Option Warp :=
  (m.warps.map (·.2) ++ m.nodes.flatMap fun (_, n) => savedWarps n).find? fun w => w.team = team && w.teamw = teamw

/-- A warp's index in its gang, 0 outside one. -/
def memberOf (w : Warp) : Nat := if w.gang.isSome then w.gidx else 0

/-- The watch hits of a flush, named by the last entry applied to each word (R427). -/
def flushHits (gtc : Nat) (m : Mach) (es : List Dacc) : Mach :=
  let last := lastEntries (es.filter fun e => !(readBytes m e.key (daccBytes e.op)).2)
  (daccHeads last).foldl (fun m e =>
    let r : TraceRec := { typ := 4, code := 0, issx := (anyWarp m e.team e.teamw).isNone
                          member := (anyWarp m e.team e.teamw).elim 0 memberOf, path := e.path
                          tindex := e.tindex, teamw := e.teamw, nameA := nameWord e.seq e.plane e.cidx, b := 0, gtc := gtc
                          extra := [] }
    watchHits m e.ctx r 2 none [] ((last.filter (sameDacc e)).map fun x => { va := x.va, n := daccBytes x.op, write := true })) m

/-- Take the entries for which a test holds out of the buffers, live and saved. -/
def takeEntries (m : Mach) (p : Dacc → Bool) : Mach × List Dacc :=
  let es := m.cores.flatMap (fun (_, c) => c.dacc.filter p) ++
    m.nodes.flatMap fun (_, n) => (n.saved.toList.flatMap (·.dacc)).filterMap fun (_, e) => if p e then some e else none
  let cut (c : Core) : Core := { c with dacc := c.dacc.filter fun e => !p e }
  let cutN (n : Node) : Node := { n with saved := n.saved.map fun s => { s with dacc := s.dacc.filter fun (_, e) => !p e } }
  ({ (m.cores.foldl (fun m (i, _) => updCore m i cut) m) with nodes := m.nodes.map fun (h, n) => (h, cutN n) }, es)

/-- Apply entries in their fixed order, each word by one write. -/
def applyEntries (gtc : Nat) (m : Mach) (es : List Dacc) : Mach :=
  let es := listSort daccBefore es
  let m := es.foldl (fun m e => noteRead (accessorOf gtc m e.ctx (nameWord e.seq e.plane e.cidx)) m e.key (daccBytes e.op)) m
  flushHits gtc (es.foldl applyEntry m) es

/-- The implicit flush at a team's end (R103). -/
def implicitFlush (gtc : Nat) (m : Mach) (team : Nat) : Mach :=
  let (m, es) := takeEntries m fun e => e.team = team
  applyEntries gtc m es

/-- A team's warps have all ended: none is live and none is saved. -/
def teamOver (m : Mach) (team : Nat) : Bool :=
  m.warps.all (fun (_, w) => w.team != team) && m.nodes.all fun (_, n) => (savedWarps n).all (·.team != team)

/-- A FLUSH.task or FLUSH.dev in which a task takes part is issued and not applied: it covers what the task's ended teams have
left in their buffers (R103, R220). -/
def flushOpen (m : Mach) (node : Nat) : Bool :=
  (getNode? m node).elim false (·.flushing) || m.episodes.any fun e => e.nodes.contains node

/-! ### Episodes (R220) -/

/-- Whether a warp, or an entry, of a team and node belongs to a group of a scope. -/
def inGroup (sc : FlushScope) (group : Nat) (nodes : List Nat) (team node : Nat) : Bool :=
  match sc with
  | .team => team = group
  | .task => node = group
  | .dev => nodes.contains node

/-- A warp has issued its FLUSH of the scope and its release condition holds (R103). -/
def flushWaiting (sc : FlushScope) (w : Warp) : Bool :=
  (w.ops.find? fun o => o.kind = .flush sc).elim false (opReady w)

/-- The episode that covers an entry, by scope. -/
def Dacc.episode (e : Dacc) : FlushScope → Nat
  | .team => e.epTeam
  | .task => e.epTask
  | .dev => e.epDev

/-- An entry that the episode being applied covers: appended before its warp's last FLUSH of the scope, or left by a warp that has ended
with no episode still to let pass (R220). -/
def entryCovered (sc : FlushScope) (e : Dacc) (w : Option Warp) : Bool :=
  match w with
  | none => e.episode sc = 0
  | some w => e.episode sc < (match sc with
    | .team => w.flushes.1
    | .task => w.flushes.2.1
    | .dev => w.flushes.2.2)

/-- An entry that has let an episode pass. -/
def Dacc.passed (e : Dacc) : FlushScope → Dacc
  | .team => { e with epTeam := e.epTeam - 1 }
  | .task => { e with epTask := e.epTask - 1 }
  | .dev => { e with epDev := e.epDev - 1 }

/-- The flag of a saved warp's FLUSH is set. -/
def finishSaved (sc : FlushScope) (w : Warp) : Warp :=
  match w.ops.find? fun o => o.kind = .flush sc with
  | none => w
  | some o =>
    let w := { w with ops := w.ops.filter fun e => e.id != o.id }
    o.flag.elim w (completeFlag w)

/-- The entries that ended participants have left behind an episode have let it pass. -/
def passEpisode (m : Mach) (sc : FlushScope) (group : Nat) (nodes : List Nat) : Mach :=
  let fix (e : Dacc) : Dacc :=
    if inGroup sc group nodes e.team e.node && (anyWarp m e.team e.teamw).isNone then e.passed sc else e
  let fixN (n : Node) : Node := { n with saved := n.saved.map fun v => { v with dacc := v.dacc.map fun (i, e) => (i, fix e) } }
  { m with
    cores := m.cores.map fun (i, c) => (i, { c with dacc := c.dacc.map fix })
    nodes := m.nodes.map fun (h, n) => (h, fixN n) }

/-- Apply an episode: the covered entries in order, the participants' L1s emptied, their flags set (R103, R219). -/
def applyEpisode (gtc : Nat) (m : Mach) (sc : FlushScope) (group : Nat) (nodes : List Nat) : Mach :=
  let mine (w : Warp) : Bool := inGroup sc group nodes w.team w.node
  let live := m.warps.filter fun (_, w) => mine w
  let m0 := m
  let (m, es) := takeEntries m fun e => inGroup sc group nodes e.team e.node && entryCovered sc e (anyWarp m0 e.team e.teamw)
  let m := passEpisode (applyEntries gtc m es) sc group nodes
  let m := live.foldl (fun m (k, _) => dropL1 m (coreOf k)) m
  let m := live.foldl (fun m (k, w) => match w.ops.find? fun o => o.kind = .flush sc with
    | some o => finishOp m k o
    | none => m) m
  let fix (s : SavedTask) : SavedTask :=
    { s with warps := s.warps.map fun (i, j, w) => (i, j, if mine w then finishSaved sc w else w) }
  { m with nodes := m.nodes.map fun (h, n) => (h, { n with saved := n.saved.map fix }) }

/-- What teams that are over have left when no flush that covers it is open any more (R103). -/
def applyLeft (gtc : Nat) (m : Mach) (nodes : List Nat) : Mach :=
  (m.teams.filter fun (t, x) => nodes.contains x.node && teamOver m t && !flushOpen m x.node).foldl (fun m (t, _) => implicitFlush gtc m t) m

/-- Apply an episode of FLUSH.team. -/
def applyTeam (gtc : Nat) (m : Mach) (team : Nat) : Mach :=
  updTeam (applyEpisode gtc m .team team []) team fun t => { t with flushing := false }

/-- Apply an episode of FLUSH.task. -/
def applyTask (gtc : Nat) (m : Mach) (node : Nat) : Mach :=
  applyLeft gtc (updNode (applyEpisode gtc m .task node []) node fun n => { n with flushing := false }) [node]

/-- Apply an episode of FLUSH.dev. -/
def applyDev (gtc : Nat) (m : Mach) (e : Episode) (group : Nat) : Mach :=
  applyLeft gtc { applyEpisode gtc m .dev group e.nodes with episodes := m.episodes.erase e } e.nodes

/-- The tile entries of a team that has ended return to its cluster undefined (R81). -/
def freeTiles (m : Mach) (team : Nat) : Mach := updTeam m team fun t => { t with tiles := [], ntiles := 0 }

/-- END of a warp. A team that is over by it has issued every FLUSH.team: an open one is applied; then the implicit flush, unless a flush
that covers what is left is open (R103, R220, R300). -/
def endFlush (d : Dev) (m : Mach) (k : Nat) : Mach :=
  match getWarp? m k with
  | none => m
  | some w =>
    let m := endWarp d m k
    if !teamOver m w.team then m
    else
      let m := freeTiles m w.team
      let m := if (getTeam? m w.team).elim false (·.flushing) then applyTeam d.gtc m w.team else m
      if flushOpen m w.node then m else implicitFlush d.gtc m w.team

/-- The group of an open episode of FLUSH.dev. -/
def devGroup (ctx fgrp : Nat) : Nat := 256 * ctx + fgrp

/-- Whether every participant of an episode has issued its FLUSH. -/
def episodeDue (m : Mach) (sc : FlushScope) (group : Nat) (nodes : List Nat) : Bool :=
  let ws := (m.warps.map (·.2) ++ m.nodes.flatMap fun (_, n) => savedWarps n).filter fun w =>
    inGroup sc group nodes w.team w.node
  ws.all (flushWaiting sc) && (match sc with
    | .team => (getTeam? m group).elim false (·.flushing)
    | .task => (getNode? m group).elim false (·.flushing)
    | .dev => true)

/-- FLUSH_EPISODE_APPLY (R103, R219, R220). -/
def execFlushEpisodeApply (sc : FlushScope) (group : Nat) (s : State) : Host.Outcome State Fault Refusal :=
  let m := s.mach
  let m' := match sc with
    | .dev =>
      match m.episodes.find? fun e => devGroup e.ctx e.fgrp = group with
      | none => m
      | some e => if episodeDue m sc group e.nodes then applyDev s.dev.gtc m e group else m
    | .task => if episodeDue m sc group [] then applyTask s.dev.gtc m group else m
    | .team => if episodeDue m sc group [] then applyTeam s.dev.gtc m group else m
  .next { s with mach := m' }

end Sys2Proof.Machine
end

