-- ==== Sys2Proof/Machine/Memory.lean ====
section
/-!
DEFINITION. The meanings of the M slot (R197 to R224): checks in the order of R200, then what the instruction does at
issue. What a variable-latency operation does when it is performed stands in Memops.
-/

namespace Sys2Proof.Machine

/-! ### Addresses and checks (R199, R200, R105) -/

/-- A lane's element: lane number and address. -/
structure Elem where
  lane : Nat
  addr : Nat
  deriving DecidableEq, Repr

/-- An element whose address is translated. -/
structure Placed where
  lane : Nat
  addr : Nat
  key  : Nat
  leaf : DWord
  level : Nat
  deriving DecidableEq, Repr

/-- The lowest lane for which a test fails, with its address and the INFO word of the check. -/
def elemFault (es : List Elem) (t : TrapName) (bad : Nat → Bool) (info : Nat := 0) : Option Exn :=
  (es.find? fun e => bad e.addr).map fun e => { code := t.code, lane := e.lane, addr := e.addr % 2 ^ 64, info := info }

/-- Translate every element: the placed ones, the first fault, the pages missed (R199). -/
def placeAll (c : Ctx) (k : AccKind) : List Elem → List Placed × Option Exn × List Nat
  | [] => ([], none, [])
  | e :: rest =>
    let (ps, x, ms) := placeAll c k rest
    match c.xlate e.addr k with
    | .hit key leaf level => ({ lane := e.lane, addr := e.addr, key := key, leaf := leaf, level := level } :: ps, x, ms)
    | .fault f => (ps, some { f with lane := e.lane }, ms)
    | .miss p => (ps, x, if ms.contains p then ms else p :: ms)

/-- The first registered range-lock entry that an access violates (R105). -/
def lockOn (c : Ctx) (scratch write : Bool) (addr n : Nat) : Option RangeLock :=
  listBest (fun a b => a.order < b.order) ((getCluster c.m (clusterOf c.k)).locks.filter fun l =>
    l.scratch = scratch && (if scratch then l.team = c.w.team else l.ctx = c.w.ctx) &&
    l.base < addr + n && addr < l.base + l.len && (l.write || write))

/-- The INFO word of a RANGE_LOCK fault (R105). -/
def lockInfo (l : RangeLock) : Nat :=
  packFields [(32, l.seq), (23, l.tindex), (19, l.teamw), (18, bitNat l.write), (17, bitNat l.scratch),
    (16, bitNat l.flag.isNone)]

/-- RANGE_LOCK for the lowest failing lane. -/
def lockFault (c : Ctx) (scratch write : Bool) (n : Nat) (es : List Elem) : Option Exn :=
  es.findSome? fun e => (lockOn c scratch write e.addr n).map fun l =>
    { code := TrapName.rangeLock.code, lane := e.lane, addr := e.addr, info := lockInfo l }

/-- DET_ATOMIC: an immediate atomic of a deterministic task on a deterministic-safe page (R52). -/
def detFault (c : Ctx) (ps : List Placed) : Option Exn :=
  if detOf c.m c.w then (ps.find? fun p => leafDs p.leaf).map fun p =>
    { code := TrapName.detAtomic.code, lane := p.lane, addr := p.addr }
  else none

/-- What the checks of a global access give: the first fault, the missed pages, the placed elements (R200 rows 5 to 11). -/
structure Checked where
  trap : Option Exn
  miss : List Nat
  ps   : List Placed

/-- Rows 5 to 11 of R200 for elements of `n` bytes; `own` is the instruction's STACK_LIMIT check. -/
def checkGlobal (c : Ctx) (k : AccKind) (n : Nat) (write : Bool) (own : Option Exn) (es : List Elem) : Checked :=
  let (ps, x, ms) := placeAll c k es
  let late := if ms.isEmpty then firstExn [x, if k = .deferred then none else lockFault c false write n es,
    if k = .atomic then detFault c ps else none] else none
  { trap := firstExn [elemFault es .addrCanon (fun a => !canonical a) (xinfo k 0), elemFault es .addrAlign fun a => a % n != 0, own, late]
    miss := ms, ps := ps }

/-- Load the translations an access used into the core's and cluster's TLBs (R400). -/
def fillTlbs (c : Ctx) (ps : List Placed) (m : Mach) : Mach :=
  (ps.map fun p => p.addr / 65536).eraseDups.foldl (fun m p =>
    match tlbLookup c.m (coreOf c.k) c.w.ctx (p * 65536) with
    | some e => tlbFill m (coreOf c.k) e
    | none => m) m

/-- Issue an operation of the warp's memory order: the flag's record, the order's entry, and for a write the core's L1 lines
(R66, R92, R197). -/
def issueOp (c : Ctx) (kind : MemKind) (f : Option (BitVec 4)) (acc : List Access) (ticket : Option (Nat × Nat)) (m : Mach) :
    Mach :=
  let m := match f with
    | some f => c.arm f.toNat m
    | none => m
  let seq := (getWarp? m c.k).elim 0 (·.seq)
  let floor := (getWarp? m c.k).elim 0 fun w => ofPath w.floors c.path
  let m := addOp (bump m) c.k
    { id := m.tick, kind := kind, acc := acc, flag := f.map (·.toNat), path := c.path, plane := c.plane, cidx := c.cidx
      pc := c.addr, seq := seq, ticket := ticket, both := false, floor := floor, failed := false }
  if kind.writes then dropLines m (coreOf c.k) (acc.map (·.key)) else m

/-- An access without data. -/
def bareAccess (p : Placed) : Access :=
  { lane := p.lane, va := p.addr, key := p.key, data := [], expd := [], mark := false, leaf := p.leaf, level := p.level }

/-- A per-lane operation under a zero mask: only FLAG_BUSY, and the flag set at once (R48). -/
def zeroMask (c : Ctx) (f : BitVec 4) : Action :=
  { trap := c.flagBusy f.toNat
    fx := fun m => updWarp m c.k fun w => passFlag w f.toNat w.seq c.plane c.cidx }

/-- A per-lane global operation: operand checks, then the access checks, then its place in the memory order. `vs` are the vector
registers it reads, `addr` each lane's address, `data` what a lane's access carries. -/
def lanesOp (kind : MemKind) (k : AccKind) (n : Nat) (vs : List (BitVec 7)) (sa : BitVec 6) (f : BitVec 4)
    (own : Ctx → List Elem → Option Exn) (addr : Ctx → Nat → Nat) (data : Ctx → Nat → Access → Access) : Act := fun c =>
  if c.mask = 0#64 then zeroMask c f
  else
    let es := (lanesOf c.mask).map fun l => { lane := l, addr := addr c l : Elem }
    let r := checkGlobal c k n kind.writes (own c es) es
    { trap := firstExn [c.poisonV vs, c.scalars [sa] none, c.flagBusy f.toNat, r.trap]
      block := if r.miss.isEmpty then none else some .xlate
      miss := r.miss
      fx := fun m => issueOp c kind (some f) (r.ps.map fun p => data c p.lane (bareAccess p)) none
        (fillTlbs c r.ps m) }

/-- A scalar's reserved queue entry, when its destination is a producer port (R201). -/
def reserve (c : Ctx) (st : BitVec 6) (m : Mach) : Mach × Option (Nat × Nat) :=
  match portOf c.w st.toNat with
  | some { queue := q, role := .producer } =>
    if st = 0#6 then (m, none) else (pushQueue (bump m) c.w.team q m.tick none false, some (q, m.tick))
  | _ => (m, none)

/-- A scalar global operation; `srcs` are the scalars it reads, `dst` its destination. -/
def scalarMem (kind : MemKind) (k : AccKind) (n : Nat) (srcs : List (BitVec 6)) (dst : Option (BitVec 6)) (f : BitVec 4)
    (addr : Ctx → Nat) (data : Ctx → Access → Access) : Act := fun c =>
  let es : List Elem := [{ lane := 0, addr := addr c }]
  let r := checkGlobal c k n kind.writes none es
  { trap := firstExn [c.scalars srcs dst, c.flagBusy f.toNat, r.trap]
    block := if r.miss.isEmpty then none else some .xlate
    miss := r.miss
    fx := fun m =>
      let (m, t) := match dst with
        | some d => reserve c d m
        | none => (m, none)
      issueOp c kind (some f) (r.ps.map fun p => data c (bareAccess p)) t (fillTlbs c r.ps m) }

/-! ### Address forms -/

/-- `sa + sext(OFS, 5) × 64 × n + l × n` (R203). -/
def rowAddr (sa : BitVec 6) (ofs : BitVec 5) (n : Nat) (c : Ctx) (l : Nat) : Nat :=
  (c.sv sa + BitVec.ofInt 64 (ofs.toInt * 64 * n) + BitVec.ofNat 64 (l * n)).toNat

/-- `sa + sext(vx[l], 32)` (R204). -/
def gatherAddr (sa : BitVec 6) (vx : BitVec 7) (c : Ctx) (l : Nat) : Nat :=
  (c.sv sa + ((c.src vx).lanes.at l).signExtend 64).toNat

/-- `sa + sext(DISP, 4) × n` (R205). -/
def dispAddr (sa : BitVec 6) (disp : BitVec 4) (n : Nat) (c : Ctx) : Nat :=
  (c.sv sa + BitVec.ofInt 64 (disp.toInt * n)).toNat

/-- The low `n` bytes of a lane. -/
def laneData (vt : BitVec 7) (n : Nat) (c : Ctx) (l : Nat) (a : Access) : Access :=
  { a with data := leBytes n ((c.src vt).lanes.at l) }

/-- A lane of a register with the marks that VSPILL moves (R114). -/
def spillData (vt : BitVec 7) (c : Ctx) (l : Nat) (a : Access) : Access :=
  { laneData vt 4 c l a with mark := maskBit (c.src vt).marks l }

/-- STACK_LIMIT of VSPILL and VFILL: a byte below the spill top or at or above the stack top (R222). -/
def stackFault (c : Ctx) (es : List Elem) : Option Exn :=
  elemFault es .stackLimit fun a => a < c.w.sptop || c.w.stktop < a + 4

/-! ### Scratchpad accesses (R206 to R210) -/

/-- The team of the issuing warp. -/
def Ctx.team? (c : Ctx) : Option Team := getTeam? c.m c.w.team

/-- Whether an access of fixed latency must wait for something unfinished that is ordered before it: a fence, an acquiring load, a sync
point of its path, or its own bundle's (R33, R100, R208). -/
def fenceWait (c : Ctx) (write : Bool) : Bool :=
  c.w.ops.any fun e => match e.kind with
    | .fence f _ => f != .rel || write
    | .loadS _ _ (some _) => true
    | .sync all => e.before c.path all
    | k => c.sync && c.q.issued.isEmpty && k.accesses && e.before c.path false

/-- Rows 6, 7 and 10 of R200 for scratchpad elements. -/
def checkScratch (c : Ctx) (n : Nat) (write : Bool) (es : List Elem) : Option Exn :=
  firstExn [elemFault es .addrAlign fun o => o % n != 0,
    elemFault es .spBounds fun o => !(c.team?.elim false fun t => spInBounds t o n), lockFault c true write n es]

/-- The key of a team offset. -/
def Ctx.spad (c : Ctx) (o : Nat) : Nat := c.team?.elim 0 fun t => spKey t o

/-- An operation of this bundle as an accessor (R116). -/
def Ctx.accessor (c : Ctx) (m : Mach) : Accessor := accessorOf c.d.gtc m c.w.ctx (nameWord c.w.seq c.plane c.cidx)

/-- Read `n` bytes of the scratchpad in the issue beat (R109). -/
def spadRead (c : Ctx) (m : Mach) (o n : Nat) : Mach × List Byte × Bool :=
  let (bs, bad) := readBytes m (c.spad o) n
  (noteRead (c.accessor m) m (c.spad o) n, bs, bad)

/-- A team offset is a sum without bound (R12, R206, R207); one below 0 or from 2^64 on lies outside every window. -/
def spadSum (x : Int) : Nat := (x % 2 ^ 65).toNat

/-- The team offset of a lane: `sa + zext(vx[l], 32)` (R206). -/
def spadAddr (sa : BitVec 6) (vx : BitVec 7) (c : Ctx) (l : Nat) : Nat :=
  spadSum ((c.sv sa).toNat + ((c.src vx).lanes.at l).toNat)

/-- Deliver words read from the scratchpad in the issue beat (R206, R210). -/
def spadLanes (c : Ctx) (vt : BitVec 7) (es : List Elem) (m : Mach) : Mach :=
  let read (e : Elem) : Word × Bool := loaded 32 (readBytes m (c.spad e.addr) 4)
  let at? (l : Nat) : Word × Bool := ((es.find? (·.lane = l)).map read).getD (0#32, false)
  let m := es.foldl (fun m e => noteRead (c.accessor m) m (c.spad e.addr) 4) m
  c.sendV .memory 3 vt false c.mask (Lanes.ofLane fun l => (at? l).1) (maskOf fun l => (at? l).2) m

/-- The lanes of an SPLD or SPST. -/
def spadElems (sa : BitVec 6) (vx : BitVec 7) (c : Ctx) : List Elem :=
  (lanesOf c.mask).map fun l => { lane := l, addr := spadAddr sa vx c l }

def spldOp (vt vx : BitVec 7) (sa : BitVec 6) : Act := fun c =>
  if c.mask = 0#64 then {}
  else
    let es := spadElems sa vx c
    { trap := firstExn [c.poisonV [vx], c.scalars [sa] none, checkScratch c 4 false es]
      block := causeIf (fenceWait c false) .fence
      fx := spadLanes c vt es }

def spstOp (vt vx : BitVec 7) (sa : BitVec 6) : Act := fun c =>
  if c.mask = 0#64 then {}
  else
    let es := spadElems sa vx c
    { trap := firstExn [c.poisonV [vt, vx], c.scalars [sa] none, checkScratch c 4 true es]
      block := causeIf (fenceWait c true) .fence
      fx := fun m => writeNoted (c.accessor m) m (es.map fun e => (c.spad e.addr, leBytes 4 ((c.src vt).lanes.at e.lane))) }

/-- The team offset of a scalar access: `sa + sext(DISP, 4) × n` (R207). -/
def spadDisp (sa : BitVec 6) (disp : BitVec 4) (n : Nat) (c : Ctx) : Nat := spadSum ((c.sv sa).toNat + disp.toInt * n)

/-- What SPLDS puts into bm1: R56 lists it among the operations that feed it and states no lane's value, so each active lane holds a free
value (log 67). -/
def spldsLatch (c : Ctx) (m : Mach) : Mach :=
  if c.mask = 0#64 then m
  else
    let t := m.tick
    c.sendV .memory 3 0#7 true c.mask (Lanes.ofLane fun l => (Config.freeValue (t + l)).setWidth 32) 0#64 { m with tick := t + 64 }

def spldsOp (st sa : BitVec 6) (n : Nat) (disp : BitVec 4) : Act := fun c =>
  let o := spadDisp sa disp n c
  { trap := firstExn [c.scalars [sa] (some st), checkScratch c n false [{ lane := 0, addr := o }]]
    block := causeIf (fenceWait c false) .fence
    fx := fun m =>
      let (m, r) := spadRead c m o n
      let v : DWord × Bool := loaded 64 r
      spldsLatch c (c.sendS st v.1 v.2 3 m) }

def spstsOp (st sa : BitVec 6) (n : Nat) (disp : BitVec 4) : Act := fun c =>
  let o := spadDisp sa disp n c
  { trap := firstExn [c.scalars [st, sa] none, checkScratch c n true [{ lane := 0, addr := o }]]
    block := causeIf (fenceWait c true) .fence
    fx := fun m => writeNoted (c.accessor m) m [(c.spad o, leBytes n (c.sv st))] }

/-- TLD (R210): a tile that is not ready blocks before its range is checked against locks (log 16). -/
def tldOp (vt : BitVec 7) (tile : BitVec 6) (rg : BitVec 7) : Act := fun c =>
  if c.mask = 0#64 then {}
  else
    let k0 := rg.toNat * 256
    let t? := c.team?.bind fun t => mapGet? t.tiles tile.toNat
    match t? with
    | none => { trap := some { code := (if c.team?.elim true fun t => t.ntiles ≤ tile.toNat then
        TrapName.tileRange else TrapName.tileState).code } }
    | some t =>
      let es := (lanesOf c.mask).map fun l => { lane := l, addr := tileOffset t (k0 + 4 * l) : Elem }
      { trap := firstExn [exnIf (t.rows * (32 * t.rowb) < k0 + 256) .tileRange,
          if t.state = .ready then lockFault c true false 4 es else none]
        block := leastCause [causeIf (t.state != .ready) .tile, causeIf (fenceWait c false) .fence]
        fx := spadLanes c vt es }

/-! ### Deferred atomics (R216, R217) -/

/-- Entries that a core may still take: the free ones of its buffer and of the context's overflow area (R217). -/
def daccRoom (c : Ctx) : Nat :=
  let here := (getCore c.m (coreOf c.k)).dacc.length
  let spilled := listSum (c.m.cores.map fun (_, x) => ((x.dacc.drop 2048).filter (·.ctx = c.w.ctx)).length)
  (2048 - here) + ((ctxOf c.m c.w).elim 0 (·.dovflen) / 32 - spilled)

/-- Append entries in lane order (R103, R216). -/
def daccPush (c : Ctx) (op : DaccOp) (es : List (Placed × DWord)) (m : Mach) : Mach :=
  let rank := (getNode? c.m c.w.node).elim 0 (·.rank)
  es.foldl (fun m (p, v) =>
    updCore (bump m) (coreOf c.k) fun x => { x with dacc := x.dacc ++ [
      { ctx := c.w.ctx, team := c.w.team, node := c.w.node, rank := rank, tindex := teamIndex c.w.team
        teamw := c.w.teamw, lane := p.lane, order := m.tick, op := op, va := p.addr, key := p.key, value := v
        vbeat := c.w.vbeat, plane := c.plane, path := c.path, cidx := c.cidx, seq := c.w.seq
        epTeam := c.w.flushes.1, epTask := c.w.flushes.2.1, epDev := c.w.flushes.2.2 }] }) m

def daccOp (op : DaccOp) (n : Nat) (poison : Ctx → Option Exn) (srcs : List (BitVec 6)) (es : Ctx → List Elem)
    (value : Ctx → Nat → DWord) : Act := fun c =>
  let es := es c
  let r := checkGlobal c .deferred n true none es
  { trap := firstExn [poison c, c.scalars srcs none, r.trap,
      if r.miss.isEmpty then exnIf (daccRoom c < es.length) .daccFull else none]
    block := if r.miss.isEmpty then none else some .xlate
    miss := r.miss
    fx := fun m => daccPush c op (r.ps.map fun p => (p, value c p.lane)) (fillTlbs c r.ps m) }

/-! ### FLUSH, FENCE, PREF (R219 to R223) -/

/-- A FLUSH of the same scope is still pending (R220). -/
def flushBusy (w : Warp) (sc : FlushScope) : Bool := w.ops.any fun o => o.kind = .flush sc

/-- Count a FLUSH of a scope. -/
def countFlush (w : Warp) (sc : FlushScope) : Warp :=
  let (a, b, d) := w.flushes
  { w with flushes := match sc with
      | .team => (a + 1, b, d)
      | .task => (a, b + 1, d)
      | .dev => (a, b, d + 1) }

/-- A task that has been dispatched and has not completed. -/
def Node.dispatched (n : Node) : Bool :=
  n.saved.isSome || (match n.stage with
    | .waiting | .ready => false
    | _ => true)

/-- A FLUSH.dev joins the first open episode that its task takes part in, or opens the next one (R220). -/
def joinEpisode (m : Mach) (w : Warp) : Mach :=
  let fgrp := (getNode? m w.node).elim 0 (·.fgrp)
  if m.episodes.any fun e => e.ctx = w.ctx && e.fgrp = fgrp && e.nodes.contains w.node then m
  else
    let nodes := (m.nodes.filter fun (_, n) => n.ctx = w.ctx && n.fgrp = fgrp && n.dispatched).map (·.1)
    { m with episodes := m.episodes ++ [{ ctx := w.ctx, fgrp := fgrp, nodes := nodes }] }

def flushOp (sc : FlushScope) (f : BitVec 4) : Act := fun c =>
  { trap := firstExn [c.flagBusy f.toNat, exnIf (flushBusy c.w sc) .flushBusy]
    fx := fun m =>
      let m := updWarp m c.k fun w => countFlush w sc
      let m := match sc with
        | .team => updTeam m c.w.team fun t => { t with flushing := true }
        | .task => updNode m c.w.node fun n => { n with flushing := true }
        | .dev => joinEpisode m c.w
      issueOp c (.flush sc) (some f) [] none m }

/-- FENCE (R221): at warp scope nothing; else an entry of the memory order that completes by R100. -/
def fenceOp (kind : FenceKind) (sc : Scope) : Act := fun c =>
  { fx := fun m =>
      if sc = .warp then m
      else
        let m := issueOp c (.fence kind sc) none [] none m
        drainFences ((getWarp? m c.k).elim 0 (·.ops.length) + 1) m c.k }

/-- PREF (R223): a TLB miss starts a walk; nothing else can be observed. -/
def prefOp (sa : BitVec 6) (disp : BitVec 4) : Act := fun c =>
  if (portOf c.w sa.toNat).isSome then {}
  else
    let a := ((getS c.w sa.toNat).value + BitVec.ofInt 64 disp.toInt).toNat
    { fx := fun m =>
        if canonical a && (tlbLookup c.m (coreOf c.k) c.w.ctx a).isNone then postMisses m c.k c.w [a / 65536] else m }

/-! ### The meanings -/

/-- R203. -/
def actLdv (vt : BitVec 7) (sa : BitVec 6) (wd : Width) (ofs : BitVec 5) (f : BitVec 4) : Act :=
  lanesOp (.loadV vt.toNat wd.bytes) .read wd.bytes [] sa f (fun _ _ => none) (rowAddr sa ofs wd.bytes) fun _ _ a => a
def execLdv (vt : BitVec 7) (sa : BitVec 6) (wd : Width) (ofs : BitVec 5) (f : BitVec 4) (s : State) : Host.Outcome State Fault Refusal :=
  runOp s .m (.ldv vt sa wd ofs f) (actLdv vt sa wd ofs f)

/-- R203. -/
def actStv (vt : BitVec 7) (sa : BitVec 6) (wd : Width) (ofs : BitVec 5) (f : BitVec 4) : Act :=
  lanesOp (.store wd.bytes none) .write wd.bytes [vt] sa f (fun _ _ => none) (rowAddr sa ofs wd.bytes) (laneData vt wd.bytes)
def execStv (vt : BitVec 7) (sa : BitVec 6) (wd : Width) (ofs : BitVec 5) (f : BitVec 4) (s : State) : Host.Outcome State Fault Refusal :=
  runOp s .m (.stv vt sa wd ofs f) (actStv vt sa wd ofs f)

/-- R204. -/
def actLdg (vt vx : BitVec 7) (sa : BitVec 6) (f : BitVec 4) : Act :=
  lanesOp (.loadV vt.toNat 4) .read 4 [vx] sa f (fun _ _ => none) (gatherAddr sa vx) fun _ _ a => a
def execLdg (vt vx : BitVec 7) (sa : BitVec 6) (f : BitVec 4) (s : State) : Host.Outcome State Fault Refusal :=
  runOp s .m (.ldg vt vx sa f) (actLdg vt vx sa f)

/-- R204. -/
def actStg (vt vx : BitVec 7) (sa : BitVec 6) (f : BitVec 4) : Act :=
  lanesOp (.store 4 none) .write 4 [vt, vx] sa f (fun _ _ => none) (gatherAddr sa vx) (laneData vt 4)
def execStg (vt vx : BitVec 7) (sa : BitVec 6) (f : BitVec 4) (s : State) : Host.Outcome State Fault Refusal :=
  runOp s .m (.stg vt vx sa f) (actStg vt vx sa f)

/-- R205. -/
def actLds (st sa : BitVec 6) (wd : Width) (disp : BitVec 4) (f : BitVec 4) : Act :=
  scalarMem (.loadS st.toNat wd.bytes none) .read wd.bytes [sa] (some st) f (dispAddr sa disp wd.bytes) fun _ a => a
def execLds (st sa : BitVec 6) (wd : Width) (disp : BitVec 4) (f : BitVec 4) (s : State) : Host.Outcome State Fault Refusal :=
  runOp s .m (.lds st sa wd disp f) (actLds st sa wd disp f)

/-- R205. -/
def actLdsAcq (st sa : BitVec 6) (sc : Scope) (wd : Width) (disp : BitVec 4) (f : BitVec 4) : Act :=
  scalarMem (.loadS st.toNat wd.bytes (some sc)) .read wd.bytes [sa] (some st) f (dispAddr sa disp wd.bytes) fun _ a => a
def execLdsAcq (st sa : BitVec 6) (sc : Scope) (wd : Width) (disp : BitVec 4) (f : BitVec 4) (s : State) : Host.Outcome State Fault Refusal :=
  runOp s .m (.ldsAcq st sa sc wd disp f) (actLdsAcq st sa sc wd disp f)

/-- R205. -/
def actSts (st sa : BitVec 6) (wd : Width) (disp : BitVec 4) (f : BitVec 4) : Act :=
  scalarMem (.store wd.bytes none) .write wd.bytes [st, sa] none f (dispAddr sa disp wd.bytes) fun c a =>
    { a with data := leBytes wd.bytes (c.sv st) }
def execSts (st sa : BitVec 6) (wd : Width) (disp : BitVec 4) (f : BitVec 4) (s : State) : Host.Outcome State Fault Refusal :=
  runOp s .m (.sts st sa wd disp f) (actSts st sa wd disp f)

/-- R205. -/
def actStsRel (st sa : BitVec 6) (sc : Scope) (wd : Width) (disp : BitVec 4) (f : BitVec 4) : Act :=
  scalarMem (.store wd.bytes (some sc)) .write wd.bytes [st, sa] none f (dispAddr sa disp wd.bytes) fun c a =>
    { a with data := leBytes wd.bytes (c.sv st) }
def execStsRel (st sa : BitVec 6) (sc : Scope) (wd : Width) (disp : BitVec 4) (f : BitVec 4) (s : State) : Host.Outcome State Fault Refusal :=
  runOp s .m (.stsRel st sa sc wd disp f) (actStsRel st sa sc wd disp f)

/-- R206. -/
def actSpld (vt vx : BitVec 7) (sa : BitVec 6) : Act :=
  spldOp vt vx sa
def execSpld (vt vx : BitVec 7) (sa : BitVec 6) (s : State) : Host.Outcome State Fault Refusal :=
  runOp s .m (.spld vt vx sa) (actSpld vt vx sa)

/-- R206. -/
def actSpst (vt vx : BitVec 7) (sa : BitVec 6) : Act :=
  spstOp vt vx sa
def execSpst (vt vx : BitVec 7) (sa : BitVec 6) (s : State) : Host.Outcome State Fault Refusal :=
  runOp s .m (.spst vt vx sa) (actSpst vt vx sa)

/-- R207. -/
def actSplds (st sa : BitVec 6) (wd : Width) (disp : BitVec 4) : Act :=
  spldsOp st sa wd.bytes disp
def execSplds (st sa : BitVec 6) (wd : Width) (disp : BitVec 4) (s : State) : Host.Outcome State Fault Refusal :=
  runOp s .m (.splds st sa wd disp) (actSplds st sa wd disp)

/-- R207. -/
def actSpsts (st sa : BitVec 6) (wd : Width) (disp : BitVec 4) : Act :=
  spstsOp st sa wd.bytes disp
def execSpsts (st sa : BitVec 6) (wd : Width) (disp : BitVec 4) (s : State) : Host.Outcome State Fault Refusal :=
  runOp s .m (.spsts st sa wd disp) (actSpsts st sa wd disp)

/-- R210. -/
def actTld (vt : BitVec 7) (tile : BitVec 6) (rg : BitVec 7) : Act :=
  tldOp vt tile rg
def execTld (vt : BitVec 7) (tile : BitVec 6) (rg : BitVec 7) (s : State) : Host.Outcome State Fault Refusal :=
  runOp s .m (.tld vt tile rg) (actTld vt tile rg)

/-- R211, R213. -/
def actAtomvAdd (vt vx : BitVec 7) (sa : BitVec 6) (f : BitVec 4) : Act :=
  lanesOp (.atomV vt.toNat .add) .atomic 4 [vt, vx] sa f (fun _ _ => none) (gatherAddr sa vx) (laneData vt 4)
def execAtomvAdd (vt vx : BitVec 7) (sa : BitVec 6) (f : BitVec 4) (s : State) : Host.Outcome State Fault Refusal :=
  runOp s .m (.atomvAdd vt vx sa f) (actAtomvAdd vt vx sa f)

/-- R211, R213. -/
def actAtomvAnd (vt vx : BitVec 7) (sa : BitVec 6) (f : BitVec 4) : Act :=
  lanesOp (.atomV vt.toNat .and) .atomic 4 [vt, vx] sa f (fun _ _ => none) (gatherAddr sa vx) (laneData vt 4)
def execAtomvAnd (vt vx : BitVec 7) (sa : BitVec 6) (f : BitVec 4) (s : State) : Host.Outcome State Fault Refusal :=
  runOp s .m (.atomvAnd vt vx sa f) (actAtomvAnd vt vx sa f)

/-- R211, R213. -/
def actAtomvOr (vt vx : BitVec 7) (sa : BitVec 6) (f : BitVec 4) : Act :=
  lanesOp (.atomV vt.toNat .or) .atomic 4 [vt, vx] sa f (fun _ _ => none) (gatherAddr sa vx) (laneData vt 4)
def execAtomvOr (vt vx : BitVec 7) (sa : BitVec 6) (f : BitVec 4) (s : State) : Host.Outcome State Fault Refusal :=
  runOp s .m (.atomvOr vt vx sa f) (actAtomvOr vt vx sa f)

/-- R211, R213. -/
def actAtomvXor (vt vx : BitVec 7) (sa : BitVec 6) (f : BitVec 4) : Act :=
  lanesOp (.atomV vt.toNat .xor) .atomic 4 [vt, vx] sa f (fun _ _ => none) (gatherAddr sa vx) (laneData vt 4)
def execAtomvXor (vt vx : BitVec 7) (sa : BitVec 6) (f : BitVec 4) (s : State) : Host.Outcome State Fault Refusal :=
  runOp s .m (.atomvXor vt vx sa f) (actAtomvXor vt vx sa f)

/-- R211, R213. -/
def actAtomvMin (vt vx : BitVec 7) (sa : BitVec 6) (f : BitVec 4) : Act :=
  lanesOp (.atomV vt.toNat .min) .atomic 4 [vt, vx] sa f (fun _ _ => none) (gatherAddr sa vx) (laneData vt 4)
def execAtomvMin (vt vx : BitVec 7) (sa : BitVec 6) (f : BitVec 4) (s : State) : Host.Outcome State Fault Refusal :=
  runOp s .m (.atomvMin vt vx sa f) (actAtomvMin vt vx sa f)

/-- R211, R213. -/
def actAtomvMax (vt vx : BitVec 7) (sa : BitVec 6) (f : BitVec 4) : Act :=
  lanesOp (.atomV vt.toNat .max) .atomic 4 [vt, vx] sa f (fun _ _ => none) (gatherAddr sa vx) (laneData vt 4)
def execAtomvMax (vt vx : BitVec 7) (sa : BitVec 6) (f : BitVec 4) (s : State) : Host.Outcome State Fault Refusal :=
  runOp s .m (.atomvMax vt vx sa f) (actAtomvMax vt vx sa f)

/-- R211, R213. -/
def actAtomvMinu (vt vx : BitVec 7) (sa : BitVec 6) (f : BitVec 4) : Act :=
  lanesOp (.atomV vt.toNat .minu) .atomic 4 [vt, vx] sa f (fun _ _ => none) (gatherAddr sa vx) (laneData vt 4)
def execAtomvMinu (vt vx : BitVec 7) (sa : BitVec 6) (f : BitVec 4) (s : State) : Host.Outcome State Fault Refusal :=
  runOp s .m (.atomvMinu vt vx sa f) (actAtomvMinu vt vx sa f)

/-- R211, R213. -/
def actAtomvMaxu (vt vx : BitVec 7) (sa : BitVec 6) (f : BitVec 4) : Act :=
  lanesOp (.atomV vt.toNat .maxu) .atomic 4 [vt, vx] sa f (fun _ _ => none) (gatherAddr sa vx) (laneData vt 4)
def execAtomvMaxu (vt vx : BitVec 7) (sa : BitVec 6) (f : BitVec 4) (s : State) : Host.Outcome State Fault Refusal :=
  runOp s .m (.atomvMaxu vt vx sa f) (actAtomvMaxu vt vx sa f)

/-- R212, R213. -/
def actAtomsAdd (st sa sv : BitVec 6) (sc : Scope) (f : BitVec 4) : Act :=
  let _ := sc
  scalarMem (.atomS st.toNat .add) .atomic 8 [sa, sv] (some st) f (fun c => (c.sv sa).toNat) fun c a =>
    { a with data := leBytes 8 (c.sv sv) }
def execAtomsAdd (st sa sv : BitVec 6) (sc : Scope) (f : BitVec 4) (s : State) : Host.Outcome State Fault Refusal :=
  runOp s .m (.atomsAdd st sa sv sc f) (actAtomsAdd st sa sv sc f)

/-- R212, R213. -/
def actAtomsAnd (st sa sv : BitVec 6) (sc : Scope) (f : BitVec 4) : Act :=
  let _ := sc
  scalarMem (.atomS st.toNat .and) .atomic 8 [sa, sv] (some st) f (fun c => (c.sv sa).toNat) fun c a =>
    { a with data := leBytes 8 (c.sv sv) }
def execAtomsAnd (st sa sv : BitVec 6) (sc : Scope) (f : BitVec 4) (s : State) : Host.Outcome State Fault Refusal :=
  runOp s .m (.atomsAnd st sa sv sc f) (actAtomsAnd st sa sv sc f)

/-- R212, R213. -/
def actAtomsOr (st sa sv : BitVec 6) (sc : Scope) (f : BitVec 4) : Act :=
  let _ := sc
  scalarMem (.atomS st.toNat .or) .atomic 8 [sa, sv] (some st) f (fun c => (c.sv sa).toNat) fun c a =>
    { a with data := leBytes 8 (c.sv sv) }
def execAtomsOr (st sa sv : BitVec 6) (sc : Scope) (f : BitVec 4) (s : State) : Host.Outcome State Fault Refusal :=
  runOp s .m (.atomsOr st sa sv sc f) (actAtomsOr st sa sv sc f)

/-- R212, R213. -/
def actAtomsXor (st sa sv : BitVec 6) (sc : Scope) (f : BitVec 4) : Act :=
  let _ := sc
  scalarMem (.atomS st.toNat .xor) .atomic 8 [sa, sv] (some st) f (fun c => (c.sv sa).toNat) fun c a =>
    { a with data := leBytes 8 (c.sv sv) }
def execAtomsXor (st sa sv : BitVec 6) (sc : Scope) (f : BitVec 4) (s : State) : Host.Outcome State Fault Refusal :=
  runOp s .m (.atomsXor st sa sv sc f) (actAtomsXor st sa sv sc f)

/-- R212, R213. -/
def actAtomsMin (st sa sv : BitVec 6) (sc : Scope) (f : BitVec 4) : Act :=
  let _ := sc
  scalarMem (.atomS st.toNat .min) .atomic 8 [sa, sv] (some st) f (fun c => (c.sv sa).toNat) fun c a =>
    { a with data := leBytes 8 (c.sv sv) }
def execAtomsMin (st sa sv : BitVec 6) (sc : Scope) (f : BitVec 4) (s : State) : Host.Outcome State Fault Refusal :=
  runOp s .m (.atomsMin st sa sv sc f) (actAtomsMin st sa sv sc f)

/-- R212, R213. -/
def actAtomsMax (st sa sv : BitVec 6) (sc : Scope) (f : BitVec 4) : Act :=
  let _ := sc
  scalarMem (.atomS st.toNat .max) .atomic 8 [sa, sv] (some st) f (fun c => (c.sv sa).toNat) fun c a =>
    { a with data := leBytes 8 (c.sv sv) }
def execAtomsMax (st sa sv : BitVec 6) (sc : Scope) (f : BitVec 4) (s : State) : Host.Outcome State Fault Refusal :=
  runOp s .m (.atomsMax st sa sv sc f) (actAtomsMax st sa sv sc f)

/-- R212, R213. -/
def actAtomsMinu (st sa sv : BitVec 6) (sc : Scope) (f : BitVec 4) : Act :=
  let _ := sc
  scalarMem (.atomS st.toNat .minu) .atomic 8 [sa, sv] (some st) f (fun c => (c.sv sa).toNat) fun c a =>
    { a with data := leBytes 8 (c.sv sv) }
def execAtomsMinu (st sa sv : BitVec 6) (sc : Scope) (f : BitVec 4) (s : State) : Host.Outcome State Fault Refusal :=
  runOp s .m (.atomsMinu st sa sv sc f) (actAtomsMinu st sa sv sc f)

/-- R212, R213. -/
def actAtomsMaxu (st sa sv : BitVec 6) (sc : Scope) (f : BitVec 4) : Act :=
  let _ := sc
  scalarMem (.atomS st.toNat .maxu) .atomic 8 [sa, sv] (some st) f (fun c => (c.sv sa).toNat) fun c a =>
    { a with data := leBytes 8 (c.sv sv) }
def execAtomsMaxu (st sa sv : BitVec 6) (sc : Scope) (f : BitVec 4) (s : State) : Host.Outcome State Fault Refusal :=
  runOp s .m (.atomsMaxu st sa sv sc f) (actAtomsMaxu st sa sv sc f)

/-- R214. -/
def actCasv (vt vx : BitVec 7) (sa : BitVec 6) (f : BitVec 4) : Act :=
  lanesOp (.casV vt.toNat) .atomic 4 [vt, vt + 1, vx] sa f (fun _ _ => none) (gatherAddr sa vx) fun c l a =>
    { a with data := leBytes 4 ((c.src (vt + 1)).lanes.at l), expd := leBytes 4 ((c.src vt).lanes.at l) }
def execCasv (vt vx : BitVec 7) (sa : BitVec 6) (f : BitVec 4) (s : State) : Host.Outcome State Fault Refusal :=
  runOp s .m (.casv vt vx sa f) (actCasv vt vx sa f)

/-- R214. -/
def actCass (st sa sv : BitVec 6) (sc : Scope) (f : BitVec 4) : Act :=
  let _ := sc
  scalarMem (.casS st.toNat) .atomic 8 [st, sa, sv] (some st) f (fun c => (c.sv sa).toNat) fun c a =>
    { a with data := leBytes 8 (c.sv sv), expd := leBytes 8 (c.sv st) }
def execCass (st sa sv : BitVec 6) (sc : Scope) (f : BitVec 4) (s : State) : Host.Outcome State Fault Refusal :=
  runOp s .m (.cass st sa sv sc f) (actCass st sa sv sc f)

/-- R216. -/
def actDaccv (op : DaccOp) (vt vx : BitVec 7) (sa : BitVec 6) : Act :=
  fun c =>
    if c.mask = 0#64 then {}
    else daccOp op 4 (fun c => c.poisonV [vt, vx]) [sa]
      (fun c => (lanesOf c.mask).map fun l => { lane := l, addr := gatherAddr sa vx c l })
      (fun c l => ((c.src vt).lanes.at l).setWidth 64) c
def execDaccv (op : DaccOp) (vt vx : BitVec 7) (sa : BitVec 6) (s : State) : Host.Outcome State Fault Refusal :=
  runOp s .m (.daccv op vt vx sa) (actDaccv op vt vx sa)

/-- R216. -/
def actDaccs (op : DaccOp) (sa sv : BitVec 6) : Act :=
  daccOp op (if op.is64 then 8 else 4) (fun _ => none) [sa, sv]
    (fun c => [{ lane := 0, addr := (c.sv sa).toNat }])
    (fun c _ => if op.is64 then c.sv sv else ((c.sv sv).setWidth 32).setWidth 64)
def execDaccs (op : DaccOp) (sa sv : BitVec 6) (s : State) : Host.Outcome State Fault Refusal :=
  runOp s .m (.daccs op sa sv) (actDaccs op sa sv)

/-- R219. -/
def actFlush (sc : FlushScope) (f : BitVec 4) : Act :=
  flushOp sc f
def execFlush (sc : FlushScope) (f : BitVec 4) (s : State) : Host.Outcome State Fault Refusal :=
  runOp s .m (.flush sc f) (actFlush sc f)

/-- R221. -/
def actFence (kind : FenceKind) (sc : Scope) : Act :=
  fenceOp kind sc
def execFence (kind : FenceKind) (sc : Scope) (s : State) : Host.Outcome State Fault Refusal :=
  runOp s .m (.fence kind sc) (actFence kind sc)

/-- R223. -/
def actPref (sa : BitVec 6) (disp : BitVec 4) : Act :=
  prefOp sa disp
def execPref (sa : BitVec 6) (disp : BitVec 4) (s : State) : Host.Outcome State Fault Refusal :=
  runOp s .m (.pref sa disp) (actPref sa disp)

/-- R222. -/
def actVspill (vt : BitVec 7) (sa : BitVec 6) (ofs : BitVec 5) (f : BitVec 4) : Act :=
  lanesOp .spill .write 4 [] sa f stackFault (rowAddr sa ofs 4) (spillData vt)
def execVspill (vt : BitVec 7) (sa : BitVec 6) (ofs : BitVec 5) (f : BitVec 4) (s : State) : Host.Outcome State Fault Refusal :=
  runOp s .m (.vspill vt sa ofs f) (actVspill vt sa ofs f)

/-- R222. -/
def actVfill (vt : BitVec 7) (sa : BitVec 6) (ofs : BitVec 5) (f : BitVec 4) : Act :=
  lanesOp (.fill vt.toNat) .read 4 [] sa f stackFault (rowAddr sa ofs 4) fun _ _ a => a
def execVfill (vt : BitVec 7) (sa : BitVec 6) (ofs : BitVec 5) (f : BitVec 4) (s : State) : Host.Outcome State Fault Refusal :=
  runOp s .m (.vfill vt sa ofs f) (actVfill vt sa ofs f)

end Sys2Proof.Machine
end

