-- ==== Sys2Proof/Machine/Control.lean ====
section
/-!
DEFINITION. The meanings of the C slot (R258 to R300): scalar arithmetic, branches, splits and regions, flags, control
registers, traps, leases, the register file and retirement. Checks stand in the order of R260.
-/

namespace Sys2Proof.Machine

/-! ### Scalar arithmetic (R262 to R268) -/

/-- The C slot's immediate, widened by the bundle's LIMM and sign-extended (R153). -/
def Ctx.imm {n : Nat} (c : Ctx) (i : BitVec n) : Int :=
  match c.limm with
  | some l => (l ++ i).toInt
  | none => i.toInt

/-- The immediate of MOVHI: zero-extended (R153). -/
def Ctx.immU {n : Nat} (c : Ctx) (i : BitVec n) : Nat :=
  match c.limm with
  | some l => (l ++ i).toNat
  | none => i.toNat

/-- `op sd, sa, sb` of class S1 (R262). -/
def alu2 (f : DWord → DWord → DWord) (sd sa sb : BitVec 6) : Act := fun c =>
  { trap := c.scalars [sa, sb] (some sd), fx := c.sendS sd (f (c.sv sa) (c.sv sb)) false 1 }

/-- `op sd, sa, imm` (R263). -/
def aluI (f : DWord → DWord → DWord) (sd sa : BitVec 6) (b : Ctx → DWord) : Act := fun c =>
  { trap := c.scalars [sa] (some sd), fx := c.sendS sd (f (c.sv sa) (b c)) false 1 }

/-- `op sd, sa` (R265). -/
def alu1 (f : DWord → DWord) (sd sa : BitVec 6) : Act := fun c =>
  { trap := c.scalars [sa] (some sd), fx := c.sendS sd (f (c.sv sa)) false 1 }

/-- Shifts read the whole of b as unsigned (R262). -/
def shl64 (a b : DWord) : DWord := if b.toNat < 64 then a <<< b.toNat else 0
def shr64 (a b : DWord) : DWord := if b.toNat < 64 then a >>> b.toNat else 0
def sra64 (a b : DWord) : DWord := if b.toNat < 64 then a.sshiftRight b.toNat else if a.msb then ~~~0#64 else 0

def mulhi64 (a b : DWord) : DWord := BitVec.ofInt 64 (a.toInt * b.toInt / 2 ^ 64)
def mulhu64 (a b : DWord) : DWord := BitVec.ofNat 64 (a.toNat * b.toNat / 2 ^ 64)

/-- The division corners (R264). -/
def div64 (a b : DWord) : DWord := if b = 0 then ~~~0#64 else BitVec.ofInt 64 (a.toInt.tdiv b.toInt)
def rem64 (a b : DWord) : DWord := if b = 0 then a else BitVec.ofInt 64 (a.toInt - b.toInt * a.toInt.tdiv b.toInt)
def divu64 (a b : DWord) : DWord := if b = 0 then ~~~0#64 else BitVec.ofNat 64 (a.toNat / b.toNat)
def remu64 (a b : DWord) : DWord := if b = 0 then a else BitVec.ofNat 64 (a.toNat % b.toNat)

/-- Leading zeros, trailing zeros and ones of a doubleword (R265). -/
def clz64 (a : DWord) : DWord := BitVec.ofNat 64 (if a = 0 then 64 else 63 - a.toNat.log2)
def ctz64 (a : DWord) : DWord := BitVec.ofNat 64 (((List.range 64).find? fun i => a.getLsbD i).getD 64)
def popc64 (a : DWord) : DWord := BitVec.ofNat 64 ((List.range 64).countP fun i => a.getLsbD i)

/-- The result of a compare. -/
def ccResult (cc : Cc) (a b : DWord) : DWord := if ccHolds cc a b then 1 else 0

/-- An immediate as a doubleword. -/
def immW {n : Nat} (i : BitVec n) (c : Ctx) : DWord := BitVec.ofInt 64 (c.imm i)

/-! ### Branches (R269 to R276) -/

def planeControl : Exn := { code := decodeCode .planeControl }

/-- The place `n` bundles or offsets after a place. -/
def placePlus (c : Ctx) (p : Place) (n : Int) : Place :=
  if c.w.region.isSome then { p with off := ((p.off : Int) + n).toNat }
  else { addr := (((p.addr : Int) + n * 16) % 2 ^ 64).toNat, off := 0 }

/-- The target of a displacement; none where it lies outside the region's offsets (R270, R271). -/
def branchPlace (c : Ctx) (disp : Int) : Option Place :=
  match c.w.region with
  | some r =>
    let o := (c.q.place.off : Int) + disp
    if o < 0 || (r.len : Int) ≤ o then none else some (placePlus c c.q.place disp)
  | none => some (placePlus c { addr := c.addr, off := 0 } disp)

/-- Plan a transfer of the path after `left` delay slots; a fault met at its target names this bundle (R270). -/
def plan (c : Ctx) (left : Nat) (t : Transfer) (m : Mach) : Mach :=
  updWarp m c.k fun w => updPath w c.path fun q =>
    { q with delay := some { left := left, what := t }, origin := some (c.addr, w.seq) }

/-- Plan a taken or untaken transfer. -/
def planBranch (c : Ctx) (left : Nat) (taken : Bool) (p : Option Place) (m : Mach) : Mach :=
  match taken, p with
  | true, some p => plan c left (.goto p) m
  | _, _ => plan c left .fall m

/-- A conditional branch with two delay slots (R271 to R273, R276). -/
def branch (srcs : List (BitVec 6)) (taken : Ctx → Bool) (disp : Ctx → Int) : Act := fun c =>
  let p := branchPlace c (disp c)
  let t := taken c
  let d := c.decide t 0
  { trap := firstExn [c.scalars srcs none, if p.isNone then some planeControl else none, d.1]
    fx := fun m => planBranch c 2 t p (d.2 m) }

/-- The link that CALL and CALLR write (R274). -/
def link (c : Ctx) : Mach → Mach := c.sendS 54#6 (BitVec.ofNat 64 (c.addr + 48)) false 1

/-- A transfer to the address in a scalar (R275). -/
def jumpTo (src : BitVec 6) (after : Ctx → Mach → Mach) : Act := fun c =>
  let a := (c.sv src).toNat
  let d := c.decide true a
  { trap := firstExn [c.scalars [src] none,
      if a % 16 = 0 then none else some { code := TrapName.addrAlign.code, addr := a }, d.1]
    fx := fun m => after c (plan c 2 (.goto { addr := a, off := 0 }) (d.2 m)) }

/-! ### Splits (R34, R37, R277, R470) -/

/-- The spill top as the push of a BRD finds it: above the entries that BRDs still in their delay slots, such as the other path's, will have
spilled (R470). -/
def pushTop (c : Ctx) : Nat :=
  let spills (p : Nat) : Bool :=
    let q := getPath c.w p
    8 ≤ q.stack.length && q.delay.elim false fun d => d.what matches .divide _ _ _ _ true
  c.w.sptop + 32 * ((pathsOf c.w).filter spills).length

/-- STACK_LIMIT at the push of a serialising BRD (R70, R470). -/
def pushFault (c : Ctx) : Option Exn :=
  exnIf (65535 ≤ pathDepth c.q || (8 ≤ c.q.stack.length && (getS c.w 55).value.toNat ≤ pushTop c + 32)) .stackLimit

/-- The write of the entry that the push of a serialising BRD spills, checked like every stack access (R89, R399, R470). -/
def pushXlate (c : Ctx) : Xlate :=
  if 8 ≤ c.q.stack.length then c.xlate (pushTop c) .write else .hit 0 0#64 0

/-- Which passes of a BRD run, taken and fallen: in a gang those that are not empty in every member (R41). -/
structure Passes where
  taken  : Bool
  fallen : Bool
  trap   : Option Exn
  note   : Mach → Mach

/-- A member's lanes for a pass (log 19). -/
def memberLanes (w : Warp) (sc : BitVec 6) (path : Nat) (taken : Bool) : DWord :=
  let q := getPath w path
  let v := (getS w sc.toNat).value
  q.xm &&& q.mask &&& (if taken then v else ~~~v)

def passesOf (c : Ctx) (sc : BitVec 6) (taken fallen : DWord) (target : Nat) : Passes :=
  let own : Passes := { taken := taken != 0, fallen := fallen != 0, trap := none, note := id }
  match c.runningGang? with
  | none => own
  | some (g, x) =>
    let upd (f : Gang → Gang) : Mach → Mach := fun m => { m with gangs := mapUpd m.gangs g f }
    if c.w.gidx = 0 then
      let mates := (x.members.filter (· != c.k)).filterMap (x.comes? c.m)
      let t := own.taken || mates.any fun w => memberLanes w sc c.path true != 0
      let f := own.fallen || mates.any fun w => memberLanes w sc c.path false != 0
      { taken := t, fallen := f, trap := none
        note := upd fun x => { x with decided := x.decided ++ [(t, 2 * target + bitNat f)] } }
    else
      let u := x.used.getD c.w.gidx 0
      match x.decided[u]? with
      | none => { own with trap := exnIf true .gangDiverge }
      | some (t, n) =>
        let f := n % 2 = 1
        { taken := t, fallen := f
          trap := exnIf ((own.taken && !t) || (own.fallen && !f) || n / 2 != target) .gangDiverge
          note := upd fun x => { x with used := x.used.set c.w.gidx (u + 1) } }

/-- BRD (R277). -/
def brdOp (sc : BitVec 6) (tdisp : BitVec 8) (jdisp : BitVec 7) : Act := fun c =>
  let active := c.q.xm &&& c.q.mask
  let taken := active &&& c.sv sc
  let fallen := active &&& ~~~(c.sv sc)
  let p := branchPlace c (brdTarget c.limm tdisp)
  let target := p.getD c.q.place
  let join := placePlus c target (brdJoin c.limm jdisp)
  let ps := passesOf c sc taken fallen (bundleAddr c.w target 0)
  let serial := c.w.split.isSome || c.w.gang.isSome ||
    (c.w.region.isSome && 4 < 2 * (occupied c.w c.path).length)
  let both := ps.taken && ps.fallen
  let push := if both && serial then pushXlate c else .hit 0 0#64 0
  { trap := firstExn [c.scalars [sc] none, if p.isNone then some planeControl else none, ps.trap,
      if both && serial then pushFault c else none, push.fault?]
    block := if push.missed.isEmpty then none else some .xlate
    miss := push.missed
    fx := fun m =>
      let m := ps.note m
      if both then plan c 2 (.divide taken fallen target join serial) m
      else planBranch c 2 ps.taken p m }

/-! ### Control registers (R71 to R79, R287, R288) -/

/-- The account's high half and saturation bit, as CRD of c.energy.lo latches them (R453). -/
def energyLatch (x : Context) : BitVec 33 := BitVec.ofNat 33 (bitNat x.esat * 2 ^ 32 + x.energy / 2 ^ 32 % 2 ^ 32)

/-- c.mode (R72). -/
def modeWord (c : Ctx) : Nat :=
  packFields [(16, bitNat ((ctxOf c.m c.w).elim false (·.dbg))), (8, c.fpte), (2, bitNat c.w.gang.isSome),
    (1, bitNat c.w.sup), (0, bitNat (detOf c.m c.w))]

/-- A producer record (R67). -/
def flagWord (r : FlagRec) : Nat := packFields [(32, r.seq), (31, bitNat r.pend), (29, r.plane), (0, r.cidx)]

/-- The value of a control register for the issuing path. -/
def cregNat (c : Ctx) (n : Nat) : Nat :=
  let cl := getCluster c.m (clusterOf c.k)
  let x := ctxOf c.m c.w
  if 0x20 ≤ n && n < 0x30 then flagWord (getF c.w (n - 0x20))
  else match n with
    | 0x00 => c.q.xm.toNat
    | 0x01 => c.w.pmlo.toNat
    | 0x02 => c.w.pmhi.toNat
    | 0x03 => pathWord c.w c.path
    | 0x04 => c.q.mask.toNat
    | 0x05 => c.addr % 2 ^ 57 / 16 * 16
    | 0x06 => regionWord c.w c.path
    | 0x07 => c.w.seq
    | 0x08 => c.w.gidx
    | 0x09 => c.w.teamw
    | 0x0a => c.w.stklim
    | 0x0b => c.w.vbeat
    | 0x0c => c.w.wtimer
    | 0x0d => c.d.gtc
    | 0x0e => x.elim 0 (·.gdead)
    | 0x0f => packFields [(4, minPass (getCore c.m (coreOf c.k))), (0, cl.clp)]
    | 0x10 => packFields [(16, cl.ones), (0, cl.pat.toNat)]
    | 0x11 => packFields [(10, bitNat c.d.pcc.rfz), (0, c.d.pcc.melt)]
    | 0x12 => ((getTeam? c.m c.w.team).bind (·.lease)).elim 0 fun l => if leaseOver c.d.gtc l then 0 else l.left
    | 0x13 => x.elim 0 fun x => x.energy % 2 ^ 32
    | 0x14 => c.w.elatch.toNat
    | 0x15 => c.w.exs
    | 0x16 => modeWord c
    | 0x17 => c.w.round
    | 0x30 => (getCore c.m (coreOf c.k)).slotmap.toNat
    | _ => 0

/-- CRD (R287); a read of c.energy.lo latches the high half (R453), one of a producer record that is not pending observes its flag (R289).
-/
def crdOp (sd : BitVec 6) (n : Nat) : Act := fun c =>
  { trap := c.scalars [] (some sd)
    fx := fun m =>
      let m := c.sendS sd (BitVec.ofNat 64 (cregNat c n)) false 1 m
      if 0x20 ≤ n && n < 0x30 && !(getF c.w (n - 0x20)).pend then updWarp m c.k (observe c.w [n - 0x20])
      else if n = 0x13 then updWarp m c.k fun w => { w with elatch := (ctxOf c.m c.w).elim 0 energyLatch } else m }

/-- Registers whose Access code is RO, and those whose code is RS (R71). -/
def cregRO (n : Nat) : Bool :=
  (1 ≤ n && n ≤ 9) || n = 0x0b || n = 0x0d || (0x0f ≤ n && n ≤ 0x14) || (0x20 ≤ n && n < 0x30)
def cregRS (n : Nat) : Bool := n = 0x0a || n = 0x0e || n = 0x16

/-- A non-zero reserved bit, or in c.mode a field other than FPTE that does not hold its value (R71, R288). -/
def cregReserved (c : Ctx) (n : Nat) (v : DWord) : Bool :=
  match n with
  | 0x15 => v >>> 7 != 0
  | 0x17 => v >>> 2 != 0
  | 0x30 => !(getCore c.m (coreOf c.k)).written && v >>> 6 != 0
  | 0x16 => (v ^^^ BitVec.ofNat 64 (modeWord c)) &&& ~~~0x7f00#64 != 0
  | _ => false

/-- A write of control state that holds from the next beat (R62, R287). -/
def later (l : Late) (c : Ctx) (m : Mach) : Mach := updWarp m c.k fun w => { w with late := w.late ++ [(c.path, l)] }

/-- What CWR does (R288). -/
def cwrFx (c : Ctx) (n : Nat) (v : DWord) (m : Mach) : Mach :=
  match n with
  | 0x00 => later (.xm c.path v) c m
  | 0x0a => later (.stklim v.toNat) c m
  | 0x0c => later (.wtimer v.toNat) c m
  | 0x0e =>
    if v != 0 && v.toNat ≤ c.d.gtc && !(deadlineWarps m c.w.ctx).isEmpty then
      later (.gdead 0) c (raiseDeadline m c.w.ctx)
    else later (.gdead v.toNat) c m
  | 0x15 => later (.exs v.toNat) c (updNode m c.w.node fun x => { x with exs := x.exs ||| v.toNat })
  | 0x16 => later (.fpte (bits v 14 8)) c m
  | 0x17 => later (.round v.toNat) c m
  | 0x30 => later (.slotmap v.toNat) c m
  | _ => m

/-- CWR (R261, R287, R288). -/
def cwrOp (n : Nat) (sa : BitVec 6) : Act := fun c =>
  { trap := firstExn [c.scalars [sa] none,
      exnIf (cregRO n || (!c.w.sup && (cregRS n || n = 0x30))) .privOp,
      exnIf (cregReserved c n (c.sv sa)) .cregReserved,
      exnIf (n = 0x0a && c.w.stklim < pushTop c) .stackLimit]
    fx := cwrFx c n (c.sv sa) }

/-! ### Traps and debug (R290 to R292) -/

/-- ERET (R291, R357): a store of its own bundle is waited for too, before the frame is read. -/
def eretOp : Act := fun c =>
  match c.w.trapped with
  | .handler frame =>
    match frameHit c.m c.k c.w .read with
    | .error e => { trap := some { code := e.code, addr := frame, info := xinfo .read e.level } }
    | .ok _ => { block := causeIf (awaited c.w != 0) .fence, last := fun m => leaveAfter c.d m c.k }
  | _ => { trap := exnIf true .privOp }

/-- BRK (R292, R424): only the lead of a gang stops. -/
def brkOp (imm : BitVec 16) : Act := fun c =>
  let stops := (ctxOf c.m c.w).elim false (dbgCtl · 4) && !c.q.skipbp && (c.w.gang.isNone || c.w.gidx = 0)
  { stop := if stops then some { code := 1, value := imm.toNat } else none }

/-- TRMARK (R292, R418). -/
def trmarkOp (imm : BitVec 16) : Act := fun c =>
  { fx := fun m =>
      if (ctxOf c.m c.w).elim false (dbgCtl · 6) then
        traceWrite m c.w.ctx (traceOf c.w 1 0 c.path (nameWord c.w.seq c.plane c.cidx) imm.toNat c.d.gtc)
      else m }

/-! ### Leases, registers, timers, retirement (R293 to R300) -/

/-- SPRINT (R293): the request stands until the PCC decides. -/
def sprintOp (nt : Bool) (sd sa : BitVec 6) (f : BitVec 4) : Act := fun c =>
  { trap := firstExn [c.scalars [sa] (some sd), c.flagBusy f.toNat]
    fx := fun m =>
      let (m, t) := reserve c sd m
      let m := c.arm f.toNat m
      { m with sprints := m.sprints ++ [{ warp := c.k, team := c.w.team, want := min (c.sv sa).toNat 0xffffffff
                                          reg := sd.toNat, flag := f.toNat, nt := nt, ticket := t }] } }

/-- The chunks that the warp holds once what the bundles of this beat have asked for is in force (R46, R296, R297). -/
def chunksNow (w : Warp) : Nat :=
  w.late.foldl (fun n l => match l.2 with
    | .chunk true => n + 1
    | .chunk false => n - 1
    | _ => n) w.chunks

/-- The requests for chunks on the core that began before this warp's (R46). -/
def growAhead (c : Ctx) : Nat :=
  let mine := match c.w.block with
    | some b => if b.cause = Cause.grow then some b.since else none
    | none => none
  (c.m.warps.filter fun (j, w) => j != c.k && coreOf j = coreOf c.k && w.block.elim false fun b =>
    b.cause = Cause.grow && mine.elim true fun n => b.since < n).length

/-- RGROW (R46, R47, R296). -/
def rgrowOp (sd : BitVec 6) : Act := fun c =>
  let roles := c.scalars [] (some sd)
  if 3 ≤ chunksNow c.w then { trap := roles, fx := c.sendS sd 0 false 1 }
  else match c.w.grow with
  | some false =>
    { trap := roles
      fx := fun m => c.sendS sd 0 false 1 (updWarp m c.k fun w => { w with grow := none, watch64 := some 65 }) }
  | some true =>
    { trap := roles
      fx := fun m => later (.chunk true) c (updWarp (c.sendS sd 1 false 1 m) c.k fun w => { w with grow := none }) }
  | none =>
    { trap := roles
      block := causeIf ((getCore c.m (coreOf c.k)).spare ≤ growAhead c) .grow
      fx := fun m => later (.chunk true) c
        (updCore (c.sendS sd 1 false 1 m) (coreOf c.k) fun x => { x with spare := x.spare - 1 }) }

/-- The register that a pending operation of variable latency will write. -/
def pendingReg (o : MemOp) : Option Nat :=
  match o.kind with
  | .loadV r _ | .atomV r _ | .casV r | .fill r => some r
  | _ => none

/-- RSHRINK (R297). -/
def rshrinkOp : Act := fun c =>
  if chunksNow c.w = 0 then {}
  else
    { trap := exnIf (c.w.ops.any fun o => (pendingReg o).elim false fun r => r / 16 = 3 + chunksNow c.w) .regBusy
      fx := later (.chunk false) c }

/-- YIELD (R299): the selection is given up as the beat ends, unless a pass is open then or the warp runs in a gang. -/
def yieldOp : Act := fun c => { fx := later .leave c }

/-! ### The meanings -/

/-- R262. -/
def actAdd (sd sa sb : BitVec 6) : Act :=
  alu2 (· + ·) sd sa sb
def execAdd (sd sa sb : BitVec 6) (s : State) : Host.Outcome State Fault Refusal :=
  runOp s .c (.add sd sa sb) (actAdd sd sa sb)

/-- R263. -/
def actAddi (sd sa : BitVec 6) (imm : BitVec 9) : Act :=
  aluI (· + ·) sd sa (immW imm)
def execAddi (sd sa : BitVec 6) (imm : BitVec 9) (s : State) : Host.Outcome State Fault Refusal :=
  runOp s .c (.addi sd sa imm) (actAddi sd sa imm)

/-- R262. -/
def actSub (sd sa sb : BitVec 6) : Act :=
  alu2 (· - ·) sd sa sb
def execSub (sd sa sb : BitVec 6) (s : State) : Host.Outcome State Fault Refusal :=
  runOp s .c (.sub sd sa sb) (actSub sd sa sb)

/-- R262. -/
def actMul (sd sa sb : BitVec 6) : Act :=
  alu2 (· * ·) sd sa sb
def execMul (sd sa sb : BitVec 6) (s : State) : Host.Outcome State Fault Refusal :=
  runOp s .c (.mul sd sa sb) (actMul sd sa sb)

/-- R262. -/
def actMulhi (sd sa sb : BitVec 6) : Act :=
  alu2 mulhi64 sd sa sb
def execMulhi (sd sa sb : BitVec 6) (s : State) : Host.Outcome State Fault Refusal :=
  runOp s .c (.mulhi sd sa sb) (actMulhi sd sa sb)

/-- R262. -/
def actMulhu (sd sa sb : BitVec 6) : Act :=
  alu2 mulhu64 sd sa sb
def execMulhu (sd sa sb : BitVec 6) (s : State) : Host.Outcome State Fault Refusal :=
  runOp s .c (.mulhu sd sa sb) (actMulhu sd sa sb)

/-- R264. -/
def actDiv (sd sa sb : BitVec 6) : Act :=
  alu2 div64 sd sa sb
def execDiv (sd sa sb : BitVec 6) (s : State) : Host.Outcome State Fault Refusal :=
  runOp s .c (.div sd sa sb) (actDiv sd sa sb)

/-- R264. -/
def actDivu (sd sa sb : BitVec 6) : Act :=
  alu2 divu64 sd sa sb
def execDivu (sd sa sb : BitVec 6) (s : State) : Host.Outcome State Fault Refusal :=
  runOp s .c (.divu sd sa sb) (actDivu sd sa sb)

/-- R264. -/
def actRem (sd sa sb : BitVec 6) : Act :=
  alu2 rem64 sd sa sb
def execRem (sd sa sb : BitVec 6) (s : State) : Host.Outcome State Fault Refusal :=
  runOp s .c (.rem sd sa sb) (actRem sd sa sb)

/-- R264. -/
def actRemu (sd sa sb : BitVec 6) : Act :=
  alu2 remu64 sd sa sb
def execRemu (sd sa sb : BitVec 6) (s : State) : Host.Outcome State Fault Refusal :=
  runOp s .c (.remu sd sa sb) (actRemu sd sa sb)

/-- R262. -/
def actAnd (sd sa sb : BitVec 6) : Act :=
  alu2 (· &&& ·) sd sa sb
def execAnd (sd sa sb : BitVec 6) (s : State) : Host.Outcome State Fault Refusal :=
  runOp s .c (.and sd sa sb) (actAnd sd sa sb)

/-- R263. -/
def actAndi (sd sa : BitVec 6) (imm : BitVec 9) : Act :=
  aluI (· &&& ·) sd sa (immW imm)
def execAndi (sd sa : BitVec 6) (imm : BitVec 9) (s : State) : Host.Outcome State Fault Refusal :=
  runOp s .c (.andi sd sa imm) (actAndi sd sa imm)

/-- R262. -/
def actOr (sd sa sb : BitVec 6) : Act :=
  alu2 (· ||| ·) sd sa sb
def execOr (sd sa sb : BitVec 6) (s : State) : Host.Outcome State Fault Refusal :=
  runOp s .c (.or sd sa sb) (actOr sd sa sb)

/-- R263. -/
def actOri (sd sa : BitVec 6) (imm : BitVec 9) : Act :=
  aluI (· ||| ·) sd sa (immW imm)
def execOri (sd sa : BitVec 6) (imm : BitVec 9) (s : State) : Host.Outcome State Fault Refusal :=
  runOp s .c (.ori sd sa imm) (actOri sd sa imm)

/-- R262. -/
def actXor (sd sa sb : BitVec 6) : Act :=
  alu2 (· ^^^ ·) sd sa sb
def execXor (sd sa sb : BitVec 6) (s : State) : Host.Outcome State Fault Refusal :=
  runOp s .c (.xor sd sa sb) (actXor sd sa sb)

/-- R263. -/
def actXori (sd sa : BitVec 6) (imm : BitVec 9) : Act :=
  aluI (· ^^^ ·) sd sa (immW imm)
def execXori (sd sa : BitVec 6) (imm : BitVec 9) (s : State) : Host.Outcome State Fault Refusal :=
  runOp s .c (.xori sd sa imm) (actXori sd sa imm)

/-- R262. -/
def actShl (sd sa sb : BitVec 6) : Act :=
  alu2 shl64 sd sa sb
def execShl (sd sa sb : BitVec 6) (s : State) : Host.Outcome State Fault Refusal :=
  runOp s .c (.shl sd sa sb) (actShl sd sa sb)

/-- R263. -/
def actShli (sd sa : BitVec 6) (imm : BitVec 6) : Act :=
  aluI shl64 sd sa fun _ => imm.setWidth 64
def execShli (sd sa : BitVec 6) (imm : BitVec 6) (s : State) : Host.Outcome State Fault Refusal :=
  runOp s .c (.shli sd sa imm) (actShli sd sa imm)

/-- R262. -/
def actShr (sd sa sb : BitVec 6) : Act :=
  alu2 shr64 sd sa sb
def execShr (sd sa sb : BitVec 6) (s : State) : Host.Outcome State Fault Refusal :=
  runOp s .c (.shr sd sa sb) (actShr sd sa sb)

/-- R263. -/
def actShri (sd sa : BitVec 6) (imm : BitVec 6) : Act :=
  aluI shr64 sd sa fun _ => imm.setWidth 64
def execShri (sd sa : BitVec 6) (imm : BitVec 6) (s : State) : Host.Outcome State Fault Refusal :=
  runOp s .c (.shri sd sa imm) (actShri sd sa imm)

/-- R262. -/
def actSra (sd sa sb : BitVec 6) : Act :=
  alu2 sra64 sd sa sb
def execSra (sd sa sb : BitVec 6) (s : State) : Host.Outcome State Fault Refusal :=
  runOp s .c (.sra sd sa sb) (actSra sd sa sb)

/-- R263. -/
def actSrai (sd sa : BitVec 6) (imm : BitVec 6) : Act :=
  aluI sra64 sd sa fun _ => imm.setWidth 64
def execSrai (sd sa : BitVec 6) (imm : BitVec 6) (s : State) : Host.Outcome State Fault Refusal :=
  runOp s .c (.srai sd sa imm) (actSrai sd sa imm)

/-- R265. -/
def actClz (sd sa : BitVec 6) : Act :=
  alu1 clz64 sd sa
def execClz (sd sa : BitVec 6) (s : State) : Host.Outcome State Fault Refusal :=
  runOp s .c (.clz sd sa) (actClz sd sa)

/-- R265. -/
def actCtz (sd sa : BitVec 6) : Act :=
  alu1 ctz64 sd sa
def execCtz (sd sa : BitVec 6) (s : State) : Host.Outcome State Fault Refusal :=
  runOp s .c (.ctz sd sa) (actCtz sd sa)

/-- R265. -/
def actPopc (sd sa : BitVec 6) : Act :=
  alu1 popc64 sd sa
def execPopc (sd sa : BitVec 6) (s : State) : Host.Outcome State Fault Refusal :=
  runOp s .c (.popc sd sa) (actPopc sd sa)

/-- R266. -/
def actSel (sd sa sb : BitVec 6) : Act :=
  fun c =>
    { trap := c.scalars [sd, sa, sb] (some sd), fx := c.sendS sd (if c.sv sd != 0 then c.sv sa else c.sv sb) false 1 }
def execSel (sd sa sb : BitVec 6) (s : State) : Host.Outcome State Fault Refusal :=
  runOp s .c (.sel sd sa sb) (actSel sd sa sb)

/-- R267. -/
def actMovi (sd : BitVec 6) (imm : BitVec 15) : Act :=
  fun c => { trap := c.scalars [] (some sd), fx := c.sendS sd (immW imm c) false 1 }
def execMovi (sd : BitVec 6) (imm : BitVec 15) (s : State) : Host.Outcome State Fault Refusal :=
  runOp s .c (.movi sd imm) (actMovi sd imm)

/-- R267. -/
def actMovhi (sd : BitVec 6) (imm : BitVec 15) : Act :=
  fun c =>
    { trap := c.scalars [] (some sd), fx := c.sendS sd (BitVec.ofNat 64 (c.immU imm * 2 ^ 27)) false 1 }
def execMovhi (sd : BitVec 6) (imm : BitVec 15) (s : State) : Host.Outcome State Fault Refusal :=
  runOp s .c (.movhi sd imm) (actMovhi sd imm)

/-- R268. -/
def actCmp (cc : Cc) (sd sa sb : BitVec 6) : Act :=
  alu2 (ccResult cc) sd sa sb
def execCmp (cc : Cc) (sd sa sb : BitVec 6) (s : State) : Host.Outcome State Fault Refusal :=
  runOp s .c (.cmp cc sd sa sb) (actCmp cc sd sa sb)

/-- R268. -/
def actCmpi (cc : Cc) (sd sa : BitVec 6) (imm : BitVec 6) : Act :=
  aluI (ccResult cc) sd sa (immW imm)
def execCmpi (cc : Cc) (sd sa : BitVec 6) (imm : BitVec 6) (s : State) : Host.Outcome State Fault Refusal :=
  runOp s .c (.cmpi cc sd sa imm) (actCmpi cc sd sa imm)

/-- R272. -/
def actBr (inv : Bool) (sa : BitVec 6) (disp : BitVec 14) : Act :=
  branch [sa] (fun c => (c.sv sa != 0) == inv) fun c => c.imm disp
def execBr (inv : Bool) (sa : BitVec 6) (disp : BitVec 14) (s : State) : Host.Outcome State Fault Refusal :=
  runOp s .c (.br inv sa disp) (actBr inv sa disp)

/-- R273; a flag found set is observed. -/
def actBrf (inv : Bool) (f : BitVec 4) (disp : BitVec 14) : Act := fun c =>
  let a := branch [] (fun c => (getF c.w f.toNat).set != inv) (fun c => c.imm disp) c
  if (getF c.w f.toNat).set then { a with fx := fun m => updWarp (a.fx m) c.k (observe c.w [f.toNat]) } else a
def execBrf (inv : Bool) (f : BitVec 4) (disp : BitVec 14) (s : State) : Host.Outcome State Fault Refusal :=
  runOp s .c (.brf inv f disp) (actBrf inv f disp)

/-- R274. -/
def actJmp (disp : BitVec 21) : Act :=
  fun c => { fx := planBranch c 2 true (branchPlace c (c.imm disp)) }
def execJmp (disp : BitVec 21) (s : State) : Host.Outcome State Fault Refusal :=
  runOp s .c (.jmp disp) (actJmp disp)

/-- R274. -/
def actCall (disp : BitVec 21) : Act :=
  fun c => { fx := fun m => link c (planBranch c 2 true (branchPlace c (c.imm disp)) m) }
def execCall (disp : BitVec 21) (s : State) : Host.Outcome State Fault Refusal :=
  runOp s .c (.call disp) (actCall disp)

/-- R275. -/
def actCallr (sa : BitVec 6) : Act :=
  jumpTo sa link
def execCallr (sa : BitVec 6) (s : State) : Host.Outcome State Fault Refusal :=
  runOp s .c (.callr sa) (actCallr sa)

/-- R275. -/
def actRet : Act :=
  jumpTo 54#6 fun _ m => m
def execRet (s : State) : Host.Outcome State Fault Refusal :=
  runOp s .c .ret actRet

/-- R277. -/
def actBrd (sc : BitVec 6) (tdisp : BitVec 8) (jdisp : BitVec 7) : Act :=
  brdOp sc tdisp jdisp
def execBrd (sc : BitVec 6) (tdisp : BitVec 8) (jdisp : BitVec 7) (s : State) : Host.Outcome State Fault Refusal :=
  runOp s .c (.brd sc tdisp jdisp) (actBrd sc tdisp jdisp)

/-- R278, R279: a JOIN that is not satisfied blocks at its own join and is a fault elsewhere. -/
def actJoin : Act :=
  fun c =>
    let here := joinOf c.w c.path = some (joinCoord c.w c.q.place)
    { trap := exnIf (!c.q.joined && !here && (joinOf c.w c.path).isSome) .joinAddr, block := causeIf (!c.q.joined && here) .join }
def execJoin (s : State) : Host.Outcome State Fault Refusal :=
  runOp s .c .join actJoin

/-- R280. -/
def actBprep (tb : BitVec 2) (disp : BitVec 19) : Act :=
  fun c =>
    { trap := exnIf (!c.w.sup) .privOp
      fx := later (.target tb.toNat (((c.addr : Int) + c.imm disp * 16) % 2 ^ 64).toNat) c }
def execBprep (tb : BitVec 2) (disp : BitVec 19) (s : State) : Host.Outcome State Fault Refusal :=
  runOp s .c (.bprep tb disp) (actBprep tb disp)

/-- R281. -/
def actBgo (tb : BitVec 2) (inv : Bool) (sa : BitVec 6) : Act :=
  fun c =>
    let t := decide (c.sv sa = 0) == inv
    let a := mapGet? c.w.target tb.toNat
    let d := c.decide t 0
    { trap := firstExn [c.scalars [sa] none, exnIf (!c.w.sup) .privOp, exnIf a.isNone .tbEmpty, d.1]
      fx := fun m => planBranch c 0 t (a.map fun a => { addr := a, off := 0 }) (d.2 m) }
def execBgo (tb : BitVec 2) (inv : Bool) (sa : BitVec 6) (s : State) : Host.Outcome State Fault Refusal :=
  runOp s .c (.bgo tb inv sa) (actBgo tb inv sa)

/-- R28, R282. -/
def actPenter (pl : BitVec 2) (len : BitVec 16) : Act :=
  fun c =>
    { trap := if c.w.split.isSome then some planeControl else none
      fx := plan c 0 (.enter { base := (c.addr + 16) % 2 ^ 64, p := 2 ^ pl.toNat, len := len.toNat }) }
def execPenter (pl : BitVec 2) (len : BitVec 16) (s : State) : Host.Outcome State Fault Refusal :=
  runOp s .c (.penter pl len) (actPenter pl len)

/-- R29, R283. -/
def actPexit : Act :=
  fun c =>
    { trap := if c.w.region.isNone || openInside c.w c.path then some planeControl else none, fx := plan c 0 .leave }
def execPexit (s : State) : Host.Outcome State Fault Refusal :=
  runOp s .c .pexit actPexit

/-- R284: the wait itself is stage 2 of the examination (R359); what issues has observed the named flags. -/
def actFwait (flags : BitVec 16) : Act :=
  fun c => { fx := fun m => updWarp m c.k (observe c.w ((List.range 16).filter fun f => flags.getLsbD f)) }
def execFwait (flags : BitVec 16) (s : State) : Host.Outcome State Fault Refusal :=
  runOp s .c (.fwait flags) (actFwait flags)

/-- R285. -/
def actFclr (flags : BitVec 16) : Act :=
  fun c =>
    let named := (List.range 16).filter fun f => flags.getLsbD f
    { trap := exnIf (named.any fun f => (getF c.w f).pend) .flagBusy
      fx := fun m => updWarp m c.k fun w => named.foldl (fun w f => putF w f { getF w f with set := false }) w }
def execFclr (flags : BitVec 16) (s : State) : Host.Outcome State Fault Refusal :=
  runOp s .c (.fclr flags) (actFclr flags)

/-- R286. -/
def actSetx (sa : BitVec 6) : Act :=
  fun c => { trap := c.scalars [sa] none, fx := later (.xm c.path (c.sv sa)) c }
def execSetx (sa : BitVec 6) (s : State) : Host.Outcome State Fault Refusal :=
  runOp s .c (.setx sa) (actSetx sa)

/-- R287. -/
def actCrd (sd : BitVec 6) (creg : BitVec 8) : Act :=
  crdOp sd creg.toNat
def execCrd (sd : BitVec 6) (creg : BitVec 8) (s : State) : Host.Outcome State Fault Refusal :=
  runOp s .c (.crd sd creg) (actCrd sd creg)

/-- R287. -/
def actCwr (creg : BitVec 8) (sa : BitVec 6) : Act :=
  cwrOp creg.toNat sa
def execCwr (creg : BitVec 8) (sa : BitVec 6) (s : State) : Host.Outcome State Fault Refusal :=
  runOp s .c (.cwr creg sa) (actCwr creg sa)

/-- R453. -/
def actCrdEnergyLo (sd : BitVec 6) : Act :=
  crdOp sd 0x13
def execCrdEnergyLo (sd : BitVec 6) (s : State) : Host.Outcome State Fault Refusal :=
  runOp s .c (.crdEnergyLo sd) (actCrdEnergyLo sd)

/-- R288. -/
def actCwrWtimer (sa : BitVec 6) : Act :=
  cwrOp 0x0c sa
def execCwrWtimer (sa : BitVec 6) (s : State) : Host.Outcome State Fault Refusal :=
  runOp s .c (.cwrWtimer sa) (actCwrWtimer sa)

/-- R288. -/
def actCwrGdead (sa : BitVec 6) : Act :=
  cwrOp 0x0e sa
def execCwrGdead (sa : BitVec 6) (s : State) : Host.Outcome State Fault Refusal :=
  runOp s .c (.cwrGdead sa) (actCwrGdead sa)

/-- R290. -/
def actTrap (imm : BitVec 16) : Act :=
  fun _ => { after := some { code := TrapName.userTrap.code, imm := imm.toNat } }
def execTrap (imm : BitVec 16) (s : State) : Host.Outcome State Fault Refusal :=
  runOp s .c (.trap imm) (actTrap imm)

/-- R291, R357. -/
def actEret : Act :=
  eretOp
def execEret (s : State) : Host.Outcome State Fault Refusal :=
  runOp s .c .eret actEret

/-- R292. -/
def actBrk (imm : BitVec 16) : Act :=
  brkOp imm
def execBrk (imm : BitVec 16) (s : State) : Host.Outcome State Fault Refusal :=
  runOp s .c (.brk imm) (actBrk imm)

/-- R292. -/
def actTrmark (imm : BitVec 16) : Act :=
  trmarkOp imm
def execTrmark (imm : BitVec 16) (s : State) : Host.Outcome State Fault Refusal :=
  runOp s .c (.trmark imm) (actTrmark imm)

/-- R293. -/
def actSprint (nt : Bool) (sd sa : BitVec 6) (f : BitVec 4) : Act :=
  sprintOp nt sd sa f
def execSprint (nt : Bool) (sd sa : BitVec 6) (f : BitVec 4) (s : State) : Host.Outcome State Fault Refusal :=
  runOp s .c (.sprint nt sd sa f) (actSprint nt sd sa f)

/-- R295. -/
def actSprel : Act :=
  fun c => { fx := fun m => updTeam m c.w.team fun t => { t with lease := none } }
def execSprel (s : State) : Host.Outcome State Fault Refusal :=
  runOp s .c .sprel actSprel

/-- R296. -/
def actRgrow (sd : BitVec 6) : Act :=
  rgrowOp sd
def execRgrow (sd : BitVec 6) (s : State) : Host.Outcome State Fault Refusal :=
  runOp s .c (.rgrow sd) (actRgrow sd)

/-- R297. -/
def actRshrink : Act :=
  rshrinkOp
def execRshrink (s : State) : Host.Outcome State Fault Refusal :=
  runOp s .c .rshrink actRshrink

/-- R298. -/
def actTimer (sa : BitVec 6) : Act :=
  fun c =>
    let v := (c.sv sa).toNat
    { trap := c.scalars [sa] none
      fx := later (.timer (if v = 0 then 0 else (c.w.vbeat + v) % 2 ^ 64)) c }
def execTimer (sa : BitVec 6) (s : State) : Host.Outcome State Fault Refusal :=
  runOp s .c (.timer sa) (actTimer sa)

/-- R299. -/
def actYield : Act :=
  yieldOp
def execYield (s : State) : Host.Outcome State Fault Refusal :=
  runOp s .c .yield actYield

/-- R300. -/
def actEndWarp : Act :=
  fun c => { last := fun m => endFlush c.d m c.k }
def execEndWarp (s : State) : Host.Outcome State Fault Refusal :=
  runOp s .c .endWarp actEndWarp

/-- R146. -/
def actNop : Act :=
  nopAct
def execNop (s : State) : Host.Outcome State Fault Refusal :=
  runOp s .c .nop actNop

end Sys2Proof.Machine
end

