-- ==== Sys2Proof/Machine/Engine.lean ====
section
/-!
DEFINITION. The meanings of the X slot (R225 to R257): what copies, tiles, the matrix engine, gangs, crossings, queue
bindings, barriers, posts and events do when their bundle issues. Checks stand in the order of R227.
-/

namespace Sys2Proof.Machine

/-! ### Tiles (R81, R82, R237 to R239) -/

/-- TILE_RANGE of a tile number (R81). -/
def tileRange (c : Ctx) (n : Nat) : Option Exn := exnIf (c.team?.elim true fun t => t.ntiles ≤ n) .tileRange

/-- The entry of a tile number, when it is defined. -/
def Ctx.tile? (c : Ctx) (n : Nat) : Option Tile := teamTile? c.m c.w.team n

/-- Change a defined entry. -/
def updTile (m : Mach) (team n : Nat) (f : Tile → Tile) : Mach :=
  updTeam m team fun t => { t with tiles := mapUpd t.tiles n f }

def TileState.code : TileState → Nat
  | .empty => 0 | .filling => 1 | .ready => 2 | .draining => 3

/-- The value of TSTAT (R82). -/
def tileWord (t : Tile) : Nat :=
  packFields [(49, t.stride), (34, t.base), (26, t.rows - 1), (21, t.rowb - 1), (17, t.fmt), (16, t.grp), (7, 1),
    (0, t.state.code)]

/-- The description that TDEF reads; DEF and STATE are ignored (R238). -/
def tileOf (v : DWord) : Tile :=
  { state := .empty, stride := bits v 63 49, base := bits v 48 34, rows := bits v 33 26 + 1, rowb := bits v 25 21 + 1
    fmt := bits v 20 17, grp := bits v 16 16, mover := 0 }

/-- TILE_DESC (R238). -/
def tileDescBad (v : DWord) : Bool :=
  let t := tileOf v
  bits v 15 8 != 0 || bits v 6 2 != 0 || t.stride = 0 || 5 ≤ t.fmt || t.grp != t.base / 2 ^ 14 % 2

/-- The bytes from the first byte of row 0 to the last byte of the last row (R233). -/
def tileSpan (t : Tile) : Nat × Nat := (t.base * 32, ((t.rows - 1) * t.stride + t.rowb) * 32)

/-- A tile that an issued MSTEP has still to read (R238). -/
def tilePending (c : Ctx) (n : Nat) : Bool :=
  (getMatrix c.m (clusterOf c.k)).chains.any fun x => x.steps.any fun s => s.team = c.w.team && (s.ta = n || s.tb = n)

/-- TILE_STATE of TDEF and TFREE: the states they allow besides (R81). -/
def tileStateFault (c : Ctx) (n : Nat) (ok : Option Tile → Bool) : Option Exn :=
  exnIf (!ok (c.tile? n) || tilePending c n) .tileState

def tdefOp (n : Nat) (s : BitVec 6) : Act := fun c =>
  let v := c.sv s
  let sp := tileSpan (tileOf v)
  { trap := firstExn [c.scalars [s] none, exnIf (tileDescBad v) .tileDesc, tileRange c n,
      tileStateFault c n fun t => t.elim true fun t => t.state = .empty || t.state = .ready,
      if c.team?.elim false fun t => spInBounds t sp.1 sp.2 then none
      else some { code := TrapName.spBounds.code, addr := sp.1 }]
    fx := fun m => updTeam (c.countCommand m) c.w.team fun t => { t with tiles := mapPut t.tiles n (tileOf v) } }

def tfreeOp (n : Nat) : Act := fun c =>
  { trap := firstExn [tileRange c n,
      tileStateFault c n fun t => t.elim false fun t => t.state = .empty || t.state = .ready]
    fx := fun m => updTeam (c.countCommand m) c.w.team fun t => { t with tiles := mapErase t.tiles n } }

def tstatOp (n : Nat) (s : BitVec 6) : Act := fun c =>
  { trap := firstExn [c.scalars [] (some s), tileRange c n]
    fx := c.sendS s (BitVec.ofNat 64 ((c.tile? n).elim 0 tileWord)) false 1 }

/-! ### Copies (R228 to R236) -/

/-- What a row of the copy table allows: descriptor modes, a tile side. -/
def CopyOp.modes : CopyOp → List Nat
  | .cpyin | .cpym => [0, 1]
  | .cpyout => [0, 2, 3]
  | .cpy | .cpyr | .cpyat | .cpyz => [0]

def CopyOp.tiles : CopyOp → Bool
  | .cpyin | .cpyout | .cpyz => true
  | .cpy | .cpyr | .cpym | .cpyat => false

/-- A copy descriptor's fields (R229). -/
structure CopyDesc where
  mode : Nat
  sc   : Nat
  ten  : Bool
  tile : Nat
  spc  : Bool
  qf   : Nat
  sig  : Nat
  len  : Nat

def copyDesc (v : DWord) : CopyDesc :=
  { mode := bits v 63 62, sc := bits v 61 60, ten := v.getLsbD 59, tile := bits v 58 53, spc := v.getLsbD 52
    qf := bits v 51 50, sig := bits v 49 42, len := bits v 31 0 }

/-- The bytes of the source and of the destination range (R230). -/
def copySrcLen (mode len : Nat) : Nat := if mode = 0 then len else if mode = 2 then 32 * len else 64 * len
def copyDstLen (mode qf len : Nat) : Nat :=
  if mode = 0 then len else if mode = 1 then 32 * len else if mode = 2 then 64 * len
  else
    let gpb := (bfmtOf qf).elim 1 (·.groups)
    64 * ((len + gpb - 1) / gpb)

/-- What a copy instruction has read: its operation, descriptor, sides and second operand. -/
structure CopyReq where
  op  : CopyOp
  d   : CopyDesc
  raw : DWord
  src : Option CopySide
  dst : CopySide
  x   : DWord

/-- The targets of CPYM (R232). -/
def copyTargets (x : DWord) : List Nat :=
  [bits x 8 0, bits x 17 9, bits x 26 18, bits x 35 27].take (bits x 37 36 + 1)

/-- A bad target list: an index beyond the task's clusters, a repeated one, a non-zero unused field (R232). -/
def targetsBad (c : Ctx) (x : DWord) : Bool :=
  let ts := copyTargets x
  let n := (getNode? c.m c.w.node).elim 0 (·.clus)
  bits x 63 38 != 0 || bits x 35 0 / 2 ^ (9 * ts.length) != 0 || ts.any (n ≤ ·) || ts.eraseDups.length != ts.length

/-- Alignment of a side: of a scratchpad offset, of a global address, of LEN (R230). -/
def copyAlignBad (r : CopyReq) : Bool :=
  let sp := r.dst.scratch || r.src.elim false (·.scratch)
  let off (s : CopySide) (n : Nat) : Bool := s.base % n != 0
  match r.d.mode with
  | 0 => sp && (off r.dst 4 || r.src.elim false (off · 4) || r.d.len % 4 != 0)
  | 1 => off r.dst 32 || r.src.elim false (off · 64)
  | 2 => off r.dst 64 || r.src.elim false (off · 32)
  | _ => off r.dst 64 || r.src.elim false (off · 64)

/-- Source and destination overlap in one space (R230). -/
def copyOverlap (r : CopyReq) : Bool :=
  r.src.elim false fun s => s.scratch = r.dst.scratch && s.base < r.dst.base + copyDstLen r.d.mode r.d.qf r.d.len &&
    r.dst.base < s.base + copySrcLen r.d.mode r.d.len

/-- COPY_DESC but for a tile's size (R228 to R232, R237); `sideReg` is the register field of a tile's side. -/
def copyDescBad (c : Ctx) (r : CopyReq) (sideReg : Nat) : Bool :=
  !r.op.modes.contains r.d.mode || bits r.raw 41 32 != 0 || r.d.len = 0 ||
  (r.d.mode != 3 && (r.d.qf != 0 || r.d.sig != 0)) || (r.d.mode = 3 && r.d.qf = 0) ||
  (!r.d.ten && r.d.tile != 0) || (r.op != .cpyz && r.d.spc) ||
  (r.d.ten && (!r.op.tiles || (r.op = .cpyz && !r.d.spc) || sideReg != 0)) ||
  copyAlignBad r || copyOverlap r || (r.op = .cpym && targetsBad c r.x)

/-- The scratchpad side fills (a destination) or drains (a source). -/
def CopyReq.fills (r : CopyReq) : Bool := r.dst.scratch

/-- The bytes of the scratchpad side. -/
def CopyReq.scratchLen (r : CopyReq) : Nat :=
  if r.fills then copyDstLen r.d.mode r.d.qf r.d.len else copySrcLen r.d.mode r.d.len

/-- The checks of a tile side: range, definition, size, state of a fill form (R237). -/
def copyTileFault (c : Ctx) (r : CopyReq) : Option Exn :=
  if !r.d.ten then none
  else firstExn [tileRange c r.d.tile, exnIf (c.tile? r.d.tile).isNone .tileState,
    exnIf ((c.tile? r.d.tile).elim false fun t => t.rows * (32 * t.rowb) != r.scratchLen) .copyDesc,
    exnIf (r.fills && (c.tile? r.d.tile).elim false (·.state != .empty)) .tileState]

/-- SP_BOUNDS of a scratchpad side without a tile (R227 row 5). -/
def copyBounds (c : Ctx) (r : CopyReq) : Option Exn :=
  let out (s : CopySide) : Bool := s.scratch && !r.d.ten && !(c.team?.elim false fun t => spInBounds t s.base r.scratchLen)
  ((r.dst :: r.src.toList).find? out).map fun s => { code := TrapName.spBounds.code, addr := s.base }

/-- The pages of a global range. -/
def pagesIn (base n : Nat) : List Nat :=
  if n = 0 then [] else (List.range ((base % 65536 + n + 65535) / 65536)).map fun i => base / 65536 + i

/-- The lookup that DET_ORDER needs: the fault, the pages missed, the pages found without the deterministic-safe bit (R52, R233). A page
found once is not looked up again while the bundle is blocked, so a range of any length comes to its end. The record's ADDR is the lowest
address of the range in the first such page (log 70). -/
def copyDet (c : Ctx) (r : CopyReq) (ord : Bool) : Option Exn × List Nat × List Nat :=
  if ord || r.dst.scratch || !detOf c.m c.w then (none, [], [])
  else
    let xs := ((pagesIn r.dst.base (copyDstLen r.d.mode r.d.qf r.d.len)).filter fun p => !c.w.looked.contains p).map fun p =>
      (p, c.xlate (p * 65536) .copyDst)
    let miss := xs.filterMap fun
      | (_, .miss p) => some p
      | _ => none
    let safe : Xlate → Bool
      | .hit _ leaf _ => leafDs leaf
      | _ => false
    ((xs.find? fun x => safe x.2).map fun x => { code := TrapName.detOrder.code, addr := max r.dst.base (x.1 * 65536) }, miss,
      (xs.filter fun x => !miss.contains x.1).map (·.1))

/-- One range of a copy: the cluster whose table takes it, its owner team, space, mode, base and length. -/
structure CopyRange where
  cluster : Nat
  team    : Nat
  scratch : Bool
  write   : Bool
  base    : Nat
  len     : Nat

/-- The base and length of a side; a tile's side spans its rows (R233). -/
def sideSpan (c : Ctx) (r : CopyReq) (s : CopySide) (n : Nat) : Nat × Nat :=
  match s.scratch && r.d.ten, c.tile? r.d.tile with
  | true, some t => tileSpan t
  | _, _ => (s.base, n)

/-- The ranges a copy registers (R233). -/
def copyRanges (c : Ctx) (r : CopyReq) : List CopyRange :=
  let here := clusterOf c.k
  let range (cl team : Nat) (write : Bool) (s : CopySide) (n : Nat) : CopyRange :=
    let sp := sideSpan c r s n
    { cluster := cl, team := team, scratch := s.scratch, write := write, base := sp.1, len := sp.2 }
  let dn := copyDstLen r.d.mode r.d.qf r.d.len
  (r.src.toList.map fun s => range here c.w.team false s (copySrcLen r.d.mode r.d.len)) ++ [range here c.w.team true r.dst dn] ++
  if r.op = .cpym then (copyTargets r.x).map fun t =>
    let team := c.w.node * 512 + t
    range ((getTeam? c.m team).elim here (·.cluster)) team true r.dst dn
  else []

/-- Some cluster's table lacks room for a copy's ranges (R233). -/
def lockTableFull (m : Mach) (rs : List CopyRange) : Bool :=
  (rs.map (·.cluster)).eraseDups.any fun cl => 64 < (getCluster m cl).locks.length + rs.countP fun r => r.cluster = cl

/-- Register the ranges of copy `id`. -/
def takeLocks (c : Ctx) (id seq : Nat) (flag : Option Nat) (rs : List CopyRange) (m : Mach) : Mach :=
  rs.foldl (fun m r => updCluster m r.cluster fun x => { x with locks := x.locks ++ [
    { copy := id, team := r.team, ctx := c.w.ctx, tindex := teamIndex c.w.team, teamw := c.w.teamw, seq := seq
      flag := flag, scratch := r.scratch, write := r.write, base := r.base, len := r.len, order := id }] }) m

/-- Drop the core's L1 lines of a global destination (R92, R233). -/
def dropRange (c : Ctx) (r : CopyReq) (m : Mach) : Mach :=
  if r.dst.scratch then m
  else
    let lo := r.dst.base
    let hi := lo + copyDstLen r.d.mode r.d.qf r.d.len
    let spans := (pagesIn lo (hi - lo)).filterMap fun p => match walk m c.w.ctx (p * 65536) with
      | .ok (l, level) =>
        let key := homeKey m level l (p * 65536)
        some (key + (lo - p * 65536), key + min (hi - p * 65536) 65536)
      | .error _ => none
    updCore m (coreOf c.k) fun x => { x with l1 := x.l1.filter fun (a, _) => !(spans.any fun s => s.1 < a + 128 && a < s.2) }

/-- An access touches a word of a copy's global ranges (R104). -/
def copyTouches (r : CopyReq) (va : Nat) : Bool :=
  let on (s : CopySide) (n : Nat) : Bool := !s.scratch && s.base < wordOf va + 8 && wordOf va < s.base + n
  on r.dst (copyDstLen r.d.mode r.d.qf r.d.len) || r.src.any fun s => on s (copySrcLen r.d.mode r.d.len)

/-- The operations that a copy of machine `m` waits for: the warp's stores and atomics, its bundle's own too, and the loads of a word of its
ranges (R99, R104, R231). -/
def copyWaits (c : Ctx) (r : CopyReq) (m : Mach) : List Nat :=
  ((getWarp? m c.k).elim [] (·.ops)).filterMap fun o =>
    if o.kind.counted || o.acc.any fun a => copyTouches r a.va then some o.id else none

/-- The copy that a request starts. -/
def copyOf (c : Ctx) (r : CopyReq) (ord : Bool) (id seq : Nat) (flag : Option Nat) (waits : List Nat) : Copy :=
  { op := r.op, warp := c.k, team := c.w.team, node := c.w.node, ctx := c.w.ctx, teamw := c.w.teamw, seq := seq
    flag := flag, ord := ord, pc := c.addr, cidx := c.cidx, plane := c.plane, path := c.path, vbeat := c.w.vbeat
    mode := r.d.mode, scope := r.d.sc, tile := if r.d.ten then some r.d.tile else none, qfmt := r.d.qf, sig := r.d.sig
    len := r.d.len, src := r.src, dst := r.dst, targets := if r.op = .cpym then copyTargets r.x else []
    launch := if r.op = .cpyat then some r.x.toNat else none
    waits := waits, order := id, started := false, doneW := 0, hold := CopyHold.none, misses := [], ffault := [], fault := none
    live := true, hits := [], exs := 0 }

/-- A copy that fills its team's scratchpad. -/
def CopyOp.fillsTile (op : CopyOp) (d : CopyDesc) : Bool := op = .cpyin || op = .cpym || (op = .cpyz && d.spc)

/-- The request of a copy by its operands. -/
def copyReqOf (op : CopyOp) (dst : BitVec 5) (src : Option (BitVec 5)) (desc : BitVec 5) (c : Ctx) : CopyReq :=
  let raw := c.sv (desc.setWidth 6)
  let d := copyDesc raw
  let side (scratch : Bool) (n : BitVec 5) : CopySide := { scratch := scratch, base := (c.sv (n.setWidth 6)).toNat }
  { op := op, d := d, raw := raw, src := src.map (side (op = .cpyout)), dst := side (op.fillsTile d) dst
    x := if op = .cpym || op = .cpyat then c.sv (desc.setWidth 6 + 1) else 0 }

/-- A copy at issue (R227, R228, R233). -/
def copyAct (op : CopyOp) (ord : Bool) (dst : BitVec 5) (src : Option (BitVec 5)) (desc : BitVec 5)
    (f : Option (BitVec 4)) (srcs : List (BitVec 6)) : Act := fun c =>
  let r := copyReqOf op dst src desc c
  let d := r.d
  let sideReg := if op.fillsTile d then dst.toNat else (src.map (·.toNat)).getD 0
  let det := copyDet c r ord
  let rs := copyRanges c r
  let flag := f.map (·.toNat)
  { trap := firstExn [c.poisonS srcs, c.roles srcs none, flag.bind c.flagBusy, c.shut srcs, exnIf (copyDescBad c r sideReg) .copyDesc,
      copyTileFault c r, copyBounds c r, det.1]
    block := leastCause [causeIf (d.ten && !r.fills && (c.tile? d.tile).elim false (·.state != .ready)) .tile,
      causeIf (!det.2.1.isEmpty) .xlate, causeIf (lockTableFull c.m rs) .lock]
    miss := det.2.1
    early := fun m => if det.2.2.isEmpty then m else updWarp m c.k fun w => { w with looked := w.looked ++ det.2.2 }
    fx := fun m =>
      let m := c.countCommand (bump m)
      let id := m.tick
      let seq := (getWarp? m c.k).elim 0 (·.seq)
      let m := match f with
        | some f => c.arm f.toNat m
        | none => m
      let m := if d.ten then updTile m c.w.team d.tile fun t =>
          { t with state := if r.fills then .filling else .draining, mover := nameWord seq c.plane c.cidx } else m
      let m := dropRange c r (takeLocks c id seq flag rs m)
      updCluster m (clusterOf c.k) fun x => { x with copies := mapPut x.copies id (copyOf c r ord id seq flag (copyWaits c r m)) } }

/-! ### The matrix engine (R240 to R248) -/

/-- The engine of the warp's cluster. -/
def Ctx.mx (c : Ctx) : Matrix := getMatrix c.m (clusterOf c.k)
def Ctx.holds (c : Ctx) : Bool := c.mx.owners.contains c.k
/-- The warp's own request, or its gang's. -/
def Ctx.request? (c : Ctx) : Option MresReq :=
  c.mx.mrt.find? fun r => r.warp = c.k || (c.w.gang.isSome && r.gang = c.w.gang)
def Ctx.inHandler (c : Ctx) : Bool := c.w.trapped != .running
def Ctx.lead (c : Ctx) : Bool := c.w.gang.isNone || c.w.gidx = 0
/-- A slot or tile number of a gang member (R248). -/
def Ctx.slotOf (c : Ctx) (n : Nat) : Nat := if c.w.gang.isSome then (n + c.w.gidx) % 4 else n
def Ctx.tileOf (c : Ctx) (n : Nat) : Nat := if c.w.gang.isSome then n + c.w.gidx else n

/-- The keys of a warp and its gang mates. -/
def Ctx.mates (c : Ctx) : List Nat := (c.gang?.map fun g => g.2.members).getD [c.k]

/-- A matrix instruction: while its MRES is pending only the first checks are made, then it blocks (R227, R240). -/
def matrixOp (first : Option Exn) (checks : Option Exn) (block : Option Cause) (fx : Mach → Mach) : Act := fun c =>
  let waits := c.request?.isSome && !c.holds
  { trap := firstExn [first, exnIf c.inHandler .meState, if waits then none else
      firstExn [exnIf (!c.holds) .meState, checks]]
    block := if waits then some .reserve else block
    fx := fx }

/-- MRES (R240, R248): in a gang the lead posts the request, and every member arms its own flag. -/
def mresOp (f : BitVec 4) : Act := fun c =>
  let busy := c.lead && (c.holds || c.request?.isSome)
  { trap := firstExn [c.flagBusy f.toNat, exnIf (c.inHandler || busy) .meState]
    block := causeIf (c.lead && 16 ≤ c.mx.mrt.length) .reserve
    fx := fun m =>
      let m := updWarp (c.arm f.toNat (c.countCommand m)) c.k fun w => { w with mres := nameWord w.seq c.plane c.cidx }
      let m := c.w.gang.elim m fun g => askGang m g c.k c.w.gidx f.toNat
      if c.lead then
        let tokens := (getNode? c.m c.w.node).elim 0 (·.eff)
        updMatrix (bump m) (clusterOf c.k) fun mx => { mx with mrt := mx.mrt ++
          [{ warp := c.k, gang := c.w.gang, flag := f.toNat, tokens := tokens, order := m.tick }] }
      else m }

/-- Withdraw the request of a warp or gang: its flags are set (R240). -/
def withdraw (c : Ctx) (m : Mach) : Mach :=
  match c.request? with
  | none => m
  | some r =>
    answerRequest r (updMatrix m (clusterOf c.k) fun mx => { mx with mrt := mx.mrt.filter fun x => x.order != r.order })

/-- Release the engine for a warp and its gang mates. -/
def releaseAll (c : Ctx) (m : Mach) : Mach := c.mates.foldl (releaseMatrix c.d.gtc) (withdraw c m)

/-- A chain of the warp or of a gang mate is open. -/
def chainOpen (c : Ctx) : Bool := c.mates.any fun k => (openChain c.m k).isSome

/-- MREL (R240, R248). -/
def mrelOp : Act := fun c =>
  { trap := exnIf (c.inHandler || (c.lead && ((!c.holds && c.request?.isNone) || chainOpen c))) .meState
    fx := fun m =>
      let m := c.countCommand m
      if c.lead then releaseAll c m else m }

/-- CHB (R241). -/
def chbOp (acc : BitVec 2) (anchor : Option (BitVec 10)) : Act := fun c =>
  let slot := c.slotOf acc.toNat
  matrixOp none (exnIf (openChain c.m c.k).isSome .meState) none (fun m =>
    let m := finishClosed c.d.gtc (c.countCommand m) c.k (some slot)
    updMatrix m (clusterOf c.k) fun mx =>
      { mx with
        slots := mapPut mx.slots slot
          { anchor := anchor.map fun a => a.toInt, acc := [], results := [], ready := false, closed := false, begun := true
            pops := 0 }
        chains := mx.chains ++ [{ warp := c.k, slot := slot, steps := [], kelems := 0, credit := 0, che := none
                                  group := c.w.gang.isSome, shut := false }]
        popOf := if mapGet? mx.popOf c.k = some slot then mapErase mx.popOf c.k else mx.popOf }) c

/-- The elements that one k-unit counts (R242). -/
def unitElements (fmt : Nat) : Nat := if fmt = 4 then 16 else 8

/-- ME_OPERAND of MSTEP (R242). -/
def mstepOperandBad (ta tb : Tile) (k : Nat) : Bool :=
  let half (t : Tile) : Bool := t.fmt = 1 || t.fmt = 2
  ta.rows != 32 || tb.rows != 32 || !((half ta && half tb) || (ta.fmt = 4 && tb.fmt = 4)) ||
  32 * ta.rowb < k * unitBytes ta.fmt || 32 * tb.rowb < k * unitBytes tb.fmt

/-- BANK_CONFLICT of MSTEP (R242). -/
def mstepBankBad (ta tb : Tile) : Bool := ta.grp != 0 || tb.grp != 1 || ta.stride % 2 = 0 || tb.stride % 2 = 0

/-- MSTEP and MSTEP.g (R242, R248); `gang` is the form's mode. -/
def mstepOp (gang : Bool) (ta tb : BitVec 6) (kf : BitVec 6) : Act := fun c =>
  let k := kf.toNat + 1
  let na := c.tileOf ta.toNat
  let nb := tb.toNat
  let a := c.tile? na
  let b := c.tile? nb
  let both (f : Tile → Tile → Bool) : Bool := match a, b with
    | some x, some y => f x y
    | _, _ => false
  let chain := openChain c.m c.k
  let add := k * (a.elim 8 fun t => unitElements t.fmt)
  let ready := both fun x y => x.state = .ready && y.state = .ready
  let queued := listSum (c.mx.chains.map fun x => x.steps.length)
  matrixOp none (firstExn [tileRange c na, tileRange c nb, exnIf (a.isNone || b.isNone) .tileState,
      exnIf (c.w.gang.isSome != gang || chain.isNone) .meState, exnIf (both fun x y => mstepOperandBad x y k) .meOperand,
      exnIf (both mstepBankBad) .bankConflict,
      exnIf (chain.elim false fun x => 16777216 < x.kelems + add) .chainLimit])
    (leastCause [causeIf (!ready) .tile, causeIf (4 ≤ queued) .stepq])
    (fun m =>
      let m := c.countCommand m
      let seq := (getWarp? m c.k).elim 0 (·.seq)
      updMatrix m (clusterOf c.k) fun mx => { mx with chains := mx.chains.map fun x =>
        if x.warp = c.k && x.che.isNone then
          { x with kelems := x.kelems + add
                   steps := x.steps ++ [{ team := c.w.team, ta := na, tb := nb, k := k, done := 0, rows := [], seq := seq, pc := c.addr
                                          cidx := c.cidx, plane := c.plane, path := c.path }] }
        else x }) c

/-- CHE and CHE.g (R244, R248). -/
def cheOp (gang : Bool) (acc : BitVec 2) (f : BitVec 4) : Act := fun c =>
  let slot := c.slotOf acc.toNat
  matrixOp (c.flagBusy f.toNat)
    (exnIf (c.w.gang.isSome != gang || !((openChain c.m c.k).elim false fun x => x.slot = slot)) .meState) none
    (fun m =>
      let m := c.arm f.toNat (c.countCommand m)
      let seq := (getWarp? m c.k).elim 0 (·.seq)
      let h : Che := { flag := f.toNat, vbeat := c.w.vbeat, plane := c.plane, path := c.path, cidx := c.cidx, seq := seq }
      updMatrix m (clusterOf c.k) fun mx =>
        { mx with
          chains := mx.chains.map fun x => if x.warp = c.k && x.che.isNone then { x with che := some h } else x
          slots := mapUpd mx.slots slot fun s => { s with closed := true }
          popOf := mapPut mx.popOf c.k slot }) c

/-- MPOP (R245). -/
def mpopOp (vd : BitVec 7) : Act := fun c =>
  let slot := mapGet? c.mx.popOf c.k
  let s := getSlot c.mx (slot.getD 0)
  let cell (l : Nat) : Word × Bool := s.results.getD (64 * s.pops + l) (0#32, false)
  matrixOp none (exnIf (slot.isNone || !s.ready || 16 ≤ s.pops) .meState) none
    (fun m =>
      let m := updMatrix m (clusterOf c.k) fun mx =>
        { mx with slots := mapUpd mx.slots (slot.getD 0) fun s => { s with pops := s.pops + 1 } }
      c.sendV .engine 2 vd false (~~~0#64) (Lanes.ofLane fun l => (cell l).1) (maskOf fun l => (cell l).2) m) c

/-- MDEP (R246). -/
def mdepOp (tile : BitVec 6) (acc : BitVec 2) (f : BitVec 4) : Act := fun c =>
  let n := c.tileOf tile.toNat
  let slot := c.slotOf acc.toNat
  let s := getSlot c.mx slot
  matrixOp (c.flagBusy f.toNat)
    (firstExn [tileRange c n, exnIf ((c.tile? n).elim true (·.state != .empty)) .tileState,
      exnIf (!s.begun || !s.closed) .meState,
      exnIf ((c.tile? n).elim false fun t => t.fmt != 0 || t.rows != 32 || t.rowb < 4) .meOperand]) none
    (fun m =>
      let m := c.arm f.toNat (c.countCommand (bump m))
      let id := m.tick
      let seq := (getWarp? m c.k).elim 0 (·.seq)
      let m := updTile m c.w.team n fun t => { t with state := .filling, mover := nameWord seq c.plane c.cidx }
      updMatrix m (clusterOf c.k) fun mx => { mx with mdeps := mx.mdeps ++
        [{ id := id, warp := c.k, team := c.w.team, tile := n, slot := slot, flag := f.toNat }] }) c

/-! ### Gangs, barriers (R249, R254) -/

/-- The mark of a bundle that has arrived and not issued: `x` is its barrier, or 8 for a rendezvous. -/
def arriveKey (c : Ctx) (x : Nat) : Nat := 16 * streamKey c.w c.path c.plane + x

/-- The bundle has arrived at an earlier examination. -/
def arrivedBefore (c : Ctx) (x : Nat) : Bool := c.w.arrived.contains (arriveKey c x)

/-- Note that the bundle has arrived. -/
def noteArrival (c : Ctx) (x : Nat) (m : Mach) : Mach :=
  updWarp m c.k fun w => { w with arrived := w.arrived ++ [arriveKey c x] }

/-- GANG (R39, R249): it waits for its rendezvous, which sets the warp's gang. -/
def gangOp (n : BitVec 2) (skew : BitVec 3) : Act := fun c =>
  let before := arrivedBefore c 8
  let bad := c.w.gang.isSome || c.w.region.isSome || c.w.split.isSome || pathDepth c.q != 0 || c.holds ||
    c.request?.isSome
  let arrival : GangArrival := { warp := c.k, teamw := c.w.teamw, core := coreOf c.k, n := n.toNat + 2
                                 skew := skew.toNat + 1 }
  { trap := exnIf (!before && bad) .gangState
    block := causeIf (!(before && c.w.gang.isSome)) .barrier
    early := fun m =>
      if before then m
      else noteArrival c 8 (updTeam m c.w.team fun t => { t with rdv := t.rdv ++ [arrival] }) }

/-- UNGANG (R42, R249). -/
def ungangOp : Act := fun c =>
  { trap := firstExn [exnIf c.w.gang.isNone .gangState,
      exnIf (if c.lead then chainOpen c else (openChain c.m c.k).isSome) .meState]
    fx := fun m =>
      let m := if c.lead && (c.holds || c.request?.isSome) then releaseAll c m else m
      updWarp (leaveGang m c.w) c.k fun w => { w with gang := none, gidx := 0 } }

/-- The barrier of a team by its number. -/
def getBar (t : Team) (n : Nat) : Barrier := mapGetD t.bars n { phase := 0, arrived := [] }

/-- Whether a warp's arrival stands in the barrier's phase. -/
def barListed (m : Mach) (w : Warp) (n : Nat) : Bool :=
  (getTeam? m w.team).elim false fun t => (getBar t n).arrived.any fun a => a.teamw = w.teamw

/-- Arrive at a barrier once (R254). -/
def barArrive (c : Ctx) (n f : Nat) (m : Mach) : Mach :=
  if arrivedBefore c n then m
  else
    noteArrival c n (updTeam (bump m) c.w.team fun t =>
      let b := getBar t n
      { t with bars := mapPut t.bars n { b with arrived := b.arrived ++
          [{ teamw := c.w.teamw, warp := c.k, flag := f, order := m.tick }] } })

/-- BARR (R254). -/
def barrOp (bar : BitVec 3) (wait : Bool) (f : BitVec 4) : Act := fun c =>
  let n := bar.toNat
  let before := arrivedBefore c n
  let listed := barListed c.m c.w n
  { trap := firstExn [c.flagBusy f.toNat, exnIf (listed && !before) .barrState]
    block := causeIf (wait && (!before || listed)) .barrier
    early := barArrive c n f.toNat
    fx := fun m =>
      let m := barArrive c n f.toNat m
      let m := c.arm f.toNat (c.countCommand m)
      match getWarp? m c.k with
      | some w => if barListed m w n then m else setWarp m c.k (completeFlag w f.toNat)
      | none => m }

/-! ### Crossings, queue binding, posts (R250 to R256) -/

def xsvOp (vd : BitVec 7) (sa : BitVec 6) (lane : Option (BitVec 6)) : Act := fun c =>
  let mask := match lane with
    | none => ~~~0#64
    | some l => maskOf fun i => i = l.toNat
  { trap := c.scalars [sa] none
    fx := c.sendV .engine 2 vd false mask (Lanes.splat ((c.sv sa).setWidth 32)) 0#64 }

def xvsOp (sd : BitVec 6) (va : BitVec 7) (lane : BitVec 6) : Act := fun c =>
  let r := getV c.w va.toNat
  { trap := firstExn [if maskBit r.marks lane.toNat then
      some { code := TrapName.poison.code, lane := lane.toNat, info := laneProducer c.w va.toNat lane.toNat } else none,
      c.scalars [] (some sd)]
    fx := c.sendS sd ((r.lanes.at lane.toNat).setWidth 64) false 2 }

/-- The binding of a port as QBIND and QUNBIND change it: checked at once, in force from the next beat (R252). -/
def setPort (c : Ctx) (q : Nat) (b : Option Binding) (m : Mach) : Mach :=
  updWarp m c.k fun w => { w with portsIn := mapPut w.portsIn q b, late := w.late ++ [(c.path, .bind q b)] }

/-- QUEUE_RANGE (R252, R253). -/
def queueRange (c : Ctx) (n : Nat) : Option Exn := exnIf (c.team?.elim true fun t => t.nqueues ≤ n) .queueRange

def qbindOp (q : BitVec 3) (queue : BitVec 5) (role : Role) : Act := fun c =>
  let n := queue.toNat
  { trap := firstExn [queueRange c n, exnIf (portNow c.w q.toNat).isSome .queueBind,
      exnIf (role = .producer && (getQueue c.m c.w.team n).closed) .queueClosed]
    fx := fun m =>
      let m := if role = .producer then updQueue m c.w.team n fun x => { x with producers := x.producers + 1 } else m
      setPort c q.toNat (some { queue := n, role := role }) m }

def qunbindOp (q : BitVec 3) : Act := fun c =>
  match portNow c.w q.toNat with
  | none => {}
  | some b =>
    { fx := fun m =>
        setPort c q.toNat none (if b.role = .producer then detachProducer m c.w.team b.queue else m) }

/-- The value of QSTAT (R253). -/
def queueWord (x : Queue) : Nat := packFields [(63, bitNat x.closed), (16, x.producers), (0, x.entries.length)]

def qstatOp (sd : BitVec 6) (queue : BitVec 5) : Act := fun c =>
  { trap := firstExn [c.scalars [] (some sd), queueRange c queue.toNat]
    fx := c.sendS sd (BitVec.ofNat 64 (queueWord (getQueue c.m c.w.team queue.toNat))) false 1 }

def tpostOp (sa : BitVec 6) (f : BitVec 4) : Act := fun c =>
  let a := (c.sv sa).toNat
  { trap := firstExn [c.poisonS [sa], c.roles [sa] none, c.flagBusy f.toNat, c.shut [sa],
      if a % 64 = 0 then none else some { code := TrapName.addrAlign.code, addr := a }]
    fx := fun m => issueOp c (.tpost a) (some f) [] none (c.countCommand m) }

/-! ### The meanings -/

/-- R228. -/
def actCpy (ord : Bool) (dst src desc : BitVec 5) (f : Option (BitVec 4)) : Act :=
  copyAct .cpy ord dst (some src) desc f [dst.setWidth 6, src.setWidth 6, desc.setWidth 6]
def execCpy (ord : Bool) (dst src desc : BitVec 5) (f : Option (BitVec 4)) (s : State) : Host.Outcome State Fault Refusal :=
  runOp s .x (.cpy ord dst src desc f) (actCpy ord dst src desc f)

/-- R228. -/
def actCpyin (ord : Bool) (dst src desc : BitVec 5) (f : Option (BitVec 4)) : Act :=
  copyAct .cpyin ord dst (some src) desc f [dst.setWidth 6, src.setWidth 6, desc.setWidth 6]
def execCpyin (ord : Bool) (dst src desc : BitVec 5) (f : Option (BitVec 4)) (s : State) : Host.Outcome State Fault Refusal :=
  runOp s .x (.cpyin ord dst src desc f) (actCpyin ord dst src desc f)

/-- R228. -/
def actCpyout (ord : Bool) (dst src desc : BitVec 5) (f : Option (BitVec 4)) : Act :=
  copyAct .cpyout ord dst (some src) desc f [dst.setWidth 6, src.setWidth 6, desc.setWidth 6]
def execCpyout (ord : Bool) (dst src desc : BitVec 5) (f : Option (BitVec 4)) (s : State) : Host.Outcome State Fault Refusal :=
  runOp s .x (.cpyout ord dst src desc f) (actCpyout ord dst src desc f)

/-- R228. -/
def actCpyr (ord : Bool) (dst src desc : BitVec 5) (f : Option (BitVec 4)) : Act :=
  copyAct .cpyr ord dst (some src) desc f [dst.setWidth 6, src.setWidth 6, desc.setWidth 6]
def execCpyr (ord : Bool) (dst src desc : BitVec 5) (f : Option (BitVec 4)) (s : State) : Host.Outcome State Fault Refusal :=
  runOp s .x (.cpyr ord dst src desc f) (actCpyr ord dst src desc f)

/-- R228. -/
def actCpym (ord : Bool) (dst src desc : BitVec 5) (f : Option (BitVec 4)) : Act :=
  copyAct .cpym ord dst (some src) desc f [dst.setWidth 6, src.setWidth 6, desc.setWidth 6, desc.setWidth 6 + 1]
def execCpym (ord : Bool) (dst src desc : BitVec 5) (f : Option (BitVec 4)) (s : State) : Host.Outcome State Fault Refusal :=
  runOp s .x (.cpym ord dst src desc f) (actCpym ord dst src desc f)

/-- R228. -/
def actCpyat (ord : Bool) (dst src desc : BitVec 5) (f : Option (BitVec 4)) : Act :=
  copyAct .cpyat ord dst (some src) desc f [dst.setWidth 6, src.setWidth 6, desc.setWidth 6, desc.setWidth 6 + 1]
def execCpyat (ord : Bool) (dst src desc : BitVec 5) (f : Option (BitVec 4)) (s : State) : Host.Outcome State Fault Refusal :=
  runOp s .x (.cpyat ord dst src desc f) (actCpyat ord dst src desc f)

/-- R228. -/
def actCpyz (ord : Bool) (dst desc : BitVec 5) (f : Option (BitVec 4)) : Act :=
  copyAct .cpyz ord dst none desc f [dst.setWidth 6, desc.setWidth 6]
def execCpyz (ord : Bool) (dst desc : BitVec 5) (f : Option (BitVec 4)) (s : State) : Host.Outcome State Fault Refusal :=
  runOp s .x (.cpyz ord dst desc f) (actCpyz ord dst desc f)

/-- R238. -/
def actTdef (tile : BitVec 6) (sr : BitVec 6) : Act :=
  tdefOp tile.toNat sr
def execTdef (tile : BitVec 6) (sr : BitVec 6) (s : State) : Host.Outcome State Fault Refusal :=
  runOp s .x (.tdef tile sr) (actTdef tile sr)

/-- R239. -/
def actTfree (tile : BitVec 6) : Act :=
  tfreeOp tile.toNat
def execTfree (tile : BitVec 6) (s : State) : Host.Outcome State Fault Refusal :=
  runOp s .x (.tfree tile) (actTfree tile)

/-- R239. -/
def actTstat (tile : BitVec 6) (sr : BitVec 6) : Act :=
  tstatOp tile.toNat sr
def execTstat (tile : BitVec 6) (sr : BitVec 6) (s : State) : Host.Outcome State Fault Refusal :=
  runOp s .x (.tstat tile sr) (actTstat tile sr)

/-- R240. -/
def actMres (f : BitVec 4) : Act :=
  mresOp f
def execMres (f : BitVec 4) (s : State) : Host.Outcome State Fault Refusal :=
  runOp s .x (.mres f) (actMres f)

/-- R240. -/
def actMrel : Act :=
  mrelOp
def execMrel (s : State) : Host.Outcome State Fault Refusal :=
  runOp s .x .mrel actMrel

/-- R241. -/
def actChb (acc : BitVec 2) (anchor : Option (BitVec 10)) : Act :=
  chbOp acc anchor
def execChb (acc : BitVec 2) (anchor : Option (BitVec 10)) (s : State) : Host.Outcome State Fault Refusal :=
  runOp s .x (.chb acc anchor) (actChb acc anchor)

/-- R242. -/
def actMstep (ta tb : BitVec 6) (k : BitVec 6) : Act :=
  mstepOp false ta tb k
def execMstep (ta tb : BitVec 6) (k : BitVec 6) (s : State) : Host.Outcome State Fault Refusal :=
  runOp s .x (.mstep ta tb k) (actMstep ta tb k)

/-- R248. -/
def actMstepG (ta tb : BitVec 6) (k : BitVec 6) : Act :=
  mstepOp true ta tb k
def execMstepG (ta tb : BitVec 6) (k : BitVec 6) (s : State) : Host.Outcome State Fault Refusal :=
  runOp s .x (.mstepG ta tb k) (actMstepG ta tb k)

/-- R244. -/
def actChe (acc : BitVec 2) (f : BitVec 4) : Act :=
  cheOp false acc f
def execChe (acc : BitVec 2) (f : BitVec 4) (s : State) : Host.Outcome State Fault Refusal :=
  runOp s .x (.che acc f) (actChe acc f)

/-- R248. -/
def actCheG (acc : BitVec 2) (f : BitVec 4) : Act :=
  cheOp true acc f
def execCheG (acc : BitVec 2) (f : BitVec 4) (s : State) : Host.Outcome State Fault Refusal :=
  runOp s .x (.cheG acc f) (actCheG acc f)

/-- R245. -/
def actMpop (vd : BitVec 7) : Act :=
  mpopOp vd
def execMpop (vd : BitVec 7) (s : State) : Host.Outcome State Fault Refusal :=
  runOp s .x (.mpop vd) (actMpop vd)

/-- R246. -/
def actMdep (tile : BitVec 6) (acc : BitVec 2) (f : BitVec 4) : Act :=
  mdepOp tile acc f
def execMdep (tile : BitVec 6) (acc : BitVec 2) (f : BitVec 4) (s : State) : Host.Outcome State Fault Refusal :=
  runOp s .x (.mdep tile acc f) (actMdep tile acc f)

/-- R249. -/
def actGang (n : BitVec 2) (skew : BitVec 3) : Act :=
  gangOp n skew
def execGang (n : BitVec 2) (skew : BitVec 3) (s : State) : Host.Outcome State Fault Refusal :=
  runOp s .x (.gang n skew) (actGang n skew)

/-- R249. -/
def actUngang : Act :=
  ungangOp
def execUngang (s : State) : Host.Outcome State Fault Refusal :=
  runOp s .x .ungang actUngang

/-- R250. -/
def actXsv (vd : BitVec 7) (sa : BitVec 6) (lane : Option (BitVec 6)) : Act :=
  xsvOp vd sa lane
def execXsv (vd : BitVec 7) (sa : BitVec 6) (lane : Option (BitVec 6)) (s : State) : Host.Outcome State Fault Refusal :=
  runOp s .x (.xsv vd sa lane) (actXsv vd sa lane)

/-- R251. -/
def actXvs (sd : BitVec 6) (va : BitVec 7) (lane : BitVec 6) : Act :=
  xvsOp sd va lane
def execXvs (sd : BitVec 6) (va : BitVec 7) (lane : BitVec 6) (s : State) : Host.Outcome State Fault Refusal :=
  runOp s .x (.xvs sd va lane) (actXvs sd va lane)

/-- R252. -/
def actQbind (q : BitVec 3) (queue : BitVec 5) (role : Role) : Act :=
  qbindOp q queue role
def execQbind (q : BitVec 3) (queue : BitVec 5) (role : Role) (s : State) : Host.Outcome State Fault Refusal :=
  runOp s .x (.qbind q queue role) (actQbind q queue role)

/-- R252. -/
def actQunbind (q : BitVec 3) : Act :=
  qunbindOp q
def execQunbind (q : BitVec 3) (s : State) : Host.Outcome State Fault Refusal :=
  runOp s .x (.qunbind q) (actQunbind q)

/-- R253. -/
def actQstat (sd : BitVec 6) (queue : BitVec 5) : Act :=
  qstatOp sd queue
def execQstat (sd : BitVec 6) (queue : BitVec 5) (s : State) : Host.Outcome State Fault Refusal :=
  runOp s .x (.qstat sd queue) (actQstat sd queue)

/-- R254. -/
def actBarr (bar : BitVec 3) (wait : Bool) (f : BitVec 4) : Act :=
  barrOp bar wait f
def execBarr (bar : BitVec 3) (wait : Bool) (f : BitVec 4) (s : State) : Host.Outcome State Fault Refusal :=
  runOp s .x (.barr bar wait f) (actBarr bar wait f)

/-- R255. -/
def actTpost (sa : BitVec 6) (f : BitVec 4) : Act :=
  tpostOp sa f
def execTpost (sa : BitVec 6) (f : BitVec 4) (s : State) : Host.Outcome State Fault Refusal :=
  runOp s .x (.tpost sa f) (actTpost sa f)

/-- R256. -/
def actEvset (ev : BitVec 8) : Act :=
  fun c => { fx := issueOp c (.evset ev.toNat) none [] none }
def execEvset (ev : BitVec 8) (s : State) : Host.Outcome State Fault Refusal :=
  runOp s .x (.evset ev) (actEvset ev)

/-- R153, R257: it widens the C slot's immediate and has no effect of its own. -/
def actLimm (imm : BitVec 22) : Act :=
  fun _ => let _ := imm; {}
def execLimm (imm : BitVec 22) (s : State) : Host.Outcome State Fault Refusal :=
  runOp s .x (.limm imm) (actLimm imm)

end Sys2Proof.Machine
end

