-- ==== Sys2Proof/Machine/Vector.lean ====
section
/-!
DEFINITION. The meanings of the V slot (R167 to R196).
-/

namespace Sys2Proof.Machine

/-! ### Shared moulds (R167 to R172) -/

/-- The checks of bs as a scalar operand: role and closed queue (R44, R61). -/
def Ctx.bsChecks (c : Ctx) (rs : List (BitVec 7)) : Option Exn :=
  if rs.contains 119#7 then firstExn [c.roles [BitVec.ofNat 6 c.b] none, c.shut [BitVec.ofNat 6 c.b]] else none

/-- POISON of the lanes that count as read of each source (R172). DESIGN CHOICE (log 79): LANE is the marked lane of the source, also where
VSHFL, VROTL and VBUNPK take it to another lane. -/
def Ctx.poisonReads (c : Ctx) (rs : List (BitVec 7 × DWord)) : Option Exn :=
  let bad (l : Nat) : Bool := rs.any fun (r, m) => maskBit m l && maskBit (c.src r).marks l
  ((List.range 64).find? bad).map fun l =>
    { code := TrapName.poison.code, lane := l, info := c.laneProd ((rs.filter fun r => maskBit r.2 l).map (·.1)) l }

/-- Every source read in the active lanes only. -/
def activeReads (rs : List (BitVec 7)) : Ctx → List (BitVec 7 × DWord) := fun c => rs.map fun r => (r, c.mask)

/-- An operation with a vector result of latency `l`: `reads` gives the lanes that count as read, `pre` a check of its own,
`f` each lane's result and the flags it raises (R168, R171, R172). DESIGN CHOICE (log 79): the checks are made in the order POISON, role and
closed queue of bs, its own check, FP_TRAP. -/
def vecOp (l : Nat) (rs : List (BitVec 7)) (reads : Ctx → List (BitVec 7 × DWord)) (pre : Ctx → Option Exn)
    (vd : BitVec 7) (nw : Bool) (f : Ctx → Nat → Flagged Word) : Act := fun c =>
  if c.mask = 0#64 then {}
  else
    let g := f c
    let fl := allFlags c.mask fun i => (g i).2
    { trap := firstExn [c.poisonReads (reads c), c.bsChecks rs, pre c, c.fpTrap fun i => (g i).2]
      raised := fl
      fx := fun m => c.raise fl (c.sendV .vector l vd nw c.mask
        (Lanes.ofLane fun i => if maskBit c.mask i then (g i).1 else 0#32) 0#64 m) }

/-- A lane operation on one source, without flags. -/
def lane1 (l : Nat) (vd va : BitVec 7) (nw : Bool) (f : Word → Word) : Act :=
  vecOp l [va] (activeReads [va]) (fun _ => none) vd nw fun c i => (f ((c.src va).lanes.at i), 0)

/-- A lane operation on two sources, without flags. -/
def lane2 (l : Nat) (vd va vb : BitVec 7) (nw : Bool) (f : Word → Word → Word) : Act :=
  vecOp l [va, vb] (activeReads [va, vb]) (fun _ => none) vd nw fun c i =>
    (f ((c.src va).lanes.at i) ((c.src vb).lanes.at i), 0)

/-- A lane operation on one source that raises flags; `f` sees the rounding mode of c.round. -/
def lane1f (l : Nat) (vd va : BitVec 7) (nw : Bool) (f : Nat → Word → Flagged Word) : Act :=
  vecOp l [va] (activeReads [va]) (fun _ => none) vd nw fun c i => f c.w.round ((c.src va).lanes.at i)

/-- A lane operation on two sources that raises flags. -/
def lane2f (l : Nat) (vd va vb : BitVec 7) (nw : Bool) (f : Word → Word → Flagged Word) : Act :=
  vecOp l [va, vb] (activeReads [va, vb]) (fun _ => none) vd nw fun c i =>
    f ((c.src va).lanes.at i) ((c.src vb).lanes.at i)

/-- A lane operation that also reads vd (R177, R181). -/
def lane3f (l : Nat) (vd va vb : BitVec 7) (nw : Bool) (f : Word → Word → Word → Flagged Word) : Act :=
  vecOp l [vd, va, vb] (activeReads [vd, va, vb]) (fun _ => none) vd nw fun c i =>
    f ((c.src va).lanes.at i) ((c.src vb).lanes.at i) ((c.src vd).lanes.at i)

/-- An operation that combines the active lanes of va (R194). -/
def reduce (l : Nat) (vd va : BitVec 7) (nw : Bool) (f : DWord → Lanes → Nat → Flagged Word) : Act :=
  vecOp l [va] (activeReads [va]) (fun _ => none) vd nw fun c => f c.mask (c.src va).lanes

/-- An operation with a scalar result of latency `l` (R169): bit `i` for each active lane. A zero mask writes 0. -/
def maskOp (l : Nat) (sd : BitVec 6) (rs : List (BitVec 7)) (f : Ctx → Nat → Flagged Bool) : Act := fun c =>
  let g := f c
  let fl := allFlags c.mask fun i => (g i).2
  { trap := firstExn [c.poisonV rs, if c.mask = 0#64 then none else c.bsChecks rs, c.roles [] (some sd),
      c.fpTrap fun i => (g i).2]
    raised := fl
    fx := fun m => c.raise fl (c.sendS sd (maskOf fun i => maskBit c.mask i && (g i).1) false l m) }

/-- VCMP (R189). -/
def cmpOp (cc : Cc) (sd : BitVec 6) (va vb : BitVec 7) : Act :=
  maskOp 3 sd [va, vb] fun c i => (ccLane cc ((c.src va).lanes.at i) ((c.src vb).lanes.at i), 0)

/-- VFCMP (R189). -/
def fcmpOp (k : FCmp) (sd : BitVec 6) (va vb : BitVec 7) : Act :=
  maskOp 3 sd [va, vb] fun c i => fcmp k ((c.src va).lanes.at i) ((c.src vb).lanes.at i)

/-- The rounding mode a selector names (R123). -/
def rmMode (rm : Rm) (dyn : Nat) : Nat :=
  match rm with
  | .rne => 0
  | .rz => 1
  | .ru => 2
  | .rd => 3
  | .dyn => dyn

/-! ### Lane functions -/

/-- A shift by the whole of `b`; `f` shifts by less than 32 (R175). -/
def shiftBy (b : Word) (f : Nat → Word) (far : Word) : Word := if b.toNat < 32 then f b.toNat else far

/-- The number of leading zero bits below a width. -/
def clzNat (w n : Nat) : Nat := if n = 0 then w else w - 1 - n.log2
/-- The number of one bits below a width. -/
def popNat (w n : Nat) : Nat := listSum ((List.range w).map fun i => bitNat (n.testBit i))

/-- VCVT (R183). -/
def cvtLane (k : CvtKind) (mode : Nat) (a : Word) : Flagged Word :=
  let nar (n : Nat) (signed : Bool) : Flagged Word :=
    let r := satInt n signed a.toInt
    (BitVec.ofInt 32 r.1, r.2)
  match k with
  | .f2i => cvtFI 32 true mode a
  | .f2u => cvtFI 32 false mode a
  | .i2f => cvtIF mode a.toInt
  | .u2f => cvtIF mode a.toNat
  | .i16 => nar 16 true
  | .i8 => nar 8 true
  | .u16 => nar 16 false
  | .u8 => nar 8 false

/-- VPKH (R184): the half converted and put beside the other half of `d`. -/
def packHalf (fmt : HalfFmt) (high : Bool) (mode : Nat) (a d : Word) : Flagged Word :=
  let n := cvtFmt fp32 (halfFmt fmt) mode a.toNat
  let h : Word := BitVec.ofNat 32 n.1
  (if high then (h <<< 16) ||| (d &&& 0xffff#32) else (d &&& 0xffff0000#32) ||| h, n.2)

/-- VUPKH (R185). -/
def unpackHalf (fmt : HalfFmt) (high : Bool) (a : Word) : Flagged Word :=
  asWord (cvtFmt (halfFmt fmt) fp32 0 (if high then bits a 31 16 else bits a 15 0))

/-! ### Block images (R186 to R188) -/

/-- The quarter of a lane. -/
def quarterOf (l : Nat) : Nat := l / 16
/-- Whether a quarter has an active lane. -/
def quarterActive (mask : DWord) (q : Nat) : Bool := (List.range 16).any fun j => maskBit mask (16 * q + j)
/-- The 64 bytes of a quarter. -/
def quarterBytes (v : Lanes) (q : Nat) : List Byte := (List.range 16).flatMap fun j => leBytes 4 (v.at (16 * q + j))
/-- Lane `j` of an image. -/
def imageLane (bs : List Byte) (j : Nat) : Word := ofLe 32 ((bs.drop (4 * j)).take 4)

/-- A quarter packed: its image and flags (R187). -/
def packQuarter (f : BFmt) (mask : DWord) (a b : Lanes) (q : Nat) : Flagged (List Byte) :=
  let sigma := sextNat 8 (bits (b.at (16 * q)) 7 0)
  let xs := (List.range 16).map fun i => if maskBit mask (16 * q + i) then a.at (16 * q + i) else 0#32
  let r := quantise f sigma xs
  (blockOfRecord f sigma r.1, r.2)

/-- VBPACK (R187). -/
def bpackOp (f : BFmt) (vd va vb : BitVec 7) (nw : Bool) : Act :=
  vecOp 6 [va, vb] (fun c => [(va, c.mask), (vb, maskOf fun l => l % 16 = 0 && quarterActive c.mask (l / 16))])
    (fun _ => none) vd nw fun c =>
      let a := (c.src va).lanes
      let b := (c.src vb).lanes
      let qs := (List.range 4).map fun q => if quarterActive c.mask q then packQuarter f c.mask a b q else ([], 0)
      fun i =>
        let r := qs.getD (quarterOf i) ([], 0)
        (imageLane r.1 (i % 16), r.2)

/-- The header of a quarter. -/
def quarterHead (v : Lanes) (q : Nat) : BlockHead := blockHead (bits (v.at (16 * q)) 7 0) (bits (v.at (16 * q)) 15 8)

/-- The lanes of va that VBUNPK reads (R172). -/
def unpackReads (va : BitVec 7) (c : Ctx) : List (BitVec 7 × DWord) :=
  let r := c.src va
  let span (q : Nat) : Nat :=
    if maskBit r.marks (16 * q) then 0
    else match quarterHead r.lanes q with
      | .groups f _ n => if n = 0 then 0 else match f with
        | .m7 => 4
        | .m4 => 3
        | .m2 => 2
      | _ => 0
  [(va, maskOf fun l => quarterActive c.mask (l / 16) && l % 16 ≤ span (l / 16))]

/-- The lowest active lane of a quarter whose header is faulty (R133, R188). -/
def badBlock (va : BitVec 7) (c : Ctx) : Option Exn :=
  (firstLane c.mask fun l => quarterHead (c.src va).lanes (l / 16) = .bad).map fun l =>
    { code := TrapName.blockFormat.code, lane := l }

/-- One element of an unpacked quarter (R188). -/
def unpackLane (v : Lanes) (i : Nat) : Flagged Word :=
  match quarterHead v (quarterOf i) with
  | .groups f sigma n =>
    if n = 0 then (0#32, 0)
    else asWord (roundFp fp32 0 (recValue f sigma (blockRecord f (quarterBytes v (quarterOf i)) 0) (i % 16)))
  | _ => (0#32, 0)

/-! ### Lane movement and matching (R192 to R196) -/

/-- The source lane of VSHFL. -/
def shuffleFrom (b : Lanes) (i : Nat) : Nat := bits (b.at i) 5 0
/-- The source lane of VROTL. -/
def rotateFrom (b : Lanes) (i : Nat) : Nat := (i + 64 - bits (b.at 0) 5 0) % 64
/-- The mask of the lanes that active lanes take their value from. -/
def takenLanes (mask : DWord) (f : Nat → Nat) : DWord := maskOf fun j => (lanesOf mask).any fun i => f i = j

/-- The lanes that a source's lanes select; none while the source is a port's entry that is still to come (R44). -/
def Ctx.takenFrom (c : Ctx) (vb : BitVec 7) (f : Lanes → Nat → Nat) : DWord :=
  if vb = 119#7 && c.pops.any (fun p => p.port = c.b && p.value.isNone) then 0#64 else takenLanes c.mask (f (c.src vb).lanes)

/-- The sum of the active lanes below a bound. -/
def sumBelow (act : DWord) (x : Lanes) (n : Nat) : Word :=
  ((lanesOf act).filter fun j => j < n).foldl (fun s j => s + x.at j) 0#32

/-- The greatest active lane (R122, R194). -/
def maxLanes (act : DWord) (x : Lanes) : Flagged Word :=
  match lanesOf act with
  | [] => (0#32, 0)
  | j :: rest =>
    let one := x.at j
    rest.foldl (fun a j => let r := fminmax true a.1 (x.at j); (r.1, a.2 ||| r.2 ||| flagIf (f32 (x.at j)).isSnan flIV))
      (if (f32 one).isNan then BitVec.ofNat 32 fp32.nan else one, flagIf (f32 one).isSnan flIV)

/-- VPLANE (R196): record the lanes' pending planes. -/
def planeOp (va : BitVec 7) : Act := fun c =>
  let x := (c.src va).lanes
  { trap := if c.mask = 0#64 then none else firstExn [c.poisonV [va], c.bsChecks [va],
      (firstLane c.mask fun l => planeCount c.w ≤ (x.at l).toNat).map fun l =>
        { code := TrapName.planeRange.code, lane := l }]
    fx := fun m => updWarp m c.k fun w => updPath w c.path fun q =>
      let set (old : DWord) (b : Nat) : DWord :=
        maskOf fun l => if maskBit c.mask l then (x.at l).getLsbD b else maskBit old l
      { q with vp0 := set q.vp0 0, vp1 := set q.vp1 1, vpv := q.vpv ||| c.mask } }

/-! ### The meanings -/

/-- R175. -/
def actVadd (vd va vb : BitVec 7) (nw : Bool) : Act :=
  lane2 2 vd va vb nw fun a b => a + b
def execVadd (vd va vb : BitVec 7) (nw : Bool) (s : State) : Host.Outcome State Fault Refusal :=
  runOp s .v (.vadd vd va vb nw) (actVadd vd va vb nw)

/-- R175. -/
def actVsub (vd va vb : BitVec 7) (nw : Bool) : Act :=
  lane2 2 vd va vb nw fun a b => a - b
def execVsub (vd va vb : BitVec 7) (nw : Bool) (s : State) : Host.Outcome State Fault Refusal :=
  runOp s .v (.vsub vd va vb nw) (actVsub vd va vb nw)

/-- R175. -/
def actVmul (vd va vb : BitVec 7) (nw : Bool) : Act :=
  lane2 3 vd va vb nw fun a b => a * b
def execVmul (vd va vb : BitVec 7) (nw : Bool) (s : State) : Host.Outcome State Fault Refusal :=
  runOp s .v (.vmul vd va vb nw) (actVmul vd va vb nw)

/-- R175. -/
def actVmulhi (vd va vb : BitVec 7) (nw : Bool) : Act :=
  lane2 3 vd va vb nw fun a b => BitVec.ofInt 32 ((a.toInt * b.toInt).fdiv (2 ^ 32))
def execVmulhi (vd va vb : BitVec 7) (nw : Bool) (s : State) : Host.Outcome State Fault Refusal :=
  runOp s .v (.vmulhi vd va vb nw) (actVmulhi vd va vb nw)

/-- R175. -/
def actVmin (vd va vb : BitVec 7) (nw : Bool) : Act :=
  lane2 2 vd va vb nw fun a b => if a.slt b then a else b
def execVmin (vd va vb : BitVec 7) (nw : Bool) (s : State) : Host.Outcome State Fault Refusal :=
  runOp s .v (.vmin vd va vb nw) (actVmin vd va vb nw)

/-- R175. -/
def actVmax (vd va vb : BitVec 7) (nw : Bool) : Act :=
  lane2 2 vd va vb nw fun a b => if a.slt b then b else a
def execVmax (vd va vb : BitVec 7) (nw : Bool) (s : State) : Host.Outcome State Fault Refusal :=
  runOp s .v (.vmax vd va vb nw) (actVmax vd va vb nw)

/-- R175. -/
def actVminu (vd va vb : BitVec 7) (nw : Bool) : Act :=
  lane2 2 vd va vb nw fun a b => if a.ult b then a else b
def execVminu (vd va vb : BitVec 7) (nw : Bool) (s : State) : Host.Outcome State Fault Refusal :=
  runOp s .v (.vminu vd va vb nw) (actVminu vd va vb nw)

/-- R175. -/
def actVmaxu (vd va vb : BitVec 7) (nw : Bool) : Act :=
  lane2 2 vd va vb nw fun a b => if a.ult b then b else a
def execVmaxu (vd va vb : BitVec 7) (nw : Bool) (s : State) : Host.Outcome State Fault Refusal :=
  runOp s .v (.vmaxu vd va vb nw) (actVmaxu vd va vb nw)

/-- R175. -/
def actVand (vd va vb : BitVec 7) (nw : Bool) : Act :=
  lane2 2 vd va vb nw fun a b => a &&& b
def execVand (vd va vb : BitVec 7) (nw : Bool) (s : State) : Host.Outcome State Fault Refusal :=
  runOp s .v (.vand vd va vb nw) (actVand vd va vb nw)

/-- R175. -/
def actVor (vd va vb : BitVec 7) (nw : Bool) : Act :=
  lane2 2 vd va vb nw fun a b => a ||| b
def execVor (vd va vb : BitVec 7) (nw : Bool) (s : State) : Host.Outcome State Fault Refusal :=
  runOp s .v (.vor vd va vb nw) (actVor vd va vb nw)

/-- R175. -/
def actVxor (vd va vb : BitVec 7) (nw : Bool) : Act :=
  lane2 2 vd va vb nw fun a b => a ^^^ b
def execVxor (vd va vb : BitVec 7) (nw : Bool) (s : State) : Host.Outcome State Fault Refusal :=
  runOp s .v (.vxor vd va vb nw) (actVxor vd va vb nw)

/-- R175. -/
def actVandn (vd va vb : BitVec 7) (nw : Bool) : Act :=
  lane2 2 vd va vb nw fun a b => a &&& ~~~b
def execVandn (vd va vb : BitVec 7) (nw : Bool) (s : State) : Host.Outcome State Fault Refusal :=
  runOp s .v (.vandn vd va vb nw) (actVandn vd va vb nw)

/-- R175. -/
def actVshl (vd va vb : BitVec 7) (nw : Bool) : Act :=
  lane2 2 vd va vb nw fun a b => shiftBy b (fun n => a <<< n) 0#32
def execVshl (vd va vb : BitVec 7) (nw : Bool) (s : State) : Host.Outcome State Fault Refusal :=
  runOp s .v (.vshl vd va vb nw) (actVshl vd va vb nw)

/-- R175. -/
def actVshr (vd va vb : BitVec 7) (nw : Bool) : Act :=
  lane2 2 vd va vb nw fun a b => shiftBy b (fun n => a >>> n) 0#32
def execVshr (vd va vb : BitVec 7) (nw : Bool) (s : State) : Host.Outcome State Fault Refusal :=
  runOp s .v (.vshr vd va vb nw) (actVshr vd va vb nw)

/-- R175. -/
def actVsra (vd va vb : BitVec 7) (nw : Bool) : Act :=
  lane2 2 vd va vb nw fun a b => shiftBy b (fun n => a.sshiftRight n) (if a.getLsbD 31 then 0xffffffff#32 else 0#32)
def execVsra (vd va vb : BitVec 7) (nw : Bool) (s : State) : Host.Outcome State Fault Refusal :=
  runOp s .v (.vsra vd va vb nw) (actVsra vd va vb nw)

/-- R176. -/
def actVclz (vd va : BitVec 7) (nw : Bool) : Act :=
  lane1 2 vd va nw fun a => BitVec.ofNat 32 (clzNat 32 a.toNat)
def execVclz (vd va : BitVec 7) (nw : Bool) (s : State) : Host.Outcome State Fault Refusal :=
  runOp s .v (.vclz vd va nw) (actVclz vd va nw)

/-- R176. -/
def actVpopc (vd va : BitVec 7) (nw : Bool) : Act :=
  lane1 2 vd va nw fun a => BitVec.ofNat 32 (popNat 32 a.toNat)
def execVpopc (vd va : BitVec 7) (nw : Bool) (s : State) : Host.Outcome State Fault Refusal :=
  runOp s .v (.vpopc vd va nw) (actVpopc vd va nw)

/-- R177. -/
def actVsel (vd va vb : BitVec 7) (nw : Bool) : Act :=
  lane3f 2 vd va vb nw fun a b d => (if d != 0#32 then a else b, 0)
def execVsel (vd va vb : BitVec 7) (nw : Bool) (s : State) : Host.Outcome State Fault Refusal :=
  runOp s .v (.vsel vd va vb nw) (actVsel vd va vb nw)

/-- R178. -/
def actVmov (vd va : BitVec 7) (nw : Bool) : Act :=
  lane1 2 vd va nw fun a => a
def execVmov (vd va : BitVec 7) (nw : Bool) (s : State) : Host.Outcome State Fault Refusal :=
  runOp s .v (.vmov vd va nw) (actVmov vd va nw)

/-- R179. -/
def actVmovi (vd : BitVec 7) (imm : BitVec 14) (nw : Bool) : Act :=
  vecOp 2 [] (fun _ => []) (fun _ => none) vd nw fun _ _ => (imm.signExtend 32, 0)
def execVmovi (vd : BitVec 7) (imm : BitVec 14) (nw : Bool) (s : State) : Host.Outcome State Fault Refusal :=
  runOp s .v (.vmovi vd imm nw) (actVmovi vd imm nw)

/-- R180. -/
def actViota (vd : BitVec 7) (nw : Bool) : Act :=
  vecOp 2 [] (fun _ => []) (fun _ => none) vd nw fun _ i => (BitVec.ofNat 32 i, 0)
def execViota (vd : BitVec 7) (nw : Bool) (s : State) : Host.Outcome State Fault Refusal :=
  runOp s .v (.viota vd nw) (actViota vd nw)

/-- R181. -/
def actVfadd (vd va vb : BitVec 7) (nw : Bool) : Act :=
  lane2f 4 vd va vb nw fadd32
def execVfadd (vd va vb : BitVec 7) (nw : Bool) (s : State) : Host.Outcome State Fault Refusal :=
  runOp s .v (.vfadd vd va vb nw) (actVfadd vd va vb nw)

/-- R181. -/
def actVfsub (vd va vb : BitVec 7) (nw : Bool) : Act :=
  lane2f 4 vd va vb nw fsub32
def execVfsub (vd va vb : BitVec 7) (nw : Bool) (s : State) : Host.Outcome State Fault Refusal :=
  runOp s .v (.vfsub vd va vb nw) (actVfsub vd va vb nw)

/-- R181. -/
def actVfmul (vd va vb : BitVec 7) (nw : Bool) : Act :=
  lane2f 4 vd va vb nw fmul32
def execVfmul (vd va vb : BitVec 7) (nw : Bool) (s : State) : Host.Outcome State Fault Refusal :=
  runOp s .v (.vfmul vd va vb nw) (actVfmul vd va vb nw)

/-- R181. -/
def actVfma (vd va vb : BitVec 7) (nw : Bool) : Act :=
  lane3f 4 vd va vb nw ffma32
def execVfma (vd va vb : BitVec 7) (nw : Bool) (s : State) : Host.Outcome State Fault Refusal :=
  runOp s .v (.vfma vd va vb nw) (actVfma vd va vb nw)

/-- R181. -/
def actVfms (vd va vb : BitVec 7) (nw : Bool) : Act :=
  lane3f 4 vd va vb nw ffms32
def execVfms (vd va vb : BitVec 7) (nw : Bool) (s : State) : Host.Outcome State Fault Refusal :=
  runOp s .v (.vfms vd va vb nw) (actVfms vd va vb nw)

/-- R122, R181. -/
def actVfmin (vd va vb : BitVec 7) (nw : Bool) : Act :=
  lane2f 4 vd va vb nw (fminmax false)
def execVfmin (vd va vb : BitVec 7) (nw : Bool) (s : State) : Host.Outcome State Fault Refusal :=
  runOp s .v (.vfmin vd va vb nw) (actVfmin vd va vb nw)

/-- R122, R181. -/
def actVfmax (vd va vb : BitVec 7) (nw : Bool) : Act :=
  lane2f 4 vd va vb nw (fminmax true)
def execVfmax (vd va vb : BitVec 7) (nw : Bool) (s : State) : Host.Outcome State Fault Refusal :=
  runOp s .v (.vfmax vd va vb nw) (actVfmax vd va vb nw)

/-- R181. -/
def actVfabs (vd va : BitVec 7) (nw : Bool) : Act :=
  lane1f 2 vd va nw fun _ a => fsign (fun x => x &&& 0x7fffffff#32) a
def execVfabs (vd va : BitVec 7) (nw : Bool) (s : State) : Host.Outcome State Fault Refusal :=
  runOp s .v (.vfabs vd va nw) (actVfabs vd va nw)

/-- R181. -/
def actVfneg (vd va : BitVec 7) (nw : Bool) : Act :=
  lane1f 2 vd va nw fun _ a => fsign (fun x => x ^^^ 0x80000000#32) a
def execVfneg (vd va : BitVec 7) (nw : Bool) (s : State) : Host.Outcome State Fault Refusal :=
  runOp s .v (.vfneg vd va nw) (actVfneg vd va nw)

/-- R181. -/
def actVfdiv (vd va vb : BitVec 7) (nw : Bool) : Act :=
  lane2f 12 vd va vb nw fdiv32
def execVfdiv (vd va vb : BitVec 7) (nw : Bool) (s : State) : Host.Outcome State Fault Refusal :=
  runOp s .v (.vfdiv vd va vb nw) (actVfdiv vd va vb nw)

/-- R122, R181. -/
def actVfsqrt (vd va : BitVec 7) (nw : Bool) : Act :=
  lane1f 12 vd va nw fun _ a => fsqrt32 a
def execVfsqrt (vd va : BitVec 7) (nw : Bool) (s : State) : Host.Outcome State Fault Refusal :=
  runOp s .v (.vfsqrt vd va nw) (actVfsqrt vd va nw)

/-- R122, R181. -/
def actVfexp2 (vd va : BitVec 7) (nw : Bool) : Act :=
  lane1f 12 vd va nw fun _ a => fexp2 a
def execVfexp2 (vd va : BitVec 7) (nw : Bool) (s : State) : Host.Outcome State Fault Refusal :=
  runOp s .v (.vfexp2 vd va nw) (actVfexp2 vd va nw)

/-- R122, R181. -/
def actVflog2 (vd va : BitVec 7) (nw : Bool) : Act :=
  lane1f 12 vd va nw fun _ a => flog2 a
def execVflog2 (vd va : BitVec 7) (nw : Bool) (s : State) : Host.Outcome State Fault Refusal :=
  runOp s .v (.vflog2 vd va nw) (actVflog2 vd va nw)

/-- R182. -/
def actVfrnd (vd va : BitVec 7) (rm : Rm) (nw : Bool) : Act :=
  lane1f 4 vd va nw fun dyn a => frnd (rmMode rm dyn) a
def execVfrnd (vd va : BitVec 7) (rm : Rm) (nw : Bool) (s : State) : Host.Outcome State Fault Refusal :=
  runOp s .v (.vfrnd vd va rm nw) (actVfrnd vd va rm nw)

/-- R183. -/
def actVcvt (vd va : BitVec 7) (rm : Rm) (kind : CvtKind) (nw : Bool) : Act :=
  lane1f 4 vd va nw fun dyn a => cvtLane kind (rmMode rm dyn) a
def execVcvt (vd va : BitVec 7) (rm : Rm) (kind : CvtKind) (nw : Bool) (s : State) : Host.Outcome State Fault Refusal :=
  runOp s .v (.vcvt vd va rm kind nw) (actVcvt vd va rm kind nw)

/-- R184. -/
def actVpkh (vd va : BitVec 7) (rm : Rm) (fmt : HalfFmt) (high : Bool) (nw : Bool) : Act :=
  vecOp 4 [vd, va] (activeReads [vd, va]) (fun _ => none) vd nw fun c i =>
    packHalf fmt high (rmMode rm c.w.round) ((c.src va).lanes.at i) ((c.src vd).lanes.at i)
def execVpkh (vd va : BitVec 7) (rm : Rm) (fmt : HalfFmt) (high : Bool) (nw : Bool) (s : State) : Host.Outcome State Fault Refusal :=
  runOp s .v (.vpkh vd va rm fmt high nw) (actVpkh vd va rm fmt high nw)

/-- R185. -/
def actVupkh (vd va : BitVec 7) (fmt : HalfFmt) (high : Bool) (nw : Bool) : Act :=
  lane1f 4 vd va nw fun _ a => unpackHalf fmt high a
def execVupkh (vd va : BitVec 7) (fmt : HalfFmt) (high : Bool) (nw : Bool) (s : State) : Host.Outcome State Fault Refusal :=
  runOp s .v (.vupkh vd va fmt high nw) (actVupkh vd va fmt high nw)

/-- R187. -/
def actVbpackM7 (vd va vb : BitVec 7) (nw : Bool) : Act :=
  bpackOp .m7 vd va vb nw
def execVbpackM7 (vd va vb : BitVec 7) (nw : Bool) (s : State) : Host.Outcome State Fault Refusal :=
  runOp s .v (.vbpackM7 vd va vb nw) (actVbpackM7 vd va vb nw)

/-- R187. -/
def actVbpackM4 (vd va vb : BitVec 7) (nw : Bool) : Act :=
  bpackOp .m4 vd va vb nw
def execVbpackM4 (vd va vb : BitVec 7) (nw : Bool) (s : State) : Host.Outcome State Fault Refusal :=
  runOp s .v (.vbpackM4 vd va vb nw) (actVbpackM4 vd va vb nw)

/-- R187. -/
def actVbpackM2 (vd va vb : BitVec 7) (nw : Bool) : Act :=
  bpackOp .m2 vd va vb nw
def execVbpackM2 (vd va vb : BitVec 7) (nw : Bool) (s : State) : Host.Outcome State Fault Refusal :=
  runOp s .v (.vbpackM2 vd va vb nw) (actVbpackM2 vd va vb nw)

/-- R188. -/
def actVbunpk (vd va : BitVec 7) (nw : Bool) : Act :=
  vecOp 4 [va] (unpackReads va) (badBlock va) vd nw fun c i => unpackLane (c.src va).lanes i
def execVbunpk (vd va : BitVec 7) (nw : Bool) (s : State) : Host.Outcome State Fault Refusal :=
  runOp s .v (.vbunpk vd va nw) (actVbunpk vd va nw)

/-- R189. -/
def actVcmpEq (sd : BitVec 6) (va vb : BitVec 7) : Act :=
  cmpOp .eq sd va vb
def execVcmpEq (sd : BitVec 6) (va vb : BitVec 7) (s : State) : Host.Outcome State Fault Refusal :=
  runOp s .v (.vcmpEq sd va vb) (actVcmpEq sd va vb)

/-- R189. -/
def actVcmpNe (sd : BitVec 6) (va vb : BitVec 7) : Act :=
  cmpOp .ne sd va vb
def execVcmpNe (sd : BitVec 6) (va vb : BitVec 7) (s : State) : Host.Outcome State Fault Refusal :=
  runOp s .v (.vcmpNe sd va vb) (actVcmpNe sd va vb)

/-- R189. -/
def actVcmpLt (sd : BitVec 6) (va vb : BitVec 7) : Act :=
  cmpOp .lt sd va vb
def execVcmpLt (sd : BitVec 6) (va vb : BitVec 7) (s : State) : Host.Outcome State Fault Refusal :=
  runOp s .v (.vcmpLt sd va vb) (actVcmpLt sd va vb)

/-- R189. -/
def actVcmpLe (sd : BitVec 6) (va vb : BitVec 7) : Act :=
  cmpOp .le sd va vb
def execVcmpLe (sd : BitVec 6) (va vb : BitVec 7) (s : State) : Host.Outcome State Fault Refusal :=
  runOp s .v (.vcmpLe sd va vb) (actVcmpLe sd va vb)

/-- R189. -/
def actVcmpLtu (sd : BitVec 6) (va vb : BitVec 7) : Act :=
  cmpOp .ltu sd va vb
def execVcmpLtu (sd : BitVec 6) (va vb : BitVec 7) (s : State) : Host.Outcome State Fault Refusal :=
  runOp s .v (.vcmpLtu sd va vb) (actVcmpLtu sd va vb)

/-- R189. -/
def actVcmpLeu (sd : BitVec 6) (va vb : BitVec 7) : Act :=
  cmpOp .leu sd va vb
def execVcmpLeu (sd : BitVec 6) (va vb : BitVec 7) (s : State) : Host.Outcome State Fault Refusal :=
  runOp s .v (.vcmpLeu sd va vb) (actVcmpLeu sd va vb)

/-- R189. -/
def actVfcmpEq (sd : BitVec 6) (va vb : BitVec 7) : Act :=
  fcmpOp .eq sd va vb
def execVfcmpEq (sd : BitVec 6) (va vb : BitVec 7) (s : State) : Host.Outcome State Fault Refusal :=
  runOp s .v (.vfcmpEq sd va vb) (actVfcmpEq sd va vb)

/-- R189. -/
def actVfcmpNe (sd : BitVec 6) (va vb : BitVec 7) : Act :=
  fcmpOp .ne sd va vb
def execVfcmpNe (sd : BitVec 6) (va vb : BitVec 7) (s : State) : Host.Outcome State Fault Refusal :=
  runOp s .v (.vfcmpNe sd va vb) (actVfcmpNe sd va vb)

/-- R189. -/
def actVfcmpLt (sd : BitVec 6) (va vb : BitVec 7) : Act :=
  fcmpOp .lt sd va vb
def execVfcmpLt (sd : BitVec 6) (va vb : BitVec 7) (s : State) : Host.Outcome State Fault Refusal :=
  runOp s .v (.vfcmpLt sd va vb) (actVfcmpLt sd va vb)

/-- R189. -/
def actVfcmpLe (sd : BitVec 6) (va vb : BitVec 7) : Act :=
  fcmpOp .le sd va vb
def execVfcmpLe (sd : BitVec 6) (va vb : BitVec 7) (s : State) : Host.Outcome State Fault Refusal :=
  runOp s .v (.vfcmpLe sd va vb) (actVfcmpLe sd va vb)

/-- R189. -/
def actVfcmpUn (sd : BitVec 6) (va vb : BitVec 7) : Act :=
  fcmpOp .un sd va vb
def execVfcmpUn (sd : BitVec 6) (va vb : BitVec 7) (s : State) : Host.Outcome State Fault Refusal :=
  runOp s .v (.vfcmpUn sd va vb) (actVfcmpUn sd va vb)

/-- R190. -/
def actVfkey (vd va : BitVec 7) (nw : Bool) : Act :=
  lane1 2 vd va nw fkey
def execVfkey (vd va : BitVec 7) (nw : Bool) (s : State) : Host.Outcome State Fault Refusal :=
  runOp s .v (.vfkey vd va nw) (actVfkey vd va nw)

/-- R191. -/
def actVrng (vd va vb : BitVec 7) (nw : Bool) : Act :=
  lane2 6 vd va vb nw rng
def execVrng (vd va vb : BitVec 7) (nw : Bool) (s : State) : Host.Outcome State Fault Refusal :=
  runOp s .v (.vrng vd va vb nw) (actVrng vd va vb nw)

/-- R192. -/
def actVshfl (vd va vb : BitVec 7) (nw : Bool) : Act :=
  vecOp 3 [va, vb] (fun c => [(va, c.takenFrom vb shuffleFrom), (vb, c.mask)]) (fun _ => none)
    vd nw fun c i => ((c.src va).lanes.at (shuffleFrom (c.src vb).lanes i), 0)
def execVshfl (vd va vb : BitVec 7) (nw : Bool) (s : State) : Host.Outcome State Fault Refusal :=
  runOp s .v (.vshfl vd va vb nw) (actVshfl vd va vb nw)

/-- R193. -/
def actVrotl (vd va vb : BitVec 7) (nw : Bool) : Act :=
  vecOp 3 [va, vb] (fun c => [(va, c.takenFrom vb rotateFrom), (vb, 1#64)]) (fun _ => none)
    vd nw fun c i => ((c.src va).lanes.at (rotateFrom (c.src vb).lanes i), 0)
def execVrotl (vd va vb : BitVec 7) (nw : Bool) (s : State) : Host.Outcome State Fault Refusal :=
  runOp s .v (.vrotl vd va vb nw) (actVrotl vd va vb nw)

/-- R194. -/
def actVredadd (vd va : BitVec 7) (nw : Bool) : Act :=
  reduce 6 vd va nw fun act x _ => (sumBelow act x 64, 0)
def execVredadd (vd va : BitVec 7) (nw : Bool) (s : State) : Host.Outcome State Fault Refusal :=
  runOp s .v (.vredadd vd va nw) (actVredadd vd va nw)

/-- R128, R194. -/
def actVredfadd (vd va : BitVec 7) (nw : Bool) : Act :=
  reduce 8 vd va nw fun act x => let t := treeFadd act x; fun _ => t
def execVredfadd (vd va : BitVec 7) (nw : Bool) (s : State) : Host.Outcome State Fault Refusal :=
  runOp s .v (.vredfadd vd va nw) (actVredfadd vd va nw)

/-- R194. -/
def actVredmax (vd va : BitVec 7) (nw : Bool) : Act :=
  reduce 6 vd va nw fun act x => let t := maxLanes act x; fun _ => t
def execVredmax (vd va : BitVec 7) (nw : Bool) (s : State) : Host.Outcome State Fault Refusal :=
  runOp s .v (.vredmax vd va nw) (actVredmax vd va nw)

/-- R194. -/
def actVscan (vd va : BitVec 7) (nw : Bool) : Act :=
  reduce 6 vd va nw fun act x i => (sumBelow act x (i + 1), 0)
def execVscan (vd va : BitVec 7) (nw : Bool) (s : State) : Host.Outcome State Fault Refusal :=
  runOp s .v (.vscan vd va nw) (actVscan vd va nw)

/-- R129, R194. -/
def actVfscan (vd va : BitVec 7) (nw : Bool) : Act :=
  reduce 8 vd va nw fun act x => let t := scanFadd act x; fun i => t.getD i (0#32, 0)
def execVfscan (vd va : BitVec 7) (nw : Bool) (s : State) : Host.Outcome State Fault Refusal :=
  runOp s .v (.vfscan vd va nw) (actVfscan vd va nw)

/-- R195. -/
def actVmatch (sd : BitVec 6) (va vb : BitVec 7) : Act :=
  maskOp 4 sd [va, vb] fun c i =>
    ((lanesOf c.mask).any fun j => (c.src va).lanes.at i = (c.src vb).lanes.at j, 0)
def execVmatch (sd : BitVec 6) (va vb : BitVec 7) (s : State) : Host.Outcome State Fault Refusal :=
  runOp s .v (.vmatch sd va vb) (actVmatch sd va vb)

/-- R196. -/
def actVplane (va : BitVec 7) : Act :=
  planeOp va
def execVplane (va : BitVec 7) (s : State) : Host.Outcome State Fault Refusal :=
  runOp s .v (.vplane va) (actVplane va)

end Sys2Proof.Machine
end

