-- ==== Sys2Proof/Machine/Meanings.lean ====
section
/-!
DEFINITION. The meaning that each operation has inside a bundle. An event stands in no bundle.
-/

namespace Sys2Proof.Machine

/-- What an operation of a bundle does when its bundle is examined. -/
def actionOf (i : Instr) : Act :=
  match i with
  | .vadd vd va vb nw => actVadd vd va vb nw
  | .vsub vd va vb nw => actVsub vd va vb nw
  | .vmul vd va vb nw => actVmul vd va vb nw
  | .vmulhi vd va vb nw => actVmulhi vd va vb nw
  | .vmin vd va vb nw => actVmin vd va vb nw
  | .vmax vd va vb nw => actVmax vd va vb nw
  | .vminu vd va vb nw => actVminu vd va vb nw
  | .vmaxu vd va vb nw => actVmaxu vd va vb nw
  | .vand vd va vb nw => actVand vd va vb nw
  | .vor vd va vb nw => actVor vd va vb nw
  | .vxor vd va vb nw => actVxor vd va vb nw
  | .vandn vd va vb nw => actVandn vd va vb nw
  | .vshl vd va vb nw => actVshl vd va vb nw
  | .vshr vd va vb nw => actVshr vd va vb nw
  | .vsra vd va vb nw => actVsra vd va vb nw
  | .vclz vd va nw => actVclz vd va nw
  | .vpopc vd va nw => actVpopc vd va nw
  | .vsel vd va vb nw => actVsel vd va vb nw
  | .vmov vd va nw => actVmov vd va nw
  | .vmovi vd imm nw => actVmovi vd imm nw
  | .viota vd nw => actViota vd nw
  | .vfadd vd va vb nw => actVfadd vd va vb nw
  | .vfsub vd va vb nw => actVfsub vd va vb nw
  | .vfmul vd va vb nw => actVfmul vd va vb nw
  | .vfma vd va vb nw => actVfma vd va vb nw
  | .vfms vd va vb nw => actVfms vd va vb nw
  | .vfmin vd va vb nw => actVfmin vd va vb nw
  | .vfmax vd va vb nw => actVfmax vd va vb nw
  | .vfabs vd va nw => actVfabs vd va nw
  | .vfneg vd va nw => actVfneg vd va nw
  | .vfdiv vd va vb nw => actVfdiv vd va vb nw
  | .vfsqrt vd va nw => actVfsqrt vd va nw
  | .vfexp2 vd va nw => actVfexp2 vd va nw
  | .vflog2 vd va nw => actVflog2 vd va nw
  | .vfrnd vd va rm nw => actVfrnd vd va rm nw
  | .vcvt vd va rm kind nw => actVcvt vd va rm kind nw
  | .vpkh vd va rm fmt high nw => actVpkh vd va rm fmt high nw
  | .vupkh vd va fmt high nw => actVupkh vd va fmt high nw
  | .vbpackM7 vd va vb nw => actVbpackM7 vd va vb nw
  | .vbpackM4 vd va vb nw => actVbpackM4 vd va vb nw
  | .vbpackM2 vd va vb nw => actVbpackM2 vd va vb nw
  | .vbunpk vd va nw => actVbunpk vd va nw
  | .vcmpEq sd va vb => actVcmpEq sd va vb
  | .vcmpNe sd va vb => actVcmpNe sd va vb
  | .vcmpLt sd va vb => actVcmpLt sd va vb
  | .vcmpLe sd va vb => actVcmpLe sd va vb
  | .vcmpLtu sd va vb => actVcmpLtu sd va vb
  | .vcmpLeu sd va vb => actVcmpLeu sd va vb
  | .vfcmpEq sd va vb => actVfcmpEq sd va vb
  | .vfcmpNe sd va vb => actVfcmpNe sd va vb
  | .vfcmpLt sd va vb => actVfcmpLt sd va vb
  | .vfcmpLe sd va vb => actVfcmpLe sd va vb
  | .vfcmpUn sd va vb => actVfcmpUn sd va vb
  | .vfkey vd va nw => actVfkey vd va nw
  | .vrng vd va vb nw => actVrng vd va vb nw
  | .vshfl vd va vb nw => actVshfl vd va vb nw
  | .vrotl vd va vb nw => actVrotl vd va vb nw
  | .vredadd vd va nw => actVredadd vd va nw
  | .vredfadd vd va nw => actVredfadd vd va nw
  | .vredmax vd va nw => actVredmax vd va nw
  | .vscan vd va nw => actVscan vd va nw
  | .vfscan vd va nw => actVfscan vd va nw
  | .vmatch sd va vb => actVmatch sd va vb
  | .vplane va => actVplane va
  | .ldv vt sa wd ofs f => actLdv vt sa wd ofs f
  | .stv vt sa wd ofs f => actStv vt sa wd ofs f
  | .ldg vt vx sa f => actLdg vt vx sa f
  | .stg vt vx sa f => actStg vt vx sa f
  | .lds st sa wd disp f => actLds st sa wd disp f
  | .ldsAcq st sa sc wd disp f => actLdsAcq st sa sc wd disp f
  | .sts st sa wd disp f => actSts st sa wd disp f
  | .stsRel st sa sc wd disp f => actStsRel st sa sc wd disp f
  | .spld vt vx sa => actSpld vt vx sa
  | .spst vt vx sa => actSpst vt vx sa
  | .splds st sa wd disp => actSplds st sa wd disp
  | .spsts st sa wd disp => actSpsts st sa wd disp
  | .tld vt tile rg => actTld vt tile rg
  | .atomvAdd vt vx sa f => actAtomvAdd vt vx sa f
  | .atomvAnd vt vx sa f => actAtomvAnd vt vx sa f
  | .atomvOr vt vx sa f => actAtomvOr vt vx sa f
  | .atomvXor vt vx sa f => actAtomvXor vt vx sa f
  | .atomvMin vt vx sa f => actAtomvMin vt vx sa f
  | .atomvMax vt vx sa f => actAtomvMax vt vx sa f
  | .atomvMinu vt vx sa f => actAtomvMinu vt vx sa f
  | .atomvMaxu vt vx sa f => actAtomvMaxu vt vx sa f
  | .atomsAdd st sa sv sc f => actAtomsAdd st sa sv sc f
  | .atomsAnd st sa sv sc f => actAtomsAnd st sa sv sc f
  | .atomsOr st sa sv sc f => actAtomsOr st sa sv sc f
  | .atomsXor st sa sv sc f => actAtomsXor st sa sv sc f
  | .atomsMin st sa sv sc f => actAtomsMin st sa sv sc f
  | .atomsMax st sa sv sc f => actAtomsMax st sa sv sc f
  | .atomsMinu st sa sv sc f => actAtomsMinu st sa sv sc f
  | .atomsMaxu st sa sv sc f => actAtomsMaxu st sa sv sc f
  | .casv vt vx sa f => actCasv vt vx sa f
  | .cass st sa sv sc f => actCass st sa sv sc f
  | .daccv op vt vx sa => actDaccv op vt vx sa
  | .daccs op sa sv => actDaccs op sa sv
  | .flush sc f => actFlush sc f
  | .fence kind sc => actFence kind sc
  | .pref sa disp => actPref sa disp
  | .vspill vt sa ofs f => actVspill vt sa ofs f
  | .vfill vt sa ofs f => actVfill vt sa ofs f
  | .cpy ord dst src desc f => actCpy ord dst src desc f
  | .cpyin ord dst src desc f => actCpyin ord dst src desc f
  | .cpyout ord dst src desc f => actCpyout ord dst src desc f
  | .cpyr ord dst src desc f => actCpyr ord dst src desc f
  | .cpym ord dst src desc f => actCpym ord dst src desc f
  | .cpyat ord dst src desc f => actCpyat ord dst src desc f
  | .cpyz ord dst desc f => actCpyz ord dst desc f
  | .tdef tile s => actTdef tile s
  | .tfree tile => actTfree tile
  | .tstat tile s => actTstat tile s
  | .mres f => actMres f
  | .chb acc anchor => actChb acc anchor
  | .mstep ta tb k => actMstep ta tb k
  | .mstepG ta tb k => actMstepG ta tb k
  | .che acc f => actChe acc f
  | .cheG acc f => actCheG acc f
  | .mpop vd => actMpop vd
  | .mdep tile acc f => actMdep tile acc f
  | .gang n skew => actGang n skew
  | .xsv vd sa lane => actXsv vd sa lane
  | .xvs sd va lane => actXvs sd va lane
  | .qbind q queue role => actQbind q queue role
  | .qunbind q => actQunbind q
  | .qstat sd queue => actQstat sd queue
  | .barr bar wait f => actBarr bar wait f
  | .tpost sa f => actTpost sa f
  | .evset ev => actEvset ev
  | .limm imm => actLimm imm
  | .add sd sa sb => actAdd sd sa sb
  | .addi sd sa imm => actAddi sd sa imm
  | .sub sd sa sb => actSub sd sa sb
  | .mul sd sa sb => actMul sd sa sb
  | .mulhi sd sa sb => actMulhi sd sa sb
  | .mulhu sd sa sb => actMulhu sd sa sb
  | .div sd sa sb => actDiv sd sa sb
  | .divu sd sa sb => actDivu sd sa sb
  | .rem sd sa sb => actRem sd sa sb
  | .remu sd sa sb => actRemu sd sa sb
  | .and sd sa sb => actAnd sd sa sb
  | .andi sd sa imm => actAndi sd sa imm
  | .or sd sa sb => actOr sd sa sb
  | .ori sd sa imm => actOri sd sa imm
  | .xor sd sa sb => actXor sd sa sb
  | .xori sd sa imm => actXori sd sa imm
  | .shl sd sa sb => actShl sd sa sb
  | .shli sd sa imm => actShli sd sa imm
  | .shr sd sa sb => actShr sd sa sb
  | .shri sd sa imm => actShri sd sa imm
  | .sra sd sa sb => actSra sd sa sb
  | .srai sd sa imm => actSrai sd sa imm
  | .clz sd sa => actClz sd sa
  | .ctz sd sa => actCtz sd sa
  | .popc sd sa => actPopc sd sa
  | .sel sd sa sb => actSel sd sa sb
  | .movi sd imm => actMovi sd imm
  | .movhi sd imm => actMovhi sd imm
  | .cmp cc sd sa sb => actCmp cc sd sa sb
  | .cmpi cc sd sa imm => actCmpi cc sd sa imm
  | .br inv sa disp => actBr inv sa disp
  | .brf inv f disp => actBrf inv f disp
  | .jmp disp => actJmp disp
  | .call disp => actCall disp
  | .callr sa => actCallr sa
  | .brd sc tdisp jdisp => actBrd sc tdisp jdisp
  | .bprep tb disp => actBprep tb disp
  | .bgo tb inv sa => actBgo tb inv sa
  | .penter pl len => actPenter pl len
  | .fwait flags => actFwait flags
  | .fclr flags => actFclr flags
  | .setx sa => actSetx sa
  | .crd sd creg => actCrd sd creg
  | .cwr creg sa => actCwr creg sa
  | .crdEnergyLo sd => actCrdEnergyLo sd
  | .cwrWtimer sa => actCwrWtimer sa
  | .cwrGdead sa => actCwrGdead sa
  | .trap imm => actTrap imm
  | .brk imm => actBrk imm
  | .trmark imm => actTrmark imm
  | .sprint nt sd sa f => actSprint nt sd sa f
  | .rgrow sd => actRgrow sd
  | .timer sa => actTimer sa
  | .nop => actNop
  | .mrel => actMrel
  | .ungang => actUngang
  | .ret => actRet
  | .join => actJoin
  | .pexit => actPexit
  | .eret => actEret
  | .sprel => actSprel
  | .rshrink => actRshrink
  | .yield => actYield
  | .endWarp => actEndWarp
  | .warpSelect .. | .blockEnd .. | .gangRendezvous .. | .loadComplete .. | .storeAck .. | .atomicComplete .. |
    .flushEpisodeApply .. | .copyStart .. | .cpyatLaunch .. | .copyComplete .. | .copyFault .. | .mrtGrant .. |
    .matrixReadBeat .. | .chainClose .. | .mdepComplete .. | .barrierPhaseComplete .. | .nodeCreate .. |
    .nodeDispatch .. | .preemptionDecision .. | .drainRedecide .. | .taskComplete .. | .taskKill .. |
    .translationWalk .. | .trapDelivery .. | .asyncFaultDelivery .. | .pumalTrapService .. | .firstTouchService .. |
    .preempt .. | .contextSave .. | .saveDeadline .. | .taskRestore .. | .warpTimer .. | .deadline .. |
    .leaseExpired .. | .watchdog .. | .growRelease .. | .growDeadlock .. | .remoteFail .. | .ualinkPortFail .. |
    .debugCont .. | .debugDump .. | .debugStop .. | .stallSample .. | .tlbiContext .. | .tlbiRange .. |
    .registerWrite .. | .clamp .. | .unclamp .. | .gbStep .. | .gbHourlyFall .. | .unassignedOpcode .. |
    .contextSwitchIn .. | .ballastPreRamp .. | .sprintGrant | .bulkWrite | .openSession | .closeSession | .jread |
    .ctxCreate | .ctxDestroy | .window | .commit | .read | .post | .evsetMessage | .evclr | .kill | .query |
    .readHealthLog | .readWearRecord | .tlbiAll | .heatStoreUpdate | .thermistorCorrection | .energyEstimate |
    .energyScale | .supplyLossWarning | .supplyReturn | .deviceReset | .coolantChange | .monitorRead |
    .wearDailyAppend | .patrolScrub | .ptpSync | .ptpFollowUp | .ptpDelayResp | .ptpAnnounce | .ptpHoldover |
    .unlistedMessageKind | .otherTraffic | .ptpDelayReq | .hostSecretInstall | .incomingRemoteAccess |
    .registerUncorrectableError | .frameBoundary | .shutdown => nopAct

end Sys2Proof.Machine
end

