-- ==== Sys2Proof/Machine/Sched.lean ====
section
/-!
DEFINITION. Events of scheduling and of external traps: warp selection, the end of a block, gangs and barriers, the grow
rules, timers, the watchdog, delivery at a boundary, the unassigned opcode (R15 to R19, R39, R46, R47, R71, R158, R254,
R294, R298, R348 to R360, R367). An event that is not due changes nothing.
-/

namespace Sys2Proof.Machine

/-- An event whose effect is a change of the machine. -/
def onMach (s : State) (f : Dev → Mach → Mach) : Host.Outcome State Fault Refusal :=
  .next { s with mach := f s.dev s.mach }

/-! ### Selection (R15, R17, R42) -/

/-- A warp that nothing of its own holds back. -/
def warpReady (w : Warp) : Bool := stepsItself w && w.block.isNone

/-- The members that a gang still has. -/
def gangMates (m : Mach) (w : Warp) : List Nat :=
  match w.gang.bind fun g => mapGet? m.gangs g with
  | some g => (g.members.zip (List.range g.members.length)).filterMap fun (k, i) => if g.left.contains i then none else some k
  | none => []

/-- A member that runs in its gang is frozen while another member is blocked, trapped or stopped (R42); one in its own handler is not. -/
def gangFrozen (m : Mach) (w : Warp) : Bool :=
  w.trapped = .running && (gangMates m w).any fun k =>
    (getWarp? m k).elim false fun v => v.gidx != w.gidx && !(warpReady v && v.trapped = .running)

/-- A gang member that nothing but a mate's wait for the matrix step queue freezes (R241, R242). -/
def stepqFrozen (m : Mach) (w : Warp) : Bool :=
  (gangMates m w).all fun k => (getWarp? m k).elim true fun v =>
    v.gidx = w.gidx || (v.trapped = .running && v.stopped.isNone && v.block.elim true fun b => b.cause = Cause.stepq)

/-- A selected gang member whose gang has not come together again: the core of some mate has yet to select it (R42). -/
def gangHolds (m : Mach) (k : Nat) (w : Warp) : Bool :=
  w.trapped = .running && (getCore m (coreOf k)).selected = some k &&
    (gangMates m w).any fun j => (getCore m (coreOf j)).selected != some j

/-- A warp that stands at a boundary, not inside a bundle's span: a gang member that another freezes stands there in a gap too (R348). -/
def standsAtBoundary (m : Mach) (w : Warp) : Bool := !(dueStreams m w).isEmpty || gangFrozen m w

/-- A warp that its core may select. -/
def canIssue (m : Mach) (w : Warp) : Bool := warpReady w && (w.trapped != .running || !gangFrozen m w)

/-- The selected warp stays selected: it can issue, or it holds an open matrix pass in a block (R15, R16). -/
def keepsSelection (m : Mach) (k : Nat) : Bool :=
  (getWarp? m k).elim false fun w => canIssue m w || (w.block.isSome && (openChain m k).isSome)

/-- The resident warps of a core. -/
def coreWarps (m : Mach) (core : Nat) : List (Nat × Warp) := m.warps.filter fun (k, _) => coreOf k = core

/-- The ready warp whose block began first (R17). DESIGN CHOICE (log 91): a warp without a block of its own, fresh or frozen in its gang, is
ranked by its dispatch or by the block before. -/
def oldestReady (m : Mach) (core : Nat) : Option Nat :=
  (listBest (fun a b => a.2.ready < b.2.ready) ((coreWarps m core).filter fun (_, w) => canIssue m w)).map (·.1)

/-- Whether a core has to select. -/
def needsSelect (m : Mach) (core : Nat) : Bool := !((getCore m core).selected.elim false (keepsSelection m))

/-- Select a core's next warp. -/
def selectWarp (m : Mach) (core : Nat) : Mach :=
  if needsSelect m core then updCore m core fun c => { c with selected := oldestReady m core } else m

/-- WARP_SELECT (R15, R17). -/
def execWarpSelect (core : Nat) (s : State) : Host.Outcome State Fault Refusal := onMach s fun _ m => selectWarp m core

/-! ### The end of a block (R16, R22) -/

/-- What comes of a blocked warp when it is looked at again: none when it can go on, or the machine in which its bundle still blocks,
perhaps for another condition of R16 that it has come to. -/
def blockAgain (d : Dev) (m : Mach) (k : Nat) : Option Mach :=
  let b := atBoundary d.gtc m k
  let m' := (getWarp? b k).elim m fun w => warpBeat actionOf d b k w
  match getWarp? b k, getWarp? m' k with
  | some w, some w' => if w'.block.isNone || w'.stopped.isSome || w'.trapped != w.trapped then none else some m'
  | _, _ => none

/-- The warp becomes ready, ranked by when its block began. -/
def unblock (m : Mach) (k : Nat) : Mach :=
  updWarp m k fun w => match w.block with
    | some b => { w with block := none, ready := b.since }
    | none => w

/-- A chunk that is free for a warp blocked in RGROW is set aside for it, so that waiting warps get freed chunks oldest first (R46). -/
def setAside (m : Mach) (k : Nat) : Mach :=
  match getWarp? m k with
  | none => m
  | some w =>
    if w.grow.isNone && w.block.elim false fun b => b.cause = Cause.grow then
      updCore (updWarp m k fun w => { w with grow := some true }) (coreOf k) fun c => { c with spare := c.spare - 1 }
    else m

/-- BLOCK_END (R16, R17). -/
def execBlockEnd (warp : Nat) (s : State) : Host.Outcome State Fault Refusal :=
  onMach s fun d m =>
    if (getWarp? m warp).elim false fun w => stepsItself w && w.block.isSome then (blockAgain d m warp).getD (unblock (setAside m warp) warp) else m

/-! ### Gangs and barriers (R39, R107, R254) -/

/-- Two arrivals that cannot stand in one gang. -/
def clash (a b : GangArrival) : Bool := a.n != b.n || a.skew != b.skew || a.core = b.core

/-- A rendezvous as its arrivals come, in order: those that have arrived until the last one that it takes, whether that one clashes with an
earlier, and the arrivals after it, which await the next rendezvous (R39). -/
structure Rendezvous where
  group : List GangArrival
  bad   : Bool
  rest  : List GangArrival

/-- Go through the arrivals until one clashes or the group is whole; none while it is not. -/
def gather (group : List GangArrival) : List GangArrival → Option Rendezvous
  | [] => none
  | a :: rest =>
    let all := group ++ [a]
    if group.any (clash a) then some { group := all, bad := true, rest := rest }
    else if all.length = a.n then some { group := all, bad := false, rest := rest }
    else gather all rest

/-- An arrival is withdrawn: its bundle has not arrived. -/
def unarrive (w : Warp) : Warp := { w with arrived := w.arrived.filter fun n => n % 16 != 8 }

/-- GANG_MISMATCH in every arriver, at its boundary. -/
def gangMismatch (d : Dev) (m : Mach) (as : List GangArrival) : Mach :=
  as.foldl (fun m a => unblock (updWarp m a.warp fun w =>
    { unarrive w with user := w.user ++ [recordAt d m w 0 0 1 2 { code := TrapName.gangMismatch.code }] }) a.warp) m

/-- The gang of agreeing arrivals: members in ascending order of c.teamw. -/
def formGang (m : Mach) (team : Nat) (as : List GangArrival) : Mach :=
  let as := listSort (fun a b => a.teamw < b.teamw) as
  let zeros := as.map fun _ => 0
  let g : Gang := { team := team, members := as.map (·.warp), skew := (as.head?.map (·.skew)).getD 1, beats := zeros
                    left := [], decided := [], used := zeros, bundles := [], read := zeros, grants := 0, asked := zeros, mres := [] }
  (as.zip (List.range as.length)).foldl (fun x (a, i) =>
    updWarp x a.warp fun w => { w with gang := some m.tick, gidx := i }) { bump m with gangs := mapPut m.gangs m.tick g }

/-- GANG_RENDEZVOUS (R39). -/
def execGangRendezvous (team : Nat) (s : State) : Host.Outcome State Fault Refusal :=
  onMach s fun d m =>
    match getTeam? m team with
    | none => m
    | some t => match gather [] t.rdv with
      | none => m
      | some r =>
        let running := r.group.all fun a => (getWarp? m a.warp).elim false (·.trapped = .running)
        let next := updTeam m team fun t => { t with rdv := r.rest }
        if !running then m else if r.bad then gangMismatch d next r.group else formGang next team r.group

/-- Every expected warp has arrived or ended, at least one has arrived. -/
def phaseFull (t : Team) (b : Barrier) : Bool :=
  !b.arrived.isEmpty && (List.range t.warps).all fun i => t.ended.contains i || b.arrived.any fun a => a.teamw = i

/-- What a warp did before its arrival is performed (R107). -/
def arrivalReleased (m : Mach) (team : Nat) (a : Arrival) : Bool :=
  ((liveWarp m team a.teamw).bind fun k => getWarp? m k).elim true fun w =>
    w.ops.all fun o => a.order ≤ o.id || !(o.kind.counted || o.kind.reads)

/-- The phase ends for one arriver: its core's L1 is emptied, and its flag is set when its BARR has issued. -/
def releaseArriver (m : Mach) (team bar : Nat) (a : Arrival) : Mach :=
  match liveWarp m team a.teamw with
  | none => m
  | some k => updWarp (dropL1 m (coreOf k)) k fun w =>
      if w.arrived.any fun n => n % 16 = bar then w else completeFlag w a.flag

/-- BARRIER_PHASE_COMPLETE (R107, R254). -/
def execBarrierPhaseComplete (team bar : Nat) (s : State) : Host.Outcome State Fault Refusal :=
  onMach s fun _ m =>
    match getTeam? m team with
    | none => m
    | some t =>
      let b := getBar t bar
      if phaseFull t b && b.arrived.all (arrivalReleased m team) then
        let m := b.arrived.foldl (fun m a => releaseArriver m team bar a) m
        updTeam m team fun t => { t with bars := mapPut t.bars bar { phase := b.phase + 1, arrived := [] } }
      else m

/-! ### Register grow (R46, R47) -/

/-- Every resident warp of the core is blocked in RGROW and no chunk is free. -/
def growStuck (m : Mach) (core : Nat) : Bool :=
  let ws := coreWarps m core
  (getCore m core).spare = 0 && !ws.isEmpty && ws.all fun (_, w) => w.block.elim false fun b => b.cause = Cause.grow

/-- The warp of a core whose block began last. -/
def youngestWaiter (m : Mach) (core : Nat) : Option Nat :=
  (listBest (fun a b => (b.2.block.elim 0 (·.since)) ≤ (a.2.block.elim 0 (·.since))) (coreWarps m core).reverse).map (·.1)

/-- GROW_RELEASE (R47): the youngest waiter's RGROW completes with 0. -/
def execGrowRelease (core : Nat) (s : State) : Host.Outcome State Fault Refusal :=
  onMach s fun _ m =>
    let watched := (coreWarps m core).any fun (_, w) => w.watch64.isSome || w.grow = some false
    match growStuck m core && !watched, youngestWaiter m core with
    | true, some k => unblock (updWarp m k fun w => { w with grow := some false }) k
    | _, _ => m

/-- GROW_DEADLOCK (R47): all are blocked again within the watched warp's 64 beats. -/
def execGrowDeadlock (core : Nat) (s : State) : Host.Outcome State Fault Refusal :=
  onMach s fun _ m =>
    match growStuck m core, (coreWarps m core).find? fun (_, w) => w.watch64.isSome with
    | true, some (k, _) => updWarp m k fun w => { raiseExt w 0x65 with watch64 := none }
    | _, _ => m

/-! ### Timers (R71, R294, R298, R367, R368) -/

/-- WARP_TIMER (R71, R298). -/
def execWarpTimer (warp : Nat) (s : State) : Host.Outcome State Fault Refusal :=
  onMach s fun _ m => updWarp m warp fun w =>
    if w.wtimer != 0 && w.wtimer = w.vbeat then { raiseExt w 0x61 with wtimer := 0 } else w

/-- DEADLINE (R71, R368). -/
def execDeadline (ctx : Nat) (s : State) : Host.Outcome State Fault Refusal :=
  onMach s fun d m =>
    if (getCtx? m ctx).elim false fun c => c.gdead != 0 && c.gdead ≤ d.gtc then raiseDeadline m ctx else m

/-- The team's lease expires when its beats, or 16 ns for each of them, are over (R294). -/
def expireLease (gtc : Nat) (m : Mach) (team : Nat) : Mach :=
  match (getTeam? m team).bind (·.lease) with
  | none => m
  | some l =>
    if l.left = 0 || leaseOver gtc l then
      updWarp (updTeam m team fun t => { t with lease := none }) l.holder fun w => if l.nt then w else raiseExt w 0x63
    else m

/-- LEASE_EXPIRED (R294). -/
def execLeaseExpired (team : Nat) (s : State) : Host.Outcome State Fault Refusal :=
  onMach s fun d m => expireLease d.gtc m team

/-- A task in a save: its warps' watchdogs rest (R365, R367). -/
def inSave (m : Mach) (w : Warp) : Bool := (getNode? m w.node).elim false fun n => match n.stage with
  | .saving _ _ => true
  | _ => false

/-- A warp that stands frozen for Pumal takes WATCHDOG as it stands: Pumal then acts on that code (R351, R367, log 73). -/
def watchFrozen (d : Dev) (m : Mach) (k : Nat) (w : Warp) (frame : Nat) (inHandler : Bool) : Mach :=
  let r := { extRecord d m w 0x64 with nested := inHandler }
  freezeForPumal (traceTrap m w r) k frame r w.pend inHandler none

/-- WATCHDOG (R367). -/
def execWatchdog (warp : Nat) (s : State) : Host.Outcome State Fault Refusal :=
  onMach s fun d m => match getWarp? m warp with
    | none => m
    | some w =>
      if inSave m w || !((ctxOf m w).elim false fun c => c.wdlim * 1000 ≤ w.hang) then m
      else
        let w := { w with hang := 0 }
        match w.trapped with
        | .pumal frame inHandler _ => watchFrozen d (setWarp m warp w) warp w frame inHandler
        | _ => setWarp m warp (raiseExt w 0x64)

/-! ### Delivery at a boundary (R348 to R352, R358, R360) -/

/-- Deliver what is due at a warp's boundary when it is of a wanted sort. -/
def deliverAt (d : Dev) (m : Mach) (k : Nat) (want : Delivery → Bool) : Mach :=
  let b := atBoundary d.gtc m k
  match getWarp? b k with
  | none => m
  | some w =>
    let due := dueStreams b w
    if !stepsItself w || (entryWaits w && !nestedExt w) || !standsAtBoundary b w || (stopDue b k w due).isSome then m
    else match boundaryTrap actionOf d b k w due with
      | some (sort, t) => if want sort then t else m
      | none => m

/-- TRAP_DELIVERY (R350). -/
def execTrapDelivery (warp : Nat) (s : State) : Host.Outcome State Fault Refusal :=
  onMach s fun d m => deliverAt d m warp (· != .async)

/-- ASYNC_FAULT_DELIVERY (R360). -/
def execAsyncFaultDelivery (warp : Nat) (s : State) : Host.Outcome State Fault Refusal :=
  onMach s fun d m => deliverAt d m warp (· = .async)

/-- UNASSIGNED_OPCODE (R158): OPC_UNDEF in the stream at the issue stage. -/
def execUnassignedOpcode (slot : Slot) (op : BitVec 8) (s : State) : Host.Outcome State Fault Refusal :=
  let _ := op
  match s.cur.bind fun c => (getWarp? s.mach c.warp).map fun w => (c, w) with
  | none => .fault .noIssuingWarp
  | some (c, w) => onMach s fun d m =>
    faultStream m c.warp (foundAt d m w c.path c.plane 0 (slotCode (some slot)) { code := decodeCode .opcUndef } 0) []

/-! ### Time (R419, R432, R445) -/

/-- A warp stands stopped for its task's save: the restore charges the time since the save began as SWITCHED (R419). -/
def stoppedForSave (m : Mach) (w : Warp) : Bool :=
  inSave m w && w.record.elim false (·.code = 0x60) && (match w.trapped with | .pumal .. => true | _ => false)

/-- The counter that a cycle without a beat of a warp is charged to; none for a selected warp that can issue, or for one that a save has
stopped (R419). -/
def waitCounter (m : Mach) (k : Nat) (w : Warp) : Option Nat :=
  let selected := (getCore m (coreOf k)).selected = some k
  if stoppedForSave m w then none
  else if w.stopped.isSome then some 22
  else if w.trapped != .running then (if stepsItself w && w.block.isNone && selected then none else some 20)
  else match w.block with
    | some b => some b.cause.counter
    | none => if gangFrozen m w || gangHolds m k w then some 18 else if selected then none else some 19

/-- The pulses that a cluster's pattern swallows at the counts of the clock from `a` to below `a + ns` (R419, R432). -/
def swallowed (pat : BitVec 16) (a ns : Nat) : Nat :=
  let zeros := 16 - (List.range 16).countP fun i => pat.getLsbD i
  ns / 16 * zeros + (List.range (ns % 16)).countP fun i => !pat.getLsbD ((a + i) % 16)

/-- Whether the watchdog of a warp runs: it is blocked, frozen in a gang or waiting to be resumed; not during a stop, its own or one that
freezes its gang (R367, R423). -/
def watchdogRuns (m : Mach) (k : Nat) (w : Warp) : Bool :=
  let stops := (gangMates m w).any fun j => (getWarp? m j).elim false (·.stopped.isSome)
  w.stopped.isNone && !(w.trapped = .running && stops) && !inSave m w &&
    (w.block.isSome || gangFrozen m w || gangHolds m k w || (match w.trapped with | .pumal .. => true | _ => false))

/-- Time passes for a warp; the edges of its beats are charged as it takes them, the pulses swallowed while it issues here (R419). -/
def waitWarp (m : Mach) (ns k : Nat) (w : Warp) : Warp :=
  let w := match waitCounter m k w with
    | some c => charge w c ns
    | none =>
      if stoppedForSave m w then w
      else charge w (if w.trapped = .running then 6 else 20) (swallowed (getCluster m (clusterOf k)).pat m.clock ns)
  if watchdogRuns m k w then { w with hang := w.hang + ns } else w

/-- Two lock entries that keep their copies apart. -/
def lockClash (a b : RangeLock) : Bool :=
  a.scratch = b.scratch && (a.write || b.write) && (if a.scratch then a.team = b.team else a.ctx = b.ctx) &&
    a.base < b.base + b.len && b.base < a.base + a.len

/-- Every range-lock entry of the package. -/
def allLocks (m : Mach) : List RangeLock := (mapVals m.clusters).flatMap (·.locks)

/-- The entries registered earlier that hold a copy back (R234). -/
def holdingLocks (m : Mach) (c : Copy) : List RangeLock :=
  let ls := allLocks m
  let mine := ls.filter fun l => l.order = c.order
  ls.filter fun b => b.ctx = c.ctx && b.order < c.order && mine.any (lockClash · b)

/-- An entry registered earlier holds a copy back (R234). -/
def lockHeld (m : Mach) (c : Copy) : Bool := !(holdingLocks m c).isEmpty

/-- The counter of a copy's cycles, if one engine serves it: moving data, waiting on a range lock, faulted (R419). -/
def copyCounter (m : Mach) (c : Copy) : Option Nat :=
  if c.fault.isSome then some 25 else if c.started then some 23 else if c.launch.isNone && lockHeld m c then some 24 else none

/-- The engine goes on with an open pass: its owner runs, or only the step queue blocks it (R241, R247). -/
def passAdvances (m : Mach) (w : Warp) : Bool :=
  w.trapped = .running && w.stopped.isNone &&
    match w.block with
    | some b => b.cause = Cause.stepq
    | none => !gangFrozen m w || stepqFrozen m w

/-- Cycles of the copies and open passes, charged to their tasks (R419). -/
def chargeEngines (m : Mach) (ns : Nat) : Mach :=
  let add (m : Mach) (node counter : Nat) : Mach := updNode m node fun n =>
    { n with counts := mapPut n.counts counter (satAdd 64 (mapGetD n.counts counter 0) ns) }
  (mapVals m.clusters).foldl (fun m x =>
    let m := (mapVals x.copies).foldl (fun m c => (copyCounter m c).elim m (add m c.node)) m
    (x.matrix.chains.filter fun c => c.che.isNone).foldl (fun m c => match getWarp? m c.warp with
      | some w => add m w.node (if passAdvances m w then 26 else 27)
      | none => m) m) m

/-- The canonical pattern of k ones (R432). -/
def canonicalPattern (k : Nat) : BitVec 16 :=
  BitVec.ofNat 16 (listSum ((List.range 16).map fun i => if i * k / 16 < (i + 1) * k / 16 then 2 ^ i else 0))

/-- The ones that the PCC chooses for a cluster (R432). -/
def chosenOnes (d : Dev) (m : Mach) (cl : Nat) : Nat :=
  if m.teams.any fun (_, t) => t.cluster = cl && t.lease.isSome then 16
  else if m.warps.any fun (k, _) => clusterOf k = cl then d.pcc.sust
  else 0

/-- A cluster with the pattern of k ones in force (R432). -/
def powered (k cl : Nat) (x : Cluster) : Cluster :=
  { x with ones := k, pat := (canonicalPattern k).rotateLeft ((cl % 256 % 16 + cl % 256 / 16) % 16) }

/-- A frame boundary: every cluster's pattern becomes the one the PCC then chooses (R432). -/
def frameBoundary (d : Dev) (m : Mach) : Mach :=
  ((mapKeys m.clusters ++ (mapKeys m.warps).map clusterOf).eraseDups).foldl (fun m cl =>
    updCluster m cl (powered (chosenOnes d m cl) cl)) m

/-- FRAME_BOUNDARY (R432): at counts that are multiples of 16. -/
def execFrameBoundary (s : State) : Host.Outcome State Fault Refusal :=
  onMach s fun d m => if m.clock % 16 = 0 then frameBoundary d m else m

/-- Cycles in which a node's warps are selected on a cluster's cores (R450). -/
def countBusy (m : Mach) (ns : Nat) : Mach :=
  m.cores.foldl (fun m (core, c) =>
    match c.selected.bind (getWarp? m) with
    | some w => updCluster m (core / 4) fun x => { x with busy := mapPut x.busy w.node (mapGetD x.busy w.node 0 + ns) }
    | none => m) m

end Sys2Proof.Machine
end

