-- ==== Sys2Proof/Machine/Memevents.lean ====
section
/-!
DEFINITION. Events of the memory system: operations of variable latency that complete, lost ports, accesses of other
packages, errors in registers, patrol scrubbing (R94, R112 to R116, R197, R211, R391, R392, R407, R464).
-/

namespace Sys2Proof.Machine

/-- An operation of a warp's memory order by its number. -/
def opOf? (m : Mach) (k op : Nat) : Option MemOp := (getWarp? m k).bind fun w => w.ops.find? (·.id = op)

/-- The lines of another package that an operation accesses. -/
def remoteLines (o : MemOp) : List Nat := ((o.acc.filter fun a => remoteKey a.key).map fun a => lineOf a.key).eraseDups

/-- The operations that move from a failed port and are not performed yet, with that port and their lines (R392). -/
def retriesLeft (m : Mach) : Map (Nat × List Nat) :=
  m.retry.filter fun (id, _) => m.warps.any fun (_, w) => w.ops.any fun o => o.id = id && !o.failed

/-- An operation waits for one that moves from a failed port and was issued before it: one of the same port, when it moves too, or of its
own lines (R392). -/
def retryHeld (m : Mach) (o : MemOp) : Bool :=
  !m.retry.isEmpty && (retriesLeft m).any fun (id, port, ls) =>
    id < o.id && ((mapGet? m.retry o.id).any (·.1 = port) || (remoteLines o).any ls.contains)

/-- An operation that nothing keeps from being performed now. -/
def readyOp? (m : Mach) (k op : Nat) : Option MemOp :=
  (getWarp? m k).bind fun w => (w.ops.find? (·.id = op)).filter fun o => opReady w o && !retryHeld m o

/-- LOAD_COMPLETE (R197): a load or a fill; `early` lets a plain load take lines that the L1 holds (R98). -/
def execLoadComplete (warp op : Nat) (early : Bool) (s : State) : Host.Outcome State Fault Refusal :=
  onMach s fun d m =>
    match readyOp? m warp op with
    | none => m
    | some o => if o.kind.reads && !o.kind.counted then performOp d.gtc m warp o early [] else m

/-- STORE_ACK (R94, R197): a store, a spill, or an event set that its release lets through (R256). -/
def execStoreAck (warp op : Nat) (s : State) : Host.Outcome State Fault Refusal :=
  onMach s fun d m =>
    match readyOp? m warp op with
    | none => m
    | some o =>
      let mine := match o.kind with
        | .store .. | .spill | .evset _ => true
        | _ => false
      if mine && !o.failed && !remoteStuck m o then performOp d.gtc m warp o false [] else m

/-- ATOMIC_COMPLETE (R99, R211): `order` is the order in which the lanes are performed. -/
def execAtomicComplete (warp op : Nat) (order : List Nat) (s : State) : Host.Outcome State Fault Refusal :=
  onMach s fun d m =>
    match readyOp? m warp op with
    | none => m
    | some o => if o.kind.reads && o.kind.counted then performOp d.gtc m warp o false order else m

/-! ### UALink (R392, R407) -/

/-- The record of a link error at an address. -/
def linkRecord (gtc ctx name pa : Nat) : Health := { healthOf 2 0 0 with pa := pa, gtc := gtc, ctx := ctx, name := name }

/-- The operations in flight on a port, with it and their lines. -/
def inFlightOn (m : Mach) (port : Nat) : Map (Nat × List Nat) :=
  ((mapVals m.warps).flatMap (·.ops)).foldl (fun r o =>
    let ls := (remoteLines o).filter fun l => portFor m l = some port
    if ls.isEmpty || o.failed then r else mapPut r o.id (port, ls)) []

/-- UALINK_PORT_FAIL (R392): the port's lines move to the surviving ports; what was in flight on it is performed there, in issue order and
before later operations of the same lines. -/
def execUalinkPortFail (port : Nat) (s : State) : Host.Outcome State Fault Refusal :=
  onMach s fun d m =>
    if m.ports.contains port then
      let moved := (inFlightOn m port).foldl (fun r (id, x) => mapPut r id x) (retriesLeft m)
      logHealth { m with ports := m.ports.erase port, retry := moved } { healthOf 2 1 port with gtc := d.gtc }
    else m

/-- The address of a remote request. -/
def remotePa : RemoteReq → Nat
  | .load pa _ | .store pa _ | .atomic pa _ _ _ | .cas pa _ _ _ => pa

/-- A read-modify-write by another package at its local home. -/
def remoteRmw (x : Accessor) (m : Mach) (a n : Nat) (f : DWord → Option DWord) : Mach :=
  let bad := (readBytes m a n).2
  let m := noteRead x m a n
  if bad then m
  else match f (ofLe 64 (memBytes m a n)) with
    | some v => writeBytes m a (leBytes n v)
    | none => m

/-- The key by which an access of another package reaches a local address under a key slot (R405, R407). -/
def slotKey (m : Mach) (slot pa : Nat) : Nat := if lineSlot m pa = slot then pa else foreignKey slot pa

/-- Perform an access of another package under the slot that it names (R391, R407). -/
def remoteAccess (gtc key : Nat) (m : Mach) (q : RemoteReq) : Mach :=
  let x : Accessor := { gtc := gtc, ctx := 0, keyid := key, name := 0 }
  let at_ := slotKey m key (remotePa q)
  match q with
  | .load _ n => noteRead x m at_ n
  | .store _ data => writeNoted x m [(at_, data)]
  | .atomic _ n op v => remoteRmw x m at_ n fun old =>
      some (if n = 8 then atomFn op 64 old v else (atomFn op 32 (old.setWidth 32) (v.setWidth 32)).setWidth 64)
  | .cas _ n expd new => remoteRmw x m at_ n fun old =>
      if old.toNat % 2 ^ (8 * n) = expd.toNat % 2 ^ (8 * n) then some new else none

/-- Take the head of the input queue when it is one that the event consumes. -/
def takeInput {α : Type} (s : State) (pick : Input → Option α) (f : State → α → State) : Host.Outcome State Fault Refusal :=
  match s.inputs with
  | x :: rest => match pick x with
    | some a => .next (f { s with inputs := rest } a)
    | none => .next s
  | [] => .next s

/-- INCOMING_REMOTE_ACCESS (R407): refused, and recorded, when its key slot is not loaded. -/
def execIncomingRemoteAccess (s : State) : Host.Outcome State Fault Refusal :=
  takeInput s (fun
    | .remote key q => some (key, q)
    | _ => none) fun s (key, q) =>
    let m := s.mach
    { s with mach := if keyLoaded m key then remoteAccess s.dev.gtc key m q
                     else logHealth m { linkRecord s.dev.gtc 0 0 (remotePa q) with keyid := key } }

/-! ### Errors in stores (R114, R116, R464) -/

/-- Mark lanes of a latch of a bank. -/
def markLatch (b : Bank) (n : Nat) (lanes : DWord) : Bank :=
  let mark (r : VReg) : VReg := { r with marks := r.marks ||| lanes }
  match n with
  | 0 => { b with v1 := mark b.v1 }
  | 1 => { b with v2 := mark b.v2 }
  | 2 => { b with v3 := mark b.v3 }
  | 3 => { b with m1 := mark b.m1 }
  | 4 => { b with m2 := mark b.m2 }
  | _ => { b with x1 := mark b.x1 }

/-- Mark what an uncorrectable error has hit. -/
def markError (m : Mach) (t : ErrTarget) : Mach :=
  match t with
  | .vreg k r lanes => updWarp m k fun w => putV w r lanes (getV w r).lanes lanes
  | .sreg k r => updWarp m k fun w => putS w r (getS w r).value true
  | .latch k p pl n lanes => updWarp m k fun w => updPath w p fun q => setBank q pl (markLatch (getBank q pl) n lanes)
  | .queue t q i => updQueue m t q fun x =>
      { x with entries := (x.entries.zip (List.range x.entries.length)).map fun (e, j) => if j = i then { e with mark := true } else e }

/-- The context whose state an uncorrectable error has hit. -/
def errorCtx (m : Mach) (t : ErrTarget) : Nat :=
  match t with
  | .vreg k _ _ | .sreg k _ | .latch k _ _ _ _ => (getWarp? m k).elim 0 (·.ctx)
  | .queue t _ _ => (getTeam? m t).elim 0 (·.ctx)

/-- REGISTER_UNCORRECTABLE_ERROR (R114). -/
def execRegisterUncorrectableError (s : State) : Host.Outcome State Fault Refusal :=
  takeInput s (fun
    | .error t => some t
    | _ => none) fun s t =>
    let x := accessorOf s.dev.gtc s.mach (errorCtx s.mach t) 0
    { s with mach := logHealth (markError s.mach t) (eccRecord x 6 0 1) }

/-- A word takes an error, unless it already has one that cannot be corrected. -/
def hitWord (ecc : Map Ecc) (a : Nat) (e : Ecc) : Map Ecc := if (mapGet? ecc a).elim false Ecc.bad then ecc else mapPut ecc a e

/-- An error arises in a store; what a read of the word then finds and records is for R112 and R113 (R95, R110, log 75). -/
def strike (gtc : Nat) (m : Mach) (e : MemError) : Mach :=
  let kind (double : Bool) : Ecc := if double then .double else .single
  let within (a : Nat) : Nat := a % 128 / 8 * 8
  match e with
  | .word a d => if remoteKey a then m else { m with ecc := hitWord m.ecc (wordOf a) (kind d) }
  | .cached a d => if remoteKey a then m else { m with ecc := hitWord m.ecc (wordOf a) (if d then .cacheDouble else .cacheSingle) }
  | .l1 core a d => updCore m core fun c =>
      { c with l1 := mapUpd c.l1 (lineOf a) fun l => { l with ecc := hitWord l.ecc (within a) (kind d) } }
  | .stack k va d => updWarp m k fun w =>
      { w with stack := mapUpd w.stack (lineOf va) fun l => { l with ecc := hitWord l.ecc (within va) (kind d) } }
  | .onDie a => logHealth m { healthOf 1 0 0 with struct := 7, pa := a, gtc := gtc }

/-- The memory key of the word that the patrol reads. -/
def scrubKey : ScrubLoc → Nat
  | .hbm w => 8 * w
  | .sram cl w => sramKey cl (8 * w)

/-- One patrol read (R464). -/
def patrol (gtc : Nat) (m : Mach) (a : Nat) : Mach :=
  let x : Accessor := { gtc := gtc, ctx := 0, keyid := 0, name := 0 }
  match mapGet? m.ecc a with
  | some .double => logHealth (poisonWord m a) (eccRecord x (structOf m a) a 3)
  | some .cacheDouble => logHealth (poisonWord m a) (eccRecord x 1 a 3)
  | _ => noteRead x m a 8

/-- The patrol's period for a word in error: 24 h for one of HBM, an hour for one of SRAM or of the L2 (R464). -/
def patrolPeriod (a : Nat) (e : Ecc) : Nat := if e.cached || sramBase ≤ a then 3600000000000 else 86400000000000

/-- The patrol reads every word once in its period: the words that it has not read earlier, at the period's end (R464, log 86). -/
def patrolSweep (m : Mach) (gtc now : Nat) : Mach :=
  (m.ecc.filter fun (a, e) => gtc / patrolPeriod a e < now / patrolPeriod a e).foldl (fun m (a, _) => patrol now m a) m

/-- PATROL_SCRUB (R464). -/
def execPatrolScrub (s : State) : Host.Outcome State Fault Refusal :=
  takeInput s (fun
    | .scrub l => some l
    | _ => none) fun s l => { s with mach := patrol s.dev.gtc s.mach (scrubKey l) }

end Sys2Proof.Machine
end

