-- ==== Sys2Proof/Machine/Pages.lean ====
section
/-!
DEFINITION. Mapping user pages on demand (R91, R393 to R398, R408): the attributes of a region, the allocation of pages, the
tables of a walk, reservations of cluster SRAM.
-/

namespace Sys2Proof.Machine

/-- Why a page of a region can be mapped, and with what: home, R, W, X, SD, DS (R393). -/
structure RegionAttr where
  home : Nat
  w    : Bool
  x    : Bool
  sd   : Bool
  ds   : Bool

/-- The attributes of a region; every mapped page is readable. -/
def regionAttr (region : Nat) : Option RegionAttr :=
  match region with
  | 1 => some { home := 0, w := false, x := true, sd := false, ds := false }
  | 2 => some { home := 0, w := false, x := false, sd := false, ds := false }
  | 3 => some { home := 0, w := true, x := false, sd := false, ds := true }
  | 4 => some { home := 0, w := true, x := false, sd := true, ds := false }
  | 5 => some { home := 0, w := true, x := false, sd := true, ds := true }
  | 6 => some { home := 3, w := true, x := false, sd := false, ds := false }
  | 7 => some { home := 0, w := true, x := false, sd := false, ds := false }
  | 8 => some { home := 1, w := true, x := false, sd := false, ds := false }
  | 9 => some { home := 2, w := true, x := false, sd := false, ds := false }
  | 10 => some { home := 3, w := true, x := false, sd := false, ds := false }
  | _ => none

/-- Bits of a virtual address. -/
def vaBits (va hi lo : Nat) : Nat := va / 2 ^ lo % 2 ^ (hi + 1 - lo)

def vaRegion (va : Nat) : Nat := vaBits va 47 44

/-- The fields of an address that must be 0 in its region (R393). -/
def vaFieldsOk (va : Nat) : Bool :=
  vaBits va 63 56 = 0 && (match vaRegion va with
    | 9 => vaBits va 55 48 = 0 && vaBits va 43 41 = 0 && vaBits va 31 20 = 0
    | 10 => vaBits va 43 39 = 0
    | _ => vaBits va 55 48 = 0)

/-- A leaf's bits (R397). -/
def leafWord (a : RegionAttr) (key ppn : Nat) : Nat :=
  packFields [(63, 1), (62, 1), (49, key), (47, a.home), (46, bitNat a.sd), (45, bitNat a.ds), (44, bitNat a.x), (43, bitNat a.w),
    (42, 1), (0, ppn)]

/-- A table entry's bits (R396). -/
def tableWord (a : Nat) : Nat := 2 ^ 63 + a / 256

/-- The 64 KiB pages of the package's HBM (R93). -/
def hbmPages : Nat := 2 ^ 23

/-- The page of the reserved home-11 line that takes the marker (R442), and the first of the 64 that hold the ring of the health log (R463):
the highest pages, which no context is given (log 85). -/
def markerPage : Nat := hbmPages - 1
def healthPages : Nat := hbmPages - 65

/-- Allocate pages of 64 KiB, aligned on their number, whitewashed; none when HBM is exhausted (R408, log 21). -/
def allocPages (m : Mach) (n : Nat) : Option (Mach × Nat) :=
  let p := (m.pagenext + n - 1) / n * n
  if healthPages < p + n then none
  else
    let m := whitewash { m with pagenext := p + n } (p * 65536) (n * 65536)
    some (m, p * 65536)

/-- A unit of a cluster's SRAM that no team allocation overlaps (R86, R91). -/
def unitFree (m : Mach) (cl unit : Nat) : Bool :=
  let lo := unit * 65536
  let clear (base n : Nat) : Bool := n = 0 || base + n ≤ lo || lo + 65536 ≤ base
  (m.teams.all fun (_, t) => t.cluster != cl || (clear t.baseA t.lima && clear (0x80000 + t.baseB) t.limb))

/-- Reserve a unit of cluster SRAM for a context; whitewashed when it is new (R91, R408). -/
def reserveUnit (m : Mach) (ctx cl unit : Nat) : Option Mach :=
  if 512 ≤ cl || !(getCluster m cl).present then none
  else match mapGet? (getCluster m cl).units unit with
    | some c => if c = ctx then some m else none
    | none =>
      if unitFree m cl unit then
        some (updCluster (whitewash m (sramKey cl (unit * 65536)) 65536) cl fun x => { x with units := mapPut x.units unit ctx })
      else none

/-- The die whose HBM holds a page. -/
def pageDie (page : Nat) : Nat := page / 2 ^ 22

/-- The leaf for an address of a context, with what it takes: an allocated page, a reserved unit, nothing of this package. A
pinned page puts 8 lines into each slice of its die, of at most 8,192 (R91, R93, R393). -/
def leafFor (m : Mach) (ctx va : Nat) : Option (Mach × Nat) :=
  let key := (getCtx? m ctx).elim 0 (·.keyid)
  match regionAttr (vaRegion va) with
  | none => none
  | some a =>
    if !vaFieldsOk va then none
    else if vaRegion va = 9 then
      let cl := vaBits va 40 32
      let unit := vaBits va 19 16
      (reserveUnit m ctx cl unit).map fun m => (m, leafWord a 0 (cl * 2 ^ 24 + unit))
    else if vaRegion va = 10 then
      some (m, leafWord a key (2 ^ 32 + vaBits va 55 48 * 2 ^ 23 + vaBits va 38 16))
    else
      match allocPages m 1 with
      | none => none
      | some (m, pa) =>
        let page := pa / 65536
        let m := updCtx m ctx fun c => { c with pages := c.pages ++ [page] }
        if a.home = 1 then
          if 1024 ≤ m.pinned.countP fun p => pageDie p = pageDie page then none
          else some ({ m with pinned := m.pinned ++ [page] }, leafWord a key page)
        else some (m, leafWord a key page)

/-- Go down from a table to the level-0 entry of an address, creating the tables that are missing; none where a leaf stands or
HBM is exhausted. -/
def tablesDown (ctx va : Nat) : List Nat → Mach → Nat → Option (Mach × Nat)
  | [], m, table => some (m, table)
  | level :: rest, m, table =>
    let a := table + 8 * levelIndex level va
    let e : DWord := ofLe 64 (memRead m.mem a 8)
    if e.getLsbD 63 then
      (if e.getLsbD 62 then none else tablesDown ctx va rest m (bits e 40 0 * 256))
    else
      match allocPages m 1 with
      | none => none
      | some (m, next) =>
        let m := updCtx m ctx fun c => { c with tables := c.tables ++ [next / 65536] }
        tablesDown ctx va rest (writeBytes m a (leBytes 8 (BitVec.ofNat 64 (tableWord next)))) next

/-- Map the page of an address of a context (R394); none when the service refuses. -/
def mapPage (m : Mach) (ctx va : Nat) : Option Mach :=
  match getCtx? m ctx with
  | none => none
  | some c =>
    match leafFor m ctx va with
    | none => none
    | some (m, leaf) =>
      match tablesDown ctx va [3, 2, 1] m c.root with
      | none => none
      | some (m, table) =>
        let a := table + 8 * levelIndex 0 va
        if (memGet m.mem (a + 7)).getLsbD 7 then none
        else some (writeBytes m a (leBytes 8 (BitVec.ofNat 64 leaf)))

/-- The pieces of a range that lie in one 64 KiB page each: address and length. -/
def pageRuns (va n : Nat) : List (Nat × Nat) :=
  if n = 0 then []
  else (List.range ((va % 65536 + n + 65535) / 65536)).map fun i =>
    let lo := if i = 0 then va else (va / 65536 + i) * 65536
    (lo, min (va + n) ((va / 65536 + i + 1) * 65536) - lo)

/-- A page that a service of Pumal needs: mapped where it is not; none where the access is refused. -/
def ensurePage (m : Mach) (ctx va : Nat) (k : AccKind) : Option (Mach × Nat) :=
  let hit (m : Mach) : Option (Mach × Nat) := match translateNow m ctx va k false with
    | .ok h => some (m, h.key)
    | .error _ => none
  match translateNow m ctx va k false with
  | .ok h => some (m, h.key)
  | .error e => if e.code = 0x40 && canonical va then (mapPage m ctx va).bind hit else none

/-- Write bytes of a context where its pages can be had; none where one is refused. -/
def putRange (m : Mach) (ctx va : Nat) (bs : List Byte) : Option Mach :=
  (pageRuns va bs.length).foldlM (fun m (a, k) =>
    (ensurePage m ctx a .write).map fun (m, key) => writeBytes m key ((bs.drop (a - va)).take k)) m

/-- Bytes of a context where they can be read and no word of them is poisoned; the words in error are noted (R112, R113). -/
def rangeBytes (x : Accessor) (m : Mach) (ctx va n : Nat) : Mach × Option (List Byte) :=
  (pageRuns va n).foldl (fun (m, r) (a, k) => match r, translateNow m ctx a .read false with
    | some bs, .ok h =>
      let (more, bad) := readBytes m h.key k
      (noteRange x m h.key k, if bad then none else some (bs ++ more))
    | _, _ => (m, none)) (m, some [])

/-- The units of cluster SRAM that a context has reserved: cluster and unit. -/
def contextUnits (m : Mach) (id : Nat) : List (Nat × Nat) :=
  m.clusters.flatMap fun (cl, x) => (x.units.filter fun (_, o) => o = id).map fun (u, _) => (cl, u)

/-- Whitewash a context's memory: its pages and its units (R408). -/
def washContext (m : Mach) (id : Nat) : Mach :=
  let m := ((getCtx? m id).elim [] (·.pages)).foldl (fun m p => whitewash m (p * 65536) 65536) m
  (contextUnits m id).foldl (fun m (cl, u) => whitewash m (sramKey cl (u * 65536)) 65536) m

end Sys2Proof.Machine
end

