-- ==== Sys2Proof/Machine/Tasks.lean ====
section
/-!
DEFINITION. Task nodes in the HTS (R382 to R389): creation with its refusals, readiness, placement, dispatch, completion, kill
(R363), and the journal states they set (R378, R379).
-/

namespace Sys2Proof.Machine

/-! ### The journal entries of POST (R377 to R379) -/

/-- Change the state of a journal entry; an entry in state 3, 4 or 5 stays as it is (R378). -/
def setEntry (d : Dev) (jseq state result handle : Nat) : Dev :=
  { d with journal := d.journal.map fun e =>
      if e.jseq = jseq && e.state < 3 && jseq != 0 then
        { e with state := state, result := result, handle := handle, chgGtc := d.gtc }
      else e }

/-- The state and RESULT that a completion status gives a POST (R378, R379). -/
def postState (status : Nat) : Nat := if status = 0 then 3 else if status = 0x300 then 5 else 4

/-! ### Handles and records (R382) -/

/-- A node handle. -/
def handleOf (die idx gen : Nat) : Nat := die * 2 ^ 31 + idx * 2 ^ 17 + gen

/-- The nodes of one die's table. -/
def tableNodes : Nat := 16384

/-- The table position of a handle, over both dies. -/
def handleSlot (h : Nat) : Nat := h / 2 ^ 17

/-- The lowest free index of a die's table. -/
def freeIndex (m : Mach) (die : Nat) : Option Nat :=
  let used := (mapKeys m.nodes).map handleSlot
  (List.range tableNodes).find? fun i => !used.contains (die * tableNodes + i)

/-- The generation that an index carries at its next use. -/
def nextGen (g : Nat) : Nat := g % (2 ^ 17 - 1) + 1

/-- Read the 256 bytes of a node record in its four aligned parts, noting the words in error; none where it cannot be read. -/
def recordBytes (gtc : Nat) (m : Mach) (ctx va : Nat) : Mach × Option (List Byte) :=
  (List.range 4).foldl (fun (m, r) i => match r, ensurePage m ctx (va + 64 * i) .read with
    | some bs, some (m, key) =>
      let (x, bad) := readBytes m key 64
      (noteRead (accessorOf gtc m ctx 0) m key 64, if bad then none else some (bs ++ x))
    | _, _ => (m, none)) (m, some [])

/-- A node as its record describes it (R382). -/
def nodeOfRecord (bs : List Byte) (ctx jseq : Nat) : Node :=
  let dw (o : Nat) : DWord := wordAt bs o
  let a := dw 0x08
  let b := dw 0x10
  let c := dw 0x18
  { ctx := ctx, code := (dw 0).toNat, tok := bits a 63 56, rank := bits a 55 48, fgrp := bits a 47 40, nq := bits a 39 34
    nt := bits a 33 27, limb := bits a 26 21, lima := bits a 20 15, cm1 := bits a 14 13, wm1 := bits a 12 9, clus := bits a 8 0
    det := b.getLsbD 50, ckpt := b.getLsbD 49, kill := b.getLsbD 48, est := bits b 47 0
    pred := bits c 63 48, stk := bits c 47 32, entry := bits c 31 0, tframe := (dw 0x20).toNat, crec := (dw 0x28).toNat
    succ := (List.range (min 8 (bits (dw 0x30) 3 0))).map fun i => leNat ((bs.drop (0xc0 + 4 * i)).take 4)
    wait := ofLe 256 ((bs.drop 0x40).take 32), set := ofLe 256 ((bs.drop 0x60).take 32)
    args := (List.range 8).map fun i => dw (0x80 + 8 * i)
    stage := .waiting, readyAt := 0, readyNo := 0, eff := 0, clusters := [], overdec := false, flushing := false, exs := 0, first := none
    issx := false, energy := 0, dispGtc := 0, jseq := jseq, status := none, saveslot := 0, saved := none, counts := []
    causer := none }

/-- BAD_FIELD (R382, R383): a reserved bit, or a field outside its limits. -/
def recordBad (bs : List Byte) (n : Node) : Bool :=
  bits (wordAt bs 0x10) 63 51 != 0 || bits (wordAt bs 0x30) 63 4 != 0 || !((bs.drop 0xe0).all (· = 0#8)) ||
  n.code % 16 != 0 || n.crec % 64 != 0 || n.tframe % 0x8000 != 0 || 32 < n.nq || 64 < n.nt || 32 < n.lima || 32 < n.limb ||
  n.clus = 0 || 510 < n.clus || 4 * (n.cm1 + 1) < n.wm1 + 1 || n.stk = 0 || 8 < bits (wordAt bs 0x30) 3 0

/-! ### Clusters for users (R369, R457) -/

/-- The cluster that Pumal holds on a die: the surviving one with the lowest number (R369). -/
def pumalCluster (m : Mach) (die : Nat) : Option Nat :=
  ((List.range 256).map fun i => 256 * die + i).find? fun c => (getCluster m c).present

/-- The clusters offered to user placement. -/
def userClusters (m : Mach) : List Nat :=
  let p0 := pumalCluster m 0
  let p1 := pumalCluster m 1
  clusterNumbers.filter fun c => (getCluster m c).present && p0 != some c && p1 != some c

/-- The largest save image of a node (R364). -/
def imageBound (n : Node) : Nat :=
  65536 + n.clus * ((n.lima + n.limb) * 16384 + 262144 + (n.cm1 + 1) * 32768 + (n.wm1 + 1) * 98304)

/-- BAD_SUCC: a listed handle is stale, of another context, or already dispatched (R383). -/
def succBad (m : Mach) (ctx h : Nat) : Bool := (getNode? m h).elim true fun n => n.ctx != ctx || n.dispatched

/-- The first status other than NO_READ that refuses a record (R383). -/
def refuseNode (m : Mach) (c : Context) (bs : List Byte) (n : Node) : Option Nat :=
  if recordBad bs n then some 0x12
  else if n.succ.any (succBad m n.ctx) then some 0x14
  else if (userClusters m).countP (fun k => n.cm1 + 1 ≤ (getCluster m k).cores) < n.clus then some 0x13
  else if c.stride < imageBound n then some 0x16
  else if c.nodeq ≤ m.nodes.countP (fun (_, x) => x.ctx = n.ctx) then some 0x10
  else if (freeIndex m 0).isNone && (freeIndex m 1).isNone then some 0x11
  else none

/-- The lowest save slot that no live node of the context holds (R364). -/
def freeSaveSlot (m : Mach) (ctx : Nat) : Nat :=
  let held := (m.nodes.filter fun (_, n) => n.ctx = ctx).map fun x => x.2.saveslot
  ((List.range (held.length + 1)).find? fun i => !held.contains i).getD 0

/-- Enter a node in the HTS: its handle, capped tokens, forced determinism, save slot (R382, R383, R412). -/
def insertNode (m : Mach) (c : Context) (n : Node) (die : Nat) : Mach × Nat :=
  let (die, idx) := match freeIndex m die with
    | some i => (die, i)
    | none => (1 - die, (freeIndex m (1 - die)).getD 0)
  let gen := nextGen (mapGetD m.gens (die * tableNodes + idx) 0)
  let h := handleOf die idx gen
  let n := { n with tok := min n.tok c.tokmax, det := n.det || c.detreq, saveslot := freeSaveSlot m n.ctx, readyNo := m.tick }
  let m := bump { m with nodes := mapPut m.nodes h n, gens := mapPut m.gens (die * tableNodes + idx) gen }
  (wakeNodes m n.ctx, h)

/-- Decide a post: the record is read, the node created or refused, the status doubleword written (R383). -/
def decidePost (gtc : Nat) (m : Mach) (p : PostReq) : Mach × Nat × Nat :=
  match getCtx? m p.ctx, ensurePage m p.ctx (p.va + 0x38) .write with
  | none, _ | _, none => (m, 0x15, 0)
  | some c, some (m, key) =>
    let put (m : Mach) (status h : Nat) : Mach × Nat × Nat :=
      (writeBytes m key (leBytes 8 (BitVec.ofNat 64 (h * 2 ^ 32 + status))), status, h)
    match recordBytes gtc m p.ctx p.va with
    | (m, none) => put m 0x15 0
    | (m, some bs) =>
      let n := nodeOfRecord bs p.ctx p.jseq
      match refuseNode m c bs n with
      | some st => put m st 0
      | none =>
        let (m, h) := insertNode m c n p.die
        put m 1 h

/-- A fault of an access that a TPOST makes in the record at `va`: ADDR is the lowest address of the record in the faulting page
(R403, R404). -/
def partFault (m : Mach) (die ctx va : Nat) (x : Nat × AccKind) : Option Exn :=
  let a := (va + x.1) % 2 ^ 64
  if !canonical a then some { code := TrapName.addrCanon.code, addr := a, info := xinfo x.2 0 }
  else match dieHit m die ctx a x.2 with
    | .ok _ => none
    | .error e => some { code := e.code, addr := if va / 65536 = a / 65536 then va else a / 65536 * 65536, info := xinfo x.2 e.level }

/-- The first fault of a TPOST: the record's four aligned parts are read, then the status doubleword is written (R399, R404, log 37). -/
def postFault (m : Mach) (die ctx va : Nat) : Option Exn :=
  [(0, AccKind.read), (64, .read), (128, .read), (192, .read), (0x38, .write)].findSome? (partFault m die ctx va)

/-- The walks that a post's accesses need on its die (R401). -/
def postWalks (gtc : Nat) (m : Mach) (p : PostReq) : Mach :=
  [0, 64, 128, 192].foldl (fun m o => if canonical ((p.va + o) % 2 ^ 64) then dieWalk gtc m p.die p.ctx ((p.va + o) % 2 ^ 64) else m) m

/-- A post that a live warp's TPOST makes meets a fault: the warp with the operation and the fault. -/
def postFaults (m : Mach) (p : PostReq) : Option (Nat × MemOp × Exn) :=
  match p.warp with
  | none => none
  | some (k, op) => (opOf? m k op).bind fun o => (postFault m p.die p.ctx p.va).map fun e => (k, o, e)

/-- The posts that the HTS may decide: those queued, then each warp's TPOST whose release condition holds and that waits for no service of
a fault (R255, R360). -/
def readyPosts (m : Mach) : List PostReq :=
  m.posts ++ m.warps.flatMap fun (k, w) => w.ops.filterMap fun o => match o.kind with
    | .tpost va => if opReady w o && !o.failed then
        some { ctx := w.ctx, va := va, die := dieOf (clusterOf k), jseq := 0, warp := some (k, o.id) } else none
    | _ => none

/-- What follows a decision: the post is gone, TPOST's flag is set, a refused POST has failed, a created one has its handle. -/
def closePost (d : Dev) (m : Mach) (p : PostReq) (status h : Nat) : Dev × Mach :=
  let m := { m with posts := m.posts.filter fun x => x != p }
  let m := match p.warp with
    | some (k, op) => match opOf? m k op with
      | some o => finishOp m k o
      | none => m
    | none => m
  if status = 1 then
    ({ d with journal := d.journal.map fun e => if e.jseq = p.jseq && e.state < 3 && p.jseq != 0 then { e with handle := h } else e }, m)
  else (setEntry d p.jseq 4 status 0, m)

/-- NODE_CREATE (R383): `post` counts the posts that could be decided now. A TPOST of a live warp whose record cannot be translated
faults asynchronously (R404, log 37). -/
def execNodeCreate (post : Nat) (s : State) : Host.Outcome State Fault Refusal :=
  match (readyPosts s.mach)[post]? with
  | none => .next s
  | some p =>
    let m := postWalks s.dev.gtc s.mach p
    match postFaults m p with
    | some (k, o, e) => .next { s with mach := updWarp m k fun w => failOp w o 2 e }
    | none =>
      let (m, status, h) := decidePost s.dev.gtc m p
      let (d, m) := closePost s.dev m p status h
      .next { s with dev := d, mach := m }

/-! ### Placement (R14, R86, R388) -/

/-- The effective tokens of a ready node (R388). -/
def effNow (clock : Nat) (n : Node) : Nat := min 255 (n.tok + (clock - n.readyAt) / 2 ^ 20)

/-- The hardware contexts that core `j` of a team of `w` warps on `c` cores gives (R14). -/
def coreWarpsOf (w c j : Nat) : List Nat := (List.range 4).filter fun i => j + c * i < w

/-- A core that has the contexts and chunks that a team's core needs. -/
def coreFits (m : Mach) (k : Nat) (hs : List Nat) (chunks : Nat) : Bool :=
  corePresent m k && hs.all (fun h => (getWarp? m (4 * k + h)).isNone) && chunks ≤ (getCore m k).spare

/-- Distinct cores of a cluster for a team's cores. -/
def pickCores (fits : Nat → Nat → Bool) (cl : Nat) : List Nat → List Nat → Option (List Nat)
  | [], _ => some []
  | j :: rest, used => ((List.range 4).map fun i => 4 * cl + i).findSome? fun k =>
      if used.contains k || !fits j k then none else (pickCores fits cl rest (k :: used)).map fun l => k :: l

/-- The lowest base of a gap of a bank group, a multiple of 16 KiB (R86). -/
def gapAt (used : List (Nat × Nat)) (size : Nat) : Option Nat :=
  if size = 0 then some 0
  else ((List.range 32).map (· * 16384)).find? fun b =>
    b + size ≤ 0x80000 && used.all fun (u, n) => n = 0 || b + size ≤ u || u + n ≤ b

/-- What a bank group of a cluster has taken: the parts of its teams and the units reserved for pages (R86, R91). -/
def partsTaken (m : Mach) (cl : Nat) (groupB : Bool) : List (Nat × Nat) :=
  let ts := (mapVals m.teams).filter fun t => t.cluster = cl
  let us := (mapKeys (getCluster m cl).units).filter fun u => decide (8 ≤ u) = groupB
  ts.map (fun t => if groupB then (t.baseB, t.limb) else (t.baseA, t.lima)) ++
    us.map fun u => (u % 8 * 65536, 65536)

/-- Where a team goes in a cluster. -/
structure TeamPlace where
  cluster : Nat
  cores   : List Nat
  baseA   : Nat
  baseB   : Nat
  deriving DecidableEq, Repr

/-- Place a team of a node in a cluster; `need` gives the chunks that each of its cores must have, `pass` says that it holds a matrix pass,
for which the cluster's engine must be free (R46, R247, R388). -/
def fitTeam (m : Mach) (n : Node) (need : Nat → Nat) (pass : Bool) (cl : Nat) : Option TeamPlace :=
  let ts := (mapVals m.teams).filter fun t => t.cluster = cl
  let c := n.cm1 + 1
  let fits (j k : Nat) : Bool := coreFits m k (coreWarpsOf (n.wm1 + 1) c j) (need j)
  if 64 < listSum (ts.map (·.ntiles)) + n.nt || 32 < listSum (ts.map (·.nqueues)) + n.nq ||
      (pass && !(getMatrix m cl).owners.isEmpty) then none
  else match pickCores fits cl (List.range c) [], gapAt (partsTaken m cl false) (n.lima * 16384),
      gapAt (partsTaken m cl true) (n.limb * 16384) with
    | some cores, some a, some b => some { cluster := cl, cores := cores, baseA := a, baseB := b }
    | _, _, _ => none

/-- The chunks that core `j` of team `i` must have: those its saved warps hold (R46, R364). -/
def chunksNeeded (n : Node) (i j : Nat) : Nat :=
  n.saved.elim 0 fun s => listSum (s.warps.filterMap fun (t, tw, w) =>
    if t = i && tw % (n.cm1 + 1) = j then some (heldChunks w) else none)

/-- Team `i` of a saved node holds its cluster's matrix engine (R247). -/
def passSaved (n : Node) (i : Nat) : Bool :=
  n.saved.elim false fun s => s.passes.any fun (j, mx) => j = i && !mx.owners.isEmpty

/-- Team `i` of a node in a cluster. -/
def fitNth (m : Mach) (n : Node) (i cl : Nat) : Option TeamPlace := fitTeam m n (chunksNeeded n i) (passSaved n i) cl

/-- Place the teams of a node, in order, on given clusters. -/
def fitOn (m : Mach) (n : Node) (cls : List Nat) : Option (List TeamPlace) :=
  (cls.zip (List.range cls.length)).mapM fun (cl, i) => fitNth m n i cl

/-- Find a cluster for team `i` beside teams that are matched to theirs, a free one or one whose team can move on: the pairs of cluster and
team, and the clusters that have been tried. -/
def matchTeam (fits : Nat → Nat → Bool) (cls : List Nat) : Nat → Nat → List (Nat × Nat) → List Nat →
    Option (List (Nat × Nat)) × List Nat
  | 0, _, _, seen => (none, seen)
  | fuel + 1, i, pairs, seen =>
    match cls.find? fun cl => pairs.all (·.1 != cl) && fits i cl with
    | some cl => (some ((cl, i) :: pairs), seen)
    | none => cls.foldl (fun (r, seen) cl =>
        if r.isSome || seen.contains cl || !fits i cl then (r, seen)
        else match pairs.find? (·.1 = cl) with
          | none => (none, seen)
          | some (_, j) =>
            let (r, seen) := matchTeam fits cls fuel j pairs (cl :: seen)
            (r.map fun p => (cl, i) :: p.erase (cl, j), seen)) (none, seen)

/-- Distinct clusters for a node's teams, in the teams' order, whenever there are any (R388). -/
def findPlaces (m : Mach) (n : Node) (teams cls : List Nat) : Option (List Nat) :=
  let fits (i cl : Nat) : Bool := (fitNth m n i cl).isSome
  if cls.length < teams.length then none
  else (teams.foldlM (fun pairs i => (matchTeam fits cls (teams.length + 1) i pairs []).1) []).bind fun pairs =>
    teams.mapM fun i => (pairs.find? (·.2 = i)).map (·.1)

/-- Whether a node can be placed whole now. -/
def placeable (m : Mach) (n : Node) : Bool := (findPlaces m n (List.range n.clus) (userClusters m)).isSome

/-- The order in which the HTS considers ready nodes (R388). -/
def rankBefore (clock : Nat) (a b : Node) : Bool :=
  let ea := effNow clock a
  let eb := effNow clock b
  eb < ea || (ea = eb && (a.readyAt < b.readyAt || (a.readyAt = b.readyAt && a.readyNo < b.readyNo)))

/-- The nodes that the HTS may place. -/
def readyNodes (m : Mach) : List (Nat × Node) := m.nodes.filter fun (_, n) => n.stage = .ready

/-- Whether a ready node's turn has come: no node ranked above it can be placed or holds precedence at 255 (R388). -/
def turnOf (m : Mach) (n : Node) : Bool :=
  ((readyNodes m).filter fun (_, x) => rankBefore m.clock x n).all fun (_, x) => effNow m.clock x < 255 && !placeable m x

/-- Whether a list of clusters is one that user placement may name. -/
def clustersOk (m : Mach) (n : Node) (cls : List Nat) : Bool :=
  cls.length = n.clus && cls.eraseDups.length = cls.length && cls.all (userClusters m).contains

/-! ### Dispatch (R80, R327, R389) -/

/-- Where Pumal puts stacks in region 7, and where the region ends (R393, log 21). -/
def stackArena : Nat := 0x780000000000
def stackEnd : Nat := 0x800000000000

/-- What no stack of a context may touch: the stacks of its warps, live and saved, and what its nodes name, as base and length (R327). -/
def stackTaken (m : Mach) (ctx : Nat) : List (Nat × Nat) :=
  let ws := (mapVals m.warps ++ m.nodes.flatMap fun (_, n) => savedWarps n).filter fun w => w.ctx = ctx
  ws.map (fun w => (w.stklim, w.stktop - w.stklim)) ++
    ((mapVals m.nodes).filter fun n => n.ctx = ctx).flatMap fun n => [(n.tframe, n.clus * 0x80000), (n.crec, 64)]

/-- The end of something that pages from an address would touch: a thing that is taken, or a page that is mapped and may hold an object of
the task image (R327). -/
def stackClash (m : Mach) (ctx : Nat) (taken : List (Nat × Nat)) (base n : Nat) : Option Nat :=
  ((taken.find? fun (a, len) => a < base + 65536 * n && base < a + len).map fun (a, len) => a + len).orElse fun _ =>
    ((List.range n).map fun i => base + 65536 * (i + 1)).find? fun e => (walk m ctx (e - 65536)).toOption.isSome

/-- The first `n` pages from a page on, inside region 7, that touch nothing; each step passes one thing in the way. -/
def stackGap (m : Mach) (ctx n : Nat) (taken : List (Nat × Nat)) : Nat → Nat → Option Nat
  | 0, _ => none
  | fuel + 1, base =>
    if stackEnd < base + 65536 * n then none
    else match stackClash m ctx taken base n with
      | none => some base
      | some e => stackGap m ctx n taken fuel ((e + 65535) / 65536 * 65536)

/-- The stack of a warp, its limit and top, on pages that are still unmapped (R327, R394); none when region 7 has no room. -/
def newStack (m : Mach) (ctx size : Nat) : Option (Mach × Nat × Nat) :=
  let n := (size + 65535) / 65536
  let taken := stackTaken m ctx
  let (no, pages) := (getCtx? m ctx).elim (0, 0) fun c => (c.stackNo, c.pages.length)
  let fuel := taken.length + pages + 1
  ((stackGap m ctx n taken fuel (stackArena + no * 65536)).orElse fun _ => stackGap m ctx n taken fuel 0x700000000000).map fun base =>
    (updCtx m ctx fun c => { c with stackNo := max no ((base - stackArena) / 65536 + n) }, base + n * 65536 - size, base + n * 65536)

/-- The high half of a context's energy account with ESAT (R79, R453). -/
def energyHigh (c : Context) : BitVec 33 := BitVec.ofNat 33 (c.energy / 2 ^ 32 % 2 ^ 32 + bitNat c.esat * 2 ^ 32)

/-- A warp at dispatch (R80, R327). Its reads are satisfied no earlier than the dispatch, which follows the completions that made its node
ready (R106, R386, R389). DESIGN CHOICE (log 91): its rank among ready warps is its dispatch, as if a block had begun then (R17). -/
def freshWarp (c : Context) (n : Node) (h team teamw lim top order : Nat) : Warp :=
  let args : Map SReg := ((List.range 8).zip n.args).filterMap fun (i, a) =>
    if a = 0#64 then none else some (i + 1, { value := a, mark := false })
  { team := team, node := h, ctx := n.ctx, teamw := teamw, v := [], chunks := 0
    s := args ++ [(55, { value := BitVec.ofNat 64 top, mark := false })], prods := []
    ports := [], portsIn := [], flags := [], pmlo := 0#64, pmhi := 0#64, region := none, split := none
    p0 := freshPath ((n.code + 16 * n.entry) % 2 ^ 64), p1 := none, flight := [], late := [], target := []
    seq := 0, vbeat := 0, wtimer := 0, exs := 0, round := 0, gidx := 0, stklim := lim, stktop := top, sptop := lim
    elatch := energyHigh c, sup := false, ops := [], floors := (order + 1, order + 1), dones := (0, 0), touched := []
    stack := [], trapped := .running, shadow := none, record := none, pend := [], due := [], user := [], ret := false, enter := false, ext := [], ffault := [], misses := [], looked := [], mres := 0, block := none, arrived := [], grow := none
    watch64 := none, gang := none, stopped := none, watchHit := none, flushes := (0, 0, 0), count := [], hang := 0
    ready := order }

/-- Open a team in its place, its scratchpad whitewashed (R86, R408). -/
def openTeam (m : Mach) (n : Node) (h i : Nat) (p : TeamPlace) : Mach :=
  let lima := n.lima * 16384
  let limb := n.limb * 16384
  let m := whitewash m (sramKey p.cluster p.baseA) lima
  let m := whitewash m (sramKey p.cluster (0x80000 + p.baseB)) limb
  let t : Team :=
    { node := h, ctx := n.ctx, index := i, cluster := p.cluster, warps := n.wm1 + 1, cores := n.cm1 + 1, lima := lima, limb := limb
      baseA := p.baseA, baseB := p.baseB, ntiles := n.nt, nqueues := n.nq, ended := [], tiles := [], queues := [], bars := []
      lease := none, rdv := [], flushing := false }
  { m with teams := mapPut m.teams (h * 512 + i) t }

/-- The key of warp `i` of a team in its place (R14). -/
def placedWarp (n : Node) (p : TeamPlace) (i : Nat) : Nat :=
  4 * p.cores.getD (i % (n.cm1 + 1)) 0 + i / (n.cm1 + 1)

/-- Load the warps of a team; none when a stack finds no room. -/
def loadTeam (c : Context) (n : Node) (h i : Nat) (p : TeamPlace) (m : Mach) : Option Mach :=
  (List.range (n.wm1 + 1)).foldlM (fun m t => (newStack m n.ctx (n.stk * 256)).map fun (m, lim, top) =>
    setWarp (bump m) (placedWarp n p t) (freshWarp c n h (h * 512 + i) t lim top m.tick)) m

/-- Dispatch a node to its places. -/
def dispatchNode (gtc : Nat) (m : Mach) (c : Context) (h : Nat) (n : Node) (ps : List TeamPlace) : Option Mach :=
  let m := updNode m h fun n =>
    { n with stage := .running, eff := effNow m.clock n, clusters := ps.map (·.cluster), dispGtc := gtc }
  (ps.zip (List.range ps.length)).foldlM (fun m (p, i) => loadTeam c n h i p (openTeam m n h i p)) m

/-- NODE_DISPATCH (R388, R389): the chosen clusters are an input. -/
def execNodeDispatch (node : Nat) (clusters : List Nat) (s : State) : Host.Outcome State Fault Refusal :=
  let m := s.mach
  match getNode? m node with
  | none => .next s
  | some n =>
    match getCtx? m n.ctx, fitOn m n clusters with
    | some c, some ps =>
      if n.stage = .ready && n.saved.isNone && clustersOk m n clusters && turnOf m n then
        .next ((dispatchNode s.dev.gtc m c node n ps).elim s fun m => { s with mach := m, dev := setEntry s.dev n.jseq 2 0 node })
      else .next s
    | _, _ => .next s

/-! ### Completion (R385 to R387, R420) -/

/-- The completion record of a node (R387). -/
def completionWords (gtc : Nat) (c : Context) (h : Nat) (n : Node) (status : Nat) : List Nat :=
  let f : Nat × Nat × Nat := match n.first with
    | none => (0, 0, 0)
    | some o => (packFields [(56, o.flag), (47, o.tindex), (43, o.teamw), (42, o.path), (40, o.plane), (0, o.cidx)], o.seq, o.vbeat)
  [packFields [(32, h), (18, n.exs % 128), (17, bitNat n.issx), (16, bitNat c.esat), (15, bitNat n.overdec), (0, status)],
   f.1, f.2.1, f.2.2, n.energy, n.dispGtc, gtc, n.jseq]

/-- The profile record of a completed task (R420). -/
def profileTask (gtc : Nat) (m : Mach) (c : Context) (h : Nat) (n : Node) (status : Nat) : Mach :=
  if (dbgWord c 0).getLsbD 0 then
    traceWrite m n.ctx
      { typ := 6, code := 0, issx := false, member := 0, path := 0, tindex := 0, teamw := 0, nameA := h * 2 ^ 32 + status, b := 0
        gtc := gtc, extra := (List.range 28).map fun i => mapGetD n.counts i 0 }
  else m

/-- Write the completion record; one that cannot be written is noted in the health log. -/
def writeCompletion (gtc : Nat) (m : Mach) (h : Nat) (n : Node) (ws : List Nat) : Mach :=
  match ensurePage m n.ctx n.crec .write with
  | some (m, key) => writeBytes m key (wordsBytes ws)
  | none => logHealth m { healthOf 4 1 h with ctx := n.ctx, gtc := gtc }

/-- Decrement one successor's count (R386). -/
def decSucc (gtc ctx : Nat) (m : Mach) (h : Nat) : Mach :=
  match getNode? m h with
  | none => logHealth m { healthOf 4 0 h with ctx := ctx, gtc := gtc }
  | some n => updNode m h fun x => if n.pred = 0 then { x with overdec := true } else { x with pred := x.pred - 1 }

/-- Free a node with what its teams held, and set its POST's journal entry (R386 step 4). -/
def freeNode (s : State) (h : Nat) (n : Node) (status : Nat) (ws : List Nat) : State :=
  let m := s.mach
  let m := { m with nodes := mapErase m.nodes h, teams := m.teams.filter fun (_, t) => t.node != h }
  let d := oweNode (setEntry s.dev n.jseq (postState status) (if status = 0 then 0 else status) h) h n
  { s with mach := m
           dev := if n.jseq = 0 then d else { d with records := mapPut d.records n.jseq (wordsBytes ws) } }

/-- Complete a node with a status; one that was never dispatched only has its record written and is freed (R386). -/
def completeNode (s : State) (h status : Nat) : State :=
  let s := settleEnergy s h
  match getNode? s.mach h with
  | none => s
  | some n =>
    match getCtx? s.mach n.ctx with
    | none => s
    | some c =>
      let gtc := s.dev.gtc
      let ws := completionWords gtc c h n status
      if !n.dispatched then freeNode { s with mach := writeCompletion gtc s.mach h n ws } h n status ws
      else
        let m := writeCompletion gtc (profileTask gtc s.mach c h n status) h n ws
        let m := setEvents m n.ctx n.set
        let m := n.succ.foldl (decSucc gtc n.ctx) m
        let s := freeNode { s with mach := m } h n status ws
        { s with mach := wakeNodes s.mach n.ctx }

/-- The copies of a task that have not completed. -/
def taskCopies (m : Mach) (h : Nat) : List (Nat × Nat × Copy) :=
  m.clusters.flatMap fun (cl, x) => (x.copies.filter fun (_, c) => c.node = h).map fun (id, c) => (cl, id, c)

/-- A dispatched task with no warp, no copy and no deferred entry left, and nothing saved (R385). -/
def taskOver (m : Mach) (h : Nat) (n : Node) : Bool :=
  n.resident && n.saved.isNone && m.warps.all (fun (_, w) => w.node != h) && (taskCopies m h).isEmpty &&
  m.cores.all fun (_, c) => c.dacc.all (·.node != h)

/-- TASK_COMPLETE (R385, R386). -/
def execTaskComplete (node : Nat) (s : State) : Host.Outcome State Fault Refusal :=
  match getNode? s.mach node with
  | none => .next s
  | some n => .next (if taskOver s.mach node n then completeNode s node (n.status.getD 0) else s)

/-! ### Kill (R363) -/

/-- A saved task's warps go with it: their counters join the task's sums, and none of them stands stopped any more (R415, R420). -/
def dropSaved (m : Mach) (h : Nat) : Mach :=
  match getNode? m h with
  | none => m
  | some n =>
    let m := updNode m h fun n => { n with saved := none, counts := (savedWarps n).foldl (fun c w => addCounts c w.count) n.counts }
    if (savedWarps n).any (·.stopped.isSome) then noteStops m n.ctx else m

/-- Take a task's warps, deferred entries, copies, locks and scratchpad away, from a save too. -/
def clearTask (d : Dev) (m : Mach) (h : Nat) : Mach :=
  let (m, _) := takeEntries m fun e => e.node = h
  let m := (m.warps.filter fun (_, w) => w.node = h).foldl (fun m (k, _) => retireWarp d m k) m
  let m := (taskCopies m h).foldl (fun m (cl, id, _) => removeCopy m cl id) m
  let m := dropSaved m h
  ((mapVals m.teams).filter fun t => t.node = h).foldl (fun m t =>
    whitewash (whitewash m (sramKey t.cluster t.baseA) t.lima) (sramKey t.cluster (0x80000 + t.baseB)) t.limb) m

/-- Kill a task, or remove a node that was never dispatched, with a status (R363, R386). -/
def killTask (s : State) (h status : Nat) : State :=
  match getNode? s.mach h with
  | none => s
  | some n => if n.dispatched then completeNode { s with mach := clearTask s.dev s.mach h } h status else completeNode s h status

/-- TASK_KILL (R363): a kill by policy, or for a trap's code. -/
def execTaskKill (node : Nat) (status : BitVec 15) (s : State) : Host.Outcome State Fault Refusal :=
  .next (killTask s node status.toNat)

/-! ### Pre-emption policy (R362) -/

/-- The greatest c.vbeat among a task's live warps. -/
def taskBeats (m : Mach) (h : Nat) : Nat := listMax ((m.warps.filter fun (_, w) => w.node = h).map fun x => x.2.vbeat)

/-- The remaining estimate of a task. -/
def remaining (m : Mach) (h : Nat) (n : Node) : Nat := n.est - taskBeats m h

/-- The running tasks that a newcomer outranks. -/
def outranked (m : Mach) (new : Node) : List (Nat × Node) :=
  m.nodes.filter fun (_, n) => n.stage = .running && n.eff < effNow m.clock new

/-- The task to act on: the fewest effective tokens, then the youngest. -/
def victim (m : Mach) (new : Node) : Option (Nat × Node) :=
  listBest (fun a b => a.2.eff < b.2.eff || (a.2.eff = b.2.eff && (b.2.dispGtc < a.2.dispGtc ||
    (a.2.dispGtc = b.2.dispGtc && b.2.readyNo < a.2.readyNo)))) (outranked m new)

/-- What the policy does with a running task. -/
inductive Decision where
  | drain | checkpoint | kill | wait
  deriving DecidableEq, Repr

/-- The first action whose condition the task meets. -/
def decision (m : Mach) (c : Context) (h : Nat) (n : Node) (mayDrain : Bool) : Decision :=
  if mayDrain && remaining m h n ≤ c.drainlim then .drain
  else if n.ckpt then .checkpoint
  else if n.kill then .kill
  else .wait

end Sys2Proof.Machine
end

