-- ==== Sys2Proof/Machine/Saves.lean ====
section
/-!
DEFINITION. Pre-emption: the decisions of the HTS (R362), stopping a task, saving it, the save deadline, restoring it, switching
a context in (R364 to R368).
-/

namespace Sys2Proof.Machine

/-! ### Stopping a task (R364 step 1) -/

/-- The warps of a task. -/
def taskWarps (m : Mach) (h : Nat) : List (Nat × Warp) := m.warps.filter fun (_, w) => w.node = h

/-- Stop a warp that has a PREEMPT pending where it stands: at its boundary, in its block, in a debug stop, frozen in its gang. In
handler state, or frozen for another trap, it waits (R352). -/
def preemptWarp (d : Dev) (m : Mach) (k : Nat) : Mach :=
  match getWarp? m k with
  | none => m
  | some w =>
    if !w.ext.contains 0x60 || w.trapped != .running then m
    else if w.stopped.isSome || gangFrozen m w then
      takeTrap (setWarp m k { w with ext := w.ext.erase 0x60 }) k (extRecord d m w 0x60) [] (conflictDue m k w)
    else deliverAt d m k (· = .ext)

/-- Stop every warp of a task that can stop now. -/
def stopTask (d : Dev) (m : Mach) (h : Nat) : Mach := (taskWarps m h).foldl (fun m (k, _) => preemptWarp d m k) m

/-- Begin a save: leases end, each warp takes a PREEMPT; the deadline is 2 ms on the GTC (R364, R365). -/
def beginSave (d : Dev) (m : Mach) (h : Nat) (switchOut : Bool) : Mach :=
  let m := updNode m h fun n => { n with stage := .saving (d.gtc + 2000000) switchOut }
  let m := { m with teams := m.teams.map fun (t, x) => (t, if x.node = h then { x with lease := none } else x) }
  let m := (taskWarps m h).foldl (fun m (k, _) => updWarp m k fun w => raiseExt { w with hang := 0 } 0x60) m
  stopTask d m h

/-- PREEMPT (R364): of one task, for a checkpoint or for a switch-out of its context; no node has caused it (R451). -/
def execPreempt (node : Nat) (switchOut : Bool) (s : State) : Host.Outcome State Fault Refusal :=
  onMach s fun d m =>
    if (getNode? m node).elim false (·.resident) then
      beginSave d (updNode m node fun n => { n with causer := none }) node switchOut
    else m

/-! ### The policy's events (R362) -/

/-- Carry out a decision that a newcomer's effective tokens caused. -/
def actOn (s : State) (h : Nat) (by' : Option (Nat × Nat)) (x : Decision) : State :=
  let m := updNode s.mach h fun n => { n with causer := by'.orElse fun _ => n.causer }
  match x with
  | .drain => { s with mach := updNode m h fun n => { n with stage := .draining (taskBeats m h + 2 * remaining m h n) } }
  | .checkpoint => { s with mach := beginSave s.dev m h false }
  | .kill => killTask { s with mach := m } h 0x200
  | .wait => { s with mach := updNode m h fun n => { n with stage := .running } }

/-- A task drains, or is being saved, for a newcomer, which waits (R362). -/
def Node.yieldsTo (n : Node) (node : Nat) : Bool :=
  n.causer.elim false (·.2 = node) && (match n.stage with
    | .draining _ | .saving _ _ => true
    | .waiting | .ready | .running | .switched => false)

/-- PREEMPTION_DECISION (R362) for a newcomer whose turn it is, that cannot be placed and that waits for no task yet. -/
def execPreemptionDecision (node : Nat) (s : State) : Host.Outcome State Fault Refusal :=
  let m := s.mach
  match getNode? m node with
  | none => .next s
  | some new =>
    if new.stage = .ready && !placeable m new && turnOf m new && !(mapVals m.nodes).any (·.yieldsTo node) then
      match victim m new with
      | none => .next s
      | some (h, n) => match getCtx? m n.ctx with
        | some c => .next (actOn s h (some (new.ctx, node)) (decision m c h n true))
        | none => .next s
    else .next s

/-- A draining task has run twice the remaining estimate it had (R362). -/
def drainOver (m : Mach) (h : Nat) (n : Node) : Bool :=
  match n.stage with
  | .draining mark => mark ≤ taskBeats m h
  | _ => false

/-- DRAIN_REDECIDE (R362): decided again without draining while some newcomer still outranks it unplaced. -/
def execDrainRedecide (node : Nat) (s : State) : Host.Outcome State Fault Refusal :=
  let m := s.mach
  match getNode? m node with
  | none => .next s
  | some n =>
    if drainOver m node n then
      let waiting := (readyNodes m).any fun (_, x) => n.eff < effNow m.clock x && !placeable m x
      match getCtx? m n.ctx with
      | some c => .next (actOn s node none (if waiting then decision m c node n false else .wait))
      | none => .next s
    else .next s

/-! ### Saving (R364 steps 2 to 5) -/

/-- A warp by its place in its task, which does not depend on where the task runs. -/
def placeKey (tindex teamw : Nat) : Nat := 16 * tindex + teamw

/-- The place of a warp of a task. -/
def placeOfWarp (m : Mach) (k : Nat) : Nat := (getWarp? m k).elim 0 fun w => placeKey (teamIndex w.team) w.teamw

/-- Rename the warps of a matrix engine's state. -/
def rekeyMatrix (f : Nat → Nat) (mx : Matrix) : Matrix :=
  { mx with
    owners := mx.owners.map f
    mrt := mx.mrt.map fun r => { r with warp := f r.warp }
    chains := mx.chains.map fun c => { c with warp := f c.warp }
    popOf := mx.popOf.foldl (fun p (k, v) => mapPut p (f k) v) []
    mdeps := mx.mdeps.map fun d => { d with warp := f d.warp } }

/-- Rename the warps of a team. -/
def rekeyTeam (f : Nat → Nat) (t : Team) : Team :=
  { t with
    bars := t.bars.map fun (n, b) => (n, { b with arrived := b.arrived.map fun a => { a with warp := f a.warp } })
    rdv := t.rdv.map fun a => { a with warp := f a.warp, core := coreOf (f a.warp) } }

/-- A task's part of a cluster's engine, and what it leaves. -/
def splitMatrix (mine : Nat → Bool) (mx : Matrix) : Matrix × Matrix :=
  let own := mx.owners.any mine
  let ours := mx.mrt.filter fun r => mine r.warp
  let rest := mx.mrt.filter fun r => !mine r.warp
  if own then ({ mx with mrt := ours }, { Matrix.free with mrt := rest })
  else ({ Matrix.free with mrt := ours }, { mx with mrt := rest })

/-- Perform what can still be performed of a stopped warp, in order; a FLUSH that waits for others stays (R364). -/
def drainOps (gtc : Nat) (m : Mach) (k : Nat) : Mach :=
  match getWarp? m k with
  | none => m
  | some w => w.ops.foldl (fun m o =>
      match o.kind, readyOp? m k o.id with
      | .flush _, _ | .tpost _, _ | _, none => m
      | _, some o => if o.failed || remoteStuck m o && !o.kind.reads then m else performOp gtc m k o false []) m

/-- Write a warp's dirty stack lines back and leave its cache empty (R89). -/
def flushStack (gtc : Nat) (m : Mach) (k : Nat) : Mach :=
  match getWarp? m k with
  | none => m
  | some w => (mapKeys w.stack).foldl (evictLine (accessorOf gtc m w.ctx 0) k) m

/-- The bytes of a team's scratchpad by offset in the cluster, with the error marks. -/
def teamSram (m : Mach) (t : Team) : List (Nat × Byte) × List (Nat × Ecc) :=
  let mine (a : Nat) : Option Nat :=
    let o := a - sramKey t.cluster 0
    if a < sramKey t.cluster 0 then none
    else if t.baseA ≤ o && o < t.baseA + t.lima then some (o - t.baseA)
    else if 0x80000 + t.baseB ≤ o && o < 0x80000 + t.baseB + t.limb then some (o - t.baseB)
    else none
  (m.mem.filterMap fun (a, b) => (mine a).map fun o => (o, b), m.ecc.filterMap fun (a, e) => (mine a).map fun o => (o, e))

/-- The address of a task's save image (R364). -/
def imageAddr (c : Context) (n : Node) : Nat := c.savebase + c.stride * n.saveslot

/-- A copy as it is recorded: a faulted one for its replay. -/
def recordCopy (f : Nat → Nat) (c : Copy) : Copy :=
  { c.rewound with warp := f c.warp }

/-- A due fault of a copy or TPOST is found again by the replay; one of an MSTEP stays due. -/
def dropCopyFaults (m : Mach) (k : Nat) (w : Warp) : Warp :=
  let due := w.due.filter fun r => (faultedCopy m k r).isSome || w.ops.any fun o => o.kind matches .tpost _ && o.namedBy r
  { w with
    due := w.due.filter fun r => !due.contains r
    ops := w.ops.map fun o => match o.kind with
      | .tpost _ => { o with failed := o.failed && !due.any o.namedBy }
      | _ => o }

/-- The trap frame content of a stopped warp (R353, R364). -/
def frameContent (m : Mach) (k : Nat) (w : Warp) : List Byte :=
  let r := w.record.getD (extRecord { State.reset.dev with gtc := 0 } m w 0x60)
  (recordPieces r w.pend (getS w 53).value.toNat (getS w 54).value.toNat ++ latchImage m k w (w.shadow.elim false (·.conf))).foldl
    (fun bs (o, x) => patch bs o x) (List.replicate 0x8000 0#8)

/-- The dirty lines of a warp's stack cache, which its image holds (R89, R364). -/
def dirtyLines (w : Warp) : Map StackLine := (w.stack.filter fun (_, l) => l.dirty).map fun (a, l) => (a, { l with notes := [] })

/-- The recorded state of a stopped task. -/
def saveOf (m : Mach) (h gen began : Nat) : SavedTask :=
  let f := placeOfWarp m
  let ts := m.teams.filter fun (_, t) => t.node = h
  let ws := taskWarps m h
  let mine (k : Nat) : Bool := ws.any fun x => x.1 = k
  { gen := gen, size := 0, digest := [], saveGtc := began
    warps := ws.map fun (k, w) =>
      (teamIndex w.team, w.teamw, { dropCopyFaults m k w with misses := [], ffault := [], looked := [], stack := dirtyLines w })
    frames := ws.map fun (k, w) => frameContent m k w
    teams := ts.map fun (_, t) => (t.index, rekeyTeam f t)
    copies := (taskCopies m h).map fun (_, _, c) => (c.order, recordCopy f c)
    locks := ts.flatMap fun (_, t) => ((getCluster m t.cluster).locks.filter fun l => l.team / 512 = h).map fun l => (t.index, l)
    dacc := (takeEntries m fun e => e.node = h).2.map fun e => (0, e)
    passes := ts.map fun (_, t) => (t.index, rekeyMatrix f (splitMatrix mine (getMatrix m t.cluster)).1)
    gangs := (m.gangs.filter fun (_, g) => g.team / 512 = h).map fun (i, g) => (i, { g with members := g.members.map f, ahead := (0, []) })
    sram := ts.flatMap fun (_, t) => (teamSram m t).1.map fun (o, b) => (t.index, o, b)
    ecc := ts.flatMap fun (_, t) => (teamSram m t).2.map fun (o, e) => (t.index, o, e) }

/-- Take a saved task off its clusters. -/
def vacate (m : Mach) (h : Nat) : Mach :=
  let ts := (mapVals m.teams).filter fun t => t.node = h
  let ws := taskWarps m h
  let mine (k : Nat) : Bool := ws.any fun x => x.1 = k
  let m := (takeEntries m fun e => e.node = h).1
  let m := (taskCopies m h).foldl (fun m (cl, id, _) => removeCopy m cl id) m
  let m := ts.foldl (fun m t => updMatrix m t.cluster fun mx => (splitMatrix mine mx).2) m
  let m := ts.foldl (fun m t =>
    whitewash (whitewash m (sramKey t.cluster t.baseA) t.lima) (sramKey t.cluster (0x80000 + t.baseB)) t.limb) m
  let m := ws.foldl (fun m (k, w) =>
    updCore (deselect m k) (coreOf k) fun c => { c with spare := c.spare + heldChunks w }) m
  { m with warps := m.warps.filter fun (_, w) => w.node != h
           teams := m.teams.filter fun (_, t) => t.node != h
           gangs := m.gangs.filter fun (_, g) => g.team / 512 != h }

/-- A task whose warps all stand stopped for the save, with no copy under way and no post or sprint request undecided. -/
def drained (m : Mach) (h : Nat) : Bool :=
  (taskWarps m h).all (fun (_, w) => (match w.trapped with | .pumal .. => true | _ => false) && w.record.elim false (·.code = 0x60) &&
    w.ops.all fun o => match o.kind with
      | .tpost _ => o.failed
      | _ => true) &&
  (taskCopies m h).all (fun (_, _, c) => !c.started || c.fault.isSome) &&
  m.sprints.all fun r => (getWarp? m r.warp).elim true fun w => w.node != h

/-- Bits [31:0] of the digest of an image after its seal. -/
def sealDigest (bs : List Byte) : List Byte := (sha3 bs).take 4

/-- The save of a drained task: the image within its bound, then its release and seal at its first word; the dirty stack lines are written
back (R89, R364, log 22). -/
def sealTask (gtc : Nat) (m : Mach) (h : Nat) (n : Node) (c : Context) (began : Nat) (switchOut : Bool) : Mach :=
  let ks := (taskWarps m h).map (·.1)
  let m1 := ks.foldl (drainOps gtc) m
  let saved := saveOf m1 h (c.savegen + 1) began
  let body := imageBytes saved
  let first := sealDigest body ++ leBytes 4 (BitVec.ofNat 64 (c.savegen + 1))
  if imageBound n < 8 + body.length then m
  else match putRange (ks.foldl (flushStack gtc) m1) n.ctx (imageAddr c n) (first ++ body) with
  | none => m
  | some m =>
    let saved := { saved with size := body.length, digest := sealDigest body }
    let m := vacate (updCtx (bump m) n.ctx fun c => { c with savegen := c.savegen + 1 }) h
    updNode (bump m) h fun n =>
      { n with saved := some saved, clusters := [], stage := if switchOut then .switched else .ready, readyAt := m.clock, readyNo := m.tick }

/-- CONTEXT_SAVE (R364, R365): at or before the deadline. A task that has no warp left in its save completes instead. -/
def execContextSave (node : Nat) (s : State) : Host.Outcome State Fault Refusal :=
  onMach s fun d m =>
    match getNode? m node with
    | none => m
    | some n => match n.stage, getCtx? m n.ctx with
      | .saving deadline switchOut, some c =>
        let m := stopTask d m node
        if (taskWarps m node).isEmpty then updNode m node fun n => { n with stage := .running }
        else if d.gtc ≤ deadline && drained m node then sealTask d.gtc m node n c (deadline - 2000000) switchOut
        else m
      | _, _ => m

/-! ### The deadline (R365) -/

/-- A save is abandoned: the task's state is discarded, the context's memory whitewashed, the task completes with SAVE_ABANDONED. -/
def abandonSave (s : State) (h : Nat) (n : Node) : State :=
  completeNode { s with mach := washContext (clearTask s.dev s.mach h) n.ctx } h 0x300

/-- SAVE_DEADLINE (R365). -/
def execSaveDeadline (node : Nat) (s : State) : Host.Outcome State Fault Refusal :=
  match getNode? s.mach node with
  | none => .next s
  | some n => match n.stage with
    | .saving deadline _ => .next (if deadline < s.dev.gtc then abandonSave s node n else s)
    | _ => .next s

/-! ### Restoring (R366) -/

/-- The image in memory as a restore reads it, and whether it carries the seal of the stored generation and digest and its own digest is
that one (R366, log 22). -/
def sealOk (gtc : Nat) (m : Mach) (c : Context) (n : Node) (v : SavedTask) : Mach × Bool :=
  let (m, r) := rangeBytes (accessorOf gtc m n.ctx 0) m n.ctx (imageAddr c n) (8 + v.size)
  (m, r.elim false fun bs => bs.take 8 = v.digest ++ leBytes 4 (BitVec.ofNat 64 v.gen) && sealDigest (bs.drop 8) = v.digest)

/-- Bring a saved team back in its place. -/
def restoreTeam (f : Nat → Nat) (h : Nat) (v : SavedTask) (m : Mach) (i : Nat) (p : TeamPlace) : Mach :=
  match v.teams.find? fun x => x.1 = i with
  | none => m
  | some (_, t) =>
    let t := { rekeyTeam f t with cluster := p.cluster, baseA := p.baseA, baseB := p.baseB, lease := none }
    let m := whitewash (whitewash m (sramKey p.cluster p.baseA) t.lima) (sramKey p.cluster (0x80000 + p.baseB)) t.limb
    let key (o : Nat) : Nat := sramKey p.cluster (if o < 0x80000 then p.baseA + o else p.baseB + o)
    let mem := v.sram.foldl (fun x (j, o, b) => if j = i then memSet x (key o) b else x) m.mem
    let ecc := v.ecc.foldl (fun x (j, o, e) => if j = i then mapPut x (key o) e else x) m.ecc
    let m := { m with mem := mem, ecc := ecc, teams := mapPut m.teams (h * 512 + i) t }
    let locks := v.locks.filterMap fun (j, l) => if j = i then some l else none
    let cs := v.copies.filterMap fun (id, c) => if teamIndex c.team = i then some (id, { c with warp := f c.warp }) else none
    let m := updCluster m p.cluster fun x =>
      { x with locks := x.locks ++ locks, copies := cs.foldl (fun y (id, c) => mapPut y id c) x.copies }
    v.passes.foldl (fun m (j, mx) =>
      if j != i then m
      else
        let mx := rekeyMatrix f mx
        mx.mrt.foldl (fun m r => updMatrix (bump m) p.cluster fun x => { x with mrt := x.mrt ++ [{ r with order := m.tick }] })
          (if mx.owners.isEmpty then m else updMatrix m p.cluster fun x => { mx with mrt := x.mrt })) m

/-- The warp of a task's place after the restore. -/
def restoredKey (n : Node) (ps : List TeamPlace) (place : Nat) : Nat :=
  match ps[place / 16]? with
  | some p => placedWarp n p (place % 16)
  | none => 0

/-- Bring a saved warp back: the time since the save began is charged as SWITCHED (R419); lines that the L1 of its new core holds are older
than what it has seen (R98). -/
def restoreWarp (gtc : Nat) (v : SavedTask) (f : Nat → Nat) (m : Mach) (x : Nat × Nat × Warp) : Mach :=
  let (i, tw, w) := x
  let k := f (placeKey i tw)
  let m := bump m
  let m := setWarp m k { charge w 21 (gtc - v.saveGtc) with floors := (m.tick, m.tick), touched := [] }
  updCore m (coreOf k) fun c => { c with spare := c.spare - heldChunks w }

/-- Reload a sealed task on its new clusters. What was pending at the save is delivered first; a deadline that has passed is raised after it
(R366, R368). -/
def restoreTask (d : Dev) (m : Mach) (h : Nat) (n : Node) (v : SavedTask) (ps : List TeamPlace) : Mach :=
  let f := restoredKey n ps
  let m := (ps.zip (List.range ps.length)).foldl (fun m (p, i) => restoreTeam f h v m i p) m
  let m := v.warps.foldl (restoreWarp d.gtc v f) m
  let m := v.dacc.foldl (fun m (_, e) => updCore m (coreOf (f (placeKey e.tindex e.teamw))) fun c => { c with dacc := c.dacc ++ [e] }) m
  let m := v.gangs.foldl (fun m (i, g) => { m with gangs := mapPut m.gangs i { g with members := g.members.map f } }) m
  let m := updNode m h fun n =>
    { n with stage := .running, saved := none, clusters := ps.map (·.cluster), eff := effNow m.clock n }
  let m := (v.warps.zip v.frames).foldl (fun m ((i, tw, _), bs) => resumeSaved d m (f (placeKey i tw)) bs) m
  if (getCtx? m n.ctx).elim false fun c => c.gdead != 0 && c.gdead ≤ d.gtc then raiseDeadline m n.ctx else m

/-- TASK_RESTORE (R366): a seal that does not match is an abandoned save. -/
def execTaskRestore (node : Nat) (clusters : List Nat) (s : State) : Host.Outcome State Fault Refusal :=
  let m := s.mach
  match getNode? m node with
  | none => .next s
  | some n =>
    match n.saved, getCtx? m n.ctx, fitOn m n clusters with
    | some v, some c, some ps =>
      if n.stage = .ready && clustersOk m n clusters && turnOf m n then
        let (m, ok) := sealOk s.dev.gtc m c n v
        .next (if ok then { s with mach := restoreTask s.dev m node n v ps } else abandonSave { s with mach := m } node n)
      else .next s
    | _, _, _ => .next s

/-- CONTEXT_SWITCH_IN (R366): the switched-out tasks of a context rejoin the ready nodes. -/
def execContextSwitchIn (ctx : Nat) (s : State) : Host.Outcome State Fault Refusal :=
  onMach s fun _ m =>
    (m.nodes.filter fun (_, n) => n.ctx = ctx && n.stage = .switched).foldl (fun m (h, _) =>
      updNode (bump m) h fun n => { n with stage := .ready, readyAt := m.clock, readyNo := m.tick }) m

end Sys2Proof.Machine
end

