-- ==== Sys2Proof/Machine/Service.lean ====
section
/-!
DEFINITION. What Pumal does for running tasks: table walks and their outcome (R400, R401), first touches (R394), the traps
delivered to it (R350, R351), removing translations (R402).
-/

namespace Sys2Proof.Machine

/-! ### Walks (R400, R401) -/

/-- TRANSLATION_WALK (R401). -/
def execTranslationWalk (die ctx page : Nat) (s : State) : Host.Outcome State Fault Refusal :=
  onMach s fun d m =>
    if m.misses.contains { die := die, ctx := ctx, page := page } then finishWalk d.gtc m ctx page else m

/-! ### Resuming a frozen warp (R350, R351) -/

/-- Deliver the trap that was held while its frame was mapped (R350). -/
def redeliver (d : Dev) (m : Mach) (k : Nat) (w : Warp) (r : TrapRec) : Mach :=
  let conf := w.shadow.elim false (·.conf)
  takeTrap (setWarp m k { w with trapped := .running, record := none, pend := [], shadow := none }) k { r with gtc := d.gtc } w.pend conf

/-- Resume a warp that stands frozen for Pumal. -/
def resumeFrozen (d : Dev) (m : Mach) (k : Nat) : Mach :=
  match getWarp? m k with
  | none => m
  | some w => match w.trapped with
    | .pumal _ false (some r) => redeliver d m k w r
    | .pumal _ false none => match frameKey? m k w with
      | some key => leaveTrap d m k key true
      | none => m
    | _ => m

/-- The page is mapped, or can be mapped now (R394). -/
def serveTouch (m : Mach) (ctx va : Nat) : Option Mach :=
  match walk m ctx va with
  | .ok _ => some m
  | .error e => if e.code = 0x40 && canonical va then mapPage m ctx va else none

/-- A warp frozen for a first touch of a page. -/
def waitsTouch (ctx page : Nat) (w : Warp) : Bool :=
  w.ctx = ctx && (match w.trapped with
    | .pumal _ false _ => true
    | _ => false) && w.record.elim false fun r => r.code = 0x40 && r.addr / 65536 = page

/-- FIRST_TOUCH_SERVICE (R394): every warp frozen for the page resumes, or their tasks are killed when the service refuses. -/
def execFirstTouchService (ctx : Nat) (va : DWord) (s : State) : Host.Outcome State Fault Refusal :=
  let m := s.mach
  let ks := m.warps.filter fun (_, w) => waitsTouch ctx (va.toNat / 65536) w
  if ks.isEmpty then .next s
  else match serveTouch m ctx va.toNat with
    | some m => .next { s with mach := (ks.map (·.1)).foldl (resumeFrozen s.dev) m }
    | none => .next ((ks.map fun x => x.2.node).eraseDups.foldl (fun s h => killTask s h 0x140) s)

/-! ### Traps delivered to Pumal (R351) -/

/-- What Pumal does with a record: resume the warp, resume it after mapping the page at an address, leave it frozen for the
pre-emption policy, or kill the task. -/
inductive PumalAct where
  | resume | touch (va : Nat) | leave | kill
  deriving DecidableEq, Repr

/-- Pumal's action on a code (R351); a nested trap kills (R352). -/
def pumalAct (r : TrapRec) (inHandler : Bool) : PumalAct :=
  if r.code = 0x60 then .leave
  else if inHandler then .kill
  else if r.code = 0x40 then .touch r.addr
  else if r.code = 0x61 || r.code = 0x63 then .resume
  else .kill

/-- PUMAL_TRAP_SERVICE (R351). -/
def execPumalTrapService (warp : Nat) (s : State) : Host.Outcome State Fault Refusal :=
  match getWarp? s.mach warp with
  | none => .next s
  | some w => match w.trapped, w.record with
    | .pumal _ inHandler _, some r =>
      let resumed (m : Mach) : State := { s with mach := resumeFrozen s.dev m warp }
      let killed : State := killTask s w.node (0x100 + r.code)
      match pumalAct r inHandler with
      | .leave => .next s
      | .resume => .next (resumed s.mach)
      | .touch va => match serveTouch s.mach w.ctx va with
        | some m => .next (resumed m)
        | none => .next killed
      | .kill => .next killed
    | _, _ => .next s

/-! ### Removing translations (R402) -/

/-- What a request covers: a context's pages, or everything. -/
structure TlbScope where
  ctx   : Option Nat
  range : Option (Nat × Nat)

/-- A page range of a context lies under a request. -/
def TlbScope.covers (q : TlbScope) (ctx page n : Nat) : Bool :=
  q.ctx.elim true (· = ctx) && q.range.elim true fun (base, k) => base < page + n && page < base + k

/-- A TLB entry lies under a request. -/
def TlbScope.hits (q : TlbScope) (e : TlbEntry) : Bool := q.covers e.ctx e.page (2 ^ (pageBits e.level - 16))

/-- Remove the entries that a request covers from every TLB of the package. -/
def dropTlbs (m : Mach) (q : TlbScope) : Mach :=
  let keep (l : List TlbEntry) : List TlbEntry := l.filter fun e => !q.hits e
  let m := (mapKeys m.cores).foldl (fun m c => updCore m c fun x => { x with tlb := keep x.tlb }) m
  let m := (mapKeys m.clusters).foldl (fun m c => updCluster m c fun x => { x with tlb := keep x.tlb }) m
  { m with tlb0 := keep m.tlb0, tlb1 := keep m.tlb1 }

/-- The page of an address, as TLBs number it. -/
def vaPage (va : Nat) : Nat := va % 2 ^ 57 / 65536

/-- The global ranges of a copy: base and length. -/
def copyGlobals (c : Copy) : List (Nat × Nat) :=
  (c.src.toList.filter (!·.scratch)).map (fun s => (s.base, copySrcLen c.mode c.len)) ++
    (if c.dst.scratch then [] else [(c.dst.base, copyDstLen c.mode c.qfmt c.len)])

/-- Some access or command translated with a covered entry has still to perform its accesses. -/
def tlbBusy (m : Mach) (q : TlbScope) : Bool :=
  m.warps.any (fun (_, w) => w.ops.any fun o => o.acc.any fun a => q.covers w.ctx (vaPage a.va) 1) ||
  m.cores.any (fun (_, c) => c.dacc.any fun e => q.covers e.ctx (vaPage e.va) 1) ||
  m.clusters.any fun (_, x) => x.copies.any fun (_, c) => c.started && (copyGlobals c).any fun (base, n) =>
    q.covers c.ctx (vaPage base) ((base % 65536 + n + 65535) / 65536)

/-- Carry a request out: the entries go at once; GO falls when nothing translated with them is left (R402). -/
def tlbi (s : State) (q : TlbScope) : State :=
  let m := dropTlbs s.mach q
  let ctl := if tlbBusy m q then s.dev.tlbiCtl else s.dev.tlbiCtl &&& ~~~(2#64 ^ 63)
  { s with mach := m, dev := { s.dev with tlbiCtl := ctl } }

/-- TLBI_CONTEXT (R402). -/
def execTlbiContext (ctx : Nat) (s : State) : Host.Outcome State Fault Refusal := .next (tlbi s { ctx := some ctx, range := none })

/-- TLBI_RANGE (R402). -/
def execTlbiRange (ctx base pages : Nat) (s : State) : Host.Outcome State Fault Refusal :=
  .next (tlbi s { ctx := some ctx, range := some (base, pages) })

/-- TLBI_ALL (R402). -/
def execTlbiAll (s : State) : Host.Outcome State Fault Refusal := .next (tlbi s { ctx := none, range := none })

end Sys2Proof.Machine
end

