-- ==== Sys2Proof/Machine/Copies.lean ====
section
/-!
DEFINITION. Copies in progress (R104, R113, R228 to R236, R360, R361, R390, R392): when one may start, what each piece of it
reads and writes, its completion and its faults. A piece is one destination word of a plain copy, one record of an unpack,
one block of a pack or quantise.
-/

namespace Sys2Proof.Machine

/-! ### Starting (R104, R231, R232, R234, R235) -/

/-- An earlier command of the warp's ordered stream is not finished (R235). -/
def streamHeld (m : Mach) (c : Copy) : Bool :=
  c.ord && (mapVals m.clusters).any fun x => (mapVals x.copies).any fun b =>
    b.ord && b.team = c.team && b.teamw = c.teamw && b.order < c.order

/-- A store or atomic that the issuer issued before the copy is not acknowledged (R104). -/
def storesHeld (m : Mach) (c : Copy) : Bool :=
  c.live && (getWarp? m c.warp).elim false fun w => w.ops.any fun o => c.waits.contains o.id

/-- Whether a copy may perform accesses. -/
def mayRun (gtc : Nat) (m : Mach) (c : Copy) : Bool :=
  c.fault.isNone && (c.started ||
    (c.launch.elim true (· ≤ gtc) && !storesHeld m c && !streamHeld m c && !lockHeld m c &&
      (getNode? m c.node).elim false fun n => match n.stage with
        | .saving .. => false
        | _ => true))

/-! ### Addresses (R229 to R232, R237, R390, R392, R404) -/

/-- A run of bytes of one side: its memory key, its virtual address, its length; whether it lies in another package; the translation that a
global one uses. -/
structure Piece where
  key    : Nat
  va     : Nat
  n      : Nat
  remote : Bool
  entry  : Option TlbEntry
  deriving DecidableEq, Repr

/-- What stops a copy: a fault, with what its unit had read by then, or a page for whose walk it waits (R401). -/
inductive Halt where
  | fault (e : Exn) (read : List Piece)
  | miss (page : Nat)
  deriving DecidableEq, Repr

/-- The lowest address of a range that lies in a page (R404). -/
def faultAddr (base va : Nat) : Nat := max base (va / 65536 * 65536)

/-- Translate a run of bytes within one page through the TLBs that serve engines (R400, R401). -/
def globalPiece (m : Mach) (c : Copy) (base : Nat) (k : AccKind) (sd : Bool) (va n : Nat) : Except Halt Piece :=
  let at_ := faultAddr base va
  let stop (code level : Nat) : Halt := .fault { code := code, addr := at_, info := xinfo k level } []
  if !canonical va then .error (stop TrapName.addrCanon.code 0)
  else match engineLookup m (clusterOf c.warp) c.ctx va with
    | some e => match leafAccess m k sd e.leaf with
      | some code => .error (stop code e.level)
      | none => .ok { key := homeKey m e.level e.leaf va, va := va, n := n, remote := leafRemote m.pkg e.leaf, entry := some e }
    | none => match c.ffault.find? (·.1 = va / 65536) with
      | some (_, code, level) => .error (stop code level)
      | none => .error (.miss (va / 65536))

/-- The pieces of `n` bytes at an offset of a side; `team` is the team whose scratchpad a scratchpad side means. -/
def sidePieces (m : Mach) (c : Copy) (s : CopySide) (team : Nat) (k : AccKind) (sd : Bool) (o n : Nat) : Except Halt (List Piece) :=
  if s.scratch then
    .ok ((List.range ((n + 3) / 4)).map fun i =>
      let at_ := o + 4 * i
      let key := match c.tile.bind (teamTile? m c.team) with
        | some t => tileKey m team t at_
        | none => (getTeam? m team).elim 0 fun t => spKey t (s.base + at_)
      { key := key, va := 0, n := min 4 (n - 4 * i), remote := false, entry := none })
  else
    let va := s.base + o
    let here := min n (65536 - va % 65536)
    (([(va, here), (va + here, n - here)].filter fun x => x.2 != 0)).mapM fun (a, len) => globalPiece m c s.base k sd a len

/-- The bytes of pieces, each with whether its word is poisoned. -/
def pieceBytes (m : Mach) (ps : List Piece) : List (Byte × Bool) :=
  ps.flatMap fun p => ((memBytes m p.key p.n).zip (List.range p.n)).map fun (b, i) => (b, wordBad m (p.key + i))

/-- A copy that finds its pages on the wrong side, or no port to them (R228, R392); bytes in hand have the side from which they were
read. -/
def remoteFault (m : Mach) (c : Copy) (src dst : List Piece) : Option Exn :=
  let rs := src.any (·.remote) || c.hold.remote
  let rd := dst.any (·.remote)
  let glob (ps : List Piece) (s : Option CopySide) : Option (Nat × Nat) :=
    match s, ps.head? with
    | some s, some p => if s.scratch then none else some (s.base, p.va)
    | _, _ => none
  let at_ : Nat := match (if rs || !rd then glob src c.src else none).orElse fun _ => glob dst (some c.dst) with
    | some (b, va) => faultAddr b va
    | none => 0
  let wrong : Bool := match c.op with
    | .cpyr => decide (rs = rd)
    | .cpyat => false
    | _ => rs || rd
  if wrong then some { code := TrapName.copyRemote.code, addr := at_ }
  else if (src ++ dst).any (fun p => p.remote && cutOff m p.key) then some { code := TrapName.remoteFail.code, addr := at_ }
  else none

/-! ### What a piece delivers (R113, R130 to R136, R230) -/

/-- One unit of a copy: what it reads, what it writes to each target, the bytes with their poison, the flags it raises, what it leaves in
hand. -/
structure CUnit where
  src   : List Piece
  dst   : List (List Piece)
  out   : List (Byte × Bool)
  flags : Nat
  hold  : CopyHold

/-- A poisoned byte of a source has no stated value: the unit computes with a free one. -/
def freeByte (m : Mach) (i : Nat) (b : Byte × Bool) : Byte × Bool :=
  if b.2 then ((Config.freeValue (m.tick + i)).setWidth 8, true) else b

/-- Bytes with free values for the poisoned ones. -/
def freeBytes (m : Mach) (bs : List (Byte × Bool)) : List (Byte × Bool) :=
  (bs.zip (List.range bs.length)).map fun (b, i) => freeByte m i b

/-- Byte `i` as a number, and its poison. -/
def valAt (bs : List (Byte × Bool)) (i : Nat) : Nat := ((bs.getD i (0#8, false)).1).toNat
def badAt (bs : List (Byte × Bool)) (i : Nat) : Bool := (bs.getD i (0#8, false)).2

/-- The record bytes that element `i` of a group takes in a block (R131). -/
def elemBytes (f : BFmt) (i : Nat) : List Nat :=
  match f with
  | .m7 => [2 + i]
  | .m4 => [2 + i / 8, 4 + i / 2]
  | .m2 => [2 + i / 8, 4 + i / 4]

/-- The header of a block that a copy reads; a poisoned one is some legal header. -/
def headOf (bs : List (Byte × Bool)) : BlockHead :=
  if badAt bs 0 || badAt bs 1 then
    match bfmtOf (valAt bs 0 / 16 % 4) with
    | none => .zero (valAt bs 0 % 15 + 1)
    | some f => .groups f (sextNat 8 (valAt bs 1)) (valAt bs 0 % (f.groups + 1))
  else blockHead (valAt bs 0) (valAt bs 1)

/-- The group record of group `g` of a block (R230). -/
def recordOfBlock (bs : List (Byte × Bool)) (h : BlockHead) (g : Nat) : List (Byte × Bool) :=
  let hb := badAt bs 0 || badAt bs 1
  match h with
  | .groups f _ _ =>
    let r := (bs.drop (2 + g * f.size)).take f.size
    let raw := r.map (·.1)
    let el (i : Nat) : Byte × Bool :=
      let (s, mag) := recElem f raw i
      (BitVec.ofNat 8 (bitNat s * 128 + mag), hb || (elemBytes f i).any (badAt r))
    [(BitVec.ofNat 8 f.code, hb), (BitVec.ofNat 8 (valAt bs 1), hb), (BitVec.ofNat 8 (valAt r 0), hb || badAt r 0),
      (BitVec.ofNat 8 (valAt r 1), hb || badAt r 1)] ++ (List.range 16).map el ++ List.replicate 12 (0#8, hb)
  | _ => [(0#8, hb), (BitVec.ofNat 8 (valAt bs 1), hb)] ++ List.replicate 30 (0#8, hb)

/-- The groups that a block gives; none for a faulty one. -/
def BlockHead.count : BlockHead → Option Nat
  | .zero n => some n
  | .groups _ _ n => some n
  | .bad => none

/-- Read on in a block stream to the next block that gives a group (R134): its bytes, the pieces read, the blocks read by then. -/
def nextBlock (m : Mach) (c : Copy) (s : CopySide) : Nat → Nat → List Piece → Except Halt (List (Byte × Bool) × List Piece × Nat)
  | 0, _, read => .error (.fault { code := TrapName.copyLength.code } read)
  | n + 1, j, read =>
    if c.len ≤ j then .error (.fault { code := TrapName.copyLength.code } read)
    else match sidePieces m c s c.team .copySrc true (64 * j) 64 with
    | .error e => .error e
    | .ok ps =>
      let bs := freeBytes m (pieceBytes m ps)
      match (headOf bs).count with
      | none => .error (.fault { code := TrapName.blockFormat.code, addr := s.base + 64 * j } (read ++ ps))
      | some 0 => nextBlock m c s n (j + 1) (read ++ ps)
      | some _ => .ok (bs, read ++ ps, j + 1)

/-- A record that a pack reads: its legal form where it is poisoned, none where it is faulty (R230). -/
def packRecord (bs : List (Byte × Bool)) : Option (List (Byte × Bool)) :=
  let f := valAt bs 0
  if badAt bs 0 then
    let f := f % 4
    let top := (bfmtOf f).elim 128 fun b => 2 ^ b.m
    some ((bs.zip (List.range 32)).map fun ((b, p), i) =>
      if i = 0 then (BitVec.ofNat 8 f, p)
      else if 4 ≤ i then (BitVec.ofNat 8 (b.toNat / 128 * 128 + b.toNat % 128 % top), p) else (b, p))
  else
    let top := (bfmtOf f).elim 128 fun b => 2 ^ b.m
    let big (i : Nat) : Bool := top ≤ valAt bs (4 + i) % 128
    if 3 < f || (f != 0 && (List.range 16).any fun i => big i && !badAt bs (4 + i)) then none
    else some ((bs.zip (List.range 32)).map fun ((b, p), i) =>
      if 4 ≤ i && p then (BitVec.ofNat 8 (b.toNat / 128 * 128 + b.toNat % 128 % top), p) else (b, p))

/-- The groups that a block of a format code holds at most (R131, R230). -/
def groupsOf (f : Nat) : Nat := (bfmtOf f).elim 15 (·.groups)

/-- A record joins the block of a first record and `n` in all (R230). -/
def joinsBlock (n : Nat) (h r : List (Byte × Bool)) : Bool :=
  n < groupsOf (valAt h 0) && valAt h 0 = valAt r 0 && valAt h 1 = valAt r 1

/-- Read records into a block until it is full or one does not join it (R230): its records, the pieces read, what is left in hand. -/
def nextRecords (m : Mach) (c : Copy) (s : CopySide) :
    Nat → Nat → List (List (Byte × Bool)) → List Piece → Except Halt (List (List (Byte × Bool)) × List Piece × CopyHold)
  | 0, i, cur, read => .ok (cur, read, { remote := false, srcAt := i, grp := 0, held := [] })
  | n + 1, i, cur, read =>
    if c.len ≤ i || cur.head?.any (fun h => groupsOf (valAt h 0) ≤ cur.length) then .ok (cur, read, { remote := false, srcAt := i, grp := 0, held := [] })
    else match sidePieces m c s c.team .copySrc false (32 * i) 32 with
      | .error e => .error e
      | .ok ps => match packRecord (freeBytes m (pieceBytes m ps)) with
        | none => .error (.fault { code := TrapName.blockFormat.code, addr := s.base + 32 * i } (read ++ ps))
        | some r =>
          if cur.head?.elim true fun h => joinsBlock cur.length h r then nextRecords m c s n (i + 1) (cur ++ [r]) (read ++ ps)
          else .ok (cur, read ++ ps, { remote := false, srcAt := i + 1, grp := 0, held := r })

/-- A group record's bytes in a block, with what poisons them. -/
def blockBytes (f : BFmt) (r : List (Byte × Bool)) : List (Byte × Bool) :=
  let signs := (List.range 16).map fun i => decide (128 ≤ valAt r (4 + i))
  let mags := (List.range 16).map fun i => valAt r (4 + i) % 128
  let bytes := recBytes f (valAt r 2) (valAt r 3) signs mags
  (bytes.zip (List.range bytes.length)).map fun (b, j) =>
    (b, if j = 0 then badAt r 2 else if j = 1 then badAt r 3
      else (List.range 16).any fun i => (elemBytes f i).contains j && badAt r (4 + i))

/-- A whole block of records (R130, R230). -/
def packedBlock (rs : List (List (Byte × Bool))) : List (Byte × Bool) :=
  let h := rs.headD []
  let fc := valAt h 0
  let body := match bfmtOf fc with
    | some f => rs.flatMap (blockBytes f)
    | none => []
  let bs := [(BitVec.ofNat 8 (fc * 16 + rs.length), rs.any (badAt · 0)), (BitVec.ofNat 8 (valAt h 1), rs.any (badAt · 1))] ++ body
  bs ++ List.replicate (64 - bs.length) (0#8, false)

/-- A group of 16 FP32 words quantised: its record with its poison, and the flags (R136). -/
def quantGroup (f : BFmt) (sigma : Int) (bs : List (Byte × Bool)) : List (Byte × Bool) × Nat :=
  let raw := bs.map (·.1)
  let bad := bs.any (·.2)
  let q := quantise f sigma ((List.range 16).map fun i => ofLe 32 ((raw.drop (4 * i)).take 4))
  (q.1.map fun b => (b, bad), q.2)

/-! ### Units -/

/-- The destination's pieces for each team that a copy writes to. -/
def dstPieces (m : Mach) (c : Copy) (sd : Bool) (o n : Nat) : Except Halt (List (List Piece)) :=
  let teams := if c.op = .cpym then c.targets.map (c.node * 512 + ·) else [c.team]
  teams.mapM fun t => sidePieces m c c.dst t .copyDst sd o n

/-- Put a unit together, with the remote rules. -/
def unitOf (m : Mach) (c : Copy) (src : List Piece) (sd : Bool) (o : Nat) (out : List (Byte × Bool)) (flags : Nat) (hold : CopyHold) :
    Except Halt CUnit :=
  match dstPieces m c sd o out.length with
  | .error e => .error e
  | .ok ds => match remoteFault m c src ds.flatten with
    | some e => .error (.fault e [])
    | none => .ok { src := src, dst := ds, out := out, flags := flags, hold := hold }

/-- The offset after the word that holds byte `o` of a side; a tile's rows start at whole words. -/
def wordEnd (c : Copy) (s : CopySide) (o : Nat) : Nat :=
  let base := if c.tile.isSome && s.scratch then 0 else s.base
  (base + o) / 8 * 8 + 8 - base

/-- Unit `k` of a plain copy: one destination word. Source words that it does not have in hand are read whole (R96). -/
def plainUnit (m : Mach) (c : Copy) (k : Nat) : Option (Except Halt CUnit) :=
  let lead := if c.tile.isSome && c.dst.scratch then 0 else c.dst.base % 8
  let lo := 8 * k - lead
  let hi := min c.len (8 * (k + 1) - lead)
  if hi ≤ lo then none
  else match c.src with
    | none => some (unitOf m c [] false lo (List.replicate (hi - lo) (0#8, false)) 0 c.hold)
    | some s =>
      let first := lo + c.hold.held.length
      match if hi ≤ first then .ok [] else sidePieces m c s c.team .copySrc false first (min c.len (wordEnd c s (hi - 1)) - first) with
      | .error e => some (.error e)
      | .ok ps =>
        let bs := c.hold.held ++ pieceBytes m ps
        some (unitOf m c ps false lo (bs.take (hi - lo)) 0 { c.hold with
          held := bs.drop (hi - lo), remote := hi - lo < bs.length && (if ps.isEmpty then c.hold.remote else ps.any (·.remote)) })

/-- Unit `k` of an unpack: one record. -/
def unpackUnit (m : Mach) (c : Copy) (s : CopySide) (k : Nat) : Option (Except Halt CUnit) :=
  let out (ps : List Piece) (h : CopyHold) : Except Halt CUnit :=
    unitOf m c ps false (32 * k) (recordOfBlock h.held (headOf h.held) h.grp) 0 { h with grp := h.grp + 1 }
  if c.len ≤ k then none
  else if !c.hold.held.isEmpty && c.hold.grp < ((headOf c.hold.held).count).getD 0 then some (out [] c.hold)
  else some (match nextBlock m c s (c.len + 1) c.hold.srcAt [] with
    | .error e => .error e
    | .ok (bs, ps, j) => out ps { remote := false, srcAt := j, grp := 0, held := bs })

/-- Unit `k` of a pack: one block. -/
def packUnit (m : Mach) (c : Copy) (s : CopySide) (k : Nat) : Option (Except Halt CUnit) :=
  let cur := if c.hold.held.isEmpty then [] else [c.hold.held]
  if cur.isEmpty && c.len ≤ c.hold.srcAt then none
  else some (match nextRecords m c s 17 c.hold.srcAt cur [] with
    | .error e => .error e
    | .ok (rs, ps, h) => unitOf m c ps true (64 * k) (packedBlock rs) 0 h)

/-- Unit `k` of a quantise: one block. -/
def quantUnit (m : Mach) (c : Copy) (s : CopySide) (k : Nat) : Option (Except Halt CUnit) :=
  match bfmtOf c.qfmt with
  | none => none
  | some f =>
    let gs := (List.range f.groups).filterMap fun i => if k * f.groups + i < c.len then some (k * f.groups + i) else none
    if gs.isEmpty then none
    else match gs.mapM fun g => sidePieces m c s c.team .copySrc false (64 * g) 64 with
      | .error e => some (.error e)
      | .ok pss =>
        let qs := pss.map fun ps => quantGroup f (sextNat 8 c.sig) (freeBytes m (pieceBytes m ps))
        let bs := [(BitVec.ofNat 8 (f.code * 16 + gs.length), false), (BitVec.ofNat 8 c.sig, false)] ++ qs.flatMap (·.1)
        some (unitOf m c pss.flatten true (64 * k) (bs ++ List.replicate (64 - bs.length) (0#8, false))
          (qs.foldl (fun n q => n ||| q.2) 0) c.hold)

/-- Unit `k` of a copy; none past its end. -/
def copyUnit (m : Mach) (c : Copy) (k : Nat) : Option (Except Halt CUnit) :=
  match c.mode, c.src with
  | 0, _ => plainUnit m c k
  | 1, some s => unpackUnit m c s k
  | 2, some s => packUnit m c s k
  | 3, some s => quantUnit m c s k
  | _, _ => none

/-- Write bytes to pieces; a word that takes a poisoned byte gets the poison syndrome (R113). -/
def writePieces (x : Accessor) (m : Mach) (ps : List Piece) (out : List (Byte × Bool)) : Mach :=
  let cells := (ps.flatMap fun p => (List.range p.n).map fun i => p.key + i).zip out
  let m := writeNoted x m (cells.map fun (a, b, _) => (a, [b]))
  ((cells.filter fun (_, _, bad) => bad).map fun (a, _) => wordOf a).eraseDups.foldl poisonWord m

/-- Who makes a copy's accesses (R116). -/
def Copy.accessor (gtc : Nat) (m : Mach) (c : Copy) : Accessor := accessorOf gtc m c.ctx (nameWord c.seq c.plane c.cidx)

/-- The words of pieces that a copy has read and finds in error are recorded, single errors corrected (R112, R113). -/
def notePieces (gtc : Nat) (m : Mach) (c : Copy) (ps : List Piece) : Mach :=
  (touchedWords (ps.map fun p => (p.key, List.replicate p.n 0#8))).foldl (noteRead (c.accessor gtc m) · · 8) m

/-- Perform a unit: its reads and its writes at one instant (log 66). -/
def applyUnit (gtc : Nat) (m : Mach) (c : Copy) (u : CUnit) : Mach :=
  let x := c.accessor gtc m
  let m := ((u.src ++ u.dst.flatten).filterMap (·.entry)).eraseDups.foldl (clusterFill · (clusterOf c.warp)) m
  let m := notePieces gtc m c u.src
  bump (u.dst.foldl (fun m ps => writePieces x m ps u.out) m)

/-- What watchpoints see of a unit. -/
def unitSeen (c : Copy) (u : CUnit) : List Seen :=
  (if c.src.elim true (·.scratch) then [] else u.src.map fun p => { va := p.va, n := p.n, write := false }) ++
  (if c.dst.scratch then [] else u.dst.flatten.map fun p => { va := p.va, n := p.n, write := true })

/-- Perform up to `n` units in ascending order (log 66): the machine, the copy, what watchpoints see, what stopped it, whether it is at its
end. -/
def runUnits (gtc : Nat) : Nat → Mach → Copy → List Seen → Mach × Copy × List Seen × Option Halt × Bool
  | 0, m, c, seen => (m, c, seen, none, false)
  | n + 1, m, c, seen =>
    match copyUnit m c c.doneW with
    | none => (m, c, seen, none, true)
    | some (.error (.fault e ps)) => (notePieces gtc m c ps, c, seen, some (.fault e ps), false)
    | some (.error e) => (m, c, seen, some e, false)
    | some (.ok u) =>
      runUnits gtc n (applyUnit gtc m c u) { c with doneW := c.doneW + 1, exs := c.exs ||| u.flags, hold := u.hold }
        (seen ++ unitSeen c u)

/-- A bound on a copy's units. -/
def unitBound (c : Copy) : Nat := c.len + 2

/-! ### Events -/

/-- A copy by its cluster and number. -/
def copyAt? (m : Mach) (cluster id : Nat) : Option Copy := mapGet? (getCluster m cluster).copies id

/-- Keep a copy's progress. -/
def putCopy (m : Mach) (cluster id : Nat) (c : Copy) : Mach := updCluster m cluster fun x => { x with copies := mapPut x.copies id c }

/-- The issuing warp of a copy while it is live. -/
def issuer? (m : Mach) (c : Copy) : Option (Nat × Warp) := if c.live then (getWarp? m c.warp).map fun w => (c.warp, w) else none

/-- Write the watch records of what a copy has just accessed (R427). -/
def copyHits (gtc : Nat) (m : Mach) (c : Copy) (seen : List Seen) : Mach × Copy :=
  let r : TraceRec := { typ := 4, code := 0, issx := (issuer? m c).isNone
                        member := (issuer? m c).elim 0 fun x => memberOf x.2, path := c.path, tindex := teamIndex c.team
                        teamw := c.teamw, nameA := nameWord c.seq c.plane c.cidx, b := 0, gtc := gtc, extra := [] }
  (watchHits m c.ctx r 1 ((issuer? m c).map (·.1)) c.hits seen, { c with hits := c.hits ++ watchedBy m c.ctx seen })

/-- Run a copy through `n` units and keep its progress; the page that stops it enters the miss table (R401). -/
def advanceCopy (gtc : Nat) (m : Mach) (cluster id n : Nat) (c : Copy) : Mach × Copy × Option Halt × Bool :=
  let (m, c, seen, e, fin) := runUnits gtc n m { c with started := true, misses := [] } []
  let (m, c) := copyHits gtc m c seen
  match e with
  | some (.miss p) =>
    let c := { c with misses := [p] }
    (postMiss (putCopy m cluster id c) { die := dieOf (clusterOf c.warp), ctx := c.ctx, page := p }, c, e, fin)
  | _ => (putCopy m cluster id c, c, e, fin)

/-- COPY_START (R231): the copy begins, or goes on, with some of its units. -/
def execCopyStart (cluster id words : Nat) (s : State) : Host.Outcome State Fault Refusal :=
  onMach s fun d m => match copyAt? m cluster id with
    | some c => if mayRun d.gtc m c then (advanceCopy d.gtc m cluster id words c).1 else m
    | none => m

/-- CPYAT_LAUNCH (R232). -/
def execCpyatLaunch (cluster id : Nat) (s : State) : Host.Outcome State Fault Refusal :=
  onMach s fun d m => match copyAt? m cluster id with
    | some c =>
      if c.launch.elim false (· ≤ d.gtc) then putCopy m cluster id { c with launch := none, started := c.started || mayRun d.gtc m c } else m
    | none => m

/-- The point of logical order of a copy: its issue beat (R51, R231). -/
def Copy.occurrence (c : Copy) : Occurrence :=
  { tindex := teamIndex c.team, teamw := c.teamw, vbeat := c.vbeat, plane := c.plane, path := c.path, flag := 0, cmd := 1 + c.seq
    cidx := c.cidx, seq := c.seq }

/-- A copy's end: flags, locks, tile, completion flag (R231, R237). -/
def finishCopy (m : Mach) (cluster id : Nat) (c : Copy) : Mach :=
  let m := match issuer? m c with
    | some (k, _) => raiseWarp m k c.exs
    | none => m
  let m := raiseNode m c.node c.exs c.occurrence
  let m := match c.tile with
    | some n => updTile m c.team n fun t => { t with state := if c.dst.scratch then .ready else .empty }
    | none => m
  let m := bump (removeCopy m cluster id)
  match issuer? m c, c.flag with
  | some (k, _), some f => updWarp m k fun w => completeFlag w f m.tick
  | _, _ => m

/-- COPY_COMPLETE (R231): the rest of the copy is performed without a fault, and it ends; or it goes on to a page that it must wait for. -/
def execCopyComplete (cluster id : Nat) (s : State) : Host.Outcome State Fault Refusal :=
  onMach s fun d m => match copyAt? m cluster id with
    | none => m
    | some c =>
      if !mayRun d.gtc m c then m
      else match advanceCopy d.gtc m cluster id (unitBound c) c with
        | (m', c', none, true) => finishCopy m' cluster id c'
        | (m', _, some (.miss _), _) => m'
        | _ => m

/-- The record of a copy's fault. -/
def copyRecord (d : Dev) (m : Mach) (c : Copy) (e : Exn) : TrapRec :=
  { code := e.code, cls := 2, slot := 2, plane := c.plane, path := c.path
    member := (issuer? m c).elim 0 fun (_, w) => if w.gang.isSome then w.gidx else 0
    lane := 0, imm := 0, issx := (issuer? m c).isNone, nested := false, skip := false, pc := c.pc, seq := c.seq, addr := e.addr
    info := e.info, resume := 0, vbeat := 0, gtc := d.gtc }

/-- Trace a fault that goes to Pumal because the issuer has ended (R418). -/
def traceOrphan (m : Mach) (c : Copy) (r : TrapRec) : Mach :=
  if (getCtx? m c.ctx).elim false (dbgCtl · 7) then
    traceWrite m c.ctx { typ := 5, code := r.code, issx := true, member := 0, path := c.path, tindex := teamIndex c.team, teamw := c.teamw
                         nameA := nameWord c.seq c.plane c.cidx, b := r.addr, gtc := r.gtc, extra := [] }
  else m

/-- A fault of a copy whose issuer has ended (R361): Pumal serves a first touch and replays; another translation fault, or one whose service
the paging policy refuses, kills the task (R351, R394); for any other code the copy is abandoned, and the task completes with the code. -/
def orphanFault (s : State) (cluster id : Nat) (c : Copy) (r : TrapRec) : State :=
  let m := traceOrphan s.mach c r
  match if r.code = 0x40 then serveTouch m c.ctx r.addr else none with
  | some m => { s with mach := replayCopy m cluster id }
  | none =>
    let m := updNode m c.node fun n => { n with issx := true }
    if 0x40 ≤ r.code && r.code < 0x4a then killTask { s with mach := m } c.node (0x100 + r.code)
    else { s with mach := updNode (removeCopy m cluster id) c.node fun n => { n with status := some (n.status.getD (0x100 + r.code)) } }

/-- The copy performs its units up to the one that faults, and stops (R360). -/
def faultCopy (s : State) (cluster id : Nat) (c : Copy) : State :=
  let d := s.dev
  match advanceCopy d.gtc s.mach cluster id (unitBound c) c with
  | (m', c', some (.fault e _), _) =>
    let r := copyRecord d m' c' e
    let m' := if e.code = TrapName.remoteFail.code then logHealth m' (linkRecord d.gtc c.ctx (nameWord c.seq c.plane c.cidx) e.addr) else m'
    match issuer? m' c' with
    | some (k, _) => { s with mach := updWarp (putCopy m' cluster id { c' with fault := some r }) k fun w => { w with due := w.due ++ [r] } }
    | none => orphanFault { s with mach := m' } cluster id c' r
  | (m', _, some (.miss _), _) => { s with mach := m' }
  | _ => s

/-- COPY_FAULT (R360, R361). A fault that its issuer left undelivered when it ended goes to Pumal. -/
def execCopyFault (cluster id : Nat) (s : State) : Host.Outcome State Fault Refusal :=
  match copyAt? s.mach cluster id with
  | none => .next s
  | some c => match c.fault, issuer? s.mach c with
    | some r, none => .next (orphanFault s cluster id c { r with issx := true, gtc := s.dev.gtc })
    | _, _ => .next (if mayRun s.dev.gtc s.mach c then faultCopy s cluster id c else s)

/-- A warp's operation with another package fails: a load or atomic delivers poison; a store is not performed, keeps its flag pending, and
raises the asynchronous fault (R392, R407). -/
def failRemoteOp (gtc : Nat) (m : Mach) (k : Nat) (w : Warp) (o : MemOp) : Mach :=
  if !(o.acc.any fun a => remoteKey a.key) then m
  else if o.kind.reads then { performOp gtc { m with ports := [] } k o false [] with ports := m.ports }
  else if o.failed then m
  else
    let m := logHealth m (linkRecord gtc w.ctx (nameWord o.seq o.plane o.cidx) ((o.acc.head?.map (·.key)).getD 0))
    updWarp m k fun w => failOp w o 1 { code := TrapName.remoteFail.code, addr := (o.acc.head?.map (·.va)).getD 0 }

/-- A copy whose next words in another package are refused stops there with REMOTE_FAIL (R392, R407). -/
def failRemoteCopy (s : State) (cluster id : Nat) (c : Copy) : State :=
  if (c.op = .cpyr || c.op = .cpyat) && mayRun s.dev.gtc s.mach c then
    let t := faultCopy { s with mach := { s.mach with ports := [] } } cluster id c
    { t with mach := { t.mach with ports := s.mach.ports } }
  else s

/-- REMOTE_FAIL (R392, R407): no port to the target survives, or the target refuses. `op` is a warp's operation or a copy of its
cluster. -/
def execRemoteFail (warp op : Nat) (s : State) : Host.Outcome State Fault Refusal :=
  match readyOp? s.mach warp op, getWarp? s.mach warp with
  | some o, some w => .next { s with mach := failRemoteOp s.dev.gtc s.mach warp w o }
  | _, _ => .next ((copyAt? s.mach (clusterOf warp) op).elim s (failRemoteCopy s (clusterOf warp) op))

end Sys2Proof.Machine
end

