-- ==== Sys2Proof/Machine/Matrixev.lean ====
section
/-!
DEFINITION. Events of the matrix engine: the grant of a reservation, the beats in which it takes k-units, the close of a
chain, a deposit (R240 to R248, R468).
-/

namespace Sys2Proof.Machine

/-! ### The grant (R240, R248) -/

/-- A request that goes before another: more effective tokens, then the older one. -/
def mresBefore (a b : MresReq) : Bool := b.tokens < a.tokens || (a.tokens = b.tokens && a.order < b.order)

/-- Make a request's warp, or the members of its gang, the owner of the engine (R240, R248). -/
def grantMatrix (m : Mach) (cluster : Nat) (r : MresReq) : Mach :=
  let owners := ((r.gang.bind fun g => mapGet? m.gangs g).map fun x =>
    ((x.members.zip (List.range x.members.length)).filter fun e => !x.left.contains e.2).map (·.1)).getD [r.warp]
  answerRequest r (updMatrix m cluster fun mx =>
    { Matrix.free with owners := owners, mrt := mx.mrt.filter fun x => x.order != r.order })

/-- MRT_GRANT (R240): a free engine goes to the first request of its table. -/
def execMrtGrant (cluster : Nat) (s : State) : Host.Outcome State Fault Refusal :=
  onMach s fun _ m =>
    let mx := getMatrix m cluster
    match mx.owners.isEmpty, listBest mresBefore mx.mrt with
    | true, some r => grantMatrix m cluster r
    | _, _ => m

/-! ### Read beats (R241 to R243, R247) -/

/-- The engine's step queue is full (R242, log 27). -/
def stepqFull (mx : Matrix) : Bool := 4 ≤ listSum (mx.chains.map fun x => x.steps.length)

/-- What is left of the owner's last beat covers the next read beat of a chain (R241). -/
def creditLeft (m : Mach) (c : Chain) : Bool :=
  c.steps.head?.elim false fun s => match teamTile? m s.team s.ta, teamTile? m s.team s.tb with
    | some ta, some tb => readCost m s ta tb c.credit ≤ c.credit
    | _, _ => true

/-- Whether the engine may make a read beat of a chain now: its owner has closed it; or the owner, or in a gang only a mate, waits for the
step queue, which is still full; or the owner runs and its last beat still covers the read beat (R241). -/
def chainRuns (m : Mach) (c : Chain) : Bool :=
  c.che.isSome ||
  (getWarp? m c.warp).elim false fun w =>
    let full := stepqFull (getMatrix m (clusterOf c.warp))
    w.trapped = .running && w.stopped.isNone &&
    match w.block with
    | some b => b.cause = Cause.stepq && full
    | none => if gangFrozen m w then stepqFrozen m w && full else creditLeft m c

/-- MATRIX_READ_BEAT (R243): every chain that runs makes the next read beat of its first queued step. -/
def execMatrixReadBeat (cluster : Nat) (s : State) : Host.Outcome State Fault Refusal :=
  onMach s fun d m =>
    ((getMatrix m cluster).chains.filter (chainRuns m)).foldl (fun m c => takeBeat d.gtc m cluster c) m

/-! ### The close (R244, R248) -/

/-- A chain whose CHE has issued and whose steps are all done. -/
def chainDone (c : Chain) : Bool := c.che.isSome && c.steps.isEmpty

/-- The first chain of each owner that was opened in gang mode. -/
def gangChains (mx : Matrix) : List (Option Chain) :=
  mx.owners.map fun k => mx.chains.find? fun c => c.warp = k && c.group

/-- The chains that close together: one warp's, or one of every gang member once all are done (R248). -/
def closing (mx : Matrix) : List Chain :=
  match mx.chains.find? fun c => chainDone c && !c.group with
  | some c => [c]
  | none =>
    let gs := gangChains mx
    if !gs.isEmpty && gs.all fun g => g.elim false chainDone then gs.filterMap id else []

/-- CHAIN_CLOSE (R244): results are rounded, flags raised, the completion flags set. -/
def execChainClose (cluster : Nat) (s : State) : Host.Outcome State Fault Refusal :=
  onMach s fun _ m => (closing (getMatrix m cluster)).foldl (fun m c => c.che.elim m (closeChain m cluster c)) m

/-- MDEP_COMPLETE (R246): a deposit whose slot has its results. -/
def execMdepComplete (cluster id : Nat) (s : State) : Host.Outcome State Fault Refusal :=
  onMach s fun _ m =>
    let mx := getMatrix m cluster
    match mx.mdeps.find? fun x => x.id = id with
    | some x => if (getSlot mx x.slot).ready then deposit m cluster x else m
    | none => m

end Sys2Proof.Machine
end

