-- ==== Sys2Proof/Machine/Debug.lean ====
section
/-!
DEFINITION. Debug events: stops, resumption, dumps and stall samples (R419, R421 to R429).
-/

namespace Sys2Proof.Machine

/-! ### Stops (R423, R424, R426) -/

/-- DEBUG_STOP (R423): the stop due at the warp's boundary is taken. -/
def execDebugStop (warp : Nat) (s : State) : Host.Outcome State Fault Refusal :=
  onMach s fun d m =>
    let b := atBoundary d.gtc m warp
    match getWarp? b warp with
    | none => m
    | some w =>
      match stepsItself w && standsAtBoundary b w, stopDue b warp w (dueStreams b w) with
      | true, some (p, pl, st) => stopWarp d b warp p pl st
      | _, _ => m

/-- A stopped warp goes on; after a breakpoint or BRK it does not test them again at this boundary (R426). -/
def resumeStopped (w : Warp) : Warp :=
  match w.stopped with
  | none => w
  | some st =>
    let past (q : PathSt) : PathSt := if st.code = 3 then q else { q with skipbp := true }
    { w with stopped := none, p0 := past w.p0, p1 := w.p1.map past }

/-- Every stopped warp of a context goes on, one that a save holds after its restore (R423, R426). -/
def contWarps (m : Mach) (ctx : Nat) : Mach :=
  let saved (n : Node) : Node :=
    if n.ctx = ctx then { n with saved := n.saved.map fun s => { s with warps := s.warps.map fun (i, j, w) => (i, j, resumeStopped w) } } else n
  noteStops { m with warps := m.warps.map fun (k, w) => (k, if w.ctx = ctx then resumeStopped w else w)
                     nodes := m.nodes.map fun (h, n) => (h, saved n) } ctx

/-- DEBUG_CONT (R426): what a COMMIT with CONT does. -/
def execDebugCont (ctx : Nat) (s : State) : Host.Outcome State Fault Refusal :=
  onMach s fun _ m => contWarps m ctx

/-! ### Dumps (R428) -/

/-- The name word of a range-lock entry's copy, which may be another cluster's (R83, R228). -/
def lockName (m : Mach) (l : RangeLock) : Nat :=
  ((mapVals m.clusters).findSome? fun x => (mapGet? x.copies l.copy).filter fun c => c.order = l.order).elim (nameWord l.seq 0 0)
    fun c => nameWord l.seq c.plane c.cidx

/-- A range-lock entry of a dump. -/
def lockWords (m : Mach) (l : RangeLock) : List Nat :=
  [l.base, l.len, lockName m l, packFields [(3, l.flag.getD 0), (2, bitNat l.flag.isNone), (1, bitNat l.scratch),
    (0, bitNat l.write)]]

/-- The pieces of a dump after the latch image (R428). -/
def dumpPieces (d : Dev) (m : Mach) (k : Nat) (w : Warp) (st : Stop) : List (Nat × List Byte) :=
  let c := ctxFor d m k w 0 0 { v := .nop, m := .nop, x := .nop, c := .nop, gap := 0, b := 0, sync := false }
  let cl := getCluster m (clusterOf k)
  [(0, wordsBytes st.header),
   (0x8000, wordsBytes ((List.range 64).map fun i => (getS w i).value.toNat)),
   (0xf200, wordsBytes ((List.range 16).map fun i => cregNat c (0x20 + i))),
   (0xf280, wordsBytes ((List.range 24).map (cregNat c))),
   (0xf340, wordsBytes ((List.range 28).map fun i => mapGetD w.count i 0)),
   (0xf420, wordsBytes ((cl.locks.filter (·.team = w.team)).flatMap (lockWords m)))] ++
  (mapKeys w.v).map fun i => (0x8200 + 256 * i, lanesBytes (getV w i).lanes)

/-- The stopped warp that a context's dump request names (R415, R428). -/
def dumpWarp? (m : Mach) (ctx : Nat) (req : DWord) : Option (Nat × Warp × Stop) :=
  m.warps.findSome? fun (k, w) =>
    if w.ctx = ctx && teamIndex w.team = bits req 17 9 && w.teamw = bits req 8 5 then w.stopped.map fun st => (k, w, st)
    else none

/-- What a dump request writes, when it can be served. -/
def dumpOf (d : Dev) (m : Mach) (ctx : Nat) (c : Context) : Option Mach :=
  match c.dbg, dumpWarp? m ctx (dbgWord c 0x28), translateNow m ctx (dbgWord c 0x30).toNat .write false with
  | true, some (k, w, st), .ok h =>
    some (writeImage m h.key 0x10000 (latchImage m k w (conflictDue m k w) ++ dumpPieces d m k w st))
  | _, _, _ => none

/-- A dump request of a context (R428): the dump with DDONE, or DERR. -/
def dumpNow (d : Dev) (m : Mach) (ctx : Nat) : Mach :=
  match getCtx? m ctx with
  | none => m
  | some c =>
    let r := dumpOf d m ctx c
    let m := updCtx (r.getD m) ctx fun c => { c with ddone := r.isSome, derr := r.isNone }
    noteStops m ctx

/-- DEBUG_DUMP (R428): what a COMMIT with DGO does. -/
def execDebugDump (ctx : Nat) (s : State) : Host.Outcome State Fault Refusal :=
  onMach s fun d m => dumpNow d m ctx

/-! ### Stall samples (R421, R422) -/

/-- When a warp that does not run began to wait. -/
def waitSince (w : Warp) : Option Nat :=
  match w.block, w.stopped with
  | some b, _ => some b.since
  | none, some _ => some w.ready
  | none, none => none

/-- The warp that a core's sampler takes (R421). -/
def sampled (m : Mach) (core : Nat) : Option Nat :=
  match (getCore m core).selected with
  | some k => some k
  | none => (listBest (fun a b => a.1 < b.1) ((coreWarps m core).filterMap fun (k, w) =>
      (waitSince w).map fun n => (n, k))).map (·.2)

/-- The counter of an issue cycle of a beat, by its number among them (R25, R419). -/
def Stretch.counter (x : Stretch) (edge : Nat) : Nat :=
  if edge = 0 then 0
  else if edge < x.p then 2
  else if edge < x.planes * x.p then 3
  else if edge < x.n * x.p then 4
  else 5

/-- The counter that a cycle of a selected warp is charged to. Which edge of its beat the cycle holds is open (log 83). -/
def runningCounter (m : Mach) (k : Nat) (w : Warp) : Nat :=
  let x := stretchOf m k ((pathsOf w).map fun p => ((dueStreams m w).filter (·.1 = p)).length)
  if w.trapped != .running then 20
  else if !(getCluster m (clusterOf k)).pat.getLsbD (m.clock % 16) then 6
  else if conflictDue m k w then 1
  else x.counter ((Config.freeValue m.tick).toNat % x.product)

/-- The counter that the sampling cycle is charged to (R419). -/
def sampleCounter (m : Mach) (k : Nat) (w : Warp) : Nat := (waitCounter m k w).getD (runningCounter m k w)

/-- The tiles that an operation waits for (R210, R228, R242). -/
def tilesNamed (c : Ctx) : Instr → List Nat
  | .tld _ tile _ => [tile.toNat]
  | .mstep ta tb _ | .mstepG ta tb _ => [c.tileOf ta.toNat, tb.toNat]
  | .cpyout _ _ _ desc _ => [(copyDesc (c.sv (desc.setWidth 6))).tile]
  | _ => []

/-- The flags that a bundle's FWAIT names. -/
def flagsNamed : Instr → List Nat
  | .fwait mask => (List.range 16).filter fun f => mask.getLsbD f
  | _ => []

/-- A bundle that a sample looks at: its stream, what its operations see, the operations. -/
structure Sampled where
  path  : Nat
  plane : Nat
  c     : Ctx
  o     : BundleOps

/-- The name word of a sampled bundle. -/
def Sampled.name (x : Sampled) : Nat := nameWord x.c.w.seq x.plane x.c.cidx

/-- The stream that a sample names: the one whose bundle the counter's cause holds, or whose conflict beat is due, else the first (R422). -/
def sampleStream (d : Dev) (m : Mach) (k : Nat) (w : Warp) (counter : Nat) : Nat × Nat :=
  let due := dueStreams m w
  let holds (s : Nat × Nat) : Bool :=
    if counter = 1 then conflictPending m k w s
    else match (examine actionOf d m k w s.1 s.2).1 with
      | .wait c _ _ => c.counter = counter
      | .stop _ | .fault .. | .ready .. => false
  (due.find? holds).getD (boundaryStream m w)

/-- The bundle of a stream as a sample looks at it. -/
def sampledAt (d : Dev) (m : Mach) (k : Nat) (w : Warp) (s : Nat × Nat) : Sampled :=
  let o := match fetchFor m k w s.1 s.2 with
    | .got b => bundleOps b
    | _ => { v := .nop, m := .nop, x := .nop, c := .nop, gap := 0, b := 0, sync := false }
  { path := s.1, plane := s.2, c := ctxFor d m k w s.1 s.2 o, o := o }

/-- The request of a copy operation. -/
def copyReqIn (c : Ctx) : Instr → Option CopyReq
  | .cpy _ dst src desc _ => some (copyReqOf .cpy dst (some src) desc c)
  | .cpyin _ dst src desc _ => some (copyReqOf .cpyin dst (some src) desc c)
  | .cpyout _ dst src desc _ => some (copyReqOf .cpyout dst (some src) desc c)
  | .cpyr _ dst src desc _ => some (copyReqOf .cpyr dst (some src) desc c)
  | .cpym _ dst src desc _ => some (copyReqOf .cpym dst (some src) desc c)
  | .cpyat _ dst src desc _ => some (copyReqOf .cpyat dst (some src) desc c)
  | .cpyz _ dst desc _ => some (copyReqOf .cpyz dst none desc c)
  | _ => none

/-- The oldest entry of the range-lock table that has no room for a copy (R233, R422). -/
def blockingLock (m : Mach) (rs : List CopyRange) : Option RangeLock :=
  ((rs.map (·.cluster)).eraseDups.find? fun cl => lockTableFull m (rs.filter (·.cluster = cl))).bind fun cl =>
    listBest (fun a b => a.order < b.order) (getCluster m cl).locks

/-- What a sampled warp waits on (R422): its counter, the bundle. An MRES that its full table blocks names itself, as it will be named. -/
def sampleWaits (m : Mach) (w : Warp) (x : Sampled) (counter : Nat) : Nat :=
  let producer (f : Nat) : Nat := let r := getF w f; nameWord r.seq r.plane r.cidx
  if counter = 7 then ((flagsNamed x.o.c).find? fun f => !(getF w f).set).elim 0 producer
  else if counter = 10 then
    ((tilesNamed x.c x.o.m ++ tilesNamed x.c x.o.x).filterMap (teamTile? m w.team) |>.find? (·.state != .ready)).elim 0 (·.mover)
  else if counter = 11 then
    match x.o.x with
    | .mres .. => nameWord ((w.seq + 1) % 2 ^ 32) x.plane x.c.cidx
    | _ => w.mres
  else if counter = 13 then (w.ops.find? fun o => o.kind.counted).elim 0 fun o => nameWord o.seq o.plane o.cidx
  else if counter = 1 then x.name
  else if counter = 17 then ((copyReqIn x.c x.o.x).bind fun r => blockingLock m (copyRanges x.c r)).elim 0 (lockName m)
  else 0

/-- The SAMPLE record of a warp (R418, R421). -/
def sampleRecord (d : Dev) (m : Mach) (k : Nat) (w : Warp) : TraceRec :=
  let counter := sampleCounter m k w
  let x := sampledAt d m k w (sampleStream d m k w counter)
  traceOf w 2 counter x.path x.name (sampleWaits m w x counter) d.gtc

/-- Whether a context takes samples at a count of the clock (R421). -/
def samples (c : Context) (clock : Nat) : Bool := dbgCtl c 5 && clock % 2 ^ bits (dbgWord c 8) 4 0 = 0

/-- A core's sampler at a count of the clock: once for a count, at a multiple of 2^SPER, one warp of a context that samples (R421). -/
def takeSample (d : Dev) (m : Mach) (core : Nat) : Mach :=
  match (sampled m core).bind fun k => (getWarp? m k).map fun w => (k, w) with
  | none => m
  | some (k, w) =>
    if (getCore m core).sampledTo ≤ m.clock && (ctxOf m w).elim false (samples · m.clock) then
      let m' := updCore (bump m) core fun c => { c with sampledTo := m.clock + 1 }
      traceWrite m' w.ctx (sampleRecord d m k w)
    else m

/-- STALL_SAMPLE (R421): the sample of the present count. -/
def execStallSample (core : Nat) (s : State) : Host.Outcome State Fault Refusal := onMach s fun d m => takeSample d m core

/-- The samples due at the counts from the present one to below `ns` later, in order: count and core. -/
def dueSamples (m : Mach) (ns : Nat) : List (Nat × Nat) :=
  let counts (core : Nat) : List (Nat × Nat) :=
    ((sampled m core).bind (getWarp? m) |>.bind (ctxOf m)).elim [] fun c =>
      let p := 2 ^ bits (dbgWord c 8) 4 0
      let first := (m.clock + p - 1) / p
      if dbgCtl c 5 then (List.range ((m.clock + ns + p - 1) / p - first)).map fun i => ((first + i) * p, core) else []
  listSort (fun a b => a.1 < b.1 || (a.1 = b.1 && a.2 < b.2)) ((m.warps.map fun (k, _) => coreOf k).eraseDups.flatMap counts)

/-- The samples of a stretch of time are taken. -/
def takeSamples (d : Dev) (m : Mach) (ns : Nat) : Mach :=
  let m' := (dueSamples m ns).foldl (fun x (t, core) => takeSample { d with gtc := d.gtc + (t - m.clock) } { x with clock := t } core) m
  { m' with clock := m.clock }

end Sys2Proof.Machine
end

