-- ==== Sys2Proof/Machine/Journal.lean ====
section
/-!
DEFINITION. The Ethernet mailbox and the command journal (R371 to R381): frames and their tags, replies, journal entries, the
checks that a journalled message passes.
-/

namespace Sys2Proof.Machine

/-! ### Slots and frames (R372 to R374) -/

/-- A host slot nobody has installed a secret for. -/
def HostSlot.unused : HostSlot :=
  { secret := none, session := 0, key := [], nonce := [], fseq := 0, hseq := 0, staging := [], windows := [] }

def getHostSlot (d : Dev) (n : Nat) : HostSlot := mapGetD d.slots n HostSlot.unused
def updHostSlot (d : Dev) (n : Nat) (f : HostSlot → HostSlot) : Dev :=
  { d with slots := mapSetD d.slots n HostSlot.unused (f (getHostSlot d n)) }

/-- The 16 bytes of a header (R372). -/
def headerBytes (fseq session rsvd slot count typ ver : Nat) : List Byte :=
  leBytes 16 (BitVec.ofNat 128 (packFields [(96, fseq), (64, session), (40, rsvd), (32, slot), (24, count), (16, typ), (0, ver)]))

def frameHeader (f : Frame) : List Byte :=
  headerBytes f.fseq.toNat f.session.toNat f.rsvd.toNat f.slot.toNat f.count.toNat f.typ.toNat f.ver.toNat

/-- The tag of a frame under a key (R373). -/
def tagOf (key header items : List Byte) : List Byte := (sha3 (key ++ header ++ items)).take 16

/-- The key of a session of a slot: its host secret for session 0, its session key (R373). -/
def frameKey (d : Dev) (slot session : Nat) : Option (List Byte) :=
  let x := getHostSlot d slot
  if session = 0 then x.secret
  else if x.session = session then some x.key else none

/-- Die 0's mailbox receives (R371, R410, R440). -/
def mailboxOpen (d : Dev) : Bool := d.supply = .on && !d.recovery.1

/-- What a port checks of every frame but its length (R372, R373, R465). A sessionless frame has no sequence. -/
def frameSound (d : Dev) (f : Frame) : Bool :=
  f.rsvd = 0 && f.slot.toNat < 16 && f.ver = 1 && f.tag.length = 16 &&
  (f.session = 0 || (getHostSlot d f.slot.toNat).fseq ≤ f.fseq.toNat) &&
  (frameKey d f.slot.toNat f.session.toNat).elim false fun k => tagOf k (frameHeader f) f.items = f.tag

/-- What the receiver checks of every frame but its length (R372, R373). -/
def frameOk (d : Dev) (f : Frame) : Bool := mailboxOpen d && frameSound d f

/-- Take a frame as accepted: its FSEQ is the session's last. -/
def acceptFrame (d : Dev) (f : Frame) : Dev :=
  if f.session = 0 then d else updHostSlot d f.slot.toNat fun x => { x with fseq := f.fseq.toNat + 1 }

/-- A frame of messages: 1 to 16 items of 64 bytes. -/
def messagesOk (f : Frame) : Bool :=
  f.typ = 0 && 1 ≤ f.count.toNat && f.count.toNat ≤ 16 && f.items.length = 64 * f.count.toNat

/-- The 64 bytes of an item. -/
def itemAt (f : Frame) (k : Nat) : List Byte := (f.items.drop (64 * k)).take 64

/-- Bytes of an item as a number. -/
def itemNat (bs : List Byte) (o n : Nat) : Nat := leNat ((bs.drop o).take n)

/-- KIND of an item (R374). -/
def kindOf (bs : List Byte) : Nat := itemNat bs 8 2

/-! ### Replies (R376) -/

/-- Send a frame in a session of a slot; nothing goes out without a key. -/
def sendFrame (d : Dev) (slot session typ : Nat) (item : List Byte) : Dev :=
  match frameKey d slot session with
  | none => d
  | some k =>
    let n := d.outNo + 1
    let tag := tagOf k (headerBytes n session 0 slot 1 typ 1) item
    { d with outNo := n, out := d.out ++ [{ slot := slot, count := 1, typ := typ, session := session, fseq := n, item := item, tag := tag }] }

/-- A reply item. -/
def replyItem (hseq jseq state result : Nat) (extra : List Byte) : List Byte :=
  wordsBytes [hseq, jseq, packFields [(0, state), (16, result)]] ++ extra

/-- What a message carries besides its body: frame, item, HSEQ, KIND, CTX. -/
structure Msg where
  frame : Frame
  item  : List Byte

def Msg.slot (q : Msg) : Nat := q.frame.slot.toNat
def Msg.hseq (q : Msg) : Nat := itemNat q.item 0 8
def Msg.kind (q : Msg) : Nat := kindOf q.item
def Msg.ctx (q : Msg) : Nat := itemNat q.item 12 4
/-- `n` bytes of BODY as a number (R471). -/
def Msg.field (q : Msg) (o n : Nat) : Nat := itemNat q.item (16 + o) n
/-- The bytes of BODY from an offset. -/
def Msg.bytes (q : Msg) (o n : Nat) : List Byte := (q.item.drop (16 + o)).take n

/-- Answer a message. -/
def answer (q : Msg) (jseq state result : Nat) (extra : List Byte) (d : Dev) : Dev :=
  sendFrame d q.slot q.frame.session.toNat 2 (replyItem q.hseq jseq state result extra)

/-- The result codes of R376. -/
inductive Refused where
  | duplicate (e : JEntry) | seqReuse | seqStale | badKind | badBody | noContext | noSession | busy
  deriving DecidableEq, Repr

def Refused.code : Refused → Nat
  | .duplicate _ => 1 | .seqReuse => 2 | .seqStale => 3 | .badKind => 4 | .badBody => 5 | .noContext => 6 | .noSession => 7
  | .busy => 8

/-- Answer with a refusal; a duplicate's reply gives its entry's STATE and JSEQ. -/
def refuse (q : Msg) (r : Refused) (d : Dev) : Dev :=
  match r with
  | .duplicate e => answer q e.jseq e.state 1 [] d
  | r => answer q 0 0 r.code [] d

/-- The reserved half of the second doubleword is 0, and so is every byte of BODY outside the given ranges (R374, R471). -/
def bodyClear (q : Msg) (used : List (Nat × Nat)) : Bool :=
  itemNat q.item 10 2 = 0 &&
  (List.range 48).all fun i => used.any (fun (o, n) => o ≤ i && i < o + n) || itemNat q.item (16 + i) 1 = 0

/-- The live context that a message of a slot may name (R376). -/
def msgCtx? (s : State) (q : Msg) : Option Context := (getCtx? s.mach q.ctx).filter fun c => c.slot = q.slot

/-! ### The journal (R377 to R381) -/

/-- The number of entries in the ring (R377). -/
def journalSize : Nat := 2 ^ (16 + Config.journalExtra % 9)

/-- The entry of a JSEQ that the ring holds. -/
def entry? (d : Dev) (jseq : Nat) : Option JEntry := d.journal.find? fun e => e.jseq = jseq

/-- The first 16 bytes of the digest of a message (R377). -/
def msgDigest (q : Msg) : List Byte := (sha3 q.item).take 16

/-- The checks on HSEQ (R376). -/
def sequenceCheck (d : Dev) (q : Msg) : Option Refused :=
  match d.journal.find? fun e => e.slot = q.slot && e.hseq = q.hseq with
  | some e => some (if e.digest = msgDigest q then .duplicate e else .seqReuse)
  | none => if q.hseq < (getHostSlot d q.slot).hseq then some .seqStale else none

/-- The position that the head would use next holds an entry that is not finished (R378). -/
def journalFull (d : Dev) : Bool :=
  (entry? d (d.jhead + 1 - journalSize)).elim false fun e => e.state < 3

/-- Write the accepted entry of a message, over the one in its position (R377, R381). -/
def journalAdd (d : Dev) (q : Msg) : Dev :=
  let j := d.jhead + 1
  let old := j - journalSize
  let e : JEntry :=
    { jseq := j, hseq := q.hseq, state := 1, slot := q.slot, kind := q.kind, ctx := q.ctx, accGtc := d.gtc, chgGtc := d.gtc
      digest := msgDigest q, result := 0, handle := 0, epoch := d.boots % 65536 }
  updHostSlot { d with jhead := j, journal := d.journal.filter (fun x => x.jseq != old) ++ [e], records := mapErase d.records old }
    q.slot fun x => { x with hseq := q.hseq + 1 }

/-- The 64 bytes of an entry (R377). -/
def entryBytes (e : JEntry) : List Byte :=
  wordsBytes [e.jseq, e.hseq, packFields [(0, e.state), (4, e.slot), (8, e.kind), (32, e.ctx)], e.accGtc, e.chgGtc] ++ e.digest ++
  wordsBytes [packFields [(0, e.result % 65536), (16, e.handle), (48, e.epoch)]]

/-- A message that changes device state: the checks in the order of R376, the accepted entry, the OK reply, the effects.
`clear` names the bytes of BODY in use; `check` finds what else refuses it; `act` is given the entry's JSEQ. -/
def journalled (clear : List (Nat × Nat)) (needsCtx : Bool) (check : State → Msg → Option Refused)
    (act : State → Msg → Nat → State) (s : State) (q : Msg) : State :=
  let d := s.dev
  let refusal : Option Refused :=
    if q.frame.session = 0 then some .noSession
    else match sequenceCheck d q with
      | some r => some r
      | none =>
        if needsCtx && (msgCtx? s q).isNone then some .noContext
        else if (!needsCtx && q.ctx != 0) || !bodyClear q clear then some .badBody
        else match check s q with
          | some r => some r
          | none => if journalFull d then some .busy else none
  match refusal with
  | some r => { s with dev := refuse q r d }
  | none =>
    let d := journalAdd d q
    act { s with dev := answer q d.jhead 1 0 [] d } q d.jhead

/-- Set the last state of a message's entry: Pumal has begun to act, and has done so (R378). -/
def finishEntry (s : State) (jseq state result : Nat) : State :=
  { s with dev := setEntry (setEntry s.dev jseq 2 0 0) jseq state result 0 }

/-- A message that is answered without the journal (R375): a refusal, or the effect with its reply. -/
def plainMessage (clear : List (Nat × Nat)) (needsCtx sessionless : Bool) (check : State → Msg → Option Refused)
    (act : State → Msg → State) (s : State) (q : Msg) : State :=
  if q.frame.session = 0 && !sessionless then s
  else
    let refusal : Option Refused :=
      if (needsCtx && (msgCtx? s q).isNone) || check s q = some .noContext then some .noContext
      else if (!needsCtx && q.ctx != 0) || !bodyClear q clear then some .badBody
      else check s q
    match refusal with
    | some r => { s with dev := refuse q r s.dev }
    | none => act s q

/-! ### Receiving (R372, R374) -/

/-- Whether a frame's session is still the slot's. -/
def sessionLive (d : Dev) (f : Frame) : Bool := f.session = 0 || (getHostSlot d f.slot.toNat).session = f.session.toNat

/-- Receive a frame of messages that stands at the head of the inputs: its items enter the mailbox, or it is dropped. -/
def receive (s : State) (f : Frame) (rest : List Input) : State :=
  if messagesOk f && frameOk s.dev f then
    let d := acceptFrame s.dev f
    { s with inputs := rest, dev := { d with mailbox := (List.range f.count.toNat).map fun k => (f, k) } }
  else { s with inputs := rest }

/-- The next item, when it has a wanted kind: one of the mailbox, else the first of the frame that arrives. -/
def onMessage (want : Frame → Nat → Bool) (act : State → Msg → State) (s : State) : Host.Outcome State Fault Refusal :=
  let s1 := match s.dev.mailbox, s.inputs with
    | [], .frame f :: rest => if want f (kindOf (itemAt f 0)) then receive s f rest else s
    | _, _ => s
  match s1.dev.mailbox with
  | (f, k) :: more =>
    if want f (kindOf (itemAt f k)) then
      let s2 : State := { s1 with dev := { s1.dev with mailbox := more } }
      .next (if sessionLive s2.dev f then act s2 { frame := f, item := itemAt f k } else s2)
    else .next s1
  | [] => .next s1

/-- Messages of one kind. -/
def onKind (kind : Nat) (act : State → Msg → State) (s : State) : Host.Outcome State Fault Refusal :=
  onMessage (fun f k => f.typ = 0 && k = kind) act s

end Sys2Proof.Machine
end

