-- ==== Sys2Proof/Machine/Hostmem.lean ====
section
/-!
DEFINITION. What Pumal does in a context's memory for its host (R372, R375, R394, R413, R415): ranges of a context, windows,
the debug page's fields, creating and destroying a context (R370, R375, R406, R408).
-/

namespace Sys2Proof.Machine

/-! ### Ranges of a context -/

/-- Read bytes of a page; those of a poisoned word are free values (log 4). -/
def readFree (gtc ctx : Nat) (m : Mach) (key n : Nat) : Mach × List Byte :=
  (noteRead (accessorOf gtc m ctx 0) (bump m) key n, openBytes m key n)

/-- Pumal reads a piece of a page of a context. One that has not been touched reads as zeros and stays as it is, since a READ changes no
device state (R375); none where the page is refused. -/
def peekPage (gtc : Nat) (m : Mach) (ctx a n : Nat) : Option (Mach × List Byte) :=
  match translateNow m ctx a .read false with
  | .ok h => some (readFree gtc ctx m h.key n)
  | .error e => if e.code = 0x40 && canonical a && (mapPage m ctx a).isSome then some (m, List.replicate n 0#8) else none

/-- Pumal reads a range of a context; pages that it cannot read give no bytes. -/
def readRange (gtc : Nat) (m : Mach) (ctx va n : Nat) : Mach × List Byte :=
  (pageRuns va n).foldl (fun (m, bs) (a, k) =>
    match peekPage gtc m ctx a k with
    | some (m, x) => (m, bs ++ x)
    | none => (m, bs)) (m, [])

/-- The part of a run of bytes at `va` that lies from `lo` up to `hi`. -/
def cutBytes (va : Nat) (bs : List Byte) (lo hi : Nat) : Nat × List Byte :=
  let a := max va lo
  (a, (bs.drop (a - va)).take (hi - a))

/-- The pieces of a bulk write that the device takes: not the fields of the debug page that it writes itself (R415). -/
def bulkPieces (va : Nat) (bs : List Byte) : List (Nat × List Byte) :=
  [cutBytes va bs 0 (pageBase + 0x100), cutBytes va bs (pageBase + 0x118) (2 ^ 64)].filter fun x => !x.2.isEmpty

/-- Pumal writes bytes of a context, mapping what has not been touched (R375, R394). -/
def writeRange (m : Mach) (ctx va : Nat) (bs : List Byte) : Mach :=
  (bulkPieces va bs).foldl (fun m (va, bs) =>
    (pageRuns va bs.length).foldl (fun m (a, k) =>
      match ensurePage m ctx a .read with
      | some (m, key) => writeBytes m key ((bs.drop (a - va)).take k)
      | none => m) m) m

/-! ### The debug page (R415) -/

/-- The doublewords 0x000 to 0x138 as a committed window leaves them: bytes of the window, the values in force elsewhere. -/
def committed (c : Context) (va : Nat) (bs : List Byte) : List (Nat × DWord) :=
  (List.range 40).map fun i =>
    (8 * i, ofLe 64 ((List.range 8).map fun j =>
      let a := pageBase + 8 * i + j
      if va ≤ a && a < va + bs.length && !(0x100 ≤ 8 * i + j && 8 * i + j < 0x118) then bs.getD (a - va) 0#8
      else (dbgWord c (8 * i) >>> (8 * j)).setWidth 8))

/-- The value that a doubleword of the page would have. -/
def pageField (ws : List (Nat × DWord)) (o : Nat) : DWord := ((ws.find? fun x => x.1 = o).map (·.2)).getD 0#64

/-- The bits of the page that a host may set (R415). -/
def pageBits? (o : Nat) : DWord :=
  if o = 0 then 0xff#64
  else if o = 8 then 0x1f#64
  else if o = 0x10 || o = 0x30 then ~~~0#64
  else if o = 0x18 then 0xffffffff#64
  else if o = 0x20 then 0x8000000000000000#64
  else if o = 0x28 then 0x800000000003ffe0#64
  else if 0x40 ≤ o && o < 0x80 then 0x81fffffffffffff0#64
  else if 0x80 ≤ o && o < 0x100 then (if o % 16 = 0 then ~~~0#64 else 0xe0000000ffffffff#64)
  else 0#64

/-- A field that breaks its limit, or a reserved bit (R415). -/
def pageBad (ws : List (Nat × DWord)) : Bool :=
  let f := pageField ws
  let len := (f 0x18).toNat
  (ws.any fun (o, v) => v &&& ~~~pageBits? o != 0#64 && !(0x100 ≤ o && o < 0x118)) ||
  ((f 0).getLsbD 5 && ((f 8).toNat < 10 || 24 < (f 8).toNat)) ||
  (f 0x10).toNat % 4096 != 0 || len % 4096 != 0 || 2 ^ 31 < len || (f 0x30).toNat % 65536 != 0 ||
  (List.range 8).any fun i =>
    let v := f (0x88 + 16 * i)
    v.getLsbD 63 && ((!v.getLsbD 62 && !v.getLsbD 61) || bits v 31 0 = 0)

/-- A field other than AGG, WRAP, TRBASE and TRLEN is not zero (R415). -/
def pageDebugs (ws : List (Nat × DWord)) : Bool :=
  ws.any fun (o, v) =>
    if o = 0 then v &&& ~~~3#64 != 0#64
    else o != 0x10 && o != 0x18 && !(0x100 ≤ o && o < 0x118) && v != 0#64

/-- Put the page's fields in force; CONT and DGO act once and then read 0 (R415, R426, R428). -/
def applyPage (d : Dev) (m : Mach) (ctx : Nat) (ws : List (Nat × DWord)) : Mach :=
  let top (o : Nat) : Bool := (pageField ws o).getLsbD 63
  let m := updCtx m ctx fun c => { c with page := ws.foldl (fun p (o, v) => mapSetD p o 0#64 v) c.page }
  let m := if top 0x20 then contWarps m ctx else m
  let m := if top 0x28 then dumpNow d m ctx else m
  [0x20, 0x28].foldl (fun m o =>
    if top o then
      let v := pageField ws o &&& ~~~(2#64 ^ 63)
      writePage (updCtx m ctx fun c => { c with page := mapSetD c.page o 0#64 v }) ctx o v.toNat
    else m) m

/-- What a COMMIT of a window does after its digest matched: state and RESULT of its entry (R379, R415). -/
def commitPage (d : Dev) (m : Mach) (ctx va : Nat) (bs : List Byte) : Mach × Nat × Nat :=
  match getCtx? m ctx with
  | none => (m, 3, 0)
  | some c =>
    if va < pageBase + 0x140 && pageBase < va + bs.length then
      let ws := committed c va bs
      if pageBad ws then (m, 4, 0x21)
      else if !c.dbg && pageDebugs ws then (m, 4, 0x20)
      else (applyPage d m ctx ws, 3, 0)
    else (m, 3, 0)

/-! ### Creating a context (R370, R375, R406, R413) -/

/-- The reserved bits of a context record (R370). -/
def recordReserved (bs : List Byte) : Bool :=
  let dw (o : Nat) : DWord := wordAt bs o
  dw 0x08 &&& ~~~0x31fff#64 != 0#64 || dw 0x28 >>> 40 != 0#64 || dw 0x30 >>> 48 != 0#64 || dw 0x50 >>> 23 != 0#64 ||
  !((bs.drop 0x60).all (· = 0#8))

/-- A context as its record describes it. -/
def contextOfRecord (slot : Nat) (bs : List Byte) : Context :=
  let dw (o : Nat) : DWord := wordAt bs o
  { slot := slot, root := 0, keyid := bits (dw 8) 12 0, dbg := (dw 8).getLsbD 16, detreq := (dw 8).getLsbD 17
    hentry := (dw 0x10).toNat, route := ofLe 128 ((bs.drop 0x18).take 16), wdlim := bits (dw 0x28) 31 0
    tokmax := bits (dw 0x28) 39 32, drainlim := bits (dw 0x30) 47 0, savebase := (dw 0x38).toNat, dovf := (dw 0x40).toNat
    dovflen := (dw 0x48).toNat, nodeq := bits (dw 0x50) 15 0, fpte := bits (dw 0x50) 22 16, stride := (dw 0x58).toNat
    events := 0, gdead := 0, energy := 0, esat := false, savegen := 0, page := [], drop := 0, head := 0, ddone := false
    derr := false, pages := [], tables := [], stackNo := 0 }

/-- A record's field outside its limits (R349, R370, R406). -/
def contextBad (m : Mach) (bs : List Byte) (c : Context) : Bool :=
  recordReserved bs || (mapGet? m.keys c.keyid).isSome || c.wdlim = 0 || c.hentry % 16 != 0 || c.savebase % 65536 != 0 ||
  c.stride % 65536 != 0 || c.nodeq = 0 || 16384 < c.nodeq || 4096 ≤ m.ctxs.length || healthPages < m.pagenext + 128

/-- The id of the next context: one above the last, skipping 0 and the ids of live contexts (R370). -/
def nextCtx (m : Mach) : Nat :=
  (((List.range 4098).map fun i => (m.lastctx + 1 + i) % 2 ^ 32).find? fun c => c != 0 && (getCtx? m c).isNone).getD 1

/-- The 256 signed bytes of the attestation report (R413). -/
def reportBody (d : Dev) (nonce : List Byte) (id : Nat) (c : Context) : List Byte :=
  wordsBytes [1] ++ (sha3 (Config.identityKey d.mr0)).take 64 ++ d.mr0 ++ d.mr1 ++ nonce ++
  wordsBytes [packFields [(0, id), (32, c.keyid), (48, bitNat c.dbg), (49, bitNat c.detreq), (50, d.boots % 16384)], d.gtc, 0]

/-- The report with its signature (R411, R413). -/
def reportBytes (mr0 body : List Byte) : List Byte := body ++ (Config.identitySignature mr0 (sha3 body)).take 4627

/-- Where the attestation report lies. -/
def reportBase : Nat := 0x200000000000

/-- Create a context: its key, its root table, the report and the debug page. -/
def createContext (d : Dev) (m : Mach) (nonce : List Byte) (c : Context) : Mach × Nat :=
  let id := nextCtx m
  match allocPages m 32 with
  | none => (m, id)
  | some (m, root) =>
    let c := { c with root := root, tables := (List.range 32).map (root / 65536 + ·) }
    let m := { m with ctxs := mapPut m.ctxs id c, keys := mapPut m.keys c.keyid (.loaded m.draws), draws := m.draws + 1, lastctx := id }
    let m := (mapPage m id reportBase).getD m
    let m := (mapPage m id pageBase).getD m
    match translateNow m id reportBase .read false with
    | .ok h => (writeBytes m h.key (reportBytes d.mr0 (reportBody d nonce id c)), id)
    | .error _ => (m, id)

/-! ### Destroying a context (R375, R406, R408) -/

/-- Whitewash a context's pages and tables and drop every trace of it: reserved units, lines, translations. Its key slot is retiring: the
keys are erased, and the slot is empty once time has passed (R406). -/
def dropContext (m : Mach) (id : Nat) (c : Context) : Mach :=
  let ps := c.pages ++ c.tables
  let us := contextUnits m id
  let m := c.tables.foldl (fun m p => whitewash m (p * 65536) 65536) (washContext m id)
  let m := us.foldl (fun m (cl, u) => updCluster m cl fun x => { x with units := mapErase x.units u }) m
  let gone (a : Nat) : Bool := ps.contains (a / 65536) || us.any fun (cl, u) => sramKey cl (u * 65536) / 65536 = a / 65536
  let m := (mapKeys m.cores).foldl (fun m k => updCore m k fun x => { x with l1 := x.l1.filter fun (a, _) => !gone a }) m
  let m := dropTlbs m { ctx := some id, range := none }
  { m with ctxs := mapErase m.ctxs id, keys := mapPut m.keys c.keyid .retiring, pinned := m.pinned.filter fun p => !ps.contains p
           posts := m.posts.filter fun p => p.ctx != id, misses := m.misses.filter fun x => x.ctx != id
           episodes := m.episodes.filter fun e => e.ctx != id }

/-- Kill every task of a context, fail the posts that the HTS has not decided, then drop it. -/
def destroyContext (s : State) (id : Nat) : State :=
  match getCtx? s.mach id with
  | none => s
  | some c =>
    let s := (s.mach.posts.filter fun p => p.ctx = id).foldl (fun s p => finishEntry s p.jseq 4 0x200) s
    let s := (mapKeys (s.mach.nodes.filter fun (_, n) => n.ctx = id)).foldl (fun s h => killTask s h 0x200) s
    let d := s.dev
    { s with mach := dropContext s.mach id c
             dev := { d with slots := d.slots.map fun (k, x) => (k, { x with windows := x.windows.filter fun (_, w) => w.1 != id }) } }

end Sys2Proof.Machine
end

