-- ==== Sys2Proof/Machine/Hostmsg.lean ====
section
/-!
DEFINITION. The host's messages and frames as events (R371 to R381, R384, R465, R471).
-/

namespace Sys2Proof.Machine

/-! ### Bulk frames (R372, R375) -/

/-- A bulk item of 16 bytes and 1 to 8,192 data bytes. -/
def bulkOk (f : Frame) : Bool := f.typ = 1 && f.count = 1 && 17 ≤ f.items.length && f.items.length ≤ 8208 && f.session != 0

/-- Where a bulk frame writes: the staging area, or a window's context and address. -/
def bulkTarget (d : Dev) (slot win off n : Nat) : Option (Option (Nat × Nat)) :=
  if win = 0 then (if off + n ≤ 2 ^ 20 then some none else none)
  else match mapGet? (getHostSlot d slot).windows win with
    | some (ctx, va, len) => if off + n ≤ len then some (some (ctx, va + off)) else none
    | none => none

/-- Take a bulk frame: written, or dropped as a whole with a health-log record. -/
def takeBulk (s : State) (f : Frame) : State :=
  let slot := f.slot.toNat
  let win := itemNat f.items 0 8
  let off := itemNat f.items 8 8
  let data := f.items.drop 16
  match bulkTarget s.dev slot win off data.length with
  | none => { s with mach := logHealth s.mach { healthOf 2 0 (packFields [(32, slot), (0, f.fseq.toNat)]) with gtc := s.dev.gtc } }
  | some none =>
    { s with dev := updHostSlot (acceptFrame s.dev f) slot fun x => { x with staging := memWrite x.staging off data } }
  | some (some (ctx, va)) => { s with dev := acceptFrame s.dev f, mach := writeRange s.mach ctx va data }

/-- BULK_WRITE (R372). -/
def execBulkWrite (s : State) : Host.Outcome State Fault Refusal :=
  match s.dev.mailbox, s.inputs with
  | [], .frame f :: rest =>
    if f.typ = 1 then
      let s1 : State := { s with inputs := rest }
      .next (if bulkOk f && frameOk s.dev f then takeBulk s1 f else s1)
    else .next s
  | _, _ => .next s

/-! ### Sessions (R373) -/

/-- The 32 bytes of the device nonce of the `n`-th session. -/
def nonceBytes (n : Nat) : List Byte := (List.range 32).map fun i => (Config.deviceNonce n).getD i 0#8

/-- The id of the `n`-th session: never 0. -/
def sessionId (n : Nat) : Nat := n % (2 ^ 32 - 1) + 1

/-- OPEN (R373): the reply carries the device nonce and the new SESSION; the slot's earlier session ends. -/
def openMessage : State → Msg → State :=
  plainMessage [(0, 32)] false true (fun _ _ => none) fun s q =>
    let n := s.dev.sessions
    let nonce := q.bytes 0 32
    let device := nonceBytes n
    let d := answer q 0 0 0 (device ++ leBytes 8 (BitVec.ofNat 64 (sessionId n))) s.dev
    { s with dev := updHostSlot { d with sessions := n + 1 } q.slot fun x =>
        { x with session := sessionId n, nonce := nonce, fseq := 0, key := (sha3 (x.secret.getD [] ++ nonce ++ device)).take 32 } }

def execOpenSession (s : State) : Host.Outcome State Fault Refusal := onKind 0x01 openMessage s

/-- CLOSE (R373): the reply goes out in the session that it ends; its windows close (R375). -/
def closeMessage : State → Msg → State :=
  plainMessage [] false false (fun _ _ => none) fun s q =>
    { s with dev := updHostSlot (answer q 0 0 0 [] s.dev) q.slot fun x => { x with session := 0, key := [], windows := [] } }

def execCloseSession (s : State) : Host.Outcome State Fault Refusal := onKind 0x02 closeMessage s

/-! ### JREAD (R380) -/

/-- The entries that a JREAD returns from a JSEQ on, and NEXT. -/
def readEntries (d : Dev) (slot : Nat) : Nat → Nat → Nat → List (List Byte) × Nat
  | 0, j, _ => ([], j)
  | fuel + 1, j, count =>
    if count = 0 then ([], j)
    else if j + journalSize ≤ d.jhead then
      let (l, next) := readEntries d slot fuel (j + 1) (count - 1)
      (List.replicate 64 0#8 :: l, next)
    else match entry? d j with
      | some e =>
        if e.slot = slot then
          let (l, next) := readEntries d slot fuel (j + 1) (count - 1)
          (entryBytes e :: l, next)
        else readEntries d slot fuel (j + 1) count
      | none => readEntries d slot fuel (j + 1) count

/-- JREAD: the reply carries the head, the slot's highest HSEQ, NEXT and the entries. -/
def jreadMessage : State → Msg → State :=
  plainMessage [(0, 8), (8, 1)] false true
    (fun _ q => if q.field 0 8 = 0 || q.field 8 1 = 0 || 15 < q.field 8 1 then some .badBody else none) fun s q =>
    let first := q.field 0 8
    let (es, next) := readEntries s.dev q.slot (s.dev.jhead + 1 - first) first (q.field 8 1)
    { s with dev := answer q 0 0 0 (wordsBytes [s.dev.jhead, (getHostSlot s.dev q.slot).hseq - 1, next] ++ es.flatten) s.dev }

def execJread (s : State) : Host.Outcome State Fault Refusal := onKind 0x03 jreadMessage s

/-! ### Contexts (R370, R375) -/

/-- The context record that a CTX_CREATE names. -/
def stagedRecord (s : State) (q : Msg) : List Byte := memRead (getHostSlot s.dev q.slot).staging (q.field 0 8) 256

/-- CTX_CREATE. -/
def ctxCreateMessage : State → Msg → State :=
  journalled [(0, 8)] false
    (fun s q =>
      let bs := stagedRecord s q
      if q.field 0 8 % 256 != 0 || 2 ^ 20 < q.field 0 8 + 256 || contextBad s.mach bs (contextOfRecord q.slot bs) then some .badBody
      else none) fun s q j =>
    let c := contextOfRecord q.slot (stagedRecord s q)
    let (m, id) := createContext s.dev s.mach (getHostSlot s.dev q.slot).nonce c
    finishEntry { s with mach := m } j 3 id

def execCtxCreate (s : State) : Host.Outcome State Fault Refusal := onKind 0x10 ctxCreateMessage s

/-- CTX_DESTROY. -/
def ctxDestroyMessage : State → Msg → State :=
  journalled [] true (fun _ _ => none) fun s q j => finishEntry (destroyContext s q.ctx) j 3 0

def execCtxDestroy (s : State) : Host.Outcome State Fault Refusal := onKind 0x11 ctxDestroyMessage s

/-! ### Windows (R375) -/

/-- The lowest window id that a slot has free. -/
def freeWindow (d : Dev) (slot : Nat) : Option Nat :=
  ((List.range 255).map (· + 1)).find? fun i => (mapGet? (getHostSlot d slot).windows i).isNone

/-- WINDOW. -/
def windowMessage : State → Msg → State :=
  journalled [(0, 16)] true
    (fun s q =>
      if q.field 8 8 = 0 || 2 ^ 32 < q.field 8 8 then some .badBody
      else if (freeWindow s.dev q.slot).isNone then some .busy else none) fun s q j =>
    let id := (freeWindow s.dev q.slot).getD 0
    let s := { s with dev := updHostSlot s.dev q.slot fun x => { x with windows := mapPut x.windows id (q.ctx, q.field 0 8, q.field 8 8) } }
    finishEntry s j 3 id

def execWindow (s : State) : Host.Outcome State Fault Refusal := onKind 0x12 windowMessage s

/-- COMMIT: the digest of the window's bytes, then the fields of the debug page that it covers (R415); the window closes. -/
def commitMessage : State → Msg → State :=
  journalled [(0, 1), (8, 32)] true
    (fun s q => if ((mapGet? (getHostSlot s.dev q.slot).windows (q.field 0 1)).map (·.1)) = some q.ctx then none else some .badBody)
    fun s q j =>
    match mapGet? (getHostSlot s.dev q.slot).windows (q.field 0 1) with
    | none => s
    | some (ctx, va, len) =>
      let d := updHostSlot s.dev q.slot fun x => { x with windows := mapErase x.windows (q.field 0 1) }
      let (m, bs) := readRange d.gtc s.mach ctx va len
      let (m, state, result) := if bs.length = len && (sha3 bs).take 32 = q.bytes 8 32 then commitPage d m ctx va bs else (m, 4, 0x30)
      finishEntry { s with mach := m, dev := d } j state result

def execCommit (s : State) : Host.Outcome State Fault Refusal := onKind 0x13 commitMessage s

/-- The bulk replies of a READ, then its final reply. -/
def sendBulk (q : Msg) : Nat → Nat → List Byte → Dev → Dev
  | 0, _, _, d => d
  | fuel + 1, off, bs, d =>
    if bs.isEmpty then d
    else sendBulk q fuel (off + 8192) (bs.drop 8192)
      (sendFrame d q.slot q.frame.session.toNat 1 (wordsBytes [0, off] ++ bs.take 8192))

/-- READ: up to 1 MiB of a context's memory. -/
def readMessage : State → Msg → State :=
  plainMessage [(0, 16)] true false (fun _ q => if q.field 8 8 = 0 || 2 ^ 20 < q.field 8 8 then some .badBody else none) fun s q =>
    let n := q.field 8 8
    let (m, bs) := readRange s.dev.gtc s.mach q.ctx (q.field 0 8) n
    if bs.length = n then { s with mach := m, dev := answer q 0 0 0 [] (sendBulk q 128 0 bs s.dev) }
    else { s with dev := refuse q .badBody s.dev }

def execRead (s : State) : Host.Outcome State Fault Refusal := onKind 0x14 readMessage s

/-! ### Tasks (R375, R384) -/

/-- POST: the node record goes to the HTS; the entry follows the node (R378). -/
def postMessage : State → Msg → State :=
  journalled [(0, 8)] true (fun _ q => if q.field 0 8 % 64 != 0 then some .badBody else none) fun s q j =>
    { s with mach := { s.mach with posts := s.mach.posts ++
        [{ ctx := q.ctx, va := q.field 0 8, die := 0, jseq := j, warp := none }] } }

def execPost (s : State) : Host.Outcome State Fault Refusal := onKind 0x20 postMessage s

/-- The mask of EVSET and EVCLR. -/
def eventMask (q : Msg) : BitVec 256 := ofLe 256 (q.bytes 0 32)

/-- EVSET. -/
def evsetMsg : State → Msg → State :=
  journalled [(0, 32)] true (fun _ _ => none) fun s q j =>
    finishEntry { s with mach := setEvents s.mach q.ctx (eventMask q) } j 3 0

def execEvsetMessage (s : State) : Host.Outcome State Fault Refusal := onKind 0x21 evsetMsg s

/-- EVCLR (R384): a node that is ready stays so. -/
def evclrMsg : State → Msg → State :=
  journalled [(0, 32)] true (fun _ _ => none) fun s q j =>
    finishEntry { s with mach := updCtx s.mach q.ctx fun c => { c with events := c.events &&& ~~~eventMask q } } j 3 0

def execEvclr (s : State) : Host.Outcome State Fault Refusal := onKind 0x22 evclrMsg s

/-- KILL: a stale handle completes with no effect. -/
def killMessage : State → Msg → State :=
  journalled [(0, 4)] true
    (fun s q => if (getNode? s.mach (q.field 0 4)).elim false (·.ctx != q.ctx) then some .badBody else none) fun s q j =>
    finishEntry (killTask s (q.field 0 4) 0x200) j 3 0

def execKill (s : State) : Host.Outcome State Fault Refusal := onKind 0x23 killMessage s

/-- A QUERY names a journal entry: bit 0 of SEL (R471). -/
def Msg.byJseq (q : Msg) : Bool := q.field 0 1 % 2 = 1

/-- The handle that a QUERY names: the low half of its field. -/
def Msg.handle (q : Msg) : Nat := q.field 8 4

/-- The POST entry that a QUERY names: by JSEQ, or the newest with the handle. -/
def queriedEntry (d : Dev) (q : Msg) : Option JEntry :=
  (d.journal.filter fun e => e.kind = 0x20 &&
    (if q.byJseq then e.jseq = q.field 8 8 else e.handle != 0 && e.handle = q.handle)).getLast?

/-- What a QUERY finds: the context of the node or entry, and its completion record. -/
def queried (s : State) (q : Msg) : Option (Nat × List Byte) :=
  let zeros := List.replicate 64 0#8
  match (if q.byJseq then none else getNode? s.mach q.handle) with
  | some n => some (n.ctx, zeros)
  | none => (queriedEntry s.dev q).map fun e => (e.ctx, mapGetD s.dev.records e.jseq zeros)

/-- QUERY (R375, R471). -/
def queryMessage : State → Msg → State :=
  plainMessage [(0, 1), (8, 8)] true false
    (fun s q =>
      if (queried s q).elim false (·.1 != q.ctx) then some .noContext
      else if 1 < q.field 0 1 || (q.field 0 1 = 0 && 2 ^ 32 ≤ q.field 8 8) || (queried s q).isNone then some .badBody
      else none) fun s q =>
    { s with dev := answer q 0 0 0 ((queried s q).elim [] (·.2)) s.dev }

def execQuery (s : State) : Host.Outcome State Fault Refusal := onKind 0x24 queryMessage s

/-! ### Everything else that arrives -/

/-- The kinds of the table of R375. -/
def listedKinds : List Nat := [0x01, 0x02, 0x03, 0x10, 0x11, 0x12, 0x13, 0x14, 0x20, 0x21, 0x22, 0x23, 0x24]

/-- UNLISTED_MESSAGE_KIND (R375): BAD_KIND; a frame of a TYPE that no host may send is dropped (R372). -/
def execUnlistedMessageKind (s : State) : Host.Outcome State Fault Refusal :=
  onMessage (fun f k => f.typ != 1 && (f.typ != 0 || !listedKinds.contains k))
    (fun s q => { s with dev := refuse q .badKind s.dev }) s

/-- OTHER_TRAFFIC (R371): dropped and counted in the health log. -/
def execOtherTraffic (s : State) : Host.Outcome State Fault Refusal :=
  let n := s.dev.dropped + 1
  .next { s with dev := { s.dev with dropped := n }, mach := logHealth s.mach { healthOf 2 0 n with gtc := s.dev.gtc } }

/-- HOST_SECRET_INSTALL (R373): 32 bytes, for one of the 16 slots. -/
def execHostSecretInstall (s : State) : Host.Outcome State Fault Refusal :=
  takeInput s (fun
    | .secret slot hs => some (slot, hs)
    | _ => none) fun s (slot, hs) =>
    if slot < 16 && hs.length = 32 then { s with dev := updHostSlot s.dev slot fun x => { x with secret := some hs } } else s

end Sys2Proof.Machine
end

