-- ==== Sys2Proof/Machine/Power.lean ====
section
/-!
DEFINITION. Power, heat store, energy accounts and time (R430 to R439, R445 to R453): registers that Pumal writes, clamps, the
store's model, sprint grants, ballast, charges, the time receiver.
-/

namespace Sys2Proof.Machine

/-- An event that takes a reading of the device and changes the device alone. -/
def onDev (s : State) (f : Dev → Dev) : Host.Outcome State Fault Refusal := .next { s with dev := f s.dev }

def updWear (d : Dev) (f : Wear → Wear) : Dev := { d with wear := f d.wear }
def updPtp (d : Dev) (f : Ptp → Ptp) : Dev := { d with ptp := f d.ptp }
def updToday (d : Dev) (f : WearEntry → WearEntry) : Dev := updWear d fun w => { w with today := f w.today }

/-- The field of a pair for a die. -/
def ofDie {α : Type} (p : α × α) (die : Nat) : α := if die = 0 then p.1 else p.2
def setDie {α : Type} (p : α × α) (die : Nat) (a : α) : α × α := if die = 0 then (a, p.2) else (p.1, a)

/-! ### Control-block registers (R402, R430, R431, R439, R448, R456, R460) -/

/-- PCC.CFG as it reads. -/
def pccCfg (p : Pcc) : Nat :=
  packFields [(48, p.bstep), (32, p.sso), (24, p.ramp), (23, bitNat p.balen), (16, p.sust)]
/-- PCC.LIM as it reads. -/
def pccLim (p : Pcc) : Nat := packFields [(48, p.ilim), (32, p.ceil), (16, p.susw), (0, p.qc)]
/-- PCC.HS as it reads (R439). -/
def pccHs (m : Mach) (p : Pcc) : Nat :=
  packFields [(32, m.teams.countP fun (_, t) => t.lease.isSome), (11, bitNat (p.melt = 1023)), (10, bitNat p.rfz), (0, p.melt)]
/-- TIME.STAT as it reads (R448). -/
def timeStat (p : Ptp) : Nat :=
  packFields [(63, bitNat p.lock), (62, bitNat p.hold), (0, (BitVec.ofInt 32 p.offs).toNat)]
/-- HLTH.GB of a die as it reads (R456). -/
def hlthGb (w : Wear) (die : Nat) : Nat :=
  packFields [(24, ofDie w.wcl die), (8, (BitVec.ofInt 16 (ofDie w.wmar die)).toNat), (0, ofDie w.gb die)]
/-- HLTH.CFG as it reads (R460). -/
def hlthCfg (w : Wear) : Nat :=
  packFields [(56, w.grade), (47, w.cl0), (38, w.cl1), (29, w.t3), (18, w.mp), (7, w.spl)]

/-- Whether Pumal's write of a register is valid: no reserved bit, every field inside its limits. -/
def writeOk (r : CtlReg) (v : DWord) : Bool :=
  match r with
  | .pccCfg => bits v 22 21 = 0 && bits v 15 0 = 0 && bits v 31 24 != 0 && 1 ≤ bits v 20 16 && bits v 20 16 ≤ 16
  | .pccLim => bits v 63 48 != 0
  | .timeCtl => bits v 63 7 = 0
  | .tlbiCtl => bits v 60 32 = 0 && bits v 62 61 != 3
  | .tlbiRng => bits v 63 41 != 0
  | .hlthGb die => die < 2 && bits v 63 40 = 0 && bits v 7 6 = 0 && bits v 5 0 ≤ 40

/-- A valid write. SUST stays 8 while the coolant is outside its limits (R466). Of HLTH.GB only GB is written: what a write has in the
read-only bits [39:8] is ignored, and nothing is logged (log 76). Another DOMAIN leaves no source (R446). -/
def writeReg (d : Dev) (r : CtlReg) (v : DWord) : Dev :=
  match r with
  | .pccCfg => updPcc d fun p =>
      { p with bstep := bits v 63 48, sso := bits v 47 32, ramp := bits v 31 24, balen := v.getLsbD 23
               sust := if p.sustSaved.isSome then 8 else bits v 20 16
               sustSaved := p.sustSaved.map fun _ => bits v 20 16 }
  | .pccLim => updPcc d fun p => { p with ilim := bits v 63 48, ceil := bits v 47 32, susw := bits v 31 16, qc := bits v 15 0 }
  | .timeCtl => updPtp d fun p =>
      if bits v 6 0 = p.domain then p
      else { p with domain := bits v 6 0, source := none, foreign := [], t1 := none, t2 := none, t3 := none }
  | .tlbiCtl => { d with tlbiCtl := v }
  | .tlbiRng => { d with tlbiRng := v }
  | .hlthGb die => updToday (updWear d fun w => { w with gb := setDie w.gb die (bits v 5 0) }) fun t =>
      { t with gb := setDie t.gb die (max (ofDie t.gb die) (bits v 5 0)) }

/-- The number by which a health-log record names a register (R430, log 54). -/
def regNumber : CtlReg → Nat
  | .pccCfg => 1 | .pccLim => 2 | .timeCtl => 3 | .tlbiCtl => 4 | .tlbiRng => 5 | .hlthGb die => 6 + die

/-- REGISTER_WRITE (R402, R430): an invalid write is discarded whole, and a health-log record names the register; a request of SCOPE 11
raises CREG_RESERVED to Pumal instead, and nothing is written (log 54). -/
def execRegisterWrite (reg : CtlReg) (v : DWord) (s : State) : Host.Outcome State Fault Refusal :=
  .next (if writeOk reg v then { s with dev := writeReg s.dev reg v }
    else if reg = .tlbiCtl && bits v 62 61 = 3 then
      { s with dev := { s.dev with traps := (TrapName.cregReserved.code, v) :: s.dev.traps } }
    else { s with mach := logHealth s.mach { healthOf 3 0 (regNumber reg) with gtc := s.dev.gtc } })

/-! ### Clamps (R433, R434) -/

/-- A clamp source holds now: a die's current above ILIM, a cluster's droop, the package's power above CEIL, a full store with the power
above SUSW (R433). -/
def sourceHolds (p : Pcc) : ClampSource → Bool
  | .current die => p.ilim < ofDie p.amps die
  | .droop cluster => p.droops.contains cluster
  | .ceiling => 1000 * p.ceil < 1000 * p.load + p.shaped
  | .melt => p.melt = 1023 && p.susw < p.power

/-- A source clamps a cluster. -/
def sourceCovers (c : Nat) : ClampSource → Bool
  | .current die => dieOf c = die
  | .droop cluster => c = cluster
  | .ceiling | .melt => true

/-- The sources that hold now. -/
def liveSources (p : Pcc) : List ClampSource :=
  let all : List ClampSource := [.current 0, .current 1, .ceiling, .melt] ++ p.droops.map .droop
  all.filter (sourceHolds p)

/-- Some source of a cluster holds. -/
def clampHeld (p : Pcc) (c : Nat) : Bool := (liveSources p).any (sourceCovers c)

/-- The clusters that a source clamps. -/
def clampTargets (m : Mach) (p : Pcc) (src : ClampSource) : List Nat :=
  if sourceHolds p src then clusterNumbers.filter fun c => sourceCovers c src && (getCluster m c).present else []

/-- A cluster was clamped less than a µs ago. -/
def justClamped (clock : Nat) (x : Cluster) : Bool := x.clampAt.elim false fun t => clock < t + 1000

/-- Clamp one cluster; at most once in a µs. -/
def clampCluster (clock : Nat) (x : Cluster) : Cluster :=
  let x := { x with sourceAt := some clock }
  if justClamped clock x then x else { x with clp := min 4 (2 * x.clp), clampAt := some clock }

/-- CLAMP (R433): nothing where the source does not hold. -/
def execClamp (src : ClampSource) (s : State) : Host.Outcome State Fault Refusal :=
  let clock := s.mach.clock
  let ts := clampTargets s.mach s.dev.pcc src
  .next { s with mach := ts.foldl (fun m c => updCluster m c (clampCluster clock)) s.mach
                 dev := updToday s.dev fun t =>
                   { t with clamps := t.clamps + bitNat (ts.any fun c => !justClamped clock (getCluster s.mach c)) } }

/-- UNCLAMP (R434): 20 µs in which no source has held halve the pass count, but not where R456 holds it. -/
def execUnclamp (cluster : Nat) (s : State) : Host.Outcome State Fault Refusal :=
  onMach s fun d m => updCluster m cluster fun x =>
    if !x.hold4 && 1 < x.clp && !clampHeld d.pcc cluster && x.sourceAt.elim true (fun t => t + 20000 ≤ m.clock) then
      { x with clp := x.clp / 2, sourceAt := if x.clp / 2 = 1 then none else some m.clock }
    else x

/-- The clusters that a source holds at a count of the clock. -/
def noteSources (p : Pcc) (m : Mach) : Mach :=
  if (liveSources p).isEmpty then m
  else { m with clusters := m.clusters.map fun (c, x) => (c, if clampHeld p c then { x with sourceAt := some m.clock } else x) }

/-! ### The heat store (R435 to R438) -/

/-- The capacity of the store: 16,000 J. -/
def storeMax : Nat := 1600000000000

/-- MELT of an energy (R435): steps of 15.625 J. -/
def meltOf (e : Nat) : Nat := min 1023 (e / 1562500000)

/-- Give the store an energy. -/
def putStore (p : Pcc) (e : Nat) : Pcc := { p with e := min storeMax e, melt := meltOf (min storeMax e) }

/-- RFZ after an update (R437). -/
def refreeze (p : Pcc) : Pcc :=
  { p with rfz := if 960 ≤ p.melt then true else if p.melt < 256 then false else p.rfz }

/-- One update of the store from the average power of 10 µs (R435). -/
def heatStep (p : Pcc) (w : Nat) : Pcc :=
  let q := min p.susw p.qc
  let e := if q < w then p.e + (w - q) * 1000 else p.e + w * 1000 - p.qc * 1000
  refreeze { putStore p e with power := w }

/-- HEAT_STORE_UPDATE (R435, R437). -/
def execHeatStoreUpdate (s : State) : Host.Outcome State Fault Refusal :=
  takeInput s (fun
    | .power w => some w
    | _ => none) fun s w =>
    let p := heatStep s.dev.pcc w
    let begun := bitNat (p.rfz && !s.dev.pcc.rfz)
    { s with dev := updToday { s.dev with pcc := p } fun t => { t with freeze := t.freeze + begun } }

/-- The store energy after a correction towards the thermistors' (R436): at most 250 J either way. -/
def corrected (e eth : Nat) : Nat :=
  if e ≤ eth then e + min (eth - e) 25000000000 else e - min (e - eth) 25000000000

/-- THERMISTOR_CORRECTION (R436); the lid temperature is kept for the wear entry. -/
def execThermistorCorrection (s : State) : Host.Outcome State Fault Refusal :=
  takeInput s (fun
    | .thermistor eth lid => some (eth, lid)
    | _ => none) fun s (eth, lid) =>
    let e := s.dev.pcc.e
    let diff := max (e - eth) (eth - e)
    { s with dev := updToday (updPcc s.dev fun p => putStore p (corrected e eth)) fun t => { t with temp := max t.temp lid }
             mach := if 100000000000 < diff then logHealth s.mach { healthOf 3 1 diff with gtc := s.dev.gtc } else s.mach }

/-- What the leases in force have committed, in 10 nJ (R438). -/
def committedEnergy (m : Mach) : Nat := listSum ((mapVals m.teams).filterMap fun t => t.lease.map fun l => 4 * l.left)

/-- The beats that the PCC grants a request (R293, R438). -/
def grantOf (p : Pcc) (m : Mach) (r : SprintReq) : Nat :=
  let held := ((getTeam? m r.team).bind (·.lease)).isSome
  if r.want = 0 || p.rfz || held then 0
  else min r.want (((1023 - p.melt) * 1562500000 - committedEnergy m) / 4)

/-- Decide one request: the lease, sd, the flag (R293, R294). -/
def decideSprint (gtc : Nat) (m : Mach) (r : SprintReq) (g : Nat) : Mach :=
  let m := { m with sprints := m.sprints.erase r }
  let m := if g = 0 then m else updTeam m r.team fun t =>
    { t with lease := some { left := g, grant := g, start := gtc, nt := r.nt, holder := r.warp } }
  let v : DWord := BitVec.ofNat 64 g
  let m := match r.ticket with
    | some t => placeQueue m r.team t v false
    | none => updWarp m r.warp fun w => putS w r.reg v false
  updWarp m r.warp fun w => completeFlag w r.flag

/-- SPRINT_GRANT (R438): requests are decided one at a time, in the order in which they reached the PCC. -/
def execSprintGrant (s : State) : Host.Outcome State Fault Refusal :=
  onMach s fun d m => match m.sprints with
    | r :: _ => decideSprint d.gtc m r (grantOf d.pcc m r)
    | [] => m

/-! ### Ballast (R449) -/

/-- The launch times that some CPYAT waits for. -/
def pendingLaunches (m : Mach) : List Nat :=
  (mapVals m.clusters).flatMap fun x => (mapVals x.copies).filterMap fun c => if c.started then none else c.launch

/-- The ballast for a launch at a GTC, in mW: it rises by RAMP to BSTEP at T - SSO and holds until T, then falls by RAMP (R449). -/
def launchBallast (p : Pcc) (t : Nat) (launch : Nat × Nat) : Nat :=
  let full := 1000 * p.bstep
  let start := max launch.2 (launch.1 - p.sso - (full + p.ramp - 1) / p.ramp)
  min full (p.ramp * (min t launch.1 - start)) - p.ramp * (t - launch.1)

/-- The ballast that the pending launches ask for at a GTC, in mW. -/
def ballastAim (p : Pcc) (t : Nat) : Nat := listMax (p.ballast.map (launchBallast p t))

/-- Time passes up to a GTC: the package's power falls by no more than RAMP W per µs (R449). -/
def passBallast (p : Pcc) (now ns : Nat) : Pcc :=
  { p with shaped := if p.balen then max (p.shaped - p.ramp * ns) (ballastAim p now) else 0
           ballast := p.ballast.filter fun x => now ≤ x.1 }

/-- The sensors show other values: ballast takes up what the load falls by, and gives way to a load that rises (R449). -/
def senseLoad (p : Pcc) (gtc : Nat) (amps : Nat × Nat) (load : Nat) (droops : List Nat) : Pcc :=
  { p with amps := amps, load := load, droops := droops
           shaped := if p.balen then max (1000 * p.load + p.shaped - 1000 * load) (ballastAim p gtc) else 0 }

/-- BALLAST_PRE_RAMP (R449): a pending launch is noted, and ballast rises for it; launches within 10 µs of each other count as one. -/
def execBallastPreRamp (launch : DWord) (s : State) : Host.Outcome State Fault Refusal :=
  let t := launch.toNat
  let due := (pendingLaunches s.mach).contains t && s.dev.gtc ≤ t
  onDev s fun d => updPcc d fun p =>
    let b := p.ballast.filter fun x => d.gtc ≤ x.1
    { p with ballast :=
        if p.balen && p.bstep != 0 && due && b.all fun x => 10000 < max (x.1 - t) (t - x.1) then b ++ [(t, d.gtc)] else b }

/-! ### Energy (R450 to R452) -/

/-- Divide one interval's energy of a cluster among the nodes whose warps were selected; the rest is the system's (R450). -/
def divideCluster (m : Mach) (ns : Nat) (pend : Map Nat) (cl e : Nat) : Map Nat :=
  let x := getCluster m cl
  let total := max (x.cores * ns) (listSum (mapVals x.busy))
  let share (n : Nat) : Nat := if total = 0 then 0 else e * fracUnit * n / total
  let pend := x.busy.foldl (fun p (h, n) => mapPut p h (mapGetD p h 0 + share n)) pend
  mapPut pend 0 (mapGetD pend 0 0 + (e * fracUnit - listSum ((mapVals x.busy).map share)))

/-- ENERGY_ESTIMATE (R450, R451): the clusters' estimates of an interval are divided; the engines' and transfers' costs of tasks, those of
saves and restores, of the system (patrol scrubbing, Pumal, mailboxes) and of the ballast are charged at once. -/
def execEnergyEstimate (s : State) : Host.Outcome State Fault Refusal :=
  takeInput s (fun
    | .energies cls tasks saves system ballast => some (cls, tasks, saves, system, ballast)
    | _ => none) fun s (cls, tasks, saves, system, ballast) =>
    let ns := s.mach.clock - s.dev.pcc.pendAt
    let pend := cls.foldl (fun p (cl, e) => divideCluster s.mach ns p cl e) s.dev.pcc.pending
    let d := updPcc s.dev fun p => { p with pending := pend, pendAt := s.mach.clock, bale := satAdd 64 p.bale ballast }
    let m := (mapKeys s.mach.clusters).foldl (fun m c => updCluster m c fun x => { x with busy := [] }) s.mach
    let (d, m) := tasks.foldl (fun (d, m) (h, e) => chargeNode d m h (e * fracUnit)) (d, m)
    let (d, m) := saves.foldl (fun (d, m) (h, e) => chargeSave d m h (e * fracUnit)) (d, m)
    { s with dev := chargeSystem d (system * fracUnit), mach := m }

/-- ENERGY_SCALE (R450): the estimates of this millisecond are scaled so that they sum to the measured energy, and charged; what completed
tasks have been charged is part of it. -/
def execEnergyScale (s : State) : Host.Outcome State Fault Refusal :=
  takeInput s (fun
    | .measured e => some e
    | _ => none) fun s e =>
    let pend := s.dev.pcc.pending
    let sum := listSum (mapVals pend)
    let rest := e * fracUnit - s.dev.pcc.early
    let parts := if sum = 0 then [(0, rest)] else cutShares rest sum 0 pend
    let d := updToday (updPcc s.dev fun p => { p with pending := [], early := 0 }) fun t => { t with energy := satAdd 64 t.energy e }
    let (d, m) := parts.foldl (fun (d, m) (h, n) => chargeNode d m h n) (d, s.mach)
    { s with dev := d, mach := m }

/-! ### Time (R445 to R448) -/

/-- The selected source sent a message of this domain. -/
def fromSource (p : Ptp) (src domain : Nat) : Bool := domain = p.domain && p.source.elim false fun a => a.sender = src

/-- PTP_SYNC (R446): the arrival is time-stamped; a one-step message carries its own time of departure. -/
def execPtpSync (s : State) : Host.Outcome State Fault Refusal :=
  takeInput s (fun
    | .sync src seqId domain t1 two => some (src, seqId, domain, t1, two)
    | _ => none) fun s (src, seqId, domain, t1, two) =>
    { s with dev := updPtp s.dev fun p =>
        if fromSource p src domain then
          { p with lastSync := s.mach.clock, hold := false, seqId := seqId, t2 := some s.dev.gtc, t1 := if two then none else some t1 }
        else p }

/-- PTP_FOLLOW_UP (R446). -/
def execPtpFollowUp (s : State) : Host.Outcome State Fault Refusal :=
  takeInput s (fun
    | .followUp src seqId domain t1 => some (src, seqId, domain, t1)
    | _ => none) fun s (src, seqId, domain, t1) =>
    { s with dev := updPtp s.dev fun p =>
        if fromSource p src domain && p.seqId = seqId && p.t2.isSome && p.t1.isNone then { p with t1 := some t1 } else p }

/-- PTP_DELAY_REQ (R446): the port sends a request of its domain and time-stamps its departure. -/
def execPtpDelayReq (s : State) : Host.Outcome State Fault Refusal :=
  onDev s fun d => updPtp d fun p =>
    let n := (p.dseq + 1) % 65536
    if p.source.isSome then { p with dseq := n, sent := p.sent ++ [(n, p.domain)], t3 := some d.gtc } else p

/-- The measured offset of the GTC from PTP time, halves rounded down. -/
def ptpOffset (t1 t2 t3 t4 : Nat) : Int := (((t2 : Int) - t1) - ((t4 : Int) - t3)) / 2

/-- Use a measured offset (R447): the first sets the GTC where that raises it and no context exists, the count of the day's entry with it
(R461, log 88); others slew. -/
def useOffset (d : Dev) (noCtx : Bool) (offs : Int) : Dev :=
  let good := if offs.natAbs ≤ 50 then d.ptp.good + 1 else 0
  let lock := !(200 < offs.natAbs) && (d.ptp.lock || 16 ≤ good)
  let sets := !d.ptp.measured && noCtx && offs < 0
  let by' := if sets then offs.natAbs else 0
  let slew := if sets then 0 else max (-100000) (min 100000 (Config.slewRate offs))
  { updWear d fun w => { w with lastDay := w.lastDay + by' } with
    gtc := d.gtc + by'
    ptp := { d.ptp with offs := offs, good := good, lock := lock, measured := true, slew := slew, t3 := none } }

/-- PTP_DELAY_RESP (R446, R447): completes a measurement. -/
def execPtpDelayResp (s : State) : Host.Outcome State Fault Refusal :=
  takeInput s (fun
    | .delayResp src seqId domain t4 => some (src, seqId, domain, t4)
    | _ => none) fun s (src, seqId, domain, t4) =>
    let p := s.dev.ptp
    match fromSource p src domain && p.dseq = seqId, p.t1, p.t2, p.t3 with
    | true, some t1, some t2, some t3 => { s with dev := useOffset s.dev s.mach.ctxs.isEmpty (ptpOffset t1 t2 t3 t4) }
    | _, _, _, _ => s

/-- What orders the grandmasters of two sources in the default profile's comparison (R446). -/
def announceKey (a : Announce) : List Nat := [a.priority1, a.clockClass, a.accuracy, a.variance, a.priority2, a.identity]

/-- Lexicographic order of lists of numbers. -/
def listLess : List Nat → List Nat → Bool
  | [], [] => false
  | [], _ :: _ => true
  | _ :: _, [] => false
  | a :: l, b :: r => a < b || (a = b && listLess l r)

/-- The better of two sources: by their grandmasters; of one grandmaster, the one fewer steps away, then the lower sender (R446). -/
def announceBefore (a b : Announce) : Bool :=
  if a.identity = b.identity then listLess [a.steps, a.sender] [b.steps, b.sender] else listLess (announceKey a) (announceKey b)

/-- Select the best of the sources that are heard; a change of source begins a new measurement (R446). -/
def selectSource (p : Ptp) : Ptp :=
  let best := (listBest (fun (x y : Announce × Nat) => announceBefore x.1 y.1) p.foreign).map (·.1)
  if best.map (·.sender) = p.source.map (·.sender) then { p with source := best }
  else { p with source := best, t1 := none, t2 := none, t3 := none }

/-- For how long a transmitter that sends no Announce is still heard: three intervals of 2 s (log 89). -/
def announceTimeout : Nat := 6000000000

/-- Drop the transmitters that have fallen silent. -/
def dropSilent (clock : Nat) (p : Ptp) : Ptp :=
  if p.foreign.all fun x => clock < x.2 + announceTimeout then p
  else selectSource { p with foreign := p.foreign.filter fun x => clock < x.2 + announceTimeout }

/-- PTP_ANNOUNCE (R446): the sender's dataset is renewed, and the best source is selected. -/
def execPtpAnnounce (s : State) : Host.Outcome State Fault Refusal :=
  takeInput s (fun
    | .announce a => some a
    | _ => none) fun s a =>
    { s with dev := updPtp s.dev fun p =>
        if a.domain != p.domain then p
        else
          let p := if p.source.isNone then { p with lastSync := s.mach.clock } else p
          selectSource { p with foreign := (p.foreign.filter fun x => x.1.sender != a.sender) ++ [(a, s.mach.clock)] } }

/-- PTP_HOLDOVER (R447): no Sync for 8 s. -/
def execPtpHoldover (s : State) : Host.Outcome State Fault Refusal :=
  onDev s fun d => updPtp d fun p =>
    if p.lastSync + 8000000000 ≤ s.mach.clock then { p with lock := false, hold := true, good := 0 } else p

/-- The GTC goes on by `ns` cycles of the master clock, at the rate to which it is slewed: the last one in holdover (R447). -/
def passGtc (d : Dev) (ns : Nat) : Dev :=
  let t := d.ptp.part + ns * (1000000000 + d.ptp.slew).toNat
  { d with gtc := d.gtc + t / 1000000000, ptp := { d.ptp with part := t % 1000000000 } }

end Sys2Proof.Machine
end

