-- ==== Sys2Proof/Machine/Wearout.lean ====
section
/-!
DEFINITION. Wear and health (R454 to R456, R461 to R466): margins, guard-bands, the wear record, management reads, the coolant.
-/

namespace Sys2Proof.Machine

/-! ### Margins and guard-bands (R454 to R456) -/

/-- The surviving clusters of a die. -/
def dieClusters (m : Mach) (die : Nat) : List Nat :=
  ((List.range 256).map (256 * die + ·)).filter fun c => (getCluster m c).present

/-- The surviving cluster of a die with the lowest margin, the first of several. -/
def lowestMargin (m : Mach) (die : Nat) : Option Nat :=
  listBest (fun a b => (getCluster m a).margin < (getCluster m b).margin) (dieClusters m die)

/-- What a reading says of one die: WCL and WMAR, since when the margin has stayed above 60 ps, the day's lowest margin. -/
def noteMargin (d : Dev) (m : Mach) (die : Nat) : Dev :=
  match lowestMargin m die with
  | none => d
  | some c =>
    let x := (getCluster m c).margin
    let d := updWear d fun w =>
      let since := if x ≤ 60 then 0 else if ofDie w.above die = 0 then m.clock + 1 else ofDie w.above die
      { w with wcl := setDie w.wcl die c, wmar := setDie w.wmar die x, above := setDie w.above die since }
    updToday d fun t => { t with margin := setDie t.margin die (min (ofDie t.margin die) x) }

/-- The unit of a cluster that holds one of its eight sensors: a lane slice, an address port, a core, or the cluster itself (R454). -/
def sensorUnit (cluster i : Nat) : LostUnit :=
  let n := Config.sensorUnit cluster i % 29
  if n < 16 then .slice cluster (n / 4) (n % 4)
  else if n < 24 then .port cluster ((n - 16) / 2) (n % 2)
  else if n < 28 then .core cluster (n - 24)
  else .cluster cluster

/-- The least of the slacks that a cluster's sensors show; those of deconfigured units are not read (R454). -/
def clusterMargin (w : Wear) (cluster : Nat) (slacks : List Int) : Option Int :=
  listBest (· < ·) (((List.range 8).zip slacks).filterMap fun (i, x) => if w.removed.contains (sensorUnit cluster i) then none else some x)

/-- MONITOR_READ (R454): every surviving cluster's margin, from its sensors. -/
def execMonitorRead (s : State) : Host.Outcome State Fault Refusal :=
  takeInput s (fun
    | .margins common others => some (common, others)
    | _ => none) fun s (common, others) =>
    let m := clusterNumbers.foldl (fun m c =>
      if (getCluster m c).present then
        (clusterMargin s.dev.wear c ((mapGet? others c).getD common)).elim m fun x => updCluster m c fun y => { y with margin := x }
      else m) s.mach
    { s with mach := m, dev := noteMargin (noteMargin s.dev m 0) m 1 }

/-- Mark a unit for deconfiguration at the next boot (R456, R457, R462). -/
def markUnit (w : Wear) (u : LostUnit) : Wear :=
  if w.pending.contains u then w
  else { w with pending := w.pending ++ [u], today := { w.today with marked := w.today.marked + 1 } }

/-- A die's voltage in mV: the fused one and the guard-band's steps of 5 mV (R455). -/
def dieVoltage (w : Wear) (die : Nat) : Nat := Config.vnom die + 5 * ofDie w.gb die

/-- GB_STEP (R455, R456): a margin below 40 ps raises the guard-band by one step, at most every 10 µs; at 40 steps and below
0 ps the cluster is marked and held at CLP 4. -/
def execGbStep (die : Nat) (s : State) : Host.Outcome State Fault Refusal :=
  match (if die < 2 then lowestMargin s.mach die else none) with
  | none => .next s
  | some c =>
    let w := s.dev.wear
    let x := (getCluster s.mach c).margin
    let gb := ofDie w.gb die
    if 40 ≤ x then .next s
    else if gb < 40 then
      if s.mach.clock < ofDie w.stepAt die then .next s
      else
        let d := updWear s.dev fun w => { w with gb := setDie w.gb die (gb + 1), stepAt := setDie w.stepAt die (s.mach.clock + 10000) }
        .next { s with dev := updToday d fun t => { t with gb := setDie t.gb die (max (ofDie t.gb die) (gb + 1)) } }
    else if x < 0 then
      .next { s with dev := updWear s.dev fun w => markUnit w (.cluster c)
                     mach := updCluster s.mach c fun y => { y with clp := 4, hold4 := true } }
    else .next s

/-- GB_HOURLY_FALL (R455): above 60 ps for a full hour lowers the guard-band by one step. -/
def execGbHourlyFall (die : Nat) (s : State) : Host.Outcome State Fault Refusal :=
  onDev s fun d => updWear d fun w =>
    let since := ofDie w.above die
    if die < 2 && since != 0 && since + 3600000000000 ≤ s.mach.clock + 1 && 0 < ofDie w.gb die then
      { w with gb := setDie w.gb die (ofDie w.gb die - 1), above := setDie w.above die (s.mach.clock + 1) }
    else w

/-! ### The wear record (R461, R462) -/

/-- Bytes 0x00 to 0x5F of an entry. -/
def wearBody (e : WearEntry) : List Byte :=
  let i16 (x : Int) : Nat := (BitVec.ofInt 16 x).toNat
  wordsBytes [packFields [(48, e.epoch), (0, e.day)], packFields [(16, i16 e.margin.2), (0, i16 e.margin.1)],
    packFields [(8, e.gb.2), (0, e.gb.1)], e.energy, packFields [(32, e.freeze), (0, e.lease)],
    packFields [(32, e.errs.2), (0, e.errs.1)], packFields [(32, e.clamps), (0, e.temp)], e.marked] ++ e.config

/-- The 128 bytes of an entry. -/
def wearBytes (e : WearEntry) : List Byte := wearBody e ++ e.chain

/-- The digest of the configuration: HLTH.CFG and every c.slotmap. -/
def configDigest (w : Wear) (m : Mach) : List Byte :=
  (sha3 (wordsBytes (hlthCfg w :: (List.range 2048).map fun c => (getCore m c).slotmap.toNat))).take 32

/-- What the head's signature covers: the newest day number and its chain value (R462). -/
def headBytes (day : Nat) (chain : List Byte) : List Byte := leBytes 8 (BitVec.ofNat 64 day) ++ chain

/-- Append an entry for a day and sign the head (R461, R462). The day's lease time becomes seconds. -/
def appendWear (s : State) (day : Nat) : State :=
  let w := s.dev.wear
  let e : WearEntry :=
    { w.today with day := day, epoch := s.dev.boots % 65536, lease := w.today.lease / 1000000000, errs := s.mach.errs
                   config := configDigest w s.mach, chain := [] }
  let e := { e with chain := (sha3 (w.headChain ++ wearBody e)).take 32 }
  let head := headBytes day e.chain
  let w := { w with entries := (w.entries ++ [e]).drop (w.entries.length - 4095), headDay := day, headChain := e.chain
                    headSig := Config.identitySignature s.dev.mr0 (sha3 head), today := { WearEntry.none with gb := w.gb } }
  { s with dev := { s.dev with wear := w }, mach := { s.mach with errs := (0, 0) } }

/-- WEAR_DAILY_APPEND (R461): every 86,400 s of GTC, an entry for each such day that has passed. -/
def execWearDailyAppend (s : State) : Host.Outcome State Fault Refusal :=
  if s.dev.wear.lastDay + 86400000000000 ≤ s.dev.gtc then
    let s := appendWear s (s.dev.wear.headDay + 1)
    .next { s with dev := updWear s.dev fun w => { w with lastDay := w.lastDay + 86400000000000 } }
  else .next s

/-! ### Management reads (R463, R465) -/

/-- A health-log record as the management controller returns it; the name word is hidden for a context without DBG. -/
def healthBytes (m : Mach) (h : Health) : List Byte :=
  let shown := h.ctx = 0 || (getCtx? m h.ctx).elim false (·.dbg)
  wordsBytes [packFields [(0, h.cls), (8, h.kind), (16, h.struct)], h.pa, h.gtc, if shown then h.name else 0,
    packFields [(0, h.keyid), (32, h.ctx)], h.detail, 0, 0]

/-- The address of a health-log record on Pumal's home-11 pages (R463). The model holds those pages as the list of their records, and these
are the bytes they have (log 85). -/
def healthAddr (n : Nat) : Nat := healthPages * 65536 + 64 * (n % 65536)

/-- The health-log records from a number on, at most `count`; the newest has number `healthNo - 1`. -/
def healthFrom (m : Mach) (first count : Nat) : List Health :=
  let oldest := m.healthNo - m.health.length
  (m.health.reverse.drop (first - oldest)).take count

/-- The number of a unit's bit among those of its cluster in the pending map: 16 lane slices, 8 address ports, 4 cores, the cluster
(R462, log 90). -/
def unitBit : LostUnit → Option Nat
  | .slice cl core i => some (32 * cl + 4 * core + i)
  | .port cl core i => some (32 * cl + 16 + 2 * core + i)
  | .core cl core => some (32 * cl + 24 + core)
  | .cluster cl => some (32 * cl + 28)
  | .copyEngine _ | .matrixEngine _ | .clusterTlb _ | .spadBank _ _ | .l2OrHbm _ _ => none

/-- The pending map as bytes, one word of 32 bits for each cluster. -/
def pendingBytes (w : Wear) : List Byte :=
  let set := w.pending.filterMap unitBit
  (List.range 2048).map fun i => BitVec.ofNat 8 (listSum ((List.range 8).map fun j => if set.contains (8 * i + j) then 2 ^ j else 0))

/-- The signed head of the wear record (R462). -/
def signedHead (w : Wear) : List Byte := headBytes w.headDay w.headChain ++ w.headSig

/-- The items that answer one item on the management port (R465): records from a number, in the log's order, or wear entries from a day,
the pending map and the signed head; at most 16 of them. -/
def mgmtItems (s : State) (item : List Byte) : List (List Byte) :=
  let first := itemNat item 16 8
  if kindOf item = 0x30 then (healthFrom s.mach first 16).map (healthBytes s.mach)
  else if kindOf item = 0x31 then
    ((s.dev.wear.entries.filter fun e => first ≤ e.day).take 14).map wearBytes ++ [pendingBytes s.dev.wear, signedHead s.dev.wear]
  else []

/-- Answer a frame's item on the management port, in the frame's session. -/
def sendMgmt (d : Dev) (f : Frame) (items : List (List Byte)) : Dev :=
  match frameKey d f.slot.toNat f.session.toNat with
  | none => d
  | some k =>
    let n := d.mgmtNo + 1
    let tag := tagOf k (headerBytes n f.session.toNat 0 f.slot.toNat items.length 2 1) items.flatten
    { d with mgmtNo := n, mgmt := d.mgmt ++ [{ slot := f.slot.toNat, count := items.length, typ := 2, session := f.session.toNat
                                               fseq := n, item := items.flatten, tag := tag }] }

/-- Take a frame that has come to the management port: each item is answered in turn, a bad frame is dropped (R372, R465). -/
def takeMgmt (s : State) (f : Frame) : State :=
  if messagesOk f && frameSound s.dev f then
    (List.range f.count.toNat).foldl (fun s k =>
      let items := mgmtItems s (itemAt f k)
      if items.isEmpty then s else { s with dev := sendMgmt s.dev f items }) { s with dev := acceptFrame s.dev f }
  else s

/-- READ_HEALTH_LOG (R465): a frame whose first item is not of kind 0x31. -/
def execReadHealthLog (s : State) : Host.Outcome State Fault Refusal :=
  takeInput s (fun
    | .mgmt f => if kindOf (itemAt f 0) = 0x31 then none else some f
    | _ => none) takeMgmt

/-- READ_WEAR_RECORD (R465): a frame whose first item is of kind 0x31. -/
def execReadWearRecord (s : State) : Host.Outcome State Fault Refusal :=
  takeInput s (fun
    | .mgmt f => if kindOf (itemAt f 0) = 0x31 then some f else none
    | _ => none) takeMgmt

/-! ### The coolant (R466) -/

/-- QC for an inlet temperature in 0.1 °C and a flow in 0.01 L/min, in whole W. -/
def plateCapacity (tin flow : Nat) : Nat :=
  ((min (2800 : Int) (2600 - 5 * ((tin : Int) - 320))).toNat * min 200 flow) / 200

/-- The coolant keeps its limits. -/
def coolantOk (tin flow : Nat) : Bool := 200 ≤ tin && tin ≤ 400 && 100 ≤ flow

/-- COOLANT_CHANGE (R466): QC; outside the limits a CLASS 3 record and SUST 8 until they hold again. -/
def execCoolantChange (s : State) : Host.Outcome State Fault Refusal :=
  takeInput s (fun
    | .coolant tin flow => some (tin, flow)
    | _ => none) fun s (tin, flow) =>
    let ok := coolantOk tin flow
    { s with dev := updPcc s.dev fun p =>
               if ok then { p with qc := plateCapacity tin flow, sust := p.sustSaved.getD p.sust, sustSaved := none }
               else { p with qc := plateCapacity tin flow, sust := 8, sustSaved := some (p.sustSaved.getD p.sust) }
             mach := if ok then s.mach else logHealth s.mach { healthOf 3 2 (packFields [(0, tin), (32, flow)]) with gtc := s.dev.gtc } }

end Sys2Proof.Machine
end

