-- ==== Sys2Proof/Machine/Boot.lean ====
section
/-!
DEFINITION. Boot, supply loss and return (R410, R411, R440 to R444, R457 to R460, R467): verification and measurement,
deconfiguration, the grade, the supply-loss sequence, resuming, shutdown.
-/

namespace Sys2Proof.Machine

/-! ### Deconfiguration and the grade (R457 to R460) -/

/-- What a physical core has lost: slices, ports, the core itself. -/
def lostSlices (l : List LostUnit) (cl core : Nat) : List Nat :=
  (List.range 4).filter fun i => l.contains (.slice cl core i)
def lostPorts (l : List LostUnit) (cl core : Nat) : List Nat :=
  (List.range 2).filter fun i => l.contains (.port cl core i)

/-- A core that survives its losses. -/
def coreSurvives (l : List LostUnit) (cl core : Nat) : Bool :=
  !l.contains (.core cl core) && (lostSlices l cl core).length < 4 && (lostPorts l cl core).length < 2

/-- c.slotmap as Pumal writes it at boot (R458). -/
def bootSlotmap (l : List LostUnit) (cl core : Nat) : DWord :=
  let base : Nat := match lostPorts l cl core with
    | [0] => 0x3f
    | [1] => 0x0f
    | _ => 0x2f
  (lostSlices l cl core).foldl (fun v i => v &&& ~~~(1#64 <<< i)) (BitVec.ofNat 64 base)

/-- The surviving cores of a cluster by their physical numbers. -/
def survivingCores (l : List LostUnit) (cl : Nat) : List Nat := (List.range 4).filter (coreSurvives l cl)

/-- A unit without which a cluster is removed: the cluster itself, its copy engine, matrix engine or TLB, a bank of its scratchpad. -/
def removesCluster (cl : Nat) : LostUnit → Bool
  | .cluster c | .copyEngine c | .matrixEngine c | .clusterTlb c | .spadBank c _ => c = cl
  | .slice .. | .port .. | .core .. | .l2OrHbm .. => false

/-- A cluster that survives: marked or broken ones and those that lost two cores do not, nor those of a die in recovery (R457). -/
def clusterSurvives (l : List LostUnit) (recovery : Bool × Bool) (cl : Nat) : Bool :=
  !l.any (removesCluster cl) && 3 ≤ (survivingCores l cl).length && !ofDie recovery (dieOf cl)

/-- The clusters as a boot leaves them. -/
def bootClusters (l : List LostUnit) (recovery : Bool × Bool) : Map Cluster :=
  clusterNumbers.foldl (fun m cl =>
    let x : Cluster := { Cluster.atReset with present := clusterSurvives l recovery cl, cores := (survivingCores l cl).length }
    mapSetD m cl Cluster.atReset x) []

/-- The cores as a boot leaves them; the survivors of a cluster are numbered from 0. -/
def bootCores (l : List LostUnit) : Map Core :=
  clusterNumbers.foldl (fun m cl =>
    ((survivingCores l cl).zip (List.range 4)).foldl (fun m (p, i) =>
      mapSetD m (4 * cl + i) Core.atReset { Core.atReset with slotmap := bootSlotmap l cl p }) m) []

/-- The highest grade whose limits a package meets, 7 when there is none (R459). -/
def gradeOf (clusters three minp split : Nat) : Nat :=
  if 512 ≤ clusters && three = 0 && minp = 0 && split = 0 then 0
  else if 480 ≤ clusters && three ≤ 32 && minp ≤ 64 && split ≤ 64 then 1
  else if 448 ≤ clusters && three ≤ 64 && minp ≤ 128 && split ≤ 128 then 2
  else 7

/-- The configuration that HLTH.CFG reports (R460). -/
def reportConfig (m : Mach) (w : Wear) : Wear :=
  let live := clusterNumbers.filter fun c => (getCluster m c).present
  let cores := live.flatMap fun c => (List.range (getCluster m c).cores).map fun i => getCore m (4 * c + i)
  let cl0 := live.countP fun c => dieOf c = 0
  let cl1 := live.countP fun c => dieOf c = 1
  let t3 := live.countP fun c => (getCluster m c).cores = 3
  let mp := cores.countP fun c => 1 < minPass c
  let spl := cores.countP fun c => splitFactor c = 2
  { w with cl0 := cl0, cl1 := cl1, t3 := t3, mp := mp, spl := spl, grade := gradeOf (cl0 + cl1) t3 mp spl }

/-! ### Verification and measurement (R410) -/

/-- Whether the boot ROM of a die runs its image. -/
def imageGood (i : DieImage) : Bool := Config.imageVerifies (sha3 i.body) i.sig && i.fuse ≤ i.version

/-- The certificate in non-volatile storage covers the identity key that the boot has derived (R411). -/
def identityCovered (d : Dev) : Bool := Config.certifies d.cert (Config.identityKey d.mr0)

/-- Extend a measurement register. -/
def extend (m digest : List Byte) : List Byte := sha3 (m ++ digest)

/-- A measurement register before any extension. -/
def measureZero : List Byte := List.replicate 64 0#8

/-- MR0 and MR1 of a die after its ROM. -/
def measure (i : DieImage) : List Byte × List Byte :=
  if imageGood i then (extend measureZero (sha3 i.body), extend measureZero i.pumal) else (measureZero, measureZero)

/-- The data rate of a memory stack that is not lowered, in Mb/s per pin (R95). -/
def fullRate : Nat := 10000

/-- A unit that cannot be deconfigured keeps its die in recovery when Pumal's training of its stack at a lower rate has failed: the rate is
0, or not a lower one (R457). -/
def keepsRecovery (rates : List Nat) (die : Nat) : LostUnit → Bool
  | .l2OrHbm d stack => d = die && !(0 < rates.getD stack 0 && rates.getD stack 0 < fullRate)
  | _ => false

/-- A die that stays in recovery: a check failed, or a unit is lost that can neither be deconfigured nor retrained (R410, R457). -/
def inRecovery (i : DieImage) (l : List LostUnit) (rates : List Nat) (die : Nat) : Bool := !imageGood i || l.any (keepsRecovery rates die)

/-- What a boot finds: the supplies, the images, the lost units, the package's id and pod id in the switch (R390), the rate to which each
memory stack is trained (R95). -/
structure BootInput where
  standby : Bool
  holdup  : Nat
  d0      : DieImage
  d1      : DieImage
  lost    : List LostUnit
  pkg     : Nat
  pod     : Nat
  rates   : List Nat

/-- The device after the boot ROMs: measurements, recovery, which the management controller reports, the units that the boot removes, the
boot count (R377, R381, R410, R457). -/
def bootDev (d : Dev) (b : BootInput) : Dev :=
  let l := b.lost ++ d.wear.pending
  let r0 := inRecovery b.d0 l b.rates 0
  let r1 := inRecovery b.d1 l b.rates 1
  updWear { d with
    boots := d.boots + 1, supply := .on, mr0 := (measure b.d0).1, mr1 := (measure b.d0).2, mr0b := (measure b.d1).1
    mr1b := (measure b.d1).2, recovery := (r0, r1)
    reports := d.reports ++ (if r0 then [.recovery 0] else []) ++ if r1 then [.recovery 1] else [] } fun w => { w with removed := l }

/-- The health log reports each stack that is trained to a lower rate: KIND its number, the detail its rate (R95, R463, log 74). -/
def reportRates (gtc : Nat) (m : Mach) (rates : List Nat) : Mach :=
  ((rates.zip (List.range 8)).filter fun (r, _) => r < fullRate).foldl
    (fun m (r, i) => logHealth m { healthOf 5 i r with gtc := gtc }) m

/-- The clusters and cores of a boot, the ids that Pumal learns, the trained rates. -/
def bootMach (d : Dev) (m : Mach) (b : BootInput) : Mach :=
  let l := b.lost ++ d.wear.pending
  reportRates d.gtc { m with clusters := bootClusters l d.recovery, cores := bootCores l, pkg := b.pkg % 256, pod := b.pod % 4 } b.rates

/-- A cluster without power: what it held is gone. -/
def darkCluster (x : Cluster) : Cluster :=
  { x with locks := [], copies := [], matrix := Matrix.free, tlb := [], busy := [] }

/-- A core without power. -/
def darkCore (c : Core) : Core := { Core.atReset with slotmap := c.slotmap, written := c.written }

/-- The clusters lose what they held: warps, teams, buffers, caches, translations. -/
def goDark (m : Mach) : Mach :=
  { m with warps := [], teams := [], gangs := [], sprints := [], misses := [], tlb0 := [], tlb1 := [], episodes := []
           clusters := m.clusters.map fun (k, x) => (k, darkCluster x)
           cores := m.cores.map fun (k, c) => (k, darkCore c) }

/-- What survives a cold boot: the boot count, the certificate, the wear record, what the management controller has reported (R381, R411,
R462). -/
def coldDev (d : Dev) : Dev :=
  let w := d.wear
  { Dev.atReset with boots := d.boots, cert := d.cert, reports := d.reports, wear := { Wear.atReset with
      entries := w.entries, pending := w.pending, headDay := w.headDay, headChain := w.headChain, headSig := w.headSig } }

/-- A hold-up below 1 ms: the management controller holds the package in reset, where nothing boots, and reports the failure (R467). -/
def holdReset (s : State) (b : BootInput) : State :=
  { s with mach := goDark s.mach, cur := none
           dev := { s.dev with supply := .held, marker := none, mailbox := [], reports := s.dev.reports ++ [.holdup b.holdup] } }

/-- A cold boot (R381, R410, R457): GTC 0, an empty journal, whole memory fresh. -/
def coldBoot (s : State) (b : BootInput) : State :=
  let d := bootDev (coldDev s.dev) b
  let m := bootMach d Mach.atReset b
  { mach := m, dev := updWear d (reportConfig m), inputs := s.inputs, agenda := s.agenda, turn := 0, cur := none }

/-- What a boot reads at the head of the inputs. -/
def bootInput? : Input → Option BootInput
  | .images standby holdup d0 d1 lost pkg pod rates =>
    some { standby := standby, holdup := holdup, d0 := d0, d1 := d1, lost := lost, pkg := pkg, pod := pod, rates := rates }
  | _ => none

/-- DEVICE_RESET (R410, R467): the boot that follows a reset. -/
def execDeviceReset (s : State) : Host.Outcome State Fault Refusal :=
  takeInput s bootInput? fun s b => if b.holdup < 1000 then holdReset s b else coldBoot s b

/-! ### Supply loss (R440 to R443) -/

/-- Bytes 0x00 to 0x1F of a marker. -/
def markerBody (k : Marker) : List Byte :=
  wordsBytes [packFields [(0, 1), (16, k.epoch), (32, 1)], k.head, k.gtc,
    packFields [(0, k.dirty), (62, bitNat k.remote), (63, bitNat k.flushed)]]

/-- The 64 bytes of a marker. -/
def markerBytes (k : Marker) : List Byte := markerBody k ++ k.hash

/-- Whether a UALink operation is in flight. -/
def remoteBusy (m : Mach) : Bool :=
  (mapVals m.warps).any (fun w => w.ops.any fun o => o.acc.any fun a => remoteKey a.key) ||
  (mapVals m.clusters).any fun x => (mapVals x.copies).any fun c => c.started && (copyGlobals c).any fun (a, _) => vaRegion a = 10

/-- What of an operation stays on this package; none when nothing does. -/
def localPart (o : MemOp) : Option MemOp :=
  let o' := { o with acc := o.acc.filter fun a => !remoteKey a.key }
  if o.acc.isEmpty || !o'.acc.isEmpty then some o' else none

/-- Perform the local accesses that were issued (R441); those of another package are abandoned, and a copy stops where it stands. -/
def performIssued (gtc : Nat) (m : Mach) : Mach :=
  (mapKeys m.warps).foldl (fun m k => drainOps gtc (updWarp m k fun w => { w with ops := w.ops.filterMap localPart }) k) m

/-- The dirty lines of the stack caches. -/
def dirtyStack (m : Mach) : Nat := listSum ((mapVals m.warps).map fun w => w.stack.countP fun x => x.2.dirty)

/-- The dirty lines of the stack caches go to memory with those of the L2 (R440, R441). -/
def flushStacks (gtc : Nat) (m : Mach) : Mach := (mapKeys m.warps).foldl (flushStack gtc) m

/-- The frames of the last gasp; every session ends (R443). -/
def lastGasp (d : Dev) (k : Marker) : Dev :=
  let d := (d.slots.filter fun (_, x) => x.session != 0).foldl (fun d (i, x) => sendFrame d i x.session 3 (markerBytes k)) d
  { d with mailbox := [], slots := d.slots.map fun (i, x) => (i, { x with session := 0, key := [], fseq := 0 }) }

/-- The marker of a warning: the number of dirty lines is at least that of the stack caches' lines; how many the L2 held beside them is a
free value (log 4). -/
def markerOf (d : Dev) (m : Mach) (stack : Nat) : Marker :=
  let k : Marker :=
    { epoch := d.boots % 65536, head := d.jhead, gtc := d.gtc, dirty := min (2 ^ 32 - 1) (stack + (Config.freeValue m.tick).toNat)
      remote := remoteBusy m, flushed := true, hash := [] }
  { k with hash := (sha3 (markerBody k)).take 32 }

/-- The reserved home-11 line that takes the marker (R442, log 85). -/
def markerLine : Nat := markerPage * 65536

/-- SUPPLY_LOSS_WARNING (R440 to R443): the sequence from its first step to its end, and the wear entry (R461). The marker goes to
non-volatile storage and to its line of HBM (R442). -/
def execSupplyLossWarning (s : State) : Host.Outcome State Fault Refusal :=
  if s.dev.supply != .on then .next s
  else
    let m := performIssued s.dev.gtc (bump s.mach)
    let k := markerOf s.dev s.mach (dirtyStack m)
    let m := writeBytes (goDark (flushStacks s.dev.gtc m)) markerLine (markerBytes k)
    let s1 : State := { s with mach := m, dev := lastGasp { s.dev with marker := some k } k, cur := none }
    let s1 := appendWear s1 s1.dev.wear.headDay
    .next { s1 with dev := { s1.dev with supply := .off } }

/-- SHUTDOWN (R461): an entry is appended and the head signed; the package goes off. -/
def execShutdown (s : State) : Host.Outcome State Fault Refusal :=
  if s.dev.supply != .on then .next s
  else
    let s1 := appendWear { s with mach := goDark s.mach, cur := none } s.dev.wear.headDay
    .next { s1 with dev := { s1.dev with supply := .off, marker := none, mailbox := [] } }

/-! ### Supply return (R444) -/

/-- Whether the device resumes. -/
def mayResume (d : Dev) (b : BootInput) : Bool :=
  b.standby && d.marker.elim false fun k =>
    k.flushed && k.epoch = d.boots % 65536 && k.hash = (sha3 (markerBody k)).take 32

/-- A node whose task Pumal restores: its save image carries a valid seal. -/
def restorable (gtc : Nat) (m : Mach) (n : Node) : Bool :=
  match n.saved, getCtx? m n.ctx with
  | some v, some c => !n.resident && (sealOk gtc m c n v).2
  | _, _ => false

/-- The journal after a resume: what was not carried across fails with 0x0500. -/
def resumeJournal (d : Dev) (kept : List Nat) : Dev :=
  d.journal.foldl (fun d e => if e.state < 3 && !kept.contains e.jseq then setEntry d e.jseq 4 0x500 e.handle else d) d

/-- Resume from the marker: contexts, memory, keys, journal and store stay; sealed tasks become ready, every other is removed. -/
def resumeBoot (s : State) (b : BootInput) : State :=
  let d := bootDev s.dev b
  let m := s.mach
  let nodes := (m.nodes.filter fun (_, n) => restorable d.gtc m n).map fun (h, n) => (h, { n with stage := .ready, readyAt := d.gtc })
  let m := bootMach d { m with nodes := nodes, posts := [] } b
  let d := resumeJournal d (nodes.map fun (_, n) => n.jseq)
  let m := s.mach.clusters.foldl (fun m (k, x) => updCluster m k fun y => { y with units := x.units }) m
  { s with mach := m, dev := updWear { d with marker := none } (reportConfig m), cur := none }

/-- SUPPLY_RETURN (R444, R467): a resume, or a cold boot; a package that is held in reset keeps what the standby rail holds. -/
def execSupplyReturn (s : State) : Host.Outcome State Fault Refusal :=
  if s.dev.supply = .on then .next s
  else takeInput s bootInput? fun s b =>
    if b.holdup < 1000 then { s with dev := { s.dev with supply := .held, reports := s.dev.reports ++ [.holdup b.holdup] } }
    else if mayResume s.dev b && imageGood b.d0 then resumeBoot s b else coldBoot s b

end Sys2Proof.Machine
end

