-- ==== Sys2Proof/Machine/Dispatch.lean ====
section
/-!
DEFINITION. One arm for each constructor of Instr: its meaning.
-/

namespace Sys2Proof.Machine

/-- The meaning of an instruction in a state. -/
def exec (i : Instr) (s : State) : Host.Outcome State Fault Refusal :=
  match i with
  | .vadd vd va vb nw => Sys2Proof.Machine.execVadd vd va vb nw s
  | .vsub vd va vb nw => Sys2Proof.Machine.execVsub vd va vb nw s
  | .vmul vd va vb nw => Sys2Proof.Machine.execVmul vd va vb nw s
  | .vmulhi vd va vb nw => Sys2Proof.Machine.execVmulhi vd va vb nw s
  | .vmin vd va vb nw => Sys2Proof.Machine.execVmin vd va vb nw s
  | .vmax vd va vb nw => Sys2Proof.Machine.execVmax vd va vb nw s
  | .vminu vd va vb nw => Sys2Proof.Machine.execVminu vd va vb nw s
  | .vmaxu vd va vb nw => Sys2Proof.Machine.execVmaxu vd va vb nw s
  | .vand vd va vb nw => Sys2Proof.Machine.execVand vd va vb nw s
  | .vor vd va vb nw => Sys2Proof.Machine.execVor vd va vb nw s
  | .vxor vd va vb nw => Sys2Proof.Machine.execVxor vd va vb nw s
  | .vandn vd va vb nw => Sys2Proof.Machine.execVandn vd va vb nw s
  | .vshl vd va vb nw => Sys2Proof.Machine.execVshl vd va vb nw s
  | .vshr vd va vb nw => Sys2Proof.Machine.execVshr vd va vb nw s
  | .vsra vd va vb nw => Sys2Proof.Machine.execVsra vd va vb nw s
  | .vclz vd va nw => Sys2Proof.Machine.execVclz vd va nw s
  | .vpopc vd va nw => Sys2Proof.Machine.execVpopc vd va nw s
  | .vsel vd va vb nw => Sys2Proof.Machine.execVsel vd va vb nw s
  | .vmov vd va nw => Sys2Proof.Machine.execVmov vd va nw s
  | .vmovi vd imm nw => Sys2Proof.Machine.execVmovi vd imm nw s
  | .viota vd nw => Sys2Proof.Machine.execViota vd nw s
  | .vfadd vd va vb nw => Sys2Proof.Machine.execVfadd vd va vb nw s
  | .vfsub vd va vb nw => Sys2Proof.Machine.execVfsub vd va vb nw s
  | .vfmul vd va vb nw => Sys2Proof.Machine.execVfmul vd va vb nw s
  | .vfma vd va vb nw => Sys2Proof.Machine.execVfma vd va vb nw s
  | .vfms vd va vb nw => Sys2Proof.Machine.execVfms vd va vb nw s
  | .vfmin vd va vb nw => Sys2Proof.Machine.execVfmin vd va vb nw s
  | .vfmax vd va vb nw => Sys2Proof.Machine.execVfmax vd va vb nw s
  | .vfabs vd va nw => Sys2Proof.Machine.execVfabs vd va nw s
  | .vfneg vd va nw => Sys2Proof.Machine.execVfneg vd va nw s
  | .vfdiv vd va vb nw => Sys2Proof.Machine.execVfdiv vd va vb nw s
  | .vfsqrt vd va nw => Sys2Proof.Machine.execVfsqrt vd va nw s
  | .vfexp2 vd va nw => Sys2Proof.Machine.execVfexp2 vd va nw s
  | .vflog2 vd va nw => Sys2Proof.Machine.execVflog2 vd va nw s
  | .vfrnd vd va rm nw => Sys2Proof.Machine.execVfrnd vd va rm nw s
  | .vcvt vd va rm kind nw => Sys2Proof.Machine.execVcvt vd va rm kind nw s
  | .vpkh vd va rm fmt high nw => Sys2Proof.Machine.execVpkh vd va rm fmt high nw s
  | .vupkh vd va fmt high nw => Sys2Proof.Machine.execVupkh vd va fmt high nw s
  | .vbpackM7 vd va vb nw => Sys2Proof.Machine.execVbpackM7 vd va vb nw s
  | .vbpackM4 vd va vb nw => Sys2Proof.Machine.execVbpackM4 vd va vb nw s
  | .vbpackM2 vd va vb nw => Sys2Proof.Machine.execVbpackM2 vd va vb nw s
  | .vbunpk vd va nw => Sys2Proof.Machine.execVbunpk vd va nw s
  | .vcmpEq sd va vb => Sys2Proof.Machine.execVcmpEq sd va vb s
  | .vcmpNe sd va vb => Sys2Proof.Machine.execVcmpNe sd va vb s
  | .vcmpLt sd va vb => Sys2Proof.Machine.execVcmpLt sd va vb s
  | .vcmpLe sd va vb => Sys2Proof.Machine.execVcmpLe sd va vb s
  | .vcmpLtu sd va vb => Sys2Proof.Machine.execVcmpLtu sd va vb s
  | .vcmpLeu sd va vb => Sys2Proof.Machine.execVcmpLeu sd va vb s
  | .vfcmpEq sd va vb => Sys2Proof.Machine.execVfcmpEq sd va vb s
  | .vfcmpNe sd va vb => Sys2Proof.Machine.execVfcmpNe sd va vb s
  | .vfcmpLt sd va vb => Sys2Proof.Machine.execVfcmpLt sd va vb s
  | .vfcmpLe sd va vb => Sys2Proof.Machine.execVfcmpLe sd va vb s
  | .vfcmpUn sd va vb => Sys2Proof.Machine.execVfcmpUn sd va vb s
  | .vfkey vd va nw => Sys2Proof.Machine.execVfkey vd va nw s
  | .vrng vd va vb nw => Sys2Proof.Machine.execVrng vd va vb nw s
  | .vshfl vd va vb nw => Sys2Proof.Machine.execVshfl vd va vb nw s
  | .vrotl vd va vb nw => Sys2Proof.Machine.execVrotl vd va vb nw s
  | .vredadd vd va nw => Sys2Proof.Machine.execVredadd vd va nw s
  | .vredfadd vd va nw => Sys2Proof.Machine.execVredfadd vd va nw s
  | .vredmax vd va nw => Sys2Proof.Machine.execVredmax vd va nw s
  | .vscan vd va nw => Sys2Proof.Machine.execVscan vd va nw s
  | .vfscan vd va nw => Sys2Proof.Machine.execVfscan vd va nw s
  | .vmatch sd va vb => Sys2Proof.Machine.execVmatch sd va vb s
  | .vplane va => Sys2Proof.Machine.execVplane va s
  | .ldv vt sa wd ofs f => Sys2Proof.Machine.execLdv vt sa wd ofs f s
  | .stv vt sa wd ofs f => Sys2Proof.Machine.execStv vt sa wd ofs f s
  | .ldg vt vx sa f => Sys2Proof.Machine.execLdg vt vx sa f s
  | .stg vt vx sa f => Sys2Proof.Machine.execStg vt vx sa f s
  | .lds st sa wd disp f => Sys2Proof.Machine.execLds st sa wd disp f s
  | .ldsAcq st sa sc wd disp f => Sys2Proof.Machine.execLdsAcq st sa sc wd disp f s
  | .sts st sa wd disp f => Sys2Proof.Machine.execSts st sa wd disp f s
  | .stsRel st sa sc wd disp f => Sys2Proof.Machine.execStsRel st sa sc wd disp f s
  | .spld vt vx sa => Sys2Proof.Machine.execSpld vt vx sa s
  | .spst vt vx sa => Sys2Proof.Machine.execSpst vt vx sa s
  | .splds st sa wd disp => Sys2Proof.Machine.execSplds st sa wd disp s
  | .spsts st sa wd disp => Sys2Proof.Machine.execSpsts st sa wd disp s
  | .tld vt tile rg => Sys2Proof.Machine.execTld vt tile rg s
  | .atomvAdd vt vx sa f => Sys2Proof.Machine.execAtomvAdd vt vx sa f s
  | .atomvAnd vt vx sa f => Sys2Proof.Machine.execAtomvAnd vt vx sa f s
  | .atomvOr vt vx sa f => Sys2Proof.Machine.execAtomvOr vt vx sa f s
  | .atomvXor vt vx sa f => Sys2Proof.Machine.execAtomvXor vt vx sa f s
  | .atomvMin vt vx sa f => Sys2Proof.Machine.execAtomvMin vt vx sa f s
  | .atomvMax vt vx sa f => Sys2Proof.Machine.execAtomvMax vt vx sa f s
  | .atomvMinu vt vx sa f => Sys2Proof.Machine.execAtomvMinu vt vx sa f s
  | .atomvMaxu vt vx sa f => Sys2Proof.Machine.execAtomvMaxu vt vx sa f s
  | .atomsAdd st sa sv sc f => Sys2Proof.Machine.execAtomsAdd st sa sv sc f s
  | .atomsAnd st sa sv sc f => Sys2Proof.Machine.execAtomsAnd st sa sv sc f s
  | .atomsOr st sa sv sc f => Sys2Proof.Machine.execAtomsOr st sa sv sc f s
  | .atomsXor st sa sv sc f => Sys2Proof.Machine.execAtomsXor st sa sv sc f s
  | .atomsMin st sa sv sc f => Sys2Proof.Machine.execAtomsMin st sa sv sc f s
  | .atomsMax st sa sv sc f => Sys2Proof.Machine.execAtomsMax st sa sv sc f s
  | .atomsMinu st sa sv sc f => Sys2Proof.Machine.execAtomsMinu st sa sv sc f s
  | .atomsMaxu st sa sv sc f => Sys2Proof.Machine.execAtomsMaxu st sa sv sc f s
  | .casv vt vx sa f => Sys2Proof.Machine.execCasv vt vx sa f s
  | .cass st sa sv sc f => Sys2Proof.Machine.execCass st sa sv sc f s
  | .daccv op vt vx sa => Sys2Proof.Machine.execDaccv op vt vx sa s
  | .daccs op sa sv => Sys2Proof.Machine.execDaccs op sa sv s
  | .flush sc f => Sys2Proof.Machine.execFlush sc f s
  | .fence kind sc => Sys2Proof.Machine.execFence kind sc s
  | .pref sa disp => Sys2Proof.Machine.execPref sa disp s
  | .vspill vt sa ofs f => Sys2Proof.Machine.execVspill vt sa ofs f s
  | .vfill vt sa ofs f => Sys2Proof.Machine.execVfill vt sa ofs f s
  | .cpy ord dst src desc f => Sys2Proof.Machine.execCpy ord dst src desc f s
  | .cpyin ord dst src desc f => Sys2Proof.Machine.execCpyin ord dst src desc f s
  | .cpyout ord dst src desc f => Sys2Proof.Machine.execCpyout ord dst src desc f s
  | .cpyr ord dst src desc f => Sys2Proof.Machine.execCpyr ord dst src desc f s
  | .cpym ord dst src desc f => Sys2Proof.Machine.execCpym ord dst src desc f s
  | .cpyat ord dst src desc f => Sys2Proof.Machine.execCpyat ord dst src desc f s
  | .cpyz ord dst desc f => Sys2Proof.Machine.execCpyz ord dst desc f s
  | .tdef tile sr => Sys2Proof.Machine.execTdef tile sr s
  | .tfree tile => Sys2Proof.Machine.execTfree tile s
  | .tstat tile sr => Sys2Proof.Machine.execTstat tile sr s
  | .mres f => Sys2Proof.Machine.execMres f s
  | .chb acc anchor => Sys2Proof.Machine.execChb acc anchor s
  | .mstep ta tb k => Sys2Proof.Machine.execMstep ta tb k s
  | .mstepG ta tb k => Sys2Proof.Machine.execMstepG ta tb k s
  | .che acc f => Sys2Proof.Machine.execChe acc f s
  | .cheG acc f => Sys2Proof.Machine.execCheG acc f s
  | .mpop vd => Sys2Proof.Machine.execMpop vd s
  | .mdep tile acc f => Sys2Proof.Machine.execMdep tile acc f s
  | .gang n skew => Sys2Proof.Machine.execGang n skew s
  | .xsv vd sa lane => Sys2Proof.Machine.execXsv vd sa lane s
  | .xvs sd va lane => Sys2Proof.Machine.execXvs sd va lane s
  | .qbind q queue role => Sys2Proof.Machine.execQbind q queue role s
  | .qunbind q => Sys2Proof.Machine.execQunbind q s
  | .qstat sd queue => Sys2Proof.Machine.execQstat sd queue s
  | .barr bar wait f => Sys2Proof.Machine.execBarr bar wait f s
  | .tpost sa f => Sys2Proof.Machine.execTpost sa f s
  | .evset ev => Sys2Proof.Machine.execEvset ev s
  | .limm imm => Sys2Proof.Machine.execLimm imm s
  | .add sd sa sb => Sys2Proof.Machine.execAdd sd sa sb s
  | .addi sd sa imm => Sys2Proof.Machine.execAddi sd sa imm s
  | .sub sd sa sb => Sys2Proof.Machine.execSub sd sa sb s
  | .mul sd sa sb => Sys2Proof.Machine.execMul sd sa sb s
  | .mulhi sd sa sb => Sys2Proof.Machine.execMulhi sd sa sb s
  | .mulhu sd sa sb => Sys2Proof.Machine.execMulhu sd sa sb s
  | .div sd sa sb => Sys2Proof.Machine.execDiv sd sa sb s
  | .divu sd sa sb => Sys2Proof.Machine.execDivu sd sa sb s
  | .rem sd sa sb => Sys2Proof.Machine.execRem sd sa sb s
  | .remu sd sa sb => Sys2Proof.Machine.execRemu sd sa sb s
  | .and sd sa sb => Sys2Proof.Machine.execAnd sd sa sb s
  | .andi sd sa imm => Sys2Proof.Machine.execAndi sd sa imm s
  | .or sd sa sb => Sys2Proof.Machine.execOr sd sa sb s
  | .ori sd sa imm => Sys2Proof.Machine.execOri sd sa imm s
  | .xor sd sa sb => Sys2Proof.Machine.execXor sd sa sb s
  | .xori sd sa imm => Sys2Proof.Machine.execXori sd sa imm s
  | .shl sd sa sb => Sys2Proof.Machine.execShl sd sa sb s
  | .shli sd sa imm => Sys2Proof.Machine.execShli sd sa imm s
  | .shr sd sa sb => Sys2Proof.Machine.execShr sd sa sb s
  | .shri sd sa imm => Sys2Proof.Machine.execShri sd sa imm s
  | .sra sd sa sb => Sys2Proof.Machine.execSra sd sa sb s
  | .srai sd sa imm => Sys2Proof.Machine.execSrai sd sa imm s
  | .clz sd sa => Sys2Proof.Machine.execClz sd sa s
  | .ctz sd sa => Sys2Proof.Machine.execCtz sd sa s
  | .popc sd sa => Sys2Proof.Machine.execPopc sd sa s
  | .sel sd sa sb => Sys2Proof.Machine.execSel sd sa sb s
  | .movi sd imm => Sys2Proof.Machine.execMovi sd imm s
  | .movhi sd imm => Sys2Proof.Machine.execMovhi sd imm s
  | .cmp cc sd sa sb => Sys2Proof.Machine.execCmp cc sd sa sb s
  | .cmpi cc sd sa imm => Sys2Proof.Machine.execCmpi cc sd sa imm s
  | .br inv sa disp => Sys2Proof.Machine.execBr inv sa disp s
  | .brf inv f disp => Sys2Proof.Machine.execBrf inv f disp s
  | .jmp disp => Sys2Proof.Machine.execJmp disp s
  | .call disp => Sys2Proof.Machine.execCall disp s
  | .callr sa => Sys2Proof.Machine.execCallr sa s
  | .brd sc tdisp jdisp => Sys2Proof.Machine.execBrd sc tdisp jdisp s
  | .bprep tb disp => Sys2Proof.Machine.execBprep tb disp s
  | .bgo tb inv sa => Sys2Proof.Machine.execBgo tb inv sa s
  | .penter pl len => Sys2Proof.Machine.execPenter pl len s
  | .fwait flags => Sys2Proof.Machine.execFwait flags s
  | .fclr flags => Sys2Proof.Machine.execFclr flags s
  | .setx sa => Sys2Proof.Machine.execSetx sa s
  | .crd sd creg => Sys2Proof.Machine.execCrd sd creg s
  | .cwr creg sa => Sys2Proof.Machine.execCwr creg sa s
  | .crdEnergyLo sd => Sys2Proof.Machine.execCrdEnergyLo sd s
  | .cwrWtimer sa => Sys2Proof.Machine.execCwrWtimer sa s
  | .cwrGdead sa => Sys2Proof.Machine.execCwrGdead sa s
  | .trap imm => Sys2Proof.Machine.execTrap imm s
  | .brk imm => Sys2Proof.Machine.execBrk imm s
  | .trmark imm => Sys2Proof.Machine.execTrmark imm s
  | .sprint nt sd sa f => Sys2Proof.Machine.execSprint nt sd sa f s
  | .rgrow sd => Sys2Proof.Machine.execRgrow sd s
  | .timer sa => Sys2Proof.Machine.execTimer sa s
  | .warpSelect core => Sys2Proof.Machine.execWarpSelect core s
  | .blockEnd warp => Sys2Proof.Machine.execBlockEnd warp s
  | .gangRendezvous team => Sys2Proof.Machine.execGangRendezvous team s
  | .loadComplete warp op early => Sys2Proof.Machine.execLoadComplete warp op early s
  | .storeAck warp op => Sys2Proof.Machine.execStoreAck warp op s
  | .atomicComplete warp op order => Sys2Proof.Machine.execAtomicComplete warp op order s
  | .flushEpisodeApply sc group => Sys2Proof.Machine.execFlushEpisodeApply sc group s
  | .copyStart cluster id words => Sys2Proof.Machine.execCopyStart cluster id words s
  | .cpyatLaunch cluster id => Sys2Proof.Machine.execCpyatLaunch cluster id s
  | .copyComplete cluster id => Sys2Proof.Machine.execCopyComplete cluster id s
  | .copyFault cluster id => Sys2Proof.Machine.execCopyFault cluster id s
  | .mrtGrant cluster => Sys2Proof.Machine.execMrtGrant cluster s
  | .matrixReadBeat cluster => Sys2Proof.Machine.execMatrixReadBeat cluster s
  | .chainClose cluster => Sys2Proof.Machine.execChainClose cluster s
  | .mdepComplete cluster id => Sys2Proof.Machine.execMdepComplete cluster id s
  | .barrierPhaseComplete team bar => Sys2Proof.Machine.execBarrierPhaseComplete team bar s
  | .nodeCreate post => Sys2Proof.Machine.execNodeCreate post s
  | .nodeDispatch node clusters => Sys2Proof.Machine.execNodeDispatch node clusters s
  | .preemptionDecision node => Sys2Proof.Machine.execPreemptionDecision node s
  | .drainRedecide node => Sys2Proof.Machine.execDrainRedecide node s
  | .taskComplete node => Sys2Proof.Machine.execTaskComplete node s
  | .taskKill node status => Sys2Proof.Machine.execTaskKill node status s
  | .translationWalk die ctx page => Sys2Proof.Machine.execTranslationWalk die ctx page s
  | .trapDelivery warp => Sys2Proof.Machine.execTrapDelivery warp s
  | .asyncFaultDelivery warp => Sys2Proof.Machine.execAsyncFaultDelivery warp s
  | .pumalTrapService warp => Sys2Proof.Machine.execPumalTrapService warp s
  | .firstTouchService ctx va => Sys2Proof.Machine.execFirstTouchService ctx va s
  | .preempt node switchOut => Sys2Proof.Machine.execPreempt node switchOut s
  | .contextSave node => Sys2Proof.Machine.execContextSave node s
  | .saveDeadline node => Sys2Proof.Machine.execSaveDeadline node s
  | .taskRestore node clusters => Sys2Proof.Machine.execTaskRestore node clusters s
  | .warpTimer warp => Sys2Proof.Machine.execWarpTimer warp s
  | .deadline ctx => Sys2Proof.Machine.execDeadline ctx s
  | .leaseExpired team => Sys2Proof.Machine.execLeaseExpired team s
  | .watchdog warp => Sys2Proof.Machine.execWatchdog warp s
  | .growRelease core => Sys2Proof.Machine.execGrowRelease core s
  | .growDeadlock core => Sys2Proof.Machine.execGrowDeadlock core s
  | .remoteFail warp op => Sys2Proof.Machine.execRemoteFail warp op s
  | .ualinkPortFail port => Sys2Proof.Machine.execUalinkPortFail port s
  | .debugCont ctx => Sys2Proof.Machine.execDebugCont ctx s
  | .debugDump ctx => Sys2Proof.Machine.execDebugDump ctx s
  | .debugStop warp => Sys2Proof.Machine.execDebugStop warp s
  | .stallSample core => Sys2Proof.Machine.execStallSample core s
  | .tlbiContext ctx => Sys2Proof.Machine.execTlbiContext ctx s
  | .tlbiRange ctx base pages => Sys2Proof.Machine.execTlbiRange ctx base pages s
  | .registerWrite reg v => Sys2Proof.Machine.execRegisterWrite reg v s
  | .clamp src => Sys2Proof.Machine.execClamp src s
  | .unclamp cluster => Sys2Proof.Machine.execUnclamp cluster s
  | .gbStep die => Sys2Proof.Machine.execGbStep die s
  | .gbHourlyFall die => Sys2Proof.Machine.execGbHourlyFall die s
  | .unassignedOpcode slot op => Sys2Proof.Machine.execUnassignedOpcode slot op s
  | .contextSwitchIn ctx => Sys2Proof.Machine.execContextSwitchIn ctx s
  | .ballastPreRamp launch => Sys2Proof.Machine.execBallastPreRamp launch s
  | .nop => Sys2Proof.Machine.execNop s
  | .mrel => Sys2Proof.Machine.execMrel s
  | .ungang => Sys2Proof.Machine.execUngang s
  | .ret => Sys2Proof.Machine.execRet s
  | .join => Sys2Proof.Machine.execJoin s
  | .pexit => Sys2Proof.Machine.execPexit s
  | .eret => Sys2Proof.Machine.execEret s
  | .sprel => Sys2Proof.Machine.execSprel s
  | .rshrink => Sys2Proof.Machine.execRshrink s
  | .yield => Sys2Proof.Machine.execYield s
  | .endWarp => Sys2Proof.Machine.execEndWarp s
  | .sprintGrant => Sys2Proof.Machine.execSprintGrant s
  | .bulkWrite => Sys2Proof.Machine.execBulkWrite s
  | .openSession => Sys2Proof.Machine.execOpenSession s
  | .closeSession => Sys2Proof.Machine.execCloseSession s
  | .jread => Sys2Proof.Machine.execJread s
  | .ctxCreate => Sys2Proof.Machine.execCtxCreate s
  | .ctxDestroy => Sys2Proof.Machine.execCtxDestroy s
  | .window => Sys2Proof.Machine.execWindow s
  | .commit => Sys2Proof.Machine.execCommit s
  | .read => Sys2Proof.Machine.execRead s
  | .post => Sys2Proof.Machine.execPost s
  | .evsetMessage => Sys2Proof.Machine.execEvsetMessage s
  | .evclr => Sys2Proof.Machine.execEvclr s
  | .kill => Sys2Proof.Machine.execKill s
  | .query => Sys2Proof.Machine.execQuery s
  | .readHealthLog => Sys2Proof.Machine.execReadHealthLog s
  | .readWearRecord => Sys2Proof.Machine.execReadWearRecord s
  | .tlbiAll => Sys2Proof.Machine.execTlbiAll s
  | .heatStoreUpdate => Sys2Proof.Machine.execHeatStoreUpdate s
  | .thermistorCorrection => Sys2Proof.Machine.execThermistorCorrection s
  | .energyEstimate => Sys2Proof.Machine.execEnergyEstimate s
  | .energyScale => Sys2Proof.Machine.execEnergyScale s
  | .supplyLossWarning => Sys2Proof.Machine.execSupplyLossWarning s
  | .supplyReturn => Sys2Proof.Machine.execSupplyReturn s
  | .deviceReset => Sys2Proof.Machine.execDeviceReset s
  | .coolantChange => Sys2Proof.Machine.execCoolantChange s
  | .monitorRead => Sys2Proof.Machine.execMonitorRead s
  | .wearDailyAppend => Sys2Proof.Machine.execWearDailyAppend s
  | .patrolScrub => Sys2Proof.Machine.execPatrolScrub s
  | .ptpSync => Sys2Proof.Machine.execPtpSync s
  | .ptpFollowUp => Sys2Proof.Machine.execPtpFollowUp s
  | .ptpDelayResp => Sys2Proof.Machine.execPtpDelayResp s
  | .ptpAnnounce => Sys2Proof.Machine.execPtpAnnounce s
  | .ptpHoldover => Sys2Proof.Machine.execPtpHoldover s
  | .unlistedMessageKind => Sys2Proof.Machine.execUnlistedMessageKind s
  | .otherTraffic => Sys2Proof.Machine.execOtherTraffic s
  | .ptpDelayReq => Sys2Proof.Machine.execPtpDelayReq s
  | .hostSecretInstall => Sys2Proof.Machine.execHostSecretInstall s
  | .incomingRemoteAccess => Sys2Proof.Machine.execIncomingRemoteAccess s
  | .registerUncorrectableError => Sys2Proof.Machine.execRegisterUncorrectableError s
  | .frameBoundary => Sys2Proof.Machine.execFrameBoundary s
  | .shutdown => Sys2Proof.Machine.execShutdown s

end Sys2Proof.Machine
end

