-- ==== Sys2Proof/Machine/Moves.lean ====
section
/-!
DEFINITION. What a step does (logs 1, 2, 4): the bundle at a core's issue stage, the moves of the agenda, the machine's own
events when the agenda is empty, and placing a bundle where the next step fetches it.
-/

namespace Sys2Proof.Machine

/-! ### A core's beat -/

/-- The operation of a bundle that holds one beside its LIMM. -/
def soleOp (o : BundleOps) : Option Instr :=
  match o.x.limm22 with
  | none => o.single
  | some _ => ({ o with x := .nop } : BundleOps).single

/-- The issue stage for a stream's bundle. -/
def stageOf (k path plane : Nat) (o : BundleOps) : Cur :=
  { warp := k, path := path, plane := plane, gap := o.gap.toNat, sync := o.sync, b := o.b.toNat, limm := o.x.limm22 }

/-- Whether the fetch of a stream's bundle finds no word in error, so that there is nothing to record (R112). -/
def fetchSound (m : Mach) (k : Nat) (w : Warp) (path plane : Nat) : Bool :=
  match tlbLookup m (coreOf k) w.ctx (bundleAddr w (getPath w path).place plane) with
  | some e => (wordsOf (leafTarget m.pkg e.level e.leaf (bundleAddr w (getPath w path).place plane)) 16).all fun a => (mapGet? m.ecc a).isNone
  | none => true

/-- A stream's bundle that decodes with nothing against it but what its own operations check (R158, R29, R278). -/
def cleanBundle (m : Mach) (k : Nat) (w : Warp) (path plane : Nat) : Option BundleOps :=
  match fetchFor m k w path plane with
  | .got b =>
    let o := bundleOps b
    if fetchSound m k w path plane && (decodeFault m k w path plane b).isNone && (misplaced w path o).isNone then some o else none
  | _ => none

/-- The one operation that a warp at its boundary issues next: one stream is due, nothing stops or traps the warp before it,
and its bundle holds a single operation. -/
def soleIssue (d : Dev) (b : Mach) (k : Nat) : Option (Cur × Instr) :=
  match getWarp? b k with
  | none => none
  | some w =>
    if !stepsItself w || gangTurn b w != .go || entryWaits w || w.ret || (pathsOf w).any (atJoin b k w) then none
    else match dueStreams b w with
      | [(p, pl)] =>
        let view := beatView b k w [(p, pl)]
        match stopDue b k w [(p, pl)], boundaryTrap actionOf d b k w [(p, pl)], getWarp? view k with
        | none, none, some v =>
          if (boundaryTrap actionOf d view k v [(p, pl)]).isSome then none
          else (cleanBundle view k v p pl).bind fun o => (soleOp o).map fun i => (stageOf k p pl o, i)
        | _, _, _ => none
      | _ => none

/-- A warp whose ERET waited for stores has them acknowledged (R291). -/
def returns (m : Mach) (k : Nat) : Bool := (getWarp? m k).elim false fun w => w.ret && awaited w = 0 && stepsItself w

/-! ### How gang members come to the lead's bundle (R41, log 19) -/

/-- The member of a gang has taken every bundle of the broadcast and stands at the boundary of the next. -/
def comeUp (x : Gang) (w : Warp) : Bool :=
  x.bundles.length ≤ x.read.getD w.gidx 0 && w.p0.gap = 0 && w.p0.issued.isEmpty && w.p0.conf = .none && x.beats.getD w.gidx 0 != 0

/-- What ends a wait of a warp of its own accord: an operation in its memory order is performed, a walk is made. -/
def completesFor (m : Mach) (k : Nat) (w : Warp) : List Instr :=
  (w.ops.flatMap fun o => [.loadComplete k o.id false, .storeAck k o.id, .atomicComplete k o.id []]) ++
  m.misses.map fun x => .translationWalk x.die x.ctx x.page

/-- Run one member ahead, by itself, to the bundle after those of the lead's broadcast. -/
def runAhead (g k : Nat) : Nat → State → Option Warp
  | 0, _ => none
  | n + 1, s =>
    let b := atBoundary s.dev.gtc s.mach k
    match mapGet? b.gangs g, getWarp? b k with
    | some x, some w =>
      if comeUp x w then some w
      else if !stepsItself w || w.trapped != .running then none
      else
        let t := warpBeat actionOf s.dev b k w
        match (getWarp? t k).bind (·.block) with
        | none => runAhead g k n { s with mach := t }
        | some _ =>
          ((completesFor t k ((getWarp? t k).getD w)).findSome? fun i => match exec i { s with mach := t } with
            | .next u => if u.mach != t then some u else none
            | .fault _ | .refused _ => none).bind (runAhead g k n)
    | _, _ => none

/-- The lead's next bundle needs to know how its members come to it: it divides, or stands in a region. -/
def needsAhead (b : Mach) (k : Nat) (w : Warp) : Bool :=
  w.region.isSome || (leadOps b k w 0).elim false fun o => match o.c with
    | .brd .. => true
    | _ => false

/-- A member that has been run ahead to the lead's bundle: its pending plane numbers are in force where that bundle begins with a sync
point. -/
def applyAhead (b : Mach) (k : Nat) (w v : Warp) : Warp :=
  if v.region.isSome && v.p0.vpv != 0#64 && (leadOps b k w 0).elim false (·.sync) then applyPlanes v 0 else v

/-- The lead of a gang at a bundle that needs it: its members are run ahead to that bundle in a copy of the machine. -/
def lookAhead (s : State) (k : Nat) : Mach :=
  let b := atBoundary s.dev.gtc s.mach k
  match getWarp? b k with
  | none => s.mach
  | some w => match w.gang, gangOf? b w with
    | some g, some x =>
      if w.gidx != 0 || !needsAhead b k w || !w.p0.issued.isEmpty then s.mach
      else
        let mates := (x.members.zip (List.range x.members.length)).filter fun (_, i) => i != 0 && !x.left.contains i
        let ahead := mates.filterMap fun (j, _) => (runAhead g j 256 { s with cur := none }).map fun v => (j, applyAhead b k w v)
        { s.mach with gangs := mapUpd s.mach.gangs g fun x => { x with ahead := (x.beats.getD 0 0, ahead) } }
    | _, _ => s.mach

/-- One step of a warp: its way out of a handler, the meaning of the one operation it issues, or its whole beat. -/
def stepWarp (s : State) (k : Nat) : Host.Outcome State Fault Refusal :=
  let s : State := { s with mach := lookAhead s k }
  let b := atBoundary s.dev.gtc s.mach k
  if returns s.mach k then .next { s with mach := leaveAfter s.dev s.mach k, cur := none }
  else match soleIssue s.dev b k with
  | some (cur, i) => exec i { s with mach := b, cur := some cur }
  | none => .next { s with mach := wholeBeat actionOf s.dev 8 s.mach k, cur := none }

/-- The clock of a core's cluster delivers edges (R432). -/
def clockRuns (m : Mach) (core : Nat) : Bool := (getCluster m (core / 4)).ones != 0

/-- One step of a core: it selects where it has to, and its selected warp goes on (R15, R17); nothing where no edge is delivered. -/
def stepCore (s : State) (core : Nat) : Host.Outcome State Fault Refusal :=
  if !clockRuns s.mach core then .next s
  else
  let s1 : State := { s with mach := selectWarp s.mach core }
  match (getCore s1.mach core).selected with
  | some k => stepWarp s1 k
  | none => .next s1

/-! ### Time (R294, R419, R421, R432, R445) -/

/-- `ns` cycles pass for the execution part: the stall samples, the counters and watchdogs of warps that wait, the clock, key slots that
were retiring, clamp sources that hold (R406, R419, R421, R434). -/
def passMach (d : Dev) (m : Mach) (ns : Nat) : Mach :=
  let m := takeSamples d m ns
  let m := { m with warps := m.warps.map fun (k, w) => (k, waitWarp m ns k w) }
  let m := countBusy (chargeEngines m ns) ns
  noteSources d.pcc { m with clock := m.clock + ns, keys := m.keys.filter fun (_, k) => k != .retiring }

/-- The device while `ns` cycles pass up to the count `clock`: the GTC at its rate, transmitters that fall silent, ballast, the seconds of
the day in which a lease was in force (R446, R447, R449, R461). -/
def passDev (d : Dev) (leased : Bool) (clock ns : Nat) : Dev :=
  let d := passGtc d ns
  let d := updPcc (updPtp d (dropSilent clock)) fun p => passBallast p d.gtc ns
  if leased then updToday d fun t => { t with lease := t.lease + ns } else d

/-- `ns` nanoseconds pass: the machine and the device go on; then the leases that are over, the patrol, the frame boundaries passed (R294,
R432, R464). -/
def elapse (s : State) (ns : Nat) : State :=
  let m := passMach s.dev s.mach ns
  let d := passDev s.dev (m.teams.any fun (_, t) => t.lease.isSome) m.clock ns
  let m := (mapKeys m.teams).foldl (expireLease d.gtc) m
  let m := patrolSweep m s.dev.gtc d.gtc
  { s with dev := d, mach := if s.mach.clock / 16 < m.clock / 16 then frameBoundary d m else m }

/-! ### Moves of the outside world -/

/-- A row that is no operation of a bundle. -/
def isEvent (i : Instr) : Bool := (encode i).isNone

/-- What a package without its supply still does. -/
def whileOff (i : Instr) : Bool := i = .supplyReturn || i = .deviceReset || i = .hostSecretInstall

/-- Make a move. -/
def makeMove (s : State) (v : Move) : Host.Outcome State Fault Refusal :=
  match v with
  | .event i => if isEvent i && (s.dev.supply = .on || whileOff i) then exec i s else .next s
  | .elapse ns => .next (elapse s ns)
  | .sense amps load droops => .next { s with dev := updPcc s.dev fun p => senseLoad p s.dev.gtc amps load droops }
  | .strike e => .next { s with mach := strike s.dev.gtc s.mach e }
  | .issue core => if s.dev.supply = .on then stepCore s core else .next s

/-! ### The machine's own events -/

/-- Events that a warp's operations and state may call for. -/
def warpEvents (k : Nat) (w : Warp) : List Instr :=
  (w.ops.flatMap fun o => [.loadComplete k o.id false, .storeAck k o.id, .atomicComplete k o.id [], .remoteFail k o.id]) ++
  [.pumalTrapService k, .blockEnd k, .warpTimer k, .watchdog k]

/-- Events that a team may call for. -/
def teamEvents (t : Nat) (x : Team) : List Instr :=
  [.gangRendezvous t, .leaseExpired t, .flushEpisodeApply .team t] ++ (mapKeys x.bars).map (.barrierPhaseComplete t)

/-- Events that a cluster may call for. -/
def clusterEvents (cl : Nat) (x : Cluster) : List Instr :=
  [.mrtGrant cl, .matrixReadBeat cl, .chainClose cl, .unclamp cl] ++ (x.matrix.mdeps.map fun q => .mdepComplete cl q.id) ++
  (mapKeys x.copies).flatMap fun id => [.cpyatLaunch cl id, .copyFault cl id, .copyComplete cl id, .copyStart cl id 64]

/-- Events that a node may call for; a placement is the first that fits. -/
def nodeEvents (m : Mach) (h : Nat) (n : Node) : List Instr :=
  let places := (findPlaces m n (List.range n.clus) (userClusters m)).getD []
  [.flushEpisodeApply .task h, .taskComplete h, .drainRedecide h, .contextSave h, .saveDeadline h, .taskRestore h places,
    .nodeDispatch h places, .preemptionDecision h]

/-- The request that the translation control block holds (R402). -/
def tlbiEvents (d : Dev) : List Instr :=
  if !d.tlbiCtl.getLsbD 63 then []
  else if bits d.tlbiCtl 62 61 = 0 then [.tlbiContext (bits d.tlbiCtl 31 0)]
  else if bits d.tlbiCtl 62 61 = 1 then [.tlbiRange (bits d.tlbiCtl 31 0) (bits d.tlbiRng 40 0) (bits d.tlbiRng 63 41)]
  else [.tlbiAll]

/-- Events that take what has arrived. -/
def inputEvents : List Instr :=
  [.openSession, .closeSession, .jread, .ctxCreate, .ctxDestroy, .window, .commit, .read, .post, .evsetMessage, .evclr, .kill, .query,
    .unlistedMessageKind, .bulkWrite, .readHealthLog, .readWearRecord, .heatStoreUpdate, .thermistorCorrection, .energyEstimate,
    .energyScale, .coolantChange, .monitorRead, .patrolScrub, .ptpSync, .ptpFollowUp, .ptpDelayResp, .ptpAnnounce, .hostSecretInstall,
    .incomingRemoteAccess, .registerUncorrectableError, .deviceReset]

/-- Events of the device: clamps whose source holds, launches that are pending, guard-bands where a margin is low, what its times bring. -/
def deviceEvents (d : Dev) (m : Mach) : List Instr :=
  (liveSources d.pcc).map .clamp ++ ((pendingLaunches m).map fun t => .ballastPreRamp (BitVec.ofNat 64 t)) ++
  (if m.clusters.any fun (_, x) => x.margin < 40 then [.gbStep 0, .gbStep 1] else []) ++
  [.gbHourlyFall 0, .gbHourlyFall 1, .wearDailyAppend, .ptpHoldover]

/-- The events that the machine may have to perform by itself, in the order in which it looks for one. -/
def ownEvents (s : State) : List Instr :=
  let m := s.mach
  (m.warps.flatMap fun (k, w) => warpEvents k w) ++ (m.misses.map fun x => .translationWalk x.die x.ctx x.page) ++
  (m.teams.flatMap fun (t, x) => teamEvents t x) ++ (m.clusters.flatMap fun (cl, x) => clusterEvents cl x) ++
  (m.episodes.map fun e => .flushEpisodeApply .dev (devGroup e.ctx e.fgrp)) ++ [.sprintGrant, .nodeCreate 0] ++
  (m.nodes.flatMap fun (h, n) => nodeEvents m h n) ++ ((mapKeys m.cores).flatMap fun c => [.growRelease c, .growDeadlock c]) ++
  (mapKeys m.ctxs).map .deadline ++ tlbiEvents s.dev ++ deviceEvents s.dev m ++ inputEvents

/-- Whether an event does something now. -/
def acts (s : State) (i : Instr) : Bool :=
  match exec i s with
  | .next t => t != s
  | .fault _ | .refused _ => false

/-- The cores with a warp that can issue in a cluster whose clock runs, from a turn on (R432). -/
def readyCore (m : Mach) (turn : Nat) : Option Nat :=
  let cs := (m.warps.filter fun (k, w) => canIssue m w && clockRuns m (coreOf k)).map fun (k, _) => coreOf k
  (cs.find? (turn ≤ ·)).orElse fun _ => cs.head?

/-- A step without a move of the outside world: an event that acts, else the beat of the next core that can issue, else a frame of
idle time (log 1). -/
def ownStep (s : State) : Host.Outcome State Fault Refusal :=
  if s.dev.supply != .on then .next s
  else match (ownEvents s).find? (acts s) with
    | some i => exec i s
    | none => match readyCore s.mach s.turn with
      | some c => stepCore { s with turn := c + 1 } c
      | none => .next (elapse s 16)

/-! ### Placing a bundle where it is fetched next -/

/-- Where the bundle lies: an address of region 1, its page in HBM. -/
def trialVa : Nat := 0x100000000000
def trialPa : Nat := 0x40000000

/-- The leaf of that page: valid, key 1, R and X. -/
def trialLeaf : DWord := BitVec.ofNat 64 (leafWord { home := 0, w := false, x := true, sd := false, ds := false } 1 (trialPa / 65536))

/-- The node, context and warp that run it: context 1, handle 1, cluster 1, core 0 of it, hardware context 0. -/
def trialNode : Node :=
  { nodeOfRecord [] 1 0 with code := trialVa, stk := 16, stage := .running, clus := 1, clusters := [1] }

def trialContext : Context := { contextOfRecord 0 [] with keyid := 1, wdlim := 1, nodeq := 1 }

/-- A loaded program of one bundle: the state in which the next step fetches and runs it (log 5). -/
def placeBundle (s : State) (bs : List Byte) : State :=
  let place : TeamPlace := { cluster := 1, cores := [4], baseA := 0, baseB := 0 }
  let m := s.mach
  let m := { m with ctxs := mapPut m.ctxs 1 trialContext, nodes := mapPut m.nodes 1 trialNode, keys := mapPut m.keys 1 (.loaded 0) }
  let m := openTeam m trialNode 1 0 place
  let m := setWarp m 16 (freshWarp trialContext trialNode 1 512 0 0x780000000000 0x780000001000 0)
  let m := updCore m 4 fun c => { c with selected := some 16, tlb := [{ ctx := 1, page := pageOf 0 trialVa, level := 0, leaf := trialLeaf }] }
  let m := writeBytes (updCluster m 1 (powered (max 1 s.dev.pcc.sust) 1)) trialPa bs
  { s with mach := m, dev := { s.dev with supply := .on }, agenda := .issue 4 :: s.agenda }

end Sys2Proof.Machine
end

