-- ==== Sys2Proof/Machine/Step.lean ====
section
/-!
DEFINITION. One step of the machine, and the state in which the next step runs a given instruction.
-/

namespace Sys2Proof.Machine

/-- One step: the head of the agenda, or a step of the machine's own. -/
def step (s : State) : Host.Outcome State Fault Refusal :=
  match s.agenda with
  | v :: rest => makeMove { s with agenda := rest } v
  | [] => ownStep s

/-- The state with an instruction of `nbits` bits `w` stored where the next step fetches. -/
def State.withFetchWord (s : State) (nbits w : Nat) : State := placeBundle s (tableBytes nbits w)

end Sys2Proof.Machine
end

