-- ==== Sys2Proof/Safety.lean ====
section
/-!
DEFINITION. What claims say of a run: a step that completes, the issue of an operation without a trap, block or stop, and the
invariants that steps keep.
-/

namespace Sys2Proof.Machine

/-! ### Steps -/

/-- A step that answers a next state. -/
def Completes (o : Host.Outcome State Fault Refusal) : Prop := ∃ t, o = .next t

/-- The state after a step is `t`. -/
def Steps (s t : State) : Prop := step s = .next t

/-! ### An operation that issues (R16, R44, R348, R358, R359) -/

/-- The operation `i` stands alone in the bundle at the issue stage, which sees `st`; every queue entry that the bundle pops is
there, and every queue that it pushes to has room (a slot that reads a queue still empty has no operand, R44). -/
def AtIssue (s : State) (slot : Slot) (i : Instr) (st : Stage) : Prop :=
  opStage s slot i = some st ∧ (st.c.pops.any fun p => p.value.isNone) = false ∧ pushFull st.c.m st.c.w st.o = false

/-- Nothing of an operation's own checks stops, traps or blocks it. -/
def Action.free (a : Action) : Prop := a.stop = none ∧ a.trap = none ∧ a.block = none

/-- Scalars that a bundle may read, and a scalar that it may write: no source has a poison mark, none is bound as a producer or to a
queue that is empty and closed, and the destination is not bound as a consumer (R44, R114). -/
def Ctx.usable (c : Ctx) (srcs : List (BitVec 6)) (dst : Option (BitVec 6)) : Prop :=
  (∀ n ∈ srcs, (c.s n).mark = false ∧ (∀ b, portOf c.w n.toNat = some b → b.role = .consumer) ∧
    ∀ p ∈ c.pops, p.port = n.toNat → p.shut = false) ∧
  ∀ n, dst = some n → ∀ b, portOf c.w n.toNat = some b → b.role = .producer

/-- No lane that is read has a poison mark: `rs` names each source with the lanes of it that are read (R114, R172). -/
def Ctx.clean (c : Ctx) (rs : List (BitVec 7 × DWord)) : Prop :=
  ∀ r ∈ rs, ∀ l, l < 64 → maskBit r.2 l = true → maskBit (c.src r.1).marks l = false

/-- The scalar that bs names may be read, where a source is bs (R61). -/
def Ctx.bsUsable (c : Ctx) (rs : List (BitVec 7)) : Prop := 119#7 ∈ rs → c.usable [BitVec.ofNat 6 c.b] none

/-- The vector sources of a V operation may be read in its active lanes (R61, R114, R172). -/
def Ctx.readable (c : Ctx) (rs : List (BitVec 7)) : Prop :=
  c.mask ≠ 0#64 → c.clean (rs.map fun r => (r, c.mask)) ∧ c.bsUsable rs

/-- No flag that an active lane raises has its trap enabled (R72). -/
def Ctx.untrapped (c : Ctx) (flags : Nat → Nat) : Prop :=
  ∀ l, l < 64 → maskBit c.mask l = true → flags l &&& c.fpte = 0

/-- Lane `l` is the lowest active lane that raises a flag whose trap is enabled (R72). -/
def Ctx.trapsFirst (c : Ctx) (flags : Nat → Nat) (l : Nat) : Prop :=
  (l < 64 ∧ maskBit c.mask l = true ∧ flags l &&& c.fpte ≠ 0) ∧ ∀ j < l, maskBit c.mask j = true → flags j &&& c.fpte = 0

/-- The machine after a stage's bundle has issued, whose one operation has the effect `fx`, the actions `last` at the end and the trap
`after`: entries are popped, a sync mark is noted, the effect happens, the stream's place moves on and the beat ends when
its last stream has issued. -/
def Stage.issued (st : Stage) (fx last : Mach → Mach) (after : Option Exn) : Mach :=
  issueStream st.c.m st.c st.o st.word st.planes { fx := fx, last := last, after := after } {} {} {}

/-- The outcome of a step in which a stage's bundle issues with an effect, and with what follows it. -/
def Stage.next (s : State) (st : Stage) (fx : Mach → Mach) (last : Mach → Mach := id) (after : Option Exn := none) :
    Host.Outcome State Fault Refusal := .next { s with mach := st.issued fx last after }

/-- The outcome of a step in which the one operation of a stage's bundle traps, with the exception and the slot of its record, and the
flags that FP_TRAP sets first (R72). -/
def Stage.traps (s : State) (st : Stage) (slot : Nat) (e : Exn) (raised : Nat := 0) : Host.Outcome State Fault Refusal :=
  .next { s with mach := faultStream s.mach st.cur.warp (foundAt s.dev st.c.m st.c.w st.cur.path st.cur.plane 1 slot e raised) [] }

/-- The outcome of a step in which the bundle blocks: the block's cause, the pages it misses, what it does all the same. -/
def Stage.waits (s : State) (st : Stage) (cause : Cause) (pages : List Nat := []) (early : Mach → Mach := id) :
    Host.Outcome State Fault Refusal := .next { s with mach := waitBeat (early s.mach) st.cur.warp cause pages }

/-- The outcome of an event that changes the execution part of the package. -/
def machNext (s : State) (m : Mach) : Host.Outcome State Fault Refusal := .next { s with mach := m }

/-! ### Results -/

/-- What a V operation of latency `l` with a vector result does when it issues: under a zero mask nothing; else each active lane's
value goes on its way to vd, and the flags that the active lanes raise are set (R48, R53, R56, R121, R171). -/
def Ctx.vectorResult (c : Ctx) (l : Nat) (vd : BitVec 7) (nw : Bool) (g : Nat → Flagged Word) (m : Mach) : Mach :=
  if c.mask = 0#64 then m
  else c.raise (allFlags c.mask fun i => (g i).2)
    (c.sendV .vector l vd nw c.mask (Lanes.ofLane fun i => if maskBit c.mask i then (g i).1 else 0#32) 0#64 m)

/-- What a V operation of latency `l` with a scalar result does: bit `i` for each active lane, 0 elsewhere (R169, R171). -/
def Ctx.maskResult (c : Ctx) (l : Nat) (sd : BitVec 6) (g : Nat → Flagged Bool) (m : Mach) : Mach :=
  c.raise (allFlags c.mask fun i => (g i).2) (c.sendS sd (maskOf fun i => maskBit c.mask i && (g i).1) false l m)

/-- Lane `i` of a vector source. -/
def Ctx.lane (c : Ctx) (r : BitVec 7) (i : Nat) : Word := (c.src r).lanes.at i

/-! ### Accesses -/

/-- The elements of a global access reach memory: their addresses are canonical and aligned to the width, no registered range is
violated, every translation is held and permits the access, and no immediate atomic of a deterministic task is on a safe page. `ps`
are the placed elements (R52, R105, R199, R200). -/
def Ctx.reaches (c : Ctx) (k : AccKind) (n : Nat) (write : Bool) (es : List Elem) (ps : List Placed) : Prop :=
  (ps.map fun p => ({ lane := p.lane, addr := p.addr } : Elem)) = es ∧
  (∀ p ∈ ps, canonical p.addr = true ∧ p.addr % n = 0 ∧ c.xlate p.addr k = .hit p.key p.leaf p.level) ∧
  (k ≠ .deferred → ∀ p ∈ ps, lockOn c false write p.addr n = none) ∧
  (k = .atomic → detOf c.m c.w = true → ∀ p ∈ ps, leafDs p.leaf = false)

/-- The offsets of a scratchpad access are aligned and inside the team's limits, and no registered range is violated (R88, R105, R206). -/
def Ctx.inScratch (c : Ctx) (n : Nat) (write : Bool) (os : List Nat) : Prop :=
  ∃ t, c.team? = some t ∧ ∀ o ∈ os, o % n = 0 ∧ spInBounds t o n = true ∧ lockOn c true write o n = none

/-- A per-lane memory operation: under a zero mask its flag is set at once; else it joins the warp's memory order with its accesses and
its flag is pending (R48, R66, R197). -/
def Ctx.laneIssue (c : Ctx) (kind : MemKind) (f : BitVec 4) (ps : List Placed) (access : Placed → Access) (m : Mach) : Mach :=
  if c.mask = 0#64 then updWarp m c.k fun w => passFlag w f.toNat w.seq c.plane c.cidx
  else issueOp c kind (some f) (ps.map access) none (fillTlbs c ps m)

/-- A scalar memory operation joins the warp's memory order; a destination that is a producer port reserves its entry
(R66, R197, R201). -/
def Ctx.scalarIssue (c : Ctx) (kind : MemKind) (dst : Option (BitVec 6)) (f : BitVec 4) (ps : List Placed)
    (access : Placed → Access) (m : Mach) : Mach :=
  let r := match dst with
    | some d => reserve c d m
    | none => (m, none)
  issueOp c kind (some f) (ps.map access) r.2 (fillTlbs c ps r.1)

/-- The access of a placed element that carries bytes, and the bytes that a compare expects. -/
def Placed.access (p : Placed) (data expd : List Byte) : Access :=
  { lane := p.lane, va := p.addr, key := p.key, data := data, expd := expd, mark := false, leaf := p.leaf, level := p.level }

/-- The active lanes' elements at given addresses. -/
def Ctx.lanes (c : Ctx) (addr : Nat → Nat) : List Elem := (lanesOf c.mask).map fun l => { lane := l, addr := addr l }

/-- The warp may use the matrix engine: it holds it and stands in no handler (R227, R240). -/
def Ctx.engineHeld (c : Ctx) : Prop := c.inHandler = false ∧ c.holds = true

/-! ### Invariants -/

/-- The registers of the control block hold values inside their limits, and MELT is that of the store (R430, R431, R435, R448, R456). -/
def Dev.inLimits (d : Dev) : Prop :=
  1 ≤ d.pcc.ramp ∧ d.pcc.ramp ≤ 255 ∧ 1 ≤ d.pcc.sust ∧ d.pcc.sust ≤ 16 ∧
  (∀ n, d.pcc.sustSaved = some n → 1 ≤ n ∧ n ≤ 16) ∧ d.pcc.e ≤ storeMax ∧ d.pcc.melt = meltOf d.pcc.e ∧
  d.wear.gb.1 ≤ 40 ∧ d.wear.gb.2 ≤ 40 ∧ d.ptp.domain ≤ 127

/-- A finished journal entry (R378). -/
def JEntry.finished (e : JEntry) : Prop := 3 ≤ e.state

end Sys2Proof.Machine
end

