-- ==== Sys2Proof/Certificates/Slice0/Obligations.lean ====
section
/-!
DEFINITION. The statements about the machine that are to be proved. A statement about an operation of a bundle takes the
operation alone in its bundle at the issue stage (AtIssue), sees what its bundle sees as `st.c`, and says that its meaning
answers the next state in which the bundle has issued with the given effect.
-/

open Sys2Proof Sys2Proof.Machine

/-! ### The V slot -/

/-- An active lane of a source that has a poison mark traps with POISON, which names the lowest such lane and its value's producer (R114).
-/
def poisonTraps (s : State) (st : Stage) (i : Instr) (rs : List (BitVec 7)) (slot : Nat := 0) : Prop :=
  ∀ l < 64, (let marked (j : Nat) : Prop := maskBit st.c.mask j = true ∧ ∃ r ∈ rs, maskBit (st.c.src r).marks j = true
    marked l → (∀ j < l, ¬ marked j) → exec i s = st.traps s slot { code := 0x10, lane := l, info := st.c.laneProd rs l })

/-- What stops an operation of a slot at its scalars (R44, R114): the first source that is poisoned, then a source bound as a producer or a
destination bound as a consumer, then a source whose queue is empty and closed. -/
def scalarTraps (s : State) (st : Stage) (i : Instr) (slot : Nat) (srcs : List (BitVec 6)) (dst : Option (BitVec 6)) : Prop :=
  (let c := st.c
  let misused : Prop := (∃ n ∈ srcs, ∃ b, portOf c.w n.toNat = some b ∧ b.role = .producer) ∨
    ∃ n, dst = some n ∧ ∃ b, portOf c.w n.toNat = some b ∧ b.role = .consumer
  (∀ before n after, srcs = before ++ n :: after → (c.s n).mark = true → (∀ x ∈ before, (c.s x).mark = false) →
    exec i s = st.traps s slot { code := 0x10, info := c.scalarProd n }) ∧
  ((∀ n ∈ srcs, (c.s n).mark = false) →
    (misused → exec i s = st.traps s slot { code := 0x11 }) ∧
    (¬ misused → (∃ n ∈ srcs, ∃ p ∈ c.pops, p.port = n.toNat ∧ p.shut = true) → exec i s = st.traps s slot { code := 0x12 })))

/-- Lane integer operations on two sources: constructor, opcode, latency, value of a lane (R175). -/
def integerLanes : List ((BitVec 7 → BitVec 7 → BitVec 7 → Bool → Instr) × BitVec 8 × Nat × (Word → Word → Word)) :=
  [(.vadd, 0x01, 2, fun a b => a + b), (.vsub, 0x02, 2, fun a b => a - b), (.vmul, 0x03, 3, fun a b => a * b),
   (.vmulhi, 0x04, 3, fun a b => BitVec.ofInt 32 (a.toInt * b.toInt / 2 ^ 32)),
   (.vmin, 0x05, 2, fun a b => if a.toInt < b.toInt then a else b), (.vmax, 0x06, 2, fun a b => if a.toInt < b.toInt then b else a),
   (.vminu, 0x07, 2, fun a b => if a.toNat < b.toNat then a else b),
   (.vmaxu, 0x08, 2, fun a b => if a.toNat < b.toNat then b else a),
   (.vand, 0x09, 2, fun a b => a &&& b), (.vor, 0x0a, 2, fun a b => a ||| b), (.vxor, 0x0b, 2, fun a b => a ^^^ b),
   (.vandn, 0x0c, 2, fun a b => a &&& ~~~b), (.vshl, 0x0d, 2, fun a b => if b.toNat < 32 then a <<< b.toNat else 0#32),
   (.vshr, 0x0e, 2, fun a b => if b.toNat < 32 then a >>> b.toNat else 0#32),
   (.vsra, 0x0f, 2, fun a b => a.sshiftRight (min b.toNat 31))]

/-- Operations on one source: constructor, opcode, latency, value of a lane (R176, R178, R190). -/
def unaryLanes : List ((BitVec 7 → BitVec 7 → Bool → Instr) × BitVec 8 × Nat × (Word → Word)) :=
  [(.vclz, 0x10, 2, fun a => BitVec.ofNat 32 (if a = 0#32 then 32 else 31 - a.toNat.log2)),
   (.vpopc, 0x11, 2, fun a => BitVec.ofNat 32 ((List.range 32).countP fun i => a.getLsbD i)), (.vmov, 0x13, 2, fun a => a),
   (.vfkey, 0x50, 2, fun a => if a.getLsbD 31 then ~~~a else a ||| 0x80000000#32)]

/-- Codes that a V-slot source may hold (R54). -/
def sourceCode (v : BitVec 7) : Prop := v.toNat ≤ 117 ∨ v.toNat = 119

/-- R175, R176, R178, R190: each active lane's result of VADD to VSRA, VCLZ, VPOPC, VMOV and VFKEY, at its latency and with no flag; with a
zero mask nothing; their opcodes in format V.R, and the register codes that they take. -/
def Obligations.IntegerLaneResults : Prop :=
  (∀ e ∈ integerLanes, ∀ (vd va vb : BitVec 7) (nw : Bool),
    encodeV (e.1 vd va vb nw) = some (packVR e.2.1 vd va vb nw) ∧
    ((e.1 vd va vb nw).wf = true ↔ vd.toNat ≤ 111 ∧ sourceCode va ∧ sourceCode vb) ∧
    ∀ (s : State) (st : Stage), (AtIssue s .v (e.1 vd va vb nw) st → st.c.readable [va, vb] →
      exec (e.1 vd va vb nw) s =
        st.next s (st.c.vectorResult e.2.2.1 vd nw fun i => (e.2.2.2 (st.c.lane va i) (st.c.lane vb i), 0))) ∧
      (opStage s .v (e.1 vd va vb nw) = some st → poisonTraps s st (e.1 vd va vb nw) [va, vb])) ∧
  (∀ e ∈ unaryLanes, ∀ (vd va : BitVec 7) (nw : Bool),
    encodeV (e.1 vd va nw) = some (packVR e.2.1 vd va 0#7 nw) ∧ ((e.1 vd va nw).wf = true ↔ vd.toNat ≤ 111 ∧ sourceCode va) ∧
    ∀ (s : State) (st : Stage), (AtIssue s .v (e.1 vd va nw) st → st.c.readable [va] →
      exec (e.1 vd va nw) s = st.next s (st.c.vectorResult e.2.2.1 vd nw fun i => (e.2.2.2 (st.c.lane va i), 0))) ∧
      (opStage s .v (e.1 vd va nw) = some st → poisonTraps s st (e.1 vd va nw) [va]))

/-- FP32 operations on two sources: constructor, opcode, latency, value and flags of a lane (R119 to R122, R181). -/
def floatLanes : List ((BitVec 7 → BitVec 7 → BitVec 7 → Bool → Instr) × BitVec 8 × Nat × (Word → Word → Flagged Word)) :=
  [(.vfadd, 0x20, 4, fadd32), (.vfsub, 0x21, 4, fsub32), (.vfmul, 0x22, 4, fmul32), (.vfmin, 0x25, 4, fminmax false),
   (.vfmax, 0x26, 4, fminmax true), (.vfdiv, 0x29, 12, fdiv32)]

/-- FP32 operations on one source (R181). -/
def floatUnary : List ((BitVec 7 → BitVec 7 → Bool → Instr) × BitVec 8 × Nat × (Word → Flagged Word)) :=
  [(.vfabs, 0x27, 2, fsign fun x => x &&& 0x7fffffff#32), (.vfneg, 0x28, 2, fsign fun x => x ^^^ 0x80000000#32),
   (.vfsqrt, 0x2a, 12, fsqrt32), (.vfexp2, 0x2b, 12, fexp2), (.vflog2, 0x2c, 12, flog2)]

/-- Operations that also read vd: a lane's a, b and d (R177, R181). -/
def ternaryLanes : List ((BitVec 7 → BitVec 7 → BitVec 7 → Bool → Instr) × BitVec 8 × Nat × (Word → Word → Word → Flagged Word)) :=
  [(.vsel, 0x12, 2, fun a b d => (if d = 0#32 then b else a, 0)), (.vfma, 0x23, 4, ffma32), (.vfms, 0x24, 4, ffms32)]

/-- Where an active lane raises a flag whose trap is enabled, the operation takes FP_TRAP, whose record names the lowest such lane (R72). -/
def flagsTrap (s : State) (st : Stage) (i : Instr) (flags : Nat → Nat) : Prop :=
  ∀ l, st.c.trapsFirst flags l → exec i s = st.traps s 0 { code := 0x33, lane := l } (allFlags st.c.mask flags)

/-- R72, R171, R177, R181: each active lane's result and flags of VSEL and the FP32 operations where no raised flag traps, with their
opcodes; an enabled flag that an active lane raises traps with FP_TRAP, whose record names the lowest such lane. -/
def Obligations.FloatLaneResults : Prop :=
  (∀ e ∈ floatLanes, ∀ (s : State) (st : Stage) (vd va vb : BitVec 7) (nw : Bool),
    encodeV (e.1 vd va vb nw) = some (packVR e.2.1 vd va vb nw) ∧
    (AtIssue s .v (e.1 vd va vb nw) st → st.c.readable [va, vb] →
      (st.c.untrapped fun i => (e.2.2.2 (st.c.lane va i) (st.c.lane vb i)).2) →
      exec (e.1 vd va vb nw) s =
        st.next s (st.c.vectorResult e.2.2.1 vd nw fun i => e.2.2.2 (st.c.lane va i) (st.c.lane vb i))) ∧
    (AtIssue s .v (e.1 vd va vb nw) st → st.c.readable [va, vb] →
      flagsTrap s st (e.1 vd va vb nw) fun i => (e.2.2.2 (st.c.lane va i) (st.c.lane vb i)).2)) ∧
  (∀ e ∈ floatUnary, ∀ (s : State) (st : Stage) (vd va : BitVec 7) (nw : Bool),
    encodeV (e.1 vd va nw) = some (packVR e.2.1 vd va 0#7 nw) ∧
    (AtIssue s .v (e.1 vd va nw) st → st.c.readable [va] → (st.c.untrapped fun i => (e.2.2.2 (st.c.lane va i)).2) →
      exec (e.1 vd va nw) s = st.next s (st.c.vectorResult e.2.2.1 vd nw fun i => e.2.2.2 (st.c.lane va i))) ∧
    (AtIssue s .v (e.1 vd va nw) st → st.c.readable [va] →
      flagsTrap s st (e.1 vd va nw) fun i => (e.2.2.2 (st.c.lane va i)).2)) ∧
  (∀ e ∈ ternaryLanes, ∀ (s : State) (st : Stage) (vd va vb : BitVec 7) (nw : Bool),
    encodeV (e.1 vd va vb nw) = some (packVR e.2.1 vd va vb nw) ∧
    (AtIssue s .v (e.1 vd va vb nw) st → st.c.readable [vd, va, vb] →
      (st.c.untrapped fun i => (e.2.2.2 (st.c.lane va i) (st.c.lane vb i) (st.c.lane vd i)).2) →
      exec (e.1 vd va vb nw) s = st.next s
        (st.c.vectorResult e.2.2.1 vd nw fun i => e.2.2.2 (st.c.lane va i) (st.c.lane vb i) (st.c.lane vd i))) ∧
    (AtIssue s .v (e.1 vd va vb nw) st → st.c.readable [vd, va, vb] →
      flagsTrap s st (e.1 vd va vb nw) fun i => (e.2.2.2 (st.c.lane va i) (st.c.lane vb i) (st.c.lane vd i)).2))

/-- R72, R179, R180, R182 to R188: constants, rounding, conversions and block images; flags whose trap is enabled trap, and so does a
block image that VBUNPK cannot read. -/
def Obligations.ConversionResults : Prop :=
  ∀ (s : State) (st : Stage) (vd va vb : BitVec 7) (nw : Bool), (let c := st.c
    (∀ imm, AtIssue s .v (.vmovi vd imm nw) st →
      exec (.vmovi vd imm nw) s = st.next s (c.vectorResult 2 vd nw fun _ => (imm.signExtend 32, 0))) ∧
    (AtIssue s .v (.viota vd nw) st →
      exec (.viota vd nw) s = st.next s (c.vectorResult 2 vd nw fun i => (BitVec.ofNat 32 i, 0))) ∧
    (∀ rm, AtIssue s .v (.vfrnd vd va rm nw) st → c.readable [va] →
      (let g (i : Nat) := frnd (rmMode rm c.w.round) (c.lane va i)
      ((c.untrapped fun i => (g i).2) → exec (.vfrnd vd va rm nw) s = st.next s (c.vectorResult 4 vd nw g)) ∧
      flagsTrap s st (.vfrnd vd va rm nw) fun i => (g i).2)) ∧
    (∀ rm kind, AtIssue s .v (.vcvt vd va rm kind nw) st → c.readable [va] →
      (let g (i : Nat) := cvtLane kind (rmMode rm c.w.round) (c.lane va i)
      ((c.untrapped fun i => (g i).2) → exec (.vcvt vd va rm kind nw) s = st.next s (c.vectorResult 4 vd nw g)) ∧
      flagsTrap s st (.vcvt vd va rm kind nw) fun i => (g i).2)) ∧
    (∀ rm fmt high, AtIssue s .v (.vpkh vd va rm fmt high nw) st → c.readable [vd, va] →
      (let g (i : Nat) := packHalf fmt high (rmMode rm c.w.round) (c.lane va i) (c.lane vd i)
      ((c.untrapped fun i => (g i).2) → exec (.vpkh vd va rm fmt high nw) s = st.next s (c.vectorResult 4 vd nw g)) ∧
      flagsTrap s st (.vpkh vd va rm fmt high nw) fun i => (g i).2)) ∧
    (∀ fmt high, AtIssue s .v (.vupkh vd va fmt high nw) st → c.readable [va] →
      (let g (i : Nat) := unpackHalf fmt high (c.lane va i)
      ((c.untrapped fun i => (g i).2) → exec (.vupkh vd va fmt high nw) s = st.next s (c.vectorResult 4 vd nw g)) ∧
      flagsTrap s st (.vupkh vd va fmt high nw) fun i => (g i).2)) ∧
    (∀ e ∈ [(Instr.vbpackM7, BFmt.m7), (.vbpackM4, .m4), (.vbpackM2, .m2)],
      (let q (i : Nat) := packQuarter e.2 c.mask (c.src va).lanes (c.src vb).lanes (i / 16)
      AtIssue s .v (e.1 vd va vb nw) st → (c.mask ≠ 0#64 → c.bsUsable [va, vb] ∧
        c.clean [(va, c.mask), (vb, maskOf fun l => l % 16 = 0 && quarterActive c.mask (l / 16))]) →
      ((c.untrapped fun i => (q i).2) →
        exec (e.1 vd va vb nw) s = st.next s (c.vectorResult 6 vd nw fun i =>
          if quarterActive c.mask (i / 16) then (imageLane (q i).1 (i % 16), (q i).2) else (imageLane [] (i % 16), 0))) ∧
      flagsTrap s st (e.1 vd va vb nw) fun i => (q i).2)) ∧
    (AtIssue s .v (.vbunpk vd va nw) st → (c.mask ≠ 0#64 → c.clean (unpackReads va c) ∧ c.bsUsable [va]) →
      (let g := unpackLane (c.src va).lanes
      let bad (l : Nat) : Prop := maskBit c.mask l = true ∧ quarterHead (c.src va).lanes (l / 16) = .bad
      (∀ l < 64, bad l → (∀ j < l, ¬ bad j) → exec (.vbunpk vd va nw) s = st.traps s 0 { code := 0x32, lane := l }) ∧
      ((∀ l < 64, ¬ bad l) →
        ((c.untrapped fun i => (g i).2) → exec (.vbunpk vd va nw) s = st.next s (c.vectorResult 4 vd nw g)) ∧
        flagsTrap s st (.vbunpk vd va nw) fun i => (g i).2))))

/-- Integer compares: constructor, opcode, condition (R189). -/
def integerCompares : List ((BitVec 6 → BitVec 7 → BitVec 7 → Instr) × BitVec 8 × (Word → Word → Bool)) :=
  [(.vcmpEq, 0x40, fun a b => a = b), (.vcmpNe, 0x41, fun a b => a ≠ b), (.vcmpLt, 0x42, fun a b => a.toInt < b.toInt),
   (.vcmpLe, 0x43, fun a b => a.toInt ≤ b.toInt), (.vcmpLtu, 0x44, fun a b => a.toNat < b.toNat),
   (.vcmpLeu, 0x45, fun a b => a.toNat ≤ b.toNat)]

/-- FP32 compares (R189). -/
def floatCompares : List ((BitVec 6 → BitVec 7 → BitVec 7 → Instr) × BitVec 8 × FCmp) :=
  [(.vfcmpEq, 0x48, .eq), (.vfcmpNe, 0x49, .ne), (.vfcmpLt, 0x4a, .lt), (.vfcmpLe, 0x4b, .le), (.vfcmpUn, 0x4c, .un)]

/-- The sources and the scalar destination of a compare may be used. -/
def comparable (c : Ctx) (sd : BitVec 6) (va vb : BitVec 7) : Prop :=
  c.clean [(va, c.mask), (vb, c.mask)] ∧ (c.mask ≠ 0#64 → c.bsUsable [va, vb]) ∧ c.usable [] (some sd)

/-- R169, R189, R195: the mask that VCMP, VFCMP and VMATCH send to their scalar, with their opcodes; a zero execute mask sends 0, and
an enabled flag of VFCMP traps (R72); the opcodes between and behind them are unassigned. -/
def Obligations.CompareResults : Prop :=
  (∀ (s : State) (st : Stage) (sd : BitVec 6) (va vb : BitVec 7),
    (∀ e ∈ integerCompares, encodeV (e.1 sd va vb) = some (packVS e.2.1 sd va vb) ∧
      (AtIssue s .v (e.1 sd va vb) st → comparable st.c sd va vb →
        exec (e.1 sd va vb) s = st.next s (st.c.maskResult 3 sd fun i => (e.2.2 (st.c.lane va i) (st.c.lane vb i), 0)))) ∧
    (∀ e ∈ floatCompares, encodeV (e.1 sd va vb) = some (packVS e.2.1 sd va vb) ∧
      (AtIssue s .v (e.1 sd va vb) st → comparable st.c sd va vb →
        (let g (i : Nat) := fcmp e.2.2 (st.c.lane va i) (st.c.lane vb i)
        ((st.c.untrapped fun i => (g i).2) → exec (e.1 sd va vb) s = st.next s (st.c.maskResult 3 sd g)) ∧
        flagsTrap s st (e.1 sd va vb) fun i => (g i).2))) ∧
    encodeV (.vmatch sd va vb) = some (packVS 0x5f sd va vb) ∧
    (AtIssue s .v (.vmatch sd va vb) st → comparable st.c sd va vb →
      exec (.vmatch sd va vb) s = st.next s (st.c.maskResult 4 sd fun i =>
        ((List.range 64).any fun j => maskBit st.c.mask j && st.c.lane va i = st.c.lane vb j, 0)))) ∧
  ∀ op ∈ [0x46#8, 0x47#8, 0x4d#8, 0x4e#8, 0x4f#8], ∀ rest : BitVec 22, decodeV (op ++ rest) = .ok (.unassignedOpcode .v op)

/-- The sum of a source's active lanes below a bound, modulo 2³² (R194). -/
def activeSum (c : Ctx) (va : BitVec 7) (n : Nat) : Word :=
  (((List.range (min n 64)).filter fun j => maskBit c.mask j).map fun j => c.lane va j).sum

/-- Reductions and scans in FP32: constructor, latency, value and flags of a lane (R194). -/
def floatFolds : List ((BitVec 7 → BitVec 7 → Bool → Instr) × Nat × (DWord → Lanes → Nat → Flagged Word)) :=
  [(.vredfadd, 8, fun mask v _ => treeFadd mask v), (.vredmax, 6, fun mask v _ => maxLanes mask v),
   (.vfscan, 8, fun mask v i => (scanFadd mask v).getD i (0#32, 0))]

/-- R191 to R194: VRNG, lane movement, reductions and scans; an enabled flag of those in FP32 traps (R72). -/
def Obligations.LaneMovementResults : Prop :=
  ∀ (s : State) (st : Stage) (vd va vb : BitVec 7) (nw : Bool), (let c := st.c
    (AtIssue s .v (.vrng vd va vb nw) st → c.readable [va, vb] →
      exec (.vrng vd va vb nw) s = st.next s (c.vectorResult 6 vd nw fun i => (rng (c.lane va i) (c.lane vb i), 0))) ∧
    (AtIssue s .v (.vshfl vd va vb nw) st → (c.mask ≠ 0#64 → c.bsUsable [va, vb] ∧
        c.clean [(va, takenLanes c.mask fun i => (c.lane vb i).toNat % 64), (vb, c.mask)]) →
      exec (.vshfl vd va vb nw) s =
        st.next s (c.vectorResult 3 vd nw fun i => (c.lane va ((c.lane vb i).toNat % 64), 0))) ∧
    (AtIssue s .v (.vrotl vd va vb nw) st → (c.mask ≠ 0#64 → c.bsUsable [va, vb] ∧
        c.clean [(va, takenLanes c.mask fun i => (i + 64 - (c.lane vb 0).toNat % 64) % 64), (vb, 1#64)]) →
      exec (.vrotl vd va vb nw) s =
        st.next s (c.vectorResult 3 vd nw fun i => (c.lane va ((i + 64 - (c.lane vb 0).toNat % 64) % 64), 0))) ∧
    (AtIssue s .v (.vredadd vd va nw) st → c.readable [va] →
      exec (.vredadd vd va nw) s = st.next s (c.vectorResult 6 vd nw fun _ => (activeSum c va 64, 0))) ∧
    (AtIssue s .v (.vscan vd va nw) st → c.readable [va] →
      exec (.vscan vd va nw) s = st.next s (c.vectorResult 6 vd nw fun i => (activeSum c va (i + 1), 0))) ∧
    (∀ e ∈ floatFolds, AtIssue s .v (e.1 vd va nw) st → c.readable [va] →
      (let g := e.2.2 c.mask (c.src va).lanes
      ((c.untrapped fun i => (g i).2) → exec (e.1 vd va nw) s = st.next s (c.vectorResult e.2.1 vd nw g)) ∧
      flagsTrap s st (e.1 vd va nw) fun i => (g i).2)))

/-- R32, R196: VPLANE records the pending planes of its active lanes; an active lane's value of P or more traps with PLANE_RANGE
and names the lowest such lane. -/
def Obligations.PlaneAssignment : Prop :=
  ∀ (s : State) (st : Stage) (va : BitVec 7), AtIssue s .v (.vplane va) st → st.c.readable [va] → (let c := st.c
    ((∀ l < 64, maskBit c.mask l = true → (c.lane va l).toNat < planeCount c.w) →
      exec (.vplane va) s = st.next s fun m => updWarp m c.k fun w => updPath w c.path fun q =>
        { q with vp0 := maskOf fun l => if maskBit c.mask l then (c.lane va l).getLsbD 0 else maskBit q.vp0 l
                 vp1 := maskOf fun l => if maskBit c.mask l then (c.lane va l).getLsbD 1 else maskBit q.vp1 l
                 vpv := q.vpv ||| c.mask }) ∧
    (∀ l < 64, maskBit c.mask l = true → planeCount c.w ≤ (c.lane va l).toNat →
      (∀ j < l, maskBit c.mask j = true → (c.lane va j).toNat < planeCount c.w) →
      exec (.vplane va) s = st.traps s 0 { code := 0x2c, lane := l }))

/-! ### The M slot -/

/-- Where an access of `n` bytes stops at its elements (R105, R200): at the first address that is not canonical; else the first that is not
a multiple of `n`; else the first that lies outside the limits `inside`; else it waits for every page that is not held, or else takes
the first element's fault of translation; else, but for a deferred atomic, at the first that touches a registered range, and for an
immediate atomic of a deterministic task the first on a deterministic-safe page. The record names the element's lane and address. -/
def elementStops (s : State) (st : Stage) (i : Instr) (k : AccKind) (n : Nat) (write : Bool) (inside : Nat → Bool) (es : List Elem) :
    Prop :=
  (let c := st.c
  let at_ (code : Nat) (e : Elem) (info : Nat := 0) : Exn := { code := code, lane := e.lane, addr := e.addr % 2 ^ 64, info := info }
  let held (e : Elem) : Prop := ∃ key leaf level, c.xlate e.addr k = .hit key leaf level
  let unlocked (e : Elem) : Prop := lockOn c false write e.addr n = none
  let safe (e : Elem) : Prop := ∃ key leaf level, c.xlate e.addr k = .hit key leaf level ∧ leafDs leaf = true
  ∀ before e after, es = before ++ e :: after →
    (canonical e.addr = false → (∀ x ∈ before, canonical x.addr = true) → exec i s = st.traps s 1 (at_ 0x18 e (xinfo k 0))) ∧
    ((∀ x ∈ es, canonical x.addr = true) →
      (e.addr % n ≠ 0 → (∀ x ∈ before, x.addr % n = 0) → exec i s = st.traps s 1 (at_ 0x19 e)) ∧
      ((∀ x ∈ es, x.addr % n = 0) →
        (inside e.addr = false → (∀ x ∈ before, inside x.addr = true) → exec i s = st.traps s 1 (at_ 0x1b e)) ∧
        ((∀ x ∈ es, inside x.addr = true) →
          (∀ p, c.xlate e.addr k = .miss p → exec i s = st.waits s .xlate (placeAll c k es).2.2) ∧
          ((∀ x ∈ es, ∀ p, c.xlate x.addr k ≠ .miss p) →
            (∀ f, c.xlate e.addr k = .fault f → (∀ x ∈ before, held x) → exec i s = st.traps s 1 { f with lane := e.lane }) ∧
            ((∀ x ∈ es, held x) →
              (∀ l, k ≠ .deferred → lockOn c false write e.addr n = some l → (∀ x ∈ before, unlocked x) →
                exec i s = st.traps s 1 { at_ 0x1c e (lockInfo l) with addr := e.addr }) ∧
              (k = .atomic → detOf c.m c.w = true → (∀ x ∈ es, unlocked x) → safe e → (∀ x ∈ before, ¬ safe x) →
                exec i s = st.traps s 1 { at_ 0x1d e with addr := e.addr })))))))

/-- Where a scratchpad access of `n` bytes stops at its elements (R200): at the first offset that is not a multiple of `n`; else the first
outside the team's windows; else the first that touches a registered range. -/
def scratchStops (s : State) (st : Stage) (i : Instr) (n : Nat) (write : Bool) (es : List Elem) : Prop :=
  (let c := st.c
  let at_ (code : Nat) (e : Elem) : Exn := { code := code, lane := e.lane, addr := e.addr % 2 ^ 64 }
  let inside (e : Elem) : Prop := ∃ t, c.team? = some t ∧ spInBounds t e.addr n = true
  ∀ before e after, es = before ++ e :: after →
    (e.addr % n ≠ 0 → (∀ x ∈ before, x.addr % n = 0) → exec i s = st.traps s 1 (at_ 0x19 e)) ∧
    ((∀ x ∈ es, x.addr % n = 0) →
      (¬ inside e → (∀ x ∈ before, inside x) → exec i s = st.traps s 1 (at_ 0x1a e)) ∧
      ((∀ x ∈ es, inside x) → ∀ l, lockOn c true write e.addr n = some l → (∀ x ∈ before, lockOn c true write x.addr n = none) →
        exec i s = st.traps s 1 { code := 0x1c, lane := e.lane, addr := e.addr, info := lockInfo l })))

/-- Gathering operations on words: constructor, kind, access, whether vt is read (R204, R211, R213). -/
def gathers : List ((BitVec 7 → BitVec 7 → BitVec 6 → BitVec 4 → Instr) × (Nat → MemKind) × AccKind × Bool) :=
  [(.ldg, fun r => .loadV r 4, .read, false), (.stg, fun _ => .store 4 none, .write, true),
   (.atomvAdd, fun r => .atomV r .add, .atomic, true), (.atomvAnd, fun r => .atomV r .and, .atomic, true),
   (.atomvOr, fun r => .atomV r .or, .atomic, true), (.atomvXor, fun r => .atomV r .xor, .atomic, true),
   (.atomvMin, fun r => .atomV r .min, .atomic, true), (.atomvMax, fun r => .atomV r .max, .atomic, true),
   (.atomvMinu, fun r => .atomV r .minu, .atomic, true), (.atomvMaxu, fun r => .atomV r .maxu, .atomic, true)]

/-- R197, R203, R204, R211, R214, R222: a per-lane load, store, atomic, compare-and-swap, spill or fill whose checks hold joins the
memory order of its warp with the addresses that its form gives, and its flag is pending; under a zero mask it only sets its flag. R44, R48,
R66, R114, R200: a marked active lane, a scalar base that may not be used, a pending flag (whatever the mask), or else a check of its
elements makes it trap or wait. That QUEUE_CLOSED of the base stands behind its QUEUE_ROLE, ahead of FLAG_BUSY, is the model's choice (log
79). -/
def Obligations.LaneMemoryIssues : Prop :=
  (∀ (s : State) (st : Stage) (vt vx : BitVec 7) (sa : BitVec 6) (wd : Width) (ofs : BitVec 5) (f : BitVec 4) (ps : List Placed),
    (getF st.c.w f.toNat).pend = false → (st.c.mask ≠ 0#64 → st.c.usable [sa] none) → (let c := st.c
    (let row (n l : Nat) : Nat := (c.sv sa + BitVec.ofInt 64 (ofs.toInt * 64 * n) + BitVec.ofNat 64 (l * n)).toNat
    let at_ (l : Nat) : Nat := (c.sv sa + (c.lane vx l).signExtend 64).toNat
    (∀ e ∈ gathers, AtIssue s .m (e.1 vt vx sa f) st →
      (c.mask ≠ 0#64 → c.clean ((if e.2.2.2 then [vt, vx] else [vx]).map fun r => (r, c.mask)) ∧
        c.reaches e.2.2.1 4 (e.2.1 vt.toNat).writes (c.lanes at_) ps) →
      exec (e.1 vt vx sa f) s = st.next s (c.laneIssue (e.2.1 vt.toNat) f ps fun p =>
        p.access (if e.2.2.2 then leBytes 4 (c.lane vt p.lane) else []) [])) ∧
    (AtIssue s .m (.casv vt vx sa f) st →
      (c.mask ≠ 0#64 → c.clean ([vt, vt + 1, vx].map fun r => (r, c.mask)) ∧ c.reaches .atomic 4 true (c.lanes at_) ps) →
      exec (.casv vt vx sa f) s = st.next s (c.laneIssue (.casV vt.toNat) f ps fun p =>
        p.access (leBytes 4 (c.lane (vt + 1) p.lane)) (leBytes 4 (c.lane vt p.lane)))) ∧
    (AtIssue s .m (.ldv vt sa wd ofs f) st → (c.mask ≠ 0#64 → c.reaches .read wd.bytes false (c.lanes (row wd.bytes)) ps) →
      exec (.ldv vt sa wd ofs f) s = st.next s (c.laneIssue (.loadV vt.toNat wd.bytes) f ps fun p => p.access [] [])) ∧
    (AtIssue s .m (.stv vt sa wd ofs f) st →
      (c.mask ≠ 0#64 → c.clean [(vt, c.mask)] ∧ c.reaches .write wd.bytes true (c.lanes (row wd.bytes)) ps) →
      exec (.stv vt sa wd ofs f) s = st.next s (c.laneIssue (.store wd.bytes none) f ps fun p =>
        p.access (leBytes wd.bytes (c.lane vt p.lane)) [])) ∧
    (AtIssue s .m (.vspill vt sa ofs f) st →
      (c.mask ≠ 0#64 → c.reaches .write 4 true (c.lanes (row 4)) ps ∧ ∀ p ∈ ps, c.w.sptop ≤ p.addr ∧ p.addr + 4 ≤ c.w.stktop) →
      exec (.vspill vt sa ofs f) s = st.next s (c.laneIssue .spill f ps fun p =>
        { p.access (leBytes 4 (c.lane vt p.lane)) [] with mark := maskBit (c.src vt).marks p.lane })) ∧
    (AtIssue s .m (.vfill vt sa ofs f) st →
      (c.mask ≠ 0#64 → c.reaches .read 4 false (c.lanes (row 4)) ps ∧ ∀ p ∈ ps, c.w.sptop ≤ p.addr ∧ p.addr + 4 ≤ c.w.stktop) →
      exec (.vfill vt sa ofs f) s = st.next s (c.laneIssue (.fill vt.toNat) f ps fun p => p.access [] []))))) ∧
  ∀ (s : State) (st : Stage) (vt vx : BitVec 7) (sa : BitVec 6) (wd : Width) (ofs : BitVec 5) (f : BitVec 4), (let c := st.c
    (let row (n l : Nat) : Nat := (c.sv sa + BitVec.ofInt 64 (ofs.toInt * 64 * n) + BitVec.ofNat 64 (l * n)).toNat
    let at_ (l : Nat) : Nat := (c.sv sa + (c.lane vx l).signExtend 64).toNat
    let stack (a : Nat) : Bool := c.w.sptop ≤ a && a + 4 ≤ c.w.stktop
    let free (_ : Nat) : Bool := true
    let forms : List (Instr × AccKind × Nat × Bool × List (BitVec 7) × (Nat → Bool) × (Nat → Nat)) :=
      (gathers.map fun e => (e.1 vt vx sa f, e.2.2.1, 4, (e.2.1 vt.toNat).writes, if e.2.2.2 then [vt, vx] else [vx], free, at_)) ++
      [(.casv vt vx sa f, .atomic, 4, true, [vt, vt + 1, vx], free, at_), (.ldv vt sa wd ofs f, .read, wd.bytes, false, [], free, row wd.bytes),
       (.stv vt sa wd ofs f, .write, wd.bytes, true, [vt], free, row wd.bytes), (.vspill vt sa ofs f, .write, 4, true, [], stack, row 4),
       (.vfill vt sa ofs f, .read, 4, false, [], stack, row 4)]
    ∀ x ∈ forms, (let (i, k, n, write, vs, inside, at_) := x
      (opStage s .m i = some st → poisonTraps s st i vs (slot := 1) ∧
        (c.mask ≠ 0#64 → c.clean (vs.map fun r => (r, c.mask)) → scalarTraps s st i 1 [sa] none)) ∧
      (AtIssue s .m i st → (c.mask ≠ 0#64 → c.clean (vs.map fun r => (r, c.mask)) ∧ c.usable [sa] none) →
        ((getF c.w f.toNat).pend = true → exec i s = st.traps s 1 { code := 0x15 }) ∧
        ((getF c.w f.toNat).pend = false → c.mask ≠ 0#64 → elementStops s st i k n write inside (c.lanes at_))))))

/-- Immediate scalar atomics (R212, R213). -/
def scalarAtomics : List ((BitVec 6 → BitVec 6 → BitVec 6 → Scope → BitVec 4 → Instr) × AtomOp) :=
  [(.atomsAdd, .add), (.atomsAnd, .and), (.atomsOr, .or), (.atomsXor, .xor), (.atomsMin, .min), (.atomsMax, .max),
   (.atomsMinu, .minu), (.atomsMaxu, .maxu)]

/-- R205, R212, R214: a scalar load, store, atomic or compare-and-swap whose checks hold joins the memory order of its warp, its
flag is pending, and a destination port has reserved its entry; the execute mask plays no part. R44, R66, R114, R200: where a scalar may
not be used, the flag is pending, or a check of the address fails, it traps or waits. -/
def Obligations.ScalarMemoryIssues : Prop :=
  (∀ (s : State) (st : Stage) (t sa sv : BitVec 6) (sc : Scope) (wd : Width) (disp f : BitVec 4) (ps : List Placed),
    (getF st.c.w f.toNat).pend = false → (let c := st.c
    (let es : List Elem := [{ lane := 0, addr := (c.sv sa + BitVec.ofInt 64 (disp.toInt * wd.bytes)).toNat }]
    let at_ : List Elem := [{ lane := 0, addr := (c.sv sa).toNat }]
    (AtIssue s .m (.lds t sa wd disp f) st → c.usable [sa] (some t) → c.reaches .read wd.bytes false es ps →
      exec (.lds t sa wd disp f) s = st.next s
        (c.scalarIssue (.loadS t.toNat wd.bytes none) (some t) f ps fun p => p.access [] [])) ∧
    (AtIssue s .m (.ldsAcq t sa sc wd disp f) st → c.usable [sa] (some t) → c.reaches .read wd.bytes false es ps →
      exec (.ldsAcq t sa sc wd disp f) s = st.next s
        (c.scalarIssue (.loadS t.toNat wd.bytes (some sc)) (some t) f ps fun p => p.access [] [])) ∧
    (AtIssue s .m (.sts t sa wd disp f) st → c.usable [t, sa] none → c.reaches .write wd.bytes true es ps →
      exec (.sts t sa wd disp f) s = st.next s
        (c.scalarIssue (.store wd.bytes none) none f ps fun p => p.access (leBytes wd.bytes (c.sv t)) [])) ∧
    (AtIssue s .m (.stsRel t sa sc wd disp f) st → c.usable [t, sa] none → c.reaches .write wd.bytes true es ps →
      exec (.stsRel t sa sc wd disp f) s = st.next s
        (c.scalarIssue (.store wd.bytes (some sc)) none f ps fun p => p.access (leBytes wd.bytes (c.sv t)) [])) ∧
    (∀ e ∈ scalarAtomics, AtIssue s .m (e.1 t sa sv sc f) st → c.usable [sa, sv] (some t) → c.reaches .atomic 8 true at_ ps →
      exec (e.1 t sa sv sc f) s = st.next s
        (c.scalarIssue (.atomS t.toNat e.2) (some t) f ps fun p => p.access (leBytes 8 (c.sv sv)) [])) ∧
    (AtIssue s .m (.cass t sa sv sc f) st → c.usable [t, sa, sv] (some t) → c.reaches .atomic 8 true at_ ps →
      exec (.cass t sa sv sc f) s = st.next s
        (c.scalarIssue (.casS t.toNat) (some t) f ps fun p => p.access (leBytes 8 (c.sv sv)) (leBytes 8 (c.sv t))))))) ∧
  ∀ (s : State) (st : Stage) (t sa sv : BitVec 6) (sc : Scope) (wd : Width) (disp f : BitVec 4), (let c := st.c
    (let es : List Elem := [{ lane := 0, addr := (c.sv sa + BitVec.ofInt 64 (disp.toInt * wd.bytes)).toNat }]
    let at_ : List Elem := [{ lane := 0, addr := (c.sv sa).toNat }]
    let forms : List (Instr × AccKind × Nat × Bool × List Elem × List (BitVec 6) × Option (BitVec 6)) :=
      [(.lds t sa wd disp f, .read, wd.bytes, false, es, [sa], some t), (.ldsAcq t sa sc wd disp f, .read, wd.bytes, false, es, [sa], some t),
       (.sts t sa wd disp f, .write, wd.bytes, true, es, [t, sa], none), (.stsRel t sa sc wd disp f, .write, wd.bytes, true, es, [t, sa], none),
       (.cass t sa sv sc f, .atomic, 8, true, at_, [t, sa, sv], some t)] ++
      scalarAtomics.map fun e => (e.1 t sa sv sc f, .atomic, 8, true, at_, [sa, sv], some t)
    ∀ x ∈ forms, (let (i, k, n, write, es, srcs, dst) := x
      (opStage s .m i = some st → scalarTraps s st i 1 srcs dst) ∧
      (AtIssue s .m i st → c.usable srcs dst →
        ((getF c.w f.toNat).pend = true → exec i s = st.traps s 1 { code := 0x15 }) ∧
        ((getF c.w f.toNat).pend = false → elementStops s st i k n write (fun _ => true) es)))))

/-- R81, R206, R207, R210: the scratchpad accesses read or write in their issue beat, at their team offsets; a read delivers with latency 3,
and a poisoned word delivers 0 with its mark; an error that a word has is recorded as it is read or written in part (R112, R115); TLD of a
ready tile reads 64 words from byte RG × 256 of the tile. What SPLDS feeds to bm1 is free (log 67). R200: where a check of an offset fails,
the access traps; where something unfinished is ordered before it, it waits (R208). TLD of a tile that is not defined traps with TILE_STATE,
beyond the team's entries with TILE_RANGE, and with TILE_RANGE where its row group lies beyond the tile; it waits for a tile that is not
ready, which the model has before the check against registered ranges (log 16, the model's choice). -/
def Obligations.ScratchAccesses : Prop :=
  ∀ (s : State) (st : Stage) (vt vx : BitVec 7) (t sa : BitVec 6) (wd : Width) (disp : BitVec 4), (let c := st.c
    (let at_ (l : Nat) : Nat := spadSum ((c.sv sa).toNat + (c.lane vx l).toNat)
    let o : Nat := spadSum ((c.sv sa).toNat + disp.toInt * wd.bytes)
    (AtIssue s .m (.spld vt vx sa) st → fenceWait c false = false →
      (c.mask ≠ 0#64 → c.clean [(vx, c.mask)] ∧ c.usable [sa] none ∧ c.inScratch 4 false ((lanesOf c.mask).map at_)) →
      exec (.spld vt vx sa) s = st.next s fun m => if c.mask = 0#64 then m else spadLanes c vt (c.lanes at_) m) ∧
    (AtIssue s .m (.spst vt vx sa) st → fenceWait c true = false →
      (c.mask ≠ 0#64 → c.clean [(vt, c.mask), (vx, c.mask)] ∧ c.usable [sa] none ∧
        c.inScratch 4 true ((lanesOf c.mask).map at_)) →
      exec (.spst vt vx sa) s = st.next s fun m => if c.mask = 0#64 then m else
        writeNoted (c.accessor m) m ((lanesOf c.mask).map fun l => (c.spad (at_ l), leBytes 4 (c.lane vt l)))) ∧
    (AtIssue s .m (.splds t sa wd disp) st → fenceWait c false = false → c.usable [sa] (some t) →
      c.inScratch wd.bytes false [o] →
      exec (.splds t sa wd disp) s = st.next s fun m =>
        (let r : DWord × Bool := loaded 64 (readBytes m (c.spad o) wd.bytes)
        spldsLatch c (c.sendS t r.1 r.2 3 (noteRead (c.accessor m) m (c.spad o) wd.bytes)))) ∧
    (AtIssue s .m (.spsts t sa wd disp) st → fenceWait c true = false → c.usable [t, sa] none →
      c.inScratch wd.bytes true [o] →
      exec (.spsts t sa wd disp) s = st.next s fun m =>
        writeNoted (c.accessor m) m [(c.spad o, leBytes wd.bytes (c.sv t))]) ∧
    (let forms : List (Instr × Bool × Nat × Bool × List (BitVec 7) × List (BitVec 6) × Option (BitVec 6) × List Elem) :=
      [(.spld vt vx sa, true, 4, false, [vx], [sa], none, c.lanes at_), (.spst vt vx sa, true, 4, true, [vt, vx], [sa], none, c.lanes at_),
       (.splds t sa wd disp, false, wd.bytes, false, [], [sa], some t, [{ lane := 0, addr := o }]),
       (.spsts t sa wd disp, false, wd.bytes, true, [], [t, sa], none, [{ lane := 0, addr := o }])]
    ∀ x ∈ forms, (let (i, lanes, n, write, vs, srcs, dst, es) := x
      AtIssue s .m i st → (lanes = true → c.mask ≠ 0#64) → c.clean (vs.map fun r => (r, c.mask)) → c.usable srcs dst →
        scratchStops s st i n write es ∧
        (c.inScratch n write (es.map (·.addr)) → fenceWait c write = true → exec i s = st.waits s .fence))) ∧
    (∀ (tile : BitVec 6) (rg : BitVec 7), AtIssue s .m (.tld vt tile rg) st →
      (let word (t : Tile) (l : Nat) : Nat := (t.base + (rg.toNat * 256 + 4 * l) / (32 * t.rowb) * t.stride) * 32 +
        (rg.toNat * 256 + 4 * l) % (32 * t.rowb)
      (c.mask = 0#64 → exec (.tld vt tile rg) s = st.next s id) ∧
      (∀ t, c.mask ≠ 0#64 → c.tile? tile.toNat = some t → t.state = .ready → rg.toNat * 256 + 256 ≤ t.rows * (32 * t.rowb) →
        (∀ l ∈ lanesOf c.mask, lockOn c true false (word t l) 4 = none) → fenceWait c false = false →
        exec (.tld vt tile rg) s = st.next s (spadLanes c vt (c.lanes (word t)))) ∧
      (∀ tm, c.mask ≠ 0#64 → c.team? = some tm → c.tile? tile.toNat = none →
        exec (.tld vt tile rg) s = st.traps s 1 { code := if tm.ntiles ≤ tile.toNat then 0x20 else 0x21 }) ∧
      (∀ t, c.mask ≠ 0#64 → c.tile? tile.toNat = some t →
        (t.rows * (32 * t.rowb) < rg.toNat * 256 + 256 → exec (.tld vt tile rg) s = st.traps s 1 { code := 0x20 }) ∧
        (rg.toNat * 256 + 256 ≤ t.rows * (32 * t.rowb) →
          (t.state ≠ .ready → fenceWait c false = false → exec (.tld vt tile rg) s = st.waits s .tile) ∧
          (t.state = .ready →
            (∀ before e after l, c.lanes (word t) = before ++ e :: after → lockOn c true false e.addr 4 = some l →
              (∀ x ∈ before, lockOn c true false x.addr 4 = none) →
              exec (.tld vt tile rg) s = st.traps s 1 { code := 0x1c, lane := e.lane, addr := e.addr, info := lockInfo l }) ∧
            ((∀ l ∈ lanesOf c.mask, lockOn c true false (word t l) 4 = none) → fenceWait c false = true →
              exec (.tld vt tile rg) s = st.waits s .fence))))))))

/-- R101, R216, R217, R219 to R223: DACCV and DACCS append an entry for each active lane, in lane order, or one entry, to their core's
buffer where it and the overflow area have room; FLUSH counts itself, opens or joins its scope's episode and waits in the memory order
with its flag pending; a FENCE of warp scope does nothing, any other joins the order and completes at once where nothing it waits for
is outstanding; PREF of a port does nothing, and otherwise at most starts the walk of its page. DACCV and DACCS trap or wait at a marked
lane, at their scalars, at their addresses and last, with DACC_FULL, where there is no room; FLUSH traps with FLAG_BUSY where its flag is
pending, and with FLUSH_BUSY where a FLUSH of its scope is. -/
def Obligations.DeferredAndOrdering : Prop :=
  (∀ (s : State) (st : Stage) (op : DaccOp) (vt vx : BitVec 7) (sa sv : BitVec 6) (ps : List Placed), (let c := st.c
    (let at_ (l : Nat) : Nat := (c.sv sa + (c.lane vx l).signExtend 64).toNat
    let n : Nat := if op.is64 then 8 else 4
    (AtIssue s .m (.daccv op vt vx sa) st →
      (c.mask ≠ 0#64 → c.clean [(vt, c.mask), (vx, c.mask)] ∧ c.usable [sa] none ∧ c.reaches .deferred 4 true (c.lanes at_) ps ∧
        (lanesOf c.mask).length ≤ daccRoom c) →
      exec (.daccv op vt vx sa) s = st.next s fun m => if c.mask = 0#64 then m else
        daccPush c op (ps.map fun p => (p, (c.lane vt p.lane).setWidth 64)) (fillTlbs c ps m)) ∧
    (AtIssue s .m (.daccs op sa sv) st → c.usable [sa, sv] none →
      c.reaches .deferred n true [{ lane := 0, addr := (c.sv sa).toNat }] ps → 1 ≤ daccRoom c →
      exec (.daccs op sa sv) s = st.next s fun m =>
        daccPush c op (ps.map fun p => (p, if op.is64 then c.sv sv else ((c.sv sv).setWidth 32).setWidth 64)) (fillTlbs c ps m)) ∧
    (let forms : List (Instr × Nat × Bool × List (BitVec 7) × List (BitVec 6) × List Elem) :=
      [(.daccv op vt vx sa, 4, true, [vt, vx], [sa], c.lanes at_), (.daccs op sa sv, n, false, [], [sa, sv], [{ lane := 0, addr := (c.sv sa).toNat }])]
    ∀ x ∈ forms, (let (i, n, lanes, vs, srcs, es) := x
      (lanes = true → c.mask ≠ 0#64) →
        (opStage s .m i = some st → poisonTraps s st i vs (slot := 1) ∧
          (c.clean (vs.map fun r => (r, c.mask)) → scalarTraps s st i 1 srcs none)) ∧
        (AtIssue s .m i st → c.clean (vs.map fun r => (r, c.mask)) → c.usable srcs none →
          elementStops s st i .deferred n true (fun _ => true) es ∧
          (c.reaches .deferred n true es ps → daccRoom c < es.length → exec i s = st.traps s 1 { code := 0x1f }))))))) ∧
  (∀ (s : State) (st : Stage) (fs : FlushScope) (kind : FenceKind) (sc : Scope) (f : BitVec 4) (sa : BitVec 6) (disp : BitVec 4),
    (let c := st.c
    (AtIssue s .m (.flush fs f) st → (getF c.w f.toNat).pend = false → (∀ o ∈ c.w.ops, o.kind ≠ .flush fs) →
      exec (.flush fs f) s = st.next s fun m =>
        (let m := updWarp m c.k fun w => countFlush w fs
        issueOp c (.flush fs) (some f) [] none (match fs with
          | .team => updTeam m c.w.team fun t => { t with flushing := true }
          | .task => updNode m c.w.node fun n => { n with flushing := true }
          | .dev => joinEpisode m c.w))) ∧
    (AtIssue s .m (.flush fs f) st → (getF c.w f.toNat).pend = true → exec (.flush fs f) s = st.traps s 1 { code := 0x15 }) ∧
    (AtIssue s .m (.flush fs f) st → (getF c.w f.toNat).pend = false → (∃ o ∈ c.w.ops, o.kind = .flush fs) →
      exec (.flush fs f) s = st.traps s 1 { code := 0x17 }) ∧
    (AtIssue s .m (.fence kind sc) st →
      exec (.fence kind sc) s = st.next s fun m => if sc = .warp then m else
        (let m := issueOp c (.fence kind sc) none [] none m
        drainFences ((getWarp? m c.k).elim 0 (·.ops.length) + 1) m c.k)) ∧
    (AtIssue s .m (.pref sa disp) st →
      exec (.pref sa disp) s = st.next s fun m =>
        if (portOf c.w sa.toNat).isSome then m
        else
          (let a := ((getS c.w sa.toNat).value + BitVec.ofInt 64 disp.toInt).toNat
          if canonical a && (tlbLookup c.m (coreOf c.k) c.w.ctx a).isNone then postMisses m c.k c.w [a / 65536] else m))))

/-! ### The X slot -/

/-- The first check that fails gives the trap of an operation of a slot (R227, R260): each check with the code of its fault. -/
def checksTrap (s : State) (st : Stage) (i : Instr) (slot : Nat) (checks : List (Bool × Nat)) : Prop :=
  ∀ before code after, checks = before ++ (true, code) :: after → (∀ x ∈ before, x.1 = false) →
    exec i s = st.traps s slot { code := code }

/-- A copy request whose descriptor, tile, bounds and order checks hold (R227 to R233, R237). -/
def copyFits (c : Ctx) (r : CopyReq) (ord : Bool) (sideReg : Nat) : Prop :=
  copyDescBad c r sideReg = false ∧ copyTileFault c r = none ∧ copyBounds c r = none ∧ (copyDet c r ord).1 = none ∧ (copyDet c r ord).2.1 = [] ∧
  lockTableFull c.m (copyRanges c r) = false ∧
  (r.d.ten = true → r.fills = false → (c.tile? r.d.tile).elim false (·.state != .ready) = false)

/-- What the issue of a copy does: it counts a command, arms its flag, moves its tile to Filling or Draining with the mover's name,
registers its ranges, drops the L1 lines of a global destination, and the copy stands in its cluster's engine with the operations that it
waits for: the warp's unacknowledged stores and atomics, and its loads of words of the copy's ranges (R82, R104, R226, R231, R233). -/
def copyIssue (c : Ctx) (r : CopyReq) (ord : Bool) (f : Option (BitVec 4)) (m : Mach) : Mach :=
  let m := c.countCommand (bump m)
  let id := m.tick
  let seq := (getWarp? m c.k).elim 0 (·.seq)
  let m := match f with
    | some f => c.arm f.toNat m
    | none => m
  let m := if r.d.ten then updTile m c.w.team r.d.tile fun t =>
      { t with state := if r.fills then .filling else .draining, mover := nameWord seq c.plane c.cidx } else m
  let m := dropRange c r (takeLocks c id seq (f.map (·.toNat)) (copyRanges c r) m)
  updCluster m (clusterOf c.k) fun x => { x with copies := mapPut x.copies id (copyOf c r ord id seq (f.map (·.toNat)) (copyWaits c r m)) }

/-- The request of a copy instruction: its descriptor, its sides, and the second operand of CPYM and CPYAT (R228, R229, R231). -/
def copyRequest (c : Ctx) (op : CopyOp) (dst : BitVec 5) (src : Option (BitVec 5)) (desc : BitVec 5) : CopyReq :=
  let raw := c.sv (desc.setWidth 6)
  let at_ (scratch : Bool) (n : BitVec 5) : CopySide := { scratch := scratch, base := (c.sv (n.setWidth 6)).toNat }
  { op := op, d := copyDesc raw, raw := raw, src := src.map (at_ (op = .cpyout))
    dst := at_ (op = .cpyin || op = .cpym || (op = .cpyz && (copyDesc raw).spc)) dst
    x := if op = .cpym || op = .cpyat then c.sv (desc.setWidth 6 + 1) else 0 }

/-- The register field of a copy's tile side. -/
def copySideReg (r : CopyReq) (dst : BitVec 5) (src : Option (BitVec 5)) : Nat :=
  if r.fills then dst.toNat else (src.map (·.toNat)).getD 0

/-- Copies of two ranges: constructor, operation, and whether desc + 1 is read too. -/
def copies : List ((Bool → BitVec 5 → BitVec 5 → BitVec 5 → Option (BitVec 4) → Instr) × CopyOp × Bool) :=
  [(.cpy, .cpy, false), (.cpyin, .cpyin, false), (.cpyout, .cpyout, false), (.cpyr, .cpyr, false), (.cpym, .cpym, true),
   (.cpyat, .cpyat, true)]

/-- Where a copy stops (R227 to R233, R237): a pending flag, a descriptor that its row does not allow, a fault of its tile, a side outside
the scratchpad's windows, DET_ORDER; else it waits for its tile, for the pages that DET_ORDER's lookup needs, for room in the lock tables.
-/
def copyStops (s : State) (st : Stage) (i : Instr) (r : CopyReq) (ord : Bool) (f : Option (BitVec 4)) (sideReg : Nat) : Prop :=
  (let c := st.c
  let busy := f.elim false fun n => (getF c.w n.toNat).pend
  let unready := r.d.ten && !r.fills && (c.tile? r.d.tile).elim false (·.state != .ready)
  let early (m : Mach) : Mach := if (copyDet c r ord).2.2.isEmpty then m else
    updWarp m c.k fun w => { w with looked := w.looked ++ (copyDet c r ord).2.2 }
  checksTrap s st i 2 [(busy, 0x15), (copyDescBad c r sideReg, 0x23)] ∧
  (busy = false → copyDescBad c r sideReg = false →
    (∀ e, copyTileFault c r = some e → exec i s = st.traps s 2 e) ∧
    (copyTileFault c r = none →
      (∀ e, copyBounds c r = some e → exec i s = st.traps s 2 e) ∧
      (copyBounds c r = none →
        (∀ e, (copyDet c r ord).1 = some e → exec i s = st.traps s 2 e) ∧
        ((copyDet c r ord).1 = none →
          (unready = true → exec i s = st.waits s .tile (copyDet c r ord).2.1 early) ∧
          (unready = false → (copyDet c r ord).2.1 ≠ [] → exec i s = st.waits s .xlate (copyDet c r ord).2.1 early) ∧
          (unready = false → (copyDet c r ord).2.1 = [] → lockTableFull c.m (copyRanges c r) = true →
            exec i s = st.waits s .lock [] early))))))

/-- R225 to R233: each of the seven copies issues where its checks hold, whatever the execute mask; else it traps or waits. The order of the
checks of tile, bounds and DET_ORDER beyond the rows of R227 (log 26), and which operations keep a DET_ORDER lookup (log 70), are the
model's choice. -/
def Obligations.CopyIssues : Prop :=
  (∀ (s : State) (st : Stage) (ord : Bool) (dst src desc : BitVec 5) (f : Option (BitVec 4)), (let c := st.c
    (∀ e ∈ copies, (let r := copyRequest c e.2.1 dst (some src) desc
      AtIssue s .x (e.1 ord dst src desc f) st →
      c.usable ([dst.setWidth 6, src.setWidth 6, desc.setWidth 6] ++ if e.2.2 then [desc.setWidth 6 + 1] else []) none →
      copyStops s st (e.1 ord dst src desc f) r ord f (copySideReg r dst (some src)))) ∧
    (let r := copyRequest c .cpyz dst none desc
    AtIssue s .x (.cpyz ord dst desc f) st → c.usable [dst.setWidth 6, desc.setWidth 6] none →
    copyStops s st (.cpyz ord dst desc f) r ord f (copySideReg r dst none)))) ∧
  ∀ (s : State) (st : Stage) (ord : Bool) (dst src desc : BitVec 5) (f : Option (BitVec 4)),
    (∀ n, f = some n → (getF st.c.w n.toNat).pend = false) → (let c := st.c
    (∀ e ∈ copies, (let r := copyRequest c e.2.1 dst (some src) desc
      AtIssue s .x (e.1 ord dst src desc f) st →
      c.usable ([dst.setWidth 6, src.setWidth 6, desc.setWidth 6] ++ if e.2.2 then [desc.setWidth 6 + 1] else []) none →
      copyFits c r ord (copySideReg r dst (some src)) →
      exec (e.1 ord dst src desc f) s = st.next s (copyIssue c r ord f))) ∧
    (let r := copyRequest c .cpyz dst none desc
    AtIssue s .x (.cpyz ord dst desc f) st → c.usable [dst.setWidth 6, desc.setWidth 6] none →
    copyFits c r ord (copySideReg r dst none) →
    exec (.cpyz ord dst desc f) s = st.next s (copyIssue c r ord f)))

/-- R81, R82, R237 to R239: TDEF defines an Empty tile from its doubleword, TFREE removes one, TSTAT reads one (0 where undefined). A
doubleword that describes no tile traps with TILE_DESC, a number beyond the team's tiles with TILE_RANGE, a tile that may not change with
TILE_STATE, one outside the scratchpad's windows with SP_BOUNDS. -/
def Obligations.TileDefinitions : Prop :=
  ∀ (s : State) (st : Stage) (tile sr : BitVec 6), (let c := st.c
    (let n := tile.toNat
    let v := c.sv sr
    let t : Tile := { state := .empty, stride := bits v 63 49, base := bits v 48 34, rows := bits v 33 26 + 1
                      rowb := bits v 25 21 + 1, fmt := bits v 20 17, grp := bits v 16 16, mover := 0 }
    let may : Prop := tilePending c n = false ∧ ∀ x, c.tile? n = some x → x.state = .empty ∨ x.state = .ready
    (∀ team, c.team? = some team → n < team.ntiles →
      (AtIssue s .x (.tdef tile sr) st → c.usable [sr] none → may →
        bits v 15 8 = 0 → bits v 6 2 = 0 → t.stride ≠ 0 → t.fmt ≤ 4 → t.grp = t.base / 2 ^ 14 % 2 →
        spInBounds team (t.base * 32) (((t.rows - 1) * t.stride + t.rowb) * 32) = true →
        exec (.tdef tile sr) s = st.next s fun m =>
          updTeam (c.countCommand m) c.w.team fun x => { x with tiles := mapPut x.tiles n t }) ∧
      (AtIssue s .x (.tfree tile) st → may → (c.tile? n).isSome →
        exec (.tfree tile) s = st.next s fun m =>
          updTeam (c.countCommand m) c.w.team fun x => { x with tiles := mapErase x.tiles n }) ∧
      (AtIssue s .x (.tstat tile sr) st → c.usable [] (some sr) →
        exec (.tstat tile sr) s = st.next s (c.sendS sr (BitVec.ofNat 64 ((c.tile? n).elim 0 tileWord)) false 1))) ∧
    (let outside := c.team?.elim true fun team => team.ntiles ≤ n
    let fits := c.team?.elim false fun team => spInBounds team (t.base * 32) (((t.rows - 1) * t.stride + t.rowb) * 32)
    let undescribed : Bool := bits v 15 8 ≠ 0 || bits v 6 2 ≠ 0 || t.stride = 0 || 4 < t.fmt || t.grp ≠ t.base / 2 ^ 14 % 2
    let stuck := tilePending c n || (c.tile? n).any fun x => x.state != .empty && x.state != .ready
    (AtIssue s .x (.tdef tile sr) st → c.usable [sr] none →
      checksTrap s st (.tdef tile sr) 2 [(undescribed, 0x22), (outside, 0x20), (stuck, 0x21)] ∧
      (undescribed = false → outside = false → stuck = false → fits = false →
        exec (.tdef tile sr) s = st.traps s 2 { code := 0x1a, addr := t.base * 32 })) ∧
    (AtIssue s .x (.tfree tile) st → checksTrap s st (.tfree tile) 2 [(outside, 0x20), (stuck || (c.tile? n).isNone, 0x21)]) ∧
    (AtIssue s .x (.tstat tile sr) st → c.usable [] (some sr) → checksTrap s st (.tstat tile sr) 2 [(outside, 0x20)]))))

/-- R240 to R246, R248: what the matrix instructions do at issue for a warp that holds the engine; MRES and MREL ask for it and give it
back. A warp whose request stands waits, one without the engine traps with ME_STATE; each instruction's further checks in their order give
the fault of the first that fails, and MSTEP waits for its tiles and for the step queue. That CHB first finishes what a closed chain of its
slot still has (log 24), the order of checks of one row (log 26), and the one queue of four steps and the lead's MREL for a gang (log 27)
are the model's choice. -/
def Obligations.MatrixIssues : Prop :=
  ∀ (s : State) (st : Stage) (f : BitVec 4) (acc : BitVec 2) (anchor : Option (BitVec 10)) (ta tb k : BitVec 6) (vd : BitVec 7),
    (let c := st.c
    (let cl := clusterOf c.k
    let free := (getF c.w f.toNat).pend = false
    (AtIssue s .x (.mres f) st → free → c.inHandler = false →
      (c.lead = true → c.holds = false ∧ c.request? = none ∧ c.mx.mrt.length < 16) →
      exec (.mres f) s = st.next s fun m =>
        (let m := updWarp (c.arm f.toNat (c.countCommand m)) c.k fun w => { w with mres := nameWord w.seq c.plane c.cidx }
        let m := match c.w.gang.bind fun g => (mapGet? m.gangs g).map fun x => (g, x) with
          | some (g, x) =>
            (let asked := x.asked.set c.w.gidx (x.asked.getD c.w.gidx 0 + 1)
            if x.asked.getD c.w.gidx 0 < x.grants then
              updWarp { m with gangs := mapPut m.gangs g { x with asked := asked } } c.k fun w => completeFlag w f.toNat
            else { m with gangs := mapPut m.gangs g { x with asked := asked, mres := x.mres ++ [c.w.gidx] } })
          | none => m
        let r : MresReq := { warp := c.k, gang := c.w.gang, flag := f.toNat, tokens := (getNode? c.m c.w.node).elim 0 (·.eff)
                             order := m.tick }
        if c.lead then updMatrix (bump m) cl fun mx => { mx with mrt := mx.mrt ++ [r] } else m)) ∧
    (AtIssue s .x .mrel st → c.inHandler = false → (c.lead = true → (c.holds = true ∨ c.request?.isSome) ∧ chainOpen c = false) →
      exec .mrel s = st.next s fun m => if c.lead then releaseAll c (c.countCommand m) else c.countCommand m) ∧
    (AtIssue s .x (.chb acc anchor) st → c.engineHeld → openChain c.m c.k = none →
      exec (.chb acc anchor) s = st.next s fun m =>
        (let n := c.slotOf acc.toNat
        updMatrix (finishClosed c.d.gtc (c.countCommand m) c.k (some n)) cl fun mx =>
          { mx with slots := mapPut mx.slots n { anchor := anchor.map (·.toInt), acc := [], results := [], ready := false
                                                 closed := false, begun := true, pops := 0 }
                    chains := mx.chains ++ [{ warp := c.k, slot := n, steps := [], kelems := 0, credit := 0, che := none
                                              group := c.w.gang.isSome, shut := false }]
                    popOf := if mapGet? mx.popOf c.k = some n then mapErase mx.popOf c.k else mx.popOf })) ∧
    (∀ e ∈ [(Instr.mstep, false), (.mstepG, true)], ∀ (a b : Tile) (chain : Chain),
      AtIssue s .x (e.1 ta tb k) st → c.engineHeld → c.w.gang.isSome = e.2 →
      tileRange c (c.tileOf ta.toNat) = none → tileRange c tb.toNat = none →
      c.tile? (c.tileOf ta.toNat) = some a → c.tile? tb.toNat = some b → a.state = .ready → b.state = .ready →
      openChain c.m c.k = some chain → mstepOperandBad a b (k.toNat + 1) = false → mstepBankBad a b = false →
      chain.kelems + (k.toNat + 1) * unitElements a.fmt ≤ 16777216 →
      listSum (c.mx.chains.map fun x => x.steps.length) < 4 →
      exec (e.1 ta tb k) s = st.next s fun m =>
        (let m := c.countCommand m
        let step : MStep := { team := c.w.team, ta := c.tileOf ta.toNat, tb := tb.toNat, k := k.toNat + 1, done := 0, rows := []
                              seq := (getWarp? m c.k).elim 0 (·.seq), pc := c.addr, cidx := c.cidx, plane := c.plane
                              path := c.path }
        updMatrix m cl fun mx => { mx with chains := mx.chains.map fun x => if x.warp = c.k && x.che.isNone then
          { x with kelems := x.kelems + (k.toNat + 1) * unitElements a.fmt, steps := x.steps ++ [step] } else x })) ∧
    (∀ e ∈ [(Instr.che, false), (.cheG, true)], ∀ chain : Chain, AtIssue s .x (e.1 acc f) st → free → c.engineHeld →
      c.w.gang.isSome = e.2 → openChain c.m c.k = some chain → chain.slot = c.slotOf acc.toNat →
      exec (e.1 acc f) s = st.next s fun m =>
        (let m := c.arm f.toNat (c.countCommand m)
        let h : Che := { flag := f.toNat, vbeat := c.w.vbeat, plane := c.plane, path := c.path, cidx := c.cidx
                         seq := (getWarp? m c.k).elim 0 (·.seq) }
        updMatrix m cl fun mx =>
          { mx with chains := mx.chains.map fun x => if x.warp = c.k && x.che.isNone then { x with che := some h } else x
                    slots := mapUpd mx.slots (c.slotOf acc.toNat) fun s => { s with closed := true }
                    popOf := mapPut mx.popOf c.k (c.slotOf acc.toNat) })) ∧
    (∀ n, AtIssue s .x (.mpop vd) st → c.engineHeld → mapGet? c.mx.popOf c.k = some n → (getSlot c.mx n).ready = true →
      (getSlot c.mx n).pops < 16 →
      exec (.mpop vd) s = st.next s fun m =>
        (let cell (l : Nat) : Word × Bool := (getSlot c.mx n).results.getD (64 * (getSlot c.mx n).pops + l) (0#32, false)
        c.sendV .engine 2 vd false (~~~0#64) (Lanes.ofLane fun l => (cell l).1) (maskOf fun l => (cell l).2)
          (updMatrix m cl fun mx => { mx with slots := mapUpd mx.slots n fun s => { s with pops := s.pops + 1 } }))) ∧
    (∀ a : Tile, AtIssue s .x (.mdep ta acc f) st → free → c.engineHeld → tileRange c (c.tileOf ta.toNat) = none →
      c.tile? (c.tileOf ta.toNat) = some a → a.state = .empty → a.fmt = 0 → a.rows = 32 → 4 ≤ a.rowb →
      (getSlot c.mx (c.slotOf acc.toNat)).begun = true → (getSlot c.mx (c.slotOf acc.toNat)).closed = true →
      exec (.mdep ta acc f) s = st.next s fun m =>
        (let m := c.arm f.toNat (c.countCommand (bump m))
        let d : Mdep := { id := m.tick, warp := c.k, team := c.w.team, tile := c.tileOf ta.toNat, slot := c.slotOf acc.toNat
                          flag := f.toNat }
        updMatrix (updTile m c.w.team d.tile fun t => { t with
          state := .filling, mover := nameWord ((getWarp? m c.k).elim 0 (·.seq)) c.plane c.cidx }) cl
          fun mx => { mx with mdeps := mx.mdeps ++ [d] })) ∧
    (let busy := (getF c.w f.toNat).pend
    let asked := c.request?.isSome && !c.holds
    let outside (n : Nat) : Bool := c.team?.elim true fun team => team.ntiles ≤ n
    let undefined (n : Nat) : Bool := (c.tile? n).isNone
    let pair (p : Tile → Tile → Bool) : Bool := (c.tile? (c.tileOf ta.toNat)).any fun a => (c.tile? tb.toNat).any fun b => p a b
    let chain := openChain c.m c.k
    let add := (k.toNat + 1) * (c.tile? (c.tileOf ta.toNat)).elim 8 fun t => unitElements t.fmt
    let slot := getSlot c.mx (c.slotOf acc.toNat)
    let pop := getSlot c.mx ((mapGet? c.mx.popOf c.k).getD 0)
    let dep (p : Tile → Bool) : Bool := (c.tile? (c.tileOf ta.toNat)).any p
    let stepChecks (g : Bool) : List (Bool × Nat) :=
      [(outside (c.tileOf ta.toNat) || outside tb.toNat, 0x20), (undefined (c.tileOf ta.toNat) || undefined tb.toNat, 0x21),
       (c.w.gang.isSome != g || chain.isNone, 0x24), (pair fun a b => mstepOperandBad a b (k.toNat + 1), 0x25), (pair mstepBankBad, 0x26),
       (chain.any fun x => 16777216 < x.kelems + add, 0x27)]
    let cheChecks (g : Bool) : List (Bool × Nat) := [(c.w.gang.isSome != g || !chain.any (·.slot = c.slotOf acc.toNat), 0x24)]
    let forms : List (Instr × Bool × List (Bool × Nat)) :=
      [(.chb acc anchor, false, [(chain.isSome, 0x24)]), (.mstep ta tb k, false, stepChecks false), (.mstepG ta tb k, false, stepChecks true),
       (.che acc f, true, cheChecks false), (.cheG acc f, true, cheChecks true),
       (.mpop vd, false, [((mapGet? c.mx.popOf c.k).isNone || !pop.ready || 16 ≤ pop.pops, 0x24)]),
       (.mdep ta acc f, true, [(outside (c.tileOf ta.toNat), 0x20), (!dep (·.state = .empty), 0x21), (!slot.begun || !slot.closed, 0x24),
         (dep fun t => t.fmt != 0 || t.rows != 32 || t.rowb < 4, 0x25)])]
    (∀ x ∈ forms, AtIssue s .x x.1 st →
      checksTrap s st x.1 2 ([(x.2.1 && busy, 0x15), (c.inHandler, 0x24)] ++ if asked then [] else (!c.holds, 0x24) :: x.2.2) ∧
      (asked = true → (x.2.1 && busy) = false → c.inHandler = false → exec x.1 s = st.waits s .reserve)) ∧
    (∀ e ∈ [(Instr.mstep, false), (.mstepG, true)], AtIssue s .x (e.1 ta tb k) st → c.engineHeld →
      (∀ x ∈ stepChecks e.2, x.1 = false) →
      (pair (fun a b => a.state = .ready && b.state = .ready) = false → exec (e.1 ta tb k) s = st.waits s .tile) ∧
      (pair (fun a b => a.state = .ready && b.state = .ready) = true → 4 ≤ listSum (c.mx.chains.map fun x => x.steps.length) →
        exec (e.1 ta tb k) s = st.waits s .stepq)) ∧
    (AtIssue s .x (.mres f) st →
      checksTrap s st (.mres f) 2 [(busy, 0x15), (c.inHandler || (c.lead && (c.holds || c.request?.isSome)), 0x24)] ∧
      (busy = false → c.inHandler = false → c.lead = true → c.holds = false → c.request? = none → 16 ≤ c.mx.mrt.length →
        exec (.mres f) s = st.waits s .reserve)) ∧
    (AtIssue s .x .mrel st →
      checksTrap s st .mrel 2 [(c.inHandler || (c.lead && ((!c.holds && c.request?.isNone) || chainOpen c)), 0x24)]))))

/-- R39, R42, R249: a GANG whose warp has come back from its rendezvous issues with no more effect, and one that arrives blocks after
it has entered its team's rendezvous and until the rendezvous; UNGANG leaves the gang, and the lead's gives the engine back. GANG in a gang,
a region, a split or a BRD, or beside the matrix engine, and UNGANG outside a gang trap with GANG_STATE, UNGANG with a chain open with
ME_STATE. -/
def Obligations.GangIssues : Prop :=
  ∀ (s : State) (st : Stage) (n : BitVec 2) (skew : BitVec 3), (let c := st.c
    (AtIssue s .x (.gang n skew) st → arrivedBefore c 8 = true → c.w.gang.isSome →
      exec (.gang n skew) s = st.next s id) ∧
    (AtIssue s .x (.gang n skew) st → arrivedBefore c 8 = false → c.w.gang = none → c.w.region = none → c.w.split = none →
      pathDepth c.q = 0 → c.holds = false → c.request? = none →
      exec (.gang n skew) s = st.waits s .barrier [] fun m =>
        noteArrival c 8 (updTeam m c.w.team fun t => { t with
          rdv := t.rdv ++ [{ warp := c.k, teamw := c.w.teamw, core := coreOf c.k, n := n.toNat + 2
                             skew := skew.toNat + 1 }] })) ∧
    (AtIssue s .x .ungang st → c.w.gang.isSome → (if c.lead then chainOpen c = false else openChain c.m c.k = none) →
      exec .ungang s = st.next s fun m =>
        updWarp (leaveGang (if c.lead && (c.holds || c.request?.isSome) then releaseAll c m else m) c.w) c.k
          fun w => { w with gang := none, gidx := 0 }) ∧
    (AtIssue s .x (.gang n skew) st → arrivedBefore c 8 = true → c.w.gang = none → exec (.gang n skew) s = st.waits s .barrier) ∧
    (AtIssue s .x (.gang n skew) st → checksTrap s st (.gang n skew) 2 [(!arrivedBefore c 8 && (c.w.gang.isSome || c.w.region.isSome ||
      c.w.split.isSome || pathDepth c.q != 0 || c.holds || c.request?.isSome), 0x28)]) ∧
    (AtIssue s .x .ungang st → checksTrap s st .ungang 2
      [(c.w.gang.isNone, 0x28), (if c.lead then chainOpen c else (openChain c.m c.k).isSome, 0x24)]))

/-- R43 to R45, R250 to R253: crossings between the files, and the binding and reading of queues. A poisoned lane, a scalar that may not be
used, a number beyond the team's queues, a port that is bound, and a closed queue for a producer trap. -/
def Obligations.CrossingsAndQueues : Prop :=
  ∀ (s : State) (st : Stage) (vd va : BitVec 7) (sa sd : BitVec 6) (lane : BitVec 6) (q : BitVec 3) (queue : BitVec 5),
    (let c := st.c
    (AtIssue s .x (.xsv vd sa none) st → c.usable [sa] none →
      exec (.xsv vd sa none) s =
        st.next s (c.sendV .engine 2 vd false (~~~0#64) (Lanes.splat ((c.sv sa).setWidth 32)) 0#64)) ∧
    (AtIssue s .x (.xsv vd sa (some lane)) st → c.usable [sa] none →
      exec (.xsv vd sa (some lane)) s =
        st.next s (c.sendV .engine 2 vd false (1#64 <<< lane.toNat) (Lanes.splat ((c.sv sa).setWidth 32)) 0#64)) ∧
    (AtIssue s .x (.xvs sd va lane) st → c.usable [] (some sd) → maskBit (getV c.w va.toNat).marks lane.toNat = false →
      exec (.xvs sd va lane) s =
        st.next s (c.sendS sd (((getV c.w va.toNat).lanes.at lane.toNat).setWidth 64) false 2)) ∧
    (∀ team, c.team? = some team → queue.toNat < team.nqueues →
      (AtIssue s .x (.qbind q queue .consumer) st → portNow c.w q.toNat = none →
        exec (.qbind q queue .consumer) s = st.next s (setPort c q.toNat (some { queue := queue.toNat, role := .consumer }))) ∧
      (AtIssue s .x (.qbind q queue .producer) st → portNow c.w q.toNat = none →
        (getQueue c.m c.w.team queue.toNat).closed = false →
        exec (.qbind q queue .producer) s = st.next s fun m =>
          setPort c q.toNat (some { queue := queue.toNat, role := .producer })
            (updQueue m c.w.team queue.toNat fun x => { x with producers := x.producers + 1 })) ∧
      (AtIssue s .x (.qstat sd queue) st → c.usable [] (some sd) →
        exec (.qstat sd queue) s = st.next s (c.sendS sd (BitVec.ofNat 64 (
          let x := getQueue c.m c.w.team queue.toNat
          x.entries.length + x.producers * 2 ^ 16 + bitNat x.closed * 2 ^ 63)) false 1))) ∧
    (AtIssue s .x (.qunbind q) st → portNow c.w q.toNat = none → exec (.qunbind q) s = st.next s id) ∧
    (∀ b, AtIssue s .x (.qunbind q) st → portNow c.w q.toNat = some b →
      exec (.qunbind q) s = st.next s fun m =>
        setPort c q.toNat none (if b.role = .producer then detachProducer m c.w.team b.queue else m)) ∧
    (∀ l, opStage s .x (.xsv vd sa l) = some st → scalarTraps s st (.xsv vd sa l) 2 [sa] none) ∧
    (AtIssue s .x (.xvs sd va lane) st → maskBit (getV c.w va.toNat).marks lane.toNat = true → exec (.xvs sd va lane) s =
      st.traps s 2 { code := 0x10, lane := lane.toNat, info := laneProducer c.w va.toNat lane.toNat }) ∧
    (let outside := c.team?.elim true fun team => team.nqueues ≤ queue.toNat
    (∀ role, AtIssue s .x (.qbind q queue role) st → checksTrap s st (.qbind q queue role) 2
      [(outside, 0x13), ((portNow c.w q.toNat).isSome, 0x14),
       (role = .producer && (getQueue c.m c.w.team queue.toNat).closed, 0x12)]) ∧
    (AtIssue s .x (.qstat sd queue) st → c.usable [] (some sd) → checksTrap s st (.qstat sd queue) 2 [(outside, 0x13)])))

/-- R254 to R257: a barrier arrival without WAIT arrives once, arms its flag, and sets it where the phase is over; with WAIT the bundle
blocks until the phase it arrived in is over. TPOST and EVSET join the memory order behind every earlier store; LIMM has no effect
of its own. A pending flag traps with FLAG_BUSY, a second arrival in a phase with BARR_STATE, a record that is not aligned to 64 bytes with
ADDR_ALIGN. -/
def Obligations.BarrierPostEvent : Prop :=
  ∀ (s : State) (st : Stage) (bar : BitVec 3) (f : BitVec 4) (sa : BitVec 6) (ev : BitVec 8) (imm : BitVec 22), (let c := st.c
    (let n := bar.toNat
    let free := (getF c.w f.toNat).pend = false
    let arrive (m : Mach) : Mach :=
      (let m := c.arm f.toNat (c.countCommand (barArrive c n f.toNat m))
      match getWarp? m c.k with
      | some w => if barListed m w n then m else setWarp m c.k (completeFlag w f.toNat)
      | none => m)
    (AtIssue s .x (.barr bar false f) st → free → (barListed c.m c.w n = true → arrivedBefore c n = true) →
      exec (.barr bar false f) s = st.next s arrive) ∧
    (AtIssue s .x (.barr bar true f) st → free → arrivedBefore c n = true → barListed c.m c.w n = false →
      exec (.barr bar true f) s = st.next s arrive) ∧
    (AtIssue s .x (.barr bar true f) st → free → (arrivedBefore c n = false ∧ barListed c.m c.w n = false) ∨
        (arrivedBefore c n = true ∧ barListed c.m c.w n = true) →
      exec (.barr bar true f) s = st.waits s .barrier [] (barArrive c n f.toNat)) ∧
    (∀ wait, AtIssue s .x (.barr bar wait f) st → checksTrap s st (.barr bar wait f) 2
      [((getF c.w f.toNat).pend, 0x15), (barListed c.m c.w n && !arrivedBefore c n, 0x2b)]) ∧
    (AtIssue s .x (.tpost sa f) st → c.usable [sa] none → checksTrap s st (.tpost sa f) 2 [((getF c.w f.toNat).pend, 0x15)] ∧
      ((getF c.w f.toNat).pend = false → (c.sv sa).toNat % 64 ≠ 0 →
        exec (.tpost sa f) s = st.traps s 2 { code := 0x19, addr := (c.sv sa).toNat })) ∧
    (AtIssue s .x (.tpost sa f) st → c.usable [sa] none → free → (c.sv sa).toNat % 64 = 0 →
      exec (.tpost sa f) s = st.next s fun m =>
        issueOp c (.tpost (c.sv sa).toNat) (some f) [] none (c.countCommand m)) ∧
    (AtIssue s .x (.evset ev) st → exec (.evset ev) s = st.next s (issueOp c (.evset ev.toNat) none [] none)) ∧
    (AtIssue s .x (.limm imm) st → exec (.limm imm) s = st.next s id)))

/-! ### The C slot -/

/-- Scalar operations on two registers: constructor, opcode, value (R262, R264). -/
def scalarPairs : List ((BitVec 6 → BitVec 6 → BitVec 6 → Instr) × BitVec 7 × (DWord → DWord → DWord)) :=
  [(.add, 0x01, fun a b => a + b), (.sub, 0x03, fun a b => a - b), (.mul, 0x04, fun a b => a * b),
   (.mulhi, 0x05, fun a b => BitVec.ofInt 64 (a.toInt * b.toInt / 2 ^ 64)),
   (.mulhu, 0x06, fun a b => BitVec.ofNat 64 (a.toNat * b.toNat / 2 ^ 64)), (.and, 0x10, fun a b => a &&& b),
   (.or, 0x12, fun a b => a ||| b), (.xor, 0x14, fun a b => a ^^^ b),
   (.shl, 0x18, fun a b => if b.toNat < 64 then a <<< b.toNat else 0#64),
   (.shr, 0x1a, fun a b => if b.toNat < 64 then a >>> b.toNat else 0#64), (.sra, 0x1c, fun a b => a.sshiftRight (min b.toNat 63)),
   (.div, 0x07, fun a b => if b = 0#64 then BitVec.ofInt 64 (-1) else BitVec.ofInt 64 (a.toInt.tdiv b.toInt)),
   (.divu, 0x08, fun a b => if b = 0#64 then BitVec.ofInt 64 (-1) else BitVec.ofNat 64 (a.toNat / b.toNat)),
   (.rem, 0x09, fun a b => if b = 0#64 then a else BitVec.ofInt 64 (a.toInt.tmod b.toInt)),
   (.remu, 0x0a, fun a b => if b = 0#64 then a else BitVec.ofNat 64 (a.toNat % b.toNat))]

/-- The signed or unsigned relation of a condition code on doublewords (R268). -/
def relates (cc : Cc) (a b : DWord) : Bool :=
  match cc with
  | .eq => a.toNat = b.toNat
  | .ne => a.toNat ≠ b.toNat
  | .lt => a.toInt < b.toInt
  | .le => a.toInt ≤ b.toInt
  | .ltu => a.toNat < b.toNat
  | .leu => a.toNat ≤ b.toNat

/-- The signed value of an immediate, widened by the bundle's LIMM (R153). -/
def wide {n : Nat} (c : Ctx) (i : BitVec n) : Int := (c.limm.elim i.toInt fun l => (l ++ i).toInt)

/-- The code of a condition (R152). -/
def relationCode : Cc → BitVec 3
  | .eq => 0 | .ne => 1 | .lt => 2 | .le => 3 | .ltu => 4 | .leu => 5

/-- R262, R264 to R266, R268: the scalar operations on registers, with their opcodes, send their result to sd with latency 1; division by
0 gives all ones or the dividend, and no operand traps; s0 as sd discards; CC 6 and 7 are reserved. -/
def Obligations.ScalarResults : Prop :=
  ∀ (s : State) (st : Stage) (sd sa sb : BitVec 6) (cc : Cc), (let c := st.c
    (∀ e ∈ scalarPairs, encodeC (e.1 sd sa sb) = some (packCR e.2.1 sd sa sb 0#3) ∧
      (AtIssue s .c (e.1 sd sa sb) st → c.usable [sa, sb] (some sd) →
        exec (e.1 sd sa sb) s = st.next s (c.sendS sd (e.2.2 (c.sv sa) (c.sv sb)) false 1)) ∧
      (opStage s .c (e.1 sd sa sb) = some st → scalarTraps s st (e.1 sd sa sb) 3 [sa, sb] (some sd))) ∧
    encodeC (.cmp cc sd sa sb) = some (packCR 0x27 sd sa sb (relationCode cc)) ∧
    (AtIssue s .c (.cmp cc sd sa sb) st → c.usable [sa, sb] (some sd) →
      exec (.cmp cc sd sa sb) s =
        st.next s (c.sendS sd (if relates cc (c.sv sa) (c.sv sb) then 1#64 else 0#64) false 1)) ∧
    encodeC (.sel sd sa sb) = some (packCR 0x24 sd sa sb 0#3) ∧
    (AtIssue s .c (.sel sd sa sb) st → c.usable [sd, sa, sb] (some sd) →
      exec (.sel sd sa sb) s = st.next s (c.sendS sd (if c.sv sd = 0#64 then c.sv sb else c.sv sa) false 1)) ∧
    encodeC (.clz sd sa) = some (packCR 0x1e sd sa 0#6 0#3) ∧ encodeC (.ctz sd sa) = some (packCR 0x1f sd sa 0#6 0#3) ∧
    encodeC (.popc sd sa) = some (packCR 0x20 sd sa 0#6 0#3) ∧
    (AtIssue s .c (.clz sd sa) st → c.usable [sa] (some sd) →
      exec (.clz sd sa) s = st.next s (c.sendS sd
        (BitVec.ofNat 64 (if c.sv sa = 0#64 then 64 else 63 - (c.sv sa).toNat.log2)) false 1)) ∧
    (AtIssue s .c (.ctz sd sa) st → c.usable [sa] (some sd) →
      exec (.ctz sd sa) s = st.next s (c.sendS sd
        (BitVec.ofNat 64 (((List.range 64).find? fun i => (c.sv sa).getLsbD i).getD 64)) false 1)) ∧
    (AtIssue s .c (.popc sd sa) st → c.usable [sa] (some sd) →
      exec (.popc sd sa) s = st.next s (c.sendS sd
        (BitVec.ofNat 64 ((List.range 64).countP fun i => (c.sv sa).getLsbD i)) false 1)) ∧
    (∀ v mark l m, c.sendS 0#6 v mark l m = m) ∧
    (∀ x ∈ [6#3, 7#3], decodeC (packCR 0x27 sd sa sb x) = .error .fieldRsvd ∧ ∀ i, decodeC (packCK 0x28 sd sa x i) = .error .fieldRsvd))

/-- Operations with a nine-bit immediate: constructor, opcode, value (R263). -/
def scalarImmediates : List ((BitVec 6 → BitVec 6 → BitVec 9 → Instr) × BitVec 7 × (DWord → DWord → DWord)) :=
  [(.addi, 0x02, fun a b => a + b), (.andi, 0x11, fun a b => a &&& b), (.ori, 0x13, fun a b => a ||| b),
   (.xori, 0x15, fun a b => a ^^^ b)]

/-- Shifts by an immediate: constructor, opcode, value (R263). -/
def scalarShifts : List ((BitVec 6 → BitVec 6 → BitVec 6 → Instr) × BitVec 7 × (DWord → Nat → DWord)) :=
  [(.shli, 0x19, fun a n => a <<< n), (.shri, 0x1b, fun a n => a >>> n), (.srai, 0x1d, fun a n => a.sshiftRight n)]

/-- R153, R263, R267, R268: the scalar operations on an immediate, with their opcodes; a LIMM in the bundle widens the immediate, but no
LIMM may stand beside a shift, whose upper immediate bits are 0. -/
def Obligations.ImmediateResults : Prop :=
  ∀ (s : State) (st : Stage) (sd sa : BitVec 6) (cc : Cc) (i9 : BitVec 9) (i6 : BitVec 6) (i15 : BitVec 15), (let c := st.c
    (∀ e ∈ scalarImmediates, encodeC (e.1 sd sa i9) = some (packCI e.2.1 sd sa i9) ∧
      (AtIssue s .c (e.1 sd sa i9) st → c.usable [sa] (some sd) →
        exec (e.1 sd sa i9) s = st.next s (c.sendS sd (e.2.2 (c.sv sa) (BitVec.ofInt 64 (wide c i9))) false 1)) ∧
      (opStage s .c (e.1 sd sa i9) = some st → scalarTraps s st (e.1 sd sa i9) 3 [sa] (some sd))) ∧
    (∀ e ∈ scalarShifts, encodeC (e.1 sd sa i6) = some (packCI e.2.1 sd sa (0#3 ++ i6)) ∧
      (∀ h : BitVec 3, h ≠ 0#3 → decodeC (packCI e.2.1 sd sa (h ++ i6)) = .error .fieldRsvd) ∧
      (∀ l, limmFaults (.limm l) (e.1 sd sa i6) = [(.limmUse, some .x)]) ∧
      (AtIssue s .c (e.1 sd sa i6) st → c.usable [sa] (some sd) →
        exec (e.1 sd sa i6) s = st.next s (c.sendS sd (e.2.2 (c.sv sa) i6.toNat) false 1))) ∧
    encodeC (.cmpi cc sd sa i6) = some (packCK 0x28 sd sa (relationCode cc) i6) ∧
    (AtIssue s .c (.cmpi cc sd sa i6) st → c.usable [sa] (some sd) →
      exec (.cmpi cc sd sa i6) s = st.next s
        (c.sendS sd (if relates cc (c.sv sa) (BitVec.ofInt 64 (wide c i6)) then 1#64 else 0#64) false 1)) ∧
    encodeC (.movi sd i15) = some (packCL 0x25 sd i15) ∧ encodeC (.movhi sd i15) = some (packCL 0x26 sd i15) ∧
    (AtIssue s .c (.movi sd i15) st → c.usable [] (some sd) →
      exec (.movi sd i15) s = st.next s (c.sendS sd (BitVec.ofInt 64 (wide c i15)) false 1)) ∧
    (AtIssue s .c (.movhi sd i15) st → c.usable [] (some sd) →
      exec (.movhi sd i15) s = st.next s (c.sendS sd
        (BitVec.ofNat 64 ((c.limm.elim i15.toNat fun l => (l ++ i15).toNat) * 2 ^ 27)) false 1)))

/-- The place `n` bundles, or region offsets, from the bundle at issue (R270, R271). -/
def placeFrom (c : Ctx) (n : Int) : Place :=
  if c.w.region.isSome then { addr := c.q.place.addr, off := ((c.q.place.off : Int) + n).toNat }
  else { addr := (((c.addr : Int) + n * 16) % 2 ^ 64).toNat, off := 0 }

/-- A displacement whose target lies inside the region, where one is in force (R271). -/
def inRegion (c : Ctx) (n : Int) : Prop :=
  ∀ r, c.w.region = some r → 0 ≤ (c.q.place.off : Int) + n ∧ (c.q.place.off : Int) + n < r.len

/-- What gang mode does with a control decision (R41): outside it, and in a handler, nothing; the lead notes it; a member that finds it as
the lead's goes on to the next one; none where a member's differs from the lead's. -/
def gangNote (c : Ctx) (taken : Bool) (target : Nat) : Option (Mach → Mach) :=
  match if c.w.trapped = .running then c.gang? else none with
  | none => some id
  | some (g, x) =>
    if c.w.gidx = 0 then some fun m => { m with gangs := mapUpd m.gangs g fun x => { x with decided := x.decided ++ [(taken, target)] } }
    else if x.decided[x.used.getD c.w.gidx 0]? = some (taken, target) then
      some fun m => { m with gangs := mapUpd m.gangs g fun y => { y with used := y.used.set c.w.gidx (x.used.getD c.w.gidx 0 + 1) } }
    else none

/-- A control decision is carried out with its note in the gang, or traps with GANG_DIVERGE (R41, R276). -/
def decides (s : State) (st : Stage) (i : Instr) (taken : Bool) (target : Nat) (fx : Mach → Mach) : Prop :=
  (∀ note, gangNote st.c taken target = some note → exec i s = st.next s fun m => fx (note m)) ∧
  (gangNote st.c taken target = none → exec i s = st.traps s 3 { code := 0x2a })

/-- R271 to R276: a conditional branch plans its target after two delay slots when its condition holds and otherwise nothing, and traps with
PLANE_CONTROL where its target lies outside the region; JMP and CALL always plan theirs, CALLR and RET the address of their register; CALL
and CALLR send the address three bundles on to s54. In gang mode the lead's decision is noted and a member's is compared with it (R41). A
BRF that finds its flag set observes the operation that set it (R100). PLANE_CONTROL of JMP, CALL, CALLR and RET in a region is a decode
check, made before the issue stage that these clauses start from (R158, R359). -/
def Obligations.BranchPlans : Prop :=
  ∀ (s : State) (st : Stage) (inv : Bool) (sa : BitVec 6) (f : BitVec 4) (d14 : BitVec 14) (d21 : BitVec 21),
    (let c := st.c
    let way (t : Bool) : Mach → Mach := plan c 2 (if t then .goto (placeFrom c (wide c d14)) else .fall)
    (AtIssue s .c (.br inv sa d14) st → c.usable [sa] none →
      (let t := decide (inv = true ↔ c.sv sa ≠ 0#64)
      (inRegion c (wide c d14) → decides s st (.br inv sa d14) t 0 (way t)) ∧
      (¬ inRegion c (wide c d14) → exec (.br inv sa d14) s = st.traps s 3 { code := 0x0d }))) ∧
    (AtIssue s .c (.brf inv f d14) st →
      (let set := (getF c.w f.toNat).set
      (inRegion c (wide c d14) → decides s st (.brf inv f d14) (set != inv) 0 fun m =>
        if set then updWarp (way (set != inv) m) c.k (observe c.w [f.toNat]) else way (set != inv) m) ∧
      (¬ inRegion c (wide c d14) → exec (.brf inv f d14) s = st.traps s 3 { code := 0x0d }))) ∧
    (AtIssue s .c (.jmp d21) st → c.w.region = none →
      exec (.jmp d21) s = st.next s (plan c 2 (.goto (placeFrom c (wide c d21))))) ∧
    (AtIssue s .c (.call d21) st → c.w.region = none →
      exec (.call d21) s = st.next s fun m =>
        c.sendS 54#6 (BitVec.ofNat 64 (c.addr + 48)) false 1 (plan c 2 (.goto (placeFrom c (wide c d21))) m)) ∧
    (AtIssue s .c (.callr sa) st → c.usable [sa] none → (c.sv sa).toNat % 16 = 0 →
      decides s st (.callr sa) true (c.sv sa).toNat fun m =>
        c.sendS 54#6 (BitVec.ofNat 64 (c.addr + 48)) false 1 (plan c 2 (.goto { addr := (c.sv sa).toNat, off := 0 }) m)) ∧
    (AtIssue s .c .ret st → c.usable [54#6] none → (c.sv 54#6).toNat % 16 = 0 →
      decides s st .ret true (c.sv 54#6).toNat (plan c 2 (.goto { addr := (c.sv 54#6).toNat, off := 0 }))))

/-- The lanes that a warp's BRD on a scalar takes, and those that fall through, as its registers stand (R37). -/
def takenBy (w : Warp) (path : Nat) (sc : BitVec 6) : DWord :=
  (getPath w path).xm &&& (getPath w path).mask &&& (getS w sc.toNat).value
def fallenBy (w : Warp) (path : Nat) (sc : BitVec 6) : DWord :=
  (getPath w path).xm &&& (getPath w path).mask &&& ~~~(getS w sc.toNat).value

/-- Which passes of a BRD run (R41): outside gang mode those with lanes of its own; for a lead those with lanes of some member, which it
notes with the target; for a member the lead's, where the target is the lead's and no lanes of its own are left out; none where they are
not. -/
def brdPasses (c : Ctx) (sc : BitVec 6) (taken fallen : DWord) (target : Nat) : Option (Bool × Bool × (Mach → Mach)) :=
  match if c.w.trapped = .running then c.gang? else none with
  | none => some (taken != 0#64, fallen != 0#64, id)
  | some (g, x) =>
    if c.w.gidx = 0 then
      let some_ (f : Warp → DWord) : Bool := x.members.any fun k => k != c.k && (x.comes? c.m k).any fun w => f w != 0#64
      let t := taken != 0#64 || some_ (takenBy · c.path sc)
      let f := fallen != 0#64 || some_ (fallenBy · c.path sc)
      some (t, f, fun m => { m with gangs := mapUpd m.gangs g fun x => { x with decided := x.decided ++ [(t, 2 * target + bitNat f)] } })
    else match x.decided[x.used.getD c.w.gidx 0]? with
      | none => none
      | some (t, n) =>
        if n / 2 = target ∧ (taken ≠ 0#64 → t = true) ∧ (fallen ≠ 0#64 → n % 2 = 1) then
          some (t, n % 2 = 1, fun m => { m with gangs := mapUpd m.gangs g fun y =>
            { y with used := y.used.set c.w.gidx (x.used.getD c.w.gidx 0 + 1) } })
        else none

/-- R34, R37, R41, R277, R470: BRD runs its one pass that is not empty as a branch would, and divides the path where both are not,
serialised where a split is open, in a gang, or where the streams would exceed four; an entry that the push spills must find room and a page
that may be written. A target outside the region traps with PLANE_CONTROL, a member that differs from its lead with GANG_DIVERGE, a stack
without room with STACK_LIMIT. That STACK_LIMIT also meets an entry that ends exactly at s55 (log 15), and that a lead's passes go by what
the members' registers give (log 19), are the model's choice. -/
def Obligations.DivergentBranch : Prop :=
  ∀ (s : State) (st : Stage) (sc : BitVec 6) (tdisp : BitVec 8) (jdisp : BitVec 7), AtIssue s .c (.brd sc tdisp jdisp) st →
    st.c.usable [sc] none → (let c := st.c
    (let taken := c.q.xm &&& c.q.mask &&& c.sv sc
    let fallen := c.q.xm &&& c.q.mask &&& ~~~(c.sv sc)
    let serial := c.w.split.isSome || c.w.gang.isSome || (c.w.region.isSome && 4 < 2 * (occupied c.w c.path).length)
    (branchPlace c (brdTarget c.limm tdisp) = none → exec (.brd sc tdisp jdisp) s = st.traps s 3 { code := 0x0d }) ∧
    ∀ target, branchPlace c (brdTarget c.limm tdisp) = some target →
      (brdPasses c sc taken fallen (bundleAddr c.w target 0) = none → exec (.brd sc tdisp jdisp) s = st.traps s 3 { code := 0x2a }) ∧
      ∀ t f note, brdPasses c sc taken fallen (bundleAddr c.w target 0) = some (t, f, note) →
        ((t && f) = false → exec (.brd sc tdisp jdisp) s = st.next s fun m => plan c 2 (if t then .goto target else .fall) (note m)) ∧
        ((t && f) = true → (serial = true → pushFault c = none ∧ (pushXlate c).fault? = none ∧ (pushXlate c).missed = []) →
          exec (.brd sc tdisp jdisp) s = st.next s fun m =>
            plan c 2 (.divide taken fallen target (placePlus c target (brdJoin c.limm jdisp)) serial) (note m)) ∧
        ((t && f) = true → serial = true → (65535 ≤ pathDepth c.q ∨ (8 ≤ c.q.stack.length ∧ (getS c.w 55).value.toNat ≤ pushTop c + 32)) →
          exec (.brd sc tdisp jdisp) s = st.traps s 3 { code := 0x1b })))

/-- R28, R278 to R283: JOIN whose join is satisfied, BPREP and BGO in supervisor mode, PENTER outside a split, PEXIT in a region with
nothing open; a JOIN at its own join waits there for the other path (R279). The length, plane code and alignment of a PENTER and the region
faults of BPREP, BGO and PENTER are decode checks, made before the issue stage that these clauses start from (R158, R359). Where the
conditions do not hold, JOIN traps with JOIN_ADDR, BGO on an empty entry with TB_EMPTY, PENTER and PEXIT with PLANE_CONTROL. -/
def Obligations.RegionsAndTargets : Prop :=
  ∀ (s : State) (st : Stage) (tb pl : BitVec 2) (inv : Bool) (sa : BitVec 6) (d19 : BitVec 19) (len : BitVec 16), (let c := st.c
    (AtIssue s .c .join st → (c.q.joined = true ∨ joinOf c.w c.path = none) → exec .join s = st.next s id) ∧
    (AtIssue s .c .join st → c.q.joined = false → joinOf c.w c.path = some (joinCoord c.w c.q.place) →
      exec .join s = st.waits s .join) ∧
    (∀ a, AtIssue s .c .join st → c.q.joined = false → joinOf c.w c.path = some a → a ≠ joinCoord c.w c.q.place →
      exec .join s = st.traps s 3 { code := 0x30 }) ∧
    (AtIssue s .c (.bprep tb d19) st → c.w.sup = true →
      exec (.bprep tb d19) s = st.next s
        (later (.target tb.toNat (((c.addr : Int) + wide c d19 * 16) % 2 ^ 64).toNat) c)) ∧
    (∀ a, AtIssue s .c (.bgo tb inv sa) st → c.w.sup = true → c.usable [sa] none → mapGet? c.w.target tb.toNat = some a →
      (let t := decide (inv = true ↔ c.sv sa = 0#64)
      decides s st (.bgo tb inv sa) t 0 (plan c 0 (if t then .goto { addr := a, off := 0 } else .fall)))) ∧
    (AtIssue s .c (.bgo tb inv sa) st → c.w.sup = true → c.usable [sa] none → mapGet? c.w.target tb.toNat = none →
      exec (.bgo tb inv sa) s = st.traps s 3 { code := 0x2f }) ∧
    (AtIssue s .c (.penter pl len) st → c.w.split = none →
      exec (.penter pl len) s = st.next s
        (plan c 0 (.enter { base := (c.addr + 16) % 2 ^ 64, p := 2 ^ pl.toNat, len := len.toNat }))) ∧
    (AtIssue s .c (.penter pl len) st → c.w.split.isSome → exec (.penter pl len) s = st.traps s 3 { code := 0x0d }) ∧
    (AtIssue s .c .pexit st → c.w.region.isSome → openInside c.w c.path = false →
      exec .pexit s = st.next s (plan c 0 .leave)) ∧
    (AtIssue s .c .pexit st → c.w.region = none ∨ openInside c.w c.path = true → exec .pexit s = st.traps s 3 { code := 0x0d }))

/-- R66, R284, R285: FWAIT issues when every flag it names is set, observing the operations that set them (R100), waits while one is
pending, and traps with FLAG_UNOWNED where one is clear and not pending; FCLR clears its flags, and traps with FLAG_BUSY where one is
pending. -/
def Obligations.FlagWaits : Prop :=
  ∀ (s : State) (st : Stage) (mask : BitVec 16), (let c := st.c
    (let named (f : Nat) : Prop := f < 16 ∧ mask.getLsbD f = true
    (AtIssue s .c (.fwait mask) st → (∀ f, named f → (getF c.w f).set = true) →
      exec (.fwait mask) s = st.next s fun m => updWarp m c.k (observe c.w ((List.range 16).filter fun f => mask.getLsbD f))) ∧
    (opStage s .c (.fwait mask) = some st → (∀ f, named f → (getF c.w f).set = true ∨ (getF c.w f).pend = true) →
      (∃ f, named f ∧ (getF c.w f).set = false) → exec (.fwait mask) s = st.waits s .flag) ∧
    (opStage s .c (.fwait mask) = some st → (∃ f, named f ∧ (getF c.w f).set = false ∧ (getF c.w f).pend = false) →
      exec (.fwait mask) s = st.traps s 3 { code := 0x16 }) ∧
    (AtIssue s .c (.fclr mask) st → (∀ f, named f → (getF c.w f).pend = false) →
      exec (.fclr mask) s = st.next s fun m => updWarp m c.k fun w =>
        ((List.range 16).filter fun f => mask.getLsbD f).foldl (fun w f => putF w f { getF w f with set := false }) w) ∧
    (opStage s .c (.fclr mask) = some st → (∃ f, named f ∧ (getF c.w f).pend = true) →
      exec (.fclr mask) s = st.traps s 3 { code := 0x15 })))

/-- The readable control registers but c.energy.lo and the producer records, with their values (R68 to R79). -/
def controlRegisters (c : Ctx) : List (BitVec 8 × Nat) :=
  (let core := getCore c.m (coreOf c.k)
  let cl := getCluster c.m (clusterOf c.k)
  [(0x00, c.q.xm.toNat), (0x01, c.w.pmlo.toNat), (0x02, c.w.pmhi.toNat), (0x03, pathWord c.w c.path), (0x04, c.q.mask.toNat),
   (0x05, c.addr % 2 ^ 57 / 16 * 16), (0x06, regionWord c.w c.path), (0x07, c.w.seq), (0x08, c.w.gidx), (0x09, c.w.teamw),
   (0x0a, c.w.stklim), (0x0b, c.w.vbeat), (0x0c, c.w.wtimer), (0x0d, c.d.gtc), (0x0e, (ctxOf c.m c.w).elim 0 (·.gdead)),
   (0x0f, cl.clp + minPass core * 2 ^ 4), (0x10, cl.pat.toNat + cl.ones * 2 ^ 16),
   (0x11, c.d.pcc.melt + bitNat c.d.pcc.rfz * 2 ^ 10), (0x12, ((getTeam? c.m c.w.team).bind (·.lease)).elim 0 fun l =>
      if l.start + 16 * l.grant ≤ c.d.gtc then 0 else l.left),
   (0x14, c.w.elatch.toNat), (0x15, c.w.exs), (0x16, modeWord c), (0x17, c.w.round), (0x30, core.slotmap.toNat)])

/-- R67, R71, R287, R289, R453: CRD sends the register's value to sd with latency 1; CRD of a producer record that is not pending observes
the operation that set the flag; CRD of c.energy.lo also latches the high half and the saturation bit of the account for c.energy.hi. -/
def Obligations.ControlRegisterReads : Prop :=
  ∀ (s : State) (st : Stage) (sd : BitVec 6), st.c.usable [] (some sd) → (let c := st.c
    (∀ e ∈ controlRegisters c, AtIssue s .c (.crd sd e.1) st →
      exec (.crd sd e.1) s = st.next s (c.sendS sd (BitVec.ofNat 64 e.2) false 1)) ∧
    (∀ f, f < 16 → AtIssue s .c (.crd sd (BitVec.ofNat 8 (0x20 + f))) st →
      exec (.crd sd (BitVec.ofNat 8 (0x20 + f))) s = st.next s fun m =>
        (let r := getF c.w f
        let m := c.sendS sd (BitVec.ofNat 64 (r.cidx + r.plane * 2 ^ 29 + bitNat r.pend * 2 ^ 31 + r.seq * 2 ^ 32)) false 1 m
        if r.pend then m else updWarp m c.k (observe c.w [f]))) ∧
    (AtIssue s .c (.crdEnergyLo sd) st →
      exec (.crdEnergyLo sd) s = st.next s fun m =>
        updWarp (c.sendS sd (BitVec.ofNat 64 ((ctxOf c.m c.w).elim 0 fun x => x.energy % 2 ^ 32)) false 1 m) c.k
          fun w => { w with elatch := (ctxOf c.m c.w).elim 0 energyLatch }))

/-- R71 to R75, R261, R286, R288: SETX and CWR write from the next beat: c.xm, c.wtimer, c.exs and c.round in every mode, c.stklim,
c.gdead, c.mode and c.slotmap in supervisor mode. A deadline that has passed is raised at once. -/
def Obligations.ControlRegisterWrites : Prop :=
  ∀ (s : State) (st : Stage) (sa : BitVec 6), st.c.usable [sa] none → (let c := st.c
    (let v := c.sv sa
    (AtIssue s .c (.setx sa) st → exec (.setx sa) s = st.next s (later (.xm c.path v) c)) ∧
    (AtIssue s .c (.cwr 0x00#8 sa) st → exec (.cwr 0x00#8 sa) s = st.next s (later (.xm c.path v) c)) ∧
    (AtIssue s .c (.cwrWtimer sa) st → exec (.cwrWtimer sa) s = st.next s (later (.wtimer v.toNat) c)) ∧
    (AtIssue s .c (.cwr 0x15#8 sa) st → v.toNat < 2 ^ 7 →
      exec (.cwr 0x15#8 sa) s = st.next s fun m =>
        later (.exs v.toNat) c (updNode m c.w.node fun x => { x with exs := x.exs ||| v.toNat })) ∧
    (AtIssue s .c (.cwr 0x17#8 sa) st → v.toNat < 4 → exec (.cwr 0x17#8 sa) s = st.next s (later (.round v.toNat) c)) ∧
    (AtIssue s .c (.cwr 0x0a#8 sa) st → c.w.sup = true → pushTop c ≤ c.w.stklim →
      exec (.cwr 0x0a#8 sa) s = st.next s (later (.stklim v.toNat) c)) ∧
    (AtIssue s .c (.cwrGdead sa) st → c.w.sup = true → (v = 0#64 ∨ c.d.gtc < v.toNat) →
      exec (.cwrGdead sa) s = st.next s (later (.gdead v.toNat) c)) ∧
    (AtIssue s .c (.cwrGdead sa) st → c.w.sup = true → v ≠ 0#64 → v.toNat ≤ c.d.gtc →
      exec (.cwrGdead sa) s = st.next s (if (deadlineWarps c.m c.w.ctx).isEmpty then later (.gdead v.toNat) c
        else fun m => later (.gdead 0) c (raiseDeadline m c.w.ctx))) ∧
    (AtIssue s .c (.cwr 0x16#8 sa) st → c.w.sup = true → (v ^^^ BitVec.ofNat 64 (modeWord c)) &&& ~~~0x7f00#64 = 0#64 →
      exec (.cwr 0x16#8 sa) s = st.next s (later (.fpte (bits v 14 8)) c)) ∧
    (AtIssue s .c (.cwr 0x30#8 sa) st → c.w.sup = true → ((getCore c.m (coreOf c.k)).written = true ∨ v.toNat < 2 ^ 6) →
      exec (.cwr 0x30#8 sa) s = st.next s (later (.slotmap v.toNat) c))))

/-- R71, R261, R275, R288: a write of a read-only register traps with PRIV_OP in every mode; outside supervisor mode so do a write of a
supervisor register, BPREP and BGO, and so does ERET outside a handler; a reserved bit that is not 0, or a field of c.mode but FPTE that
would change, traps with CREG_RESERVED, and a write of c.stklim while entries stand spilled above it with STACK_LIMIT; CALLR or RET to an
address that is not a multiple of 16 traps with ADDR_ALIGN and that address. -/
def Obligations.FormsThatTrap : Prop :=
  ∀ (s : State) (st : Stage) (sa : BitVec 6), (let c := st.c
    (∀ n ∈ [0x01, 0x02, 0x03, 0x04, 0x05, 0x06, 0x07, 0x08, 0x09, 0x0b, 0x0d, 0x0f, 0x10, 0x11, 0x12, 0x13, 0x14, 0x20, 0x21,
        0x22, 0x23, 0x24, 0x25, 0x26, 0x27, 0x28, 0x29, 0x2a, 0x2b, 0x2c, 0x2d, 0x2e, 0x2f],
      opStage s .c (.cwr n sa) = some st → c.usable [sa] none → exec (.cwr n sa) s = st.traps s 3 { code := 0x2d }) ∧
    (∀ n ∈ [0x0a, 0x16, 0x30], opStage s .c (.cwr n sa) = some st → c.usable [sa] none → c.w.sup = false →
      exec (.cwr n sa) s = st.traps s 3 { code := 0x2d }) ∧
    (∀ e ∈ [(0x15#8, 7), (0x17, 2)], AtIssue s .c (.cwr e.1 sa) st → c.usable [sa] none → 2 ^ e.2 ≤ (c.sv sa).toNat →
      exec (.cwr e.1 sa) s = st.traps s 3 { code := 0x2e }) ∧
    (AtIssue s .c (.cwr 0x16#8 sa) st → c.usable [sa] none → c.w.sup = true →
      (c.sv sa ^^^ BitVec.ofNat 64 (modeWord c)) &&& ~~~0x7f00#64 ≠ 0#64 → exec (.cwr 0x16#8 sa) s = st.traps s 3 { code := 0x2e }) ∧
    (AtIssue s .c (.cwr 0x30#8 sa) st → c.usable [sa] none → c.w.sup = true → (getCore c.m (coreOf c.k)).written = false →
      2 ^ 6 ≤ (c.sv sa).toNat → exec (.cwr 0x30#8 sa) s = st.traps s 3 { code := 0x2e }) ∧
    (AtIssue s .c (.cwr 0x0a#8 sa) st → c.usable [sa] none → c.w.sup = true → c.w.stklim < pushTop c →
      exec (.cwr 0x0a#8 sa) s = st.traps s 3 { code := 0x1b }) ∧
    (opStage s .c (.cwrGdead sa) = some st → c.usable [sa] none → c.w.sup = false →
      exec (.cwrGdead sa) s = st.traps s 3 { code := 0x2d }) ∧
    (∀ tb d, opStage s .c (.bprep tb d) = some st → c.w.sup = false → exec (.bprep tb d) s = st.traps s 3 { code := 0x2d }) ∧
    (∀ tb inv, opStage s .c (.bgo tb inv sa) = some st → c.usable [sa] none → c.w.sup = false →
      exec (.bgo tb inv sa) s = st.traps s 3 { code := 0x2d }) ∧
    (opStage s .c .eret = some st → c.w.trapped = .running → exec .eret s = st.traps s 3 { code := 0x2d }) ∧
    (AtIssue s .c (.callr sa) st → c.usable [sa] none → (c.sv sa).toNat % 16 ≠ 0 →
      exec (.callr sa) s = st.traps s 3 { code := 0x19, addr := (c.sv sa).toNat }) ∧
    (AtIssue s .c .ret st → c.usable [54#6] none → (c.sv 54#6).toNat % 16 ≠ 0 →
      exec .ret s = st.traps s 3 { code := 0x19, addr := (c.sv 54#6).toNat }))

/-- R290 to R292, R357: TRAP issues with its bundle and then takes USER_TRAP with its immediate; ERET in a handler whose stores are
acknowledged returns from its frame once its bundle is over and the stores of that bundle are acknowledged too, waits for stores that are
not, and traps where the frame may not be read; that a store which no port carries is not waited for is the model's choice (log 82); BRK
stops a warp whose context asks for it, in a gang the lead alone, and does nothing after its stop and elsewhere, as NOP does always;
TRMARK writes its record where the context asks for it. -/
def Obligations.TrapAndDebugOps : Prop :=
  ∀ (s : State) (st : Stage) (imm : BitVec 16), (let c := st.c
    (AtIssue s .c (.trap imm) st → exec (.trap imm) s = st.next s id id (some { code := 0x34, imm := imm.toNat })) ∧
    (∀ frame h, AtIssue s .c .eret st → c.w.trapped = .handler frame → frameHit c.m c.k c.w .read = .ok h →
      awaited c.w = 0 → exec .eret s = st.next s id fun m => leaveAfter c.d m c.k) ∧
    (∀ frame h, AtIssue s .c .eret st → c.w.trapped = .handler frame → frameHit c.m c.k c.w .read = .ok h →
      awaited c.w ≠ 0 → exec .eret s = st.waits s .fence) ∧
    (∀ m k w, getWarp? m k = some w → leaveAfter c.d m k =
      if awaited w ≠ 0 then setWarp m k { w with ret := true }
      else match frameHit m k w .read with
        | .ok h => leaveTrap c.d m k h.key false
        | .error e => takeTrap m k { recordAt c.d m w 0 0 1 4 { code := e.code, addr := frameOf m w, info := xinfo .read e.level } with
            nested := true } [] false) ∧
    (∀ frame e, AtIssue s .c .eret st → c.w.trapped = .handler frame → frameHit c.m c.k c.w .read = .error e →
      e.code ≠ 0x33 → exec .eret s = st.traps s 3 { code := e.code, addr := frame, info := xinfo .read e.level }) ∧
    (AtIssue s .c (.brk imm) st → (ctxOf c.m c.w).elim false (dbgCtl · 4) = false ∨ c.q.skipbp = true ∨
      (c.w.gang.isSome ∧ c.w.gidx ≠ 0) → exec (.brk imm) s = st.next s id) ∧
    (∀ x, AtIssue s .c (.brk imm) st → ctxOf c.m c.w = some x → dbgCtl x 4 = true → c.q.skipbp = false →
      (c.w.gang = none ∨ c.w.gidx = 0) →
      exec (.brk imm) s = .next { s with
        mach := stopWarp s.dev s.mach c.k c.path c.plane { code := 1, value := imm.toNat } }) ∧
    (AtIssue s .c (.trmark imm) st → (ctxOf c.m c.w).elim false (dbgCtl · 6) = false → exec (.trmark imm) s = st.next s id) ∧
    (AtIssue s .c (.trmark imm) st → (ctxOf c.m c.w).elim false (dbgCtl · 6) = true →
      exec (.trmark imm) s = st.next s fun m => traceWrite m c.w.ctx
        (traceOf c.w 1 0 c.path (nameWord c.w.seq c.plane c.cidx) imm.toNat c.d.gtc)) ∧
    (AtIssue s .c .nop st → exec .nop s = st.next s id))

/-- R46, R47, R293 to R300: leases, the register file, timers, selection and the end of a warp. A wait in RGROW that has been granted gives
the chunk that was set aside, one that has been released answers 0 and is watched for 64 beats; RSHRINK traps with REG_BUSY while an
operation outstanding will write a register of the chunk. That a chunk is set aside for its waiter before it is selected (log 25), and what
END finishes and discards (logs 9, 10 and 18), are the model's choice. -/
def Obligations.WarpResources : Prop :=
  ∀ (s : State) (st : Stage) (nt : Bool) (sd sa : BitVec 6) (f : BitVec 4), (let c := st.c
    (AtIssue s .c (.sprint nt sd sa f) st → c.usable [sa] (some sd) → (getF c.w f.toNat).pend = false →
      exec (.sprint nt sd sa f) s = st.next s fun m =>
        (let r := reserve c sd m
        let q : SprintReq := { warp := c.k, team := c.w.team, want := min (c.sv sa).toNat (2 ^ 32 - 1), reg := sd.toNat
                               flag := f.toNat, nt := nt, ticket := r.2 }
        let m := c.arm f.toNat r.1
        { m with sprints := m.sprints ++ [q] })) ∧
    (AtIssue s .c .sprel st → exec .sprel s = st.next s fun m => updTeam m c.w.team fun t => { t with lease := none }) ∧
    (AtIssue s .c (.rgrow sd) st → c.usable [] (some sd) → 3 ≤ chunksNow c.w →
      exec (.rgrow sd) s = st.next s (c.sendS sd 0#64 false 1)) ∧
    (AtIssue s .c (.rgrow sd) st → c.usable [] (some sd) → chunksNow c.w < 3 → c.w.grow = none →
      growAhead c < (getCore c.m (coreOf c.k)).spare →
      exec (.rgrow sd) s = st.next s fun m => later (.chunk true) c
        (updCore (c.sendS sd 1#64 false 1 m) (coreOf c.k) fun x => { x with spare := x.spare - 1 })) ∧
    (AtIssue s .c (.rgrow sd) st → c.usable [] (some sd) → chunksNow c.w < 3 → c.w.grow = none →
      (getCore c.m (coreOf c.k)).spare ≤ growAhead c → exec (.rgrow sd) s = st.waits s .grow) ∧
    (AtIssue s .c (.rgrow sd) st → c.usable [] (some sd) → chunksNow c.w < 3 → c.w.grow = some true →
      exec (.rgrow sd) s = st.next s fun m => later (.chunk true) c
        (updWarp (c.sendS sd 1#64 false 1 m) c.k fun w => { w with grow := none })) ∧
    (AtIssue s .c (.rgrow sd) st → c.usable [] (some sd) → chunksNow c.w < 3 → c.w.grow = some false →
      exec (.rgrow sd) s = st.next s fun m =>
        c.sendS sd 0#64 false 1 (updWarp m c.k fun w => { w with grow := none, watch64 := some 65 })) ∧
    (AtIssue s .c .rshrink st → 0 < chunksNow c.w → (∃ o ∈ c.w.ops, ∃ r, pendingReg o = some r ∧ r / 16 = 3 + chunksNow c.w) →
      exec .rshrink s = st.traps s 3 { code := 0x31 }) ∧
    (AtIssue s .c .rshrink st → chunksNow c.w = 0 → exec .rshrink s = st.next s id) ∧
    (AtIssue s .c .rshrink st → 0 < chunksNow c.w → (∀ o ∈ c.w.ops, ∀ r, pendingReg o = some r → r / 16 ≠ 3 + chunksNow c.w) →
      exec .rshrink s = st.next s (later (.chunk false) c)) ∧
    (AtIssue s .c (.timer sa) st → c.usable [sa] none →
      exec (.timer sa) s = st.next s (later (.timer (if c.sv sa = 0#64 then 0 else (c.w.vbeat + (c.sv sa).toNat) % 2 ^ 64)) c)) ∧
    (AtIssue s .c .yield st → exec .yield s = st.next s (later .leave c)) ∧
    (∀ m k w, getWarp? m k = some w → openChain m k = none → w.gang = none →
      applyLate m k .leave = deselect (updWarp (bump m) k fun w => { w with ready := m.tick }) k) ∧
    (∀ m k w, getWarp? m k = some w → (openChain m k).isSome ∨ w.gang.isSome → applyLate m k .leave = m) ∧
    (∀ m k w v, getWarp? m k = some w → applyLate m k (.timer v) = setWarp m k { w with wtimer := v }) ∧
    (AtIssue s .c .endWarp st → exec .endWarp s = st.next s id fun m => endFlush c.d m c.k))

/-! ### Events of scheduling -/

/-- R15 to R17, R46: a core keeps a selected warp that can issue or that holds an open pass, and else selects the ready warp whose
block began first; a blocked warp whose bundle no longer blocks becomes ready, ranked by when its block began. That BLOCK_END takes a chunk
for the waiter (log 25), and that a block whose cause changes keeps its start (log 23), are the model's choice. -/
def Obligations.SelectionAndBlocks : Prop :=
  ∀ (s : State),
    (∀ core k, (getCore s.mach core).selected = some k → keepsSelection s.mach k = true → exec (.warpSelect core) s = .next s) ∧
    (∀ core, ((getCore s.mach core).selected = none ∨
        ∃ k, (getCore s.mach core).selected = some k ∧ keepsSelection s.mach k = false) →
      exec (.warpSelect core) s = machNext s (updCore s.mach core fun c => { c with selected := oldestReady s.mach core })) ∧
    (∀ core k, oldestReady s.mach core = some k → ∃ w, (k, w) ∈ s.mach.warps ∧ coreOf k = core ∧ canIssue s.mach w = true ∧
      ∀ j v, (j, v) ∈ s.mach.warps → coreOf j = core → canIssue s.mach v = true → w.ready ≤ v.ready) ∧
    (∀ k w b, getWarp? s.mach k = some w → w.block = some b → stepsItself w = true → b.cause ≠ .grow →
      blockAgain s.dev s.mach k = none →
      exec (.blockEnd k) s = machNext s (setWarp s.mach k { w with block := none, ready := b.since })) ∧
    (∀ k w b, getWarp? s.mach k = some w → w.block = some b → stepsItself w = true → b.cause = .grow → w.grow = none →
      blockAgain s.dev s.mach k = none →
      exec (.blockEnd k) s = machNext s (unblock (updCore (setWarp s.mach k { w with grow := some true }) (coreOf k) fun c =>
        { c with spare := c.spare - 1 }) k)) ∧
    (∀ k w t, getWarp? s.mach k = some w → w.block.isSome → stepsItself w = true → blockAgain s.dev s.mach k = some t →
      exec (.blockEnd k) s = machNext s t) ∧
    (∀ k, (∀ w, getWarp? s.mach k = some w → w.block = none) → exec (.blockEnd k) s = .next s)

/-- Arrivals of which no two clash. -/
def agreeing (as : List GangArrival) : Prop := as.Pairwise fun a b => clash b a = false

/-- R39, R107, R254: a rendezvous whose first arrivals agree and are as many as they name forms its gang of them; where one clashes with
those that came before it, that one and they fail; later arrivals stay for the next. A barrier phase in which every warp of the team has
arrived or ended, and what the arrivers did before is performed, releases its arrivers and begins the next phase. Nothing happens before
that. -/
def Obligations.RendezvousAndPhases : Prop :=
  ∀ (s : State) (team : Nat) (t : Team), getTeam? s.mach team = some t →
    ((∀ a ∈ t.rdv, ∃ w, getWarp? s.mach a.warp = some w ∧ w.trapped = .running) →
      (∀ group rest a, t.rdv = group ++ rest → agreeing group → group.head? = some a → a.n = group.length →
        exec (.gangRendezvous team) s =
          machNext s (formGang (updTeam s.mach team fun t => { t with rdv := rest }) team group)) ∧
      (∀ group x rest a, t.rdv = group ++ x :: rest → agreeing group → group.head? = some a → group.length < a.n →
        (∃ b ∈ group, clash x b = true) →
        exec (.gangRendezvous team) s =
          machNext s (gangMismatch s.dev (updTeam s.mach team fun t => { t with rdv := rest }) (group ++ [x]))) ∧
      (∀ a, t.rdv.head? = some a → agreeing t.rdv → t.rdv.length < a.n → exec (.gangRendezvous team) s = .next s)) ∧
    (∀ bar, (phaseFull t (getBar t bar) = true → (∀ a ∈ (getBar t bar).arrived, arrivalReleased s.mach team a = true) →
        exec (.barrierPhaseComplete team bar) s = machNext s
          (updTeam ((getBar t bar).arrived.foldl (fun m a => releaseArriver m team bar a) s.mach) team fun t =>
            { t with bars := mapPut t.bars bar { phase := (getBar t bar).phase + 1, arrived := [] } })) ∧
      (phaseFull t (getBar t bar) = false → exec (.barrierPhaseComplete team bar) s = .next s))

/-- R47, R71, R294, R298, R367, R368: the release of the youngest RGROW, the deadlock that follows within 64 beats, warp timers,
deadlines, leases and the watchdog, each raised when its time has come. -/
def Obligations.GrowAndTimers : Prop :=
  ∀ (s : State),
    (∀ core k, growStuck s.mach core = true → (∀ w, w ∈ coreWarps s.mach core → w.2.watch64 = none ∧ w.2.grow ≠ some false) →
      youngestWaiter s.mach core = some k →
      exec (.growRelease core) s = machNext s (unblock (updWarp s.mach k fun w => { w with grow := some false }) k)) ∧
    (∀ core k w, growStuck s.mach core = true → ((coreWarps s.mach core).find? fun x => x.2.watch64.isSome) = some (k, w) →
      exec (.growDeadlock core) s = machNext s (updWarp s.mach k fun w => { raiseExt w 0x65 with watch64 := none })) ∧
    (∀ k w, getWarp? s.mach k = some w → w.wtimer ≠ 0 → w.wtimer = w.vbeat →
      exec (.warpTimer k) s = machNext s (setWarp s.mach k { raiseExt w 0x61 with wtimer := 0 })) ∧
    (∀ ctx c, getCtx? s.mach ctx = some c → c.gdead ≠ 0 → c.gdead ≤ s.dev.gtc →
      exec (.deadline ctx) s = machNext s (raiseDeadline s.mach ctx)) ∧
    (∀ ctx c, getCtx? s.mach ctx = some c → (c.gdead = 0 ∨ s.dev.gtc < c.gdead) → exec (.deadline ctx) s = .next s) ∧
    (∀ team t l, getTeam? s.mach team = some t → t.lease = some l → (l.left = 0 ∨ l.start + 16 * l.grant ≤ s.dev.gtc) →
      exec (.leaseExpired team) s = machNext s (updWarp (updTeam s.mach team fun t => { t with lease := none }) l.holder fun w =>
        if l.nt then w else raiseExt w 0x63)) ∧
    (∀ k w c, getWarp? s.mach k = some w → ctxOf s.mach w = some c → inSave s.mach w = false → c.wdlim * 1000 ≤ w.hang →
      (∀ frame h r, w.trapped ≠ .pumal frame h r) →
      exec (.watchdog k) s = machNext s (setWarp s.mach k { raiseExt w 0x64 with hang := 0 }))

/-- R158, R348, R358, R360: at a warp's boundary a trap, an external event or an asynchronous fault that is due is delivered by its
event; an unassigned opcode at the issue stage traps with OPC_UNDEF, class 0, and its slot. -/
def Obligations.BoundaryDeliveries : Prop :=
  ∀ (s : State) (k : Nat) (w : Warp), (let b := atBoundary s.dev.gtc s.mach k
    (let due := dueStreams b w
    (getWarp? b k = some w → stepsItself w = true → entryWaits w = false → standsAtBoundary b w = true → stopDue b k w due = none →
      (∀ sort t, boundaryTrap actionOf s.dev b k w due = some (sort, t) → sort ≠ .async →
        exec (.trapDelivery k) s = machNext s t ∧ exec (.asyncFaultDelivery k) s = .next s) ∧
      (∀ t, boundaryTrap actionOf s.dev b k w due = some (.async, t) →
        exec (.asyncFaultDelivery k) s = machNext s t ∧ exec (.trapDelivery k) s = .next s) ∧
      (boundaryTrap actionOf s.dev b k w due = none →
        exec (.trapDelivery k) s = .next s ∧ exec (.asyncFaultDelivery k) s = .next s)))) ∧
  ∀ (s : State) (cur : Cur) (w : Warp) (slot : Slot) (op : BitVec 8), s.cur = some cur → getWarp? s.mach cur.warp = some w →
    exec (.unassignedOpcode slot op) s = machNext s (faultStream s.mach cur.warp (foundAt s.dev s.mach w cur.path cur.plane 0
      (match slot with | .v => 0 | .m => 1 | .x => 2 | .c => 3) { code := 0x01 } 0) [])

/-- Bit `i` of a cluster's clock pattern with `k` ones: the canonical pattern's bit `j` is 1 when `floor((j + 1) k / 16)` exceeds
`floor(j k / 16)`, and the pattern is rotated left by the sum of the cluster's grid coordinates (R432). -/
def clockPattern (k cl : Nat) (i : Nat) : Bool :=
  (let j := (i + 32 - (cl % 256 % 16 + cl % 256 / 16) % 16) % 16
  decide (j * k / 16 < (j + 1) * k / 16))

/-- R432: at a multiple of 16 of the master clock the pattern of every cluster with a resident warp becomes the one that the PCC chooses: 16
ones under a lease, SUST ones else; at any other count nothing changes. -/
def Obligations.FrameBoundaryPatterns : Prop :=
  ∀ s : State, mapWf s.mach.clusters = true →
    (s.mach.clock % 16 ≠ 0 → exec .frameBoundary s = .next s) ∧
    (s.mach.clock % 16 = 0 → ∃ m, exec .frameBoundary s = machNext s m ∧ m.mem = s.mach.mem ∧ m.warps = s.mach.warps ∧
      ∀ k ∈ mapKeys s.mach.warps, (let cl := clusterOf k
        (let n := if s.mach.teams.any (fun (_, t) => t.cluster = cl && t.lease.isSome) then 16 else s.dev.pcc.sust
        (getCluster m cl).ones = n ∧ (n ≤ 16 → ∀ i < 16, (getCluster m cl).pat.getLsbD i = clockPattern n cl i))))

/-! ### Events of the memory order -/

/-- A warp's context is not debuggable, so that no watchpoint sees its accesses (R427). -/
def unwatched (m : Mach) (w : Warp) : Prop := ∀ c, ctxOf m w = some c → c.dbg = false

/-- R99, R100, R197: an operation that nothing before it keeps back is performed by the event of its kind; one that something keeps
back, or that is not outstanding, is not; REMOTE_FAIL then fails at most a copy of that number. -/
def Obligations.CompletionEvents : Prop :=
  ∀ (s : State) (k id : Nat) (early : Bool) (order : List Nat),
    (∀ o, readyOp? s.mach k id = some o →
      (o.kind.reads = true → o.kind.counted = false →
        exec (.loadComplete k id early) s = machNext s (performOp s.dev.gtc s.mach k o early [])) ∧
      (((∃ n rel, o.kind = .store n rel) ∨ o.kind = .spill ∨ ∃ ev, o.kind = .evset ev) → o.failed = false →
        remoteStuck s.mach o = false →
        exec (.storeAck k id) s = machNext s (performOp s.dev.gtc s.mach k o false [])) ∧
      (o.kind.reads = true → o.kind.counted = true →
        exec (.atomicComplete k id order) s = machNext s (performOp s.dev.gtc s.mach k o false order))) ∧
    (readyOp? s.mach k id = none → exec (.loadComplete k id early) s = .next s ∧ exec (.storeAck k id) s = .next s ∧
      exec (.atomicComplete k id order) s = .next s ∧
      (copyAt? s.mach (clusterOf k) id = none → exec (.remoteFail k id) s = .next s))

/-- R94, R197: the acknowledgement of a store writes its bytes and no other byte of memory, sets its flag, and leaves the warp's
registers and the device as they were. Under a foreign key slot the bytes that it reaches are those of the whole lines that hold them, which
are encrypted anew (R405). -/
def Obligations.StoreReachesMemory : Prop :=
  ∀ (s : State) (k id n : Nat) (rel : Option Scope) (o : MemOp) (w : Warp), Memory.wf s.mach.mem = true →
    readyOp? s.mach k id = some o → o.kind = .store n rel → o.failed = false → remoteStuck s.mach o = false →
    getWarp? s.mach k = some w → mapWf w.flags = true → unwatched s.mach w → (∀ a ∈ o.acc, stackHit w a.va = false ∧ a.data.length = n) →
    ∃ m w', exec (.storeAck k id) s = machNext s m ∧ getWarp? m k = some w' ∧
      (∀ x, (∀ a ∈ o.acc, writeReaches a.key n x = false) → memGet m.mem x = memGet s.mach.mem x) ∧
      (∀ a, o.acc = [a] → a.key < foreignBase → memRead m.mem a.key n = a.data) ∧
      (∀ f, o.flag = some f → (getF w' f).set = true ∧ (getF w' f).pend = false) ∧
      (∀ f, o.flag ≠ some f → getF w' f = getF w f) ∧ w'.v = w.v ∧ w'.s = w.s ∧ w'.exs = w.exs ∧ w'.p0 = w.p0 ∧
      Memory.wf m.mem = true

/-- R63, R113, R197, R205: the completion of a scalar load gives its register the zero-extended bytes at its address, 0 with a poison
mark where a word of them is poisoned; s0 discards. No other scalar, no vector register and no byte of memory changes. -/
def Obligations.ScalarLoadDelivers : Prop :=
  ∀ (s : State) (k id reg n : Nat) (acq : Option Scope) (o : MemOp) (a : Access) (w : Warp),
    readyOp? s.mach k id = some o → o.kind = .loadS reg n acq → o.acc = [a] → o.ticket = none → n ≤ 8 →
    getWarp? s.mach k = some w → mapWf w.s = true → mapWf w.flags = true → unwatched s.mach w → stackHit w a.va = false → remoteKey a.key = false →
    ∃ m w', exec (.loadComplete k id false) s = machNext s m ∧ getWarp? m k = some w' ∧ m.mem = s.mach.mem ∧
      (reg ≠ 0 → getS w' reg =
        (if (wordsOf a.key n).any (wordBad s.mach) then { value := 0#64, mark := true }
         else { value := ofLe 64 (memBytes s.mach a.key n), mark := false })) ∧
      (∀ r, r ≠ reg ∨ reg = 0 → getS w' r = getS w r) ∧ w'.v = w.v ∧
      (∀ f, o.flag = some f → (getF w' f).set = true ∧ (getF w' f).pend = false) ∧ (∀ f, o.flag ≠ some f → getF w' f = getF w f)

/-- R113, R211 to R213: opf is its table's; no atomic raises an arithmetic flag; a 64-bit atomic replaces its doubleword by the result of
its operation on the old value and sd's operand at one instant, and delivers the old value; a poisoned doubleword is not updated. -/
def Obligations.AtomicReplacesOnce : Prop :=
  (∀ w, w = 32 ∨ w = 64 → ∀ old v : BitVec w, atomFn .add w old v = BitVec.ofNat w (old.toNat + v.toNat) ∧
    atomFn .and w old v = old &&& v ∧ atomFn .or w old v = old ||| v ∧ atomFn .xor w old v = old ^^^ v ∧
    (atomFn .min w old v).toInt = min old.toInt v.toInt ∧ (atomFn .max w old v).toInt = max old.toInt v.toInt ∧
    (atomFn .minu w old v).toNat = min old.toNat v.toNat ∧ (atomFn .maxu w old v).toNat = max old.toNat v.toNat) ∧
  (∀ (s : State) (k id : Nat) (o : MemOp) (w : Warp) (order : List Nat), readyOp? s.mach k id = some o →
    ((∃ r op, o.kind = .atomV r op ∨ o.kind = .atomS r op) ∨ ∃ r, o.kind = .casV r ∨ o.kind = .casS r) →
    getWarp? s.mach k = some w → unwatched s.mach w →
    ∃ m w', exec (.atomicComplete k id order) s = machNext s m ∧ getWarp? m k = some w' ∧ w'.exs = w.exs) ∧
  ∀ (s : State) (k id reg : Nat) (op : AtomOp) (o : MemOp) (a : Access) (w : Warp) (order : List Nat),
    Memory.wf s.mach.mem = true → readyOp? s.mach k id = some o → o.kind = .atomS reg op → o.acc = [a] → o.ticket = none →
    getWarp? s.mach k = some w → mapWf w.s = true → unwatched s.mach w → remoteKey a.key = false →
    (let old : DWord := ofLe 64 (memBytes s.mach a.key 8)
    ∃ m w', exec (.atomicComplete k id order) s = machNext s m ∧ getWarp? m k = some w' ∧
      (∀ x, writeReaches a.key 8 x = false → memGet m.mem x = memGet s.mach.mem x) ∧
      ((wordsOf a.key 8).any (wordBad s.mach) = false →
        (a.key < foreignBase → ofLe 64 (memRead m.mem a.key 8) = atomFn op 64 old (ofLe 64 a.data)) ∧
        (reg ≠ 0 → getS w' reg = { value := old, mark := false })) ∧
      ((wordsOf a.key 8).any (wordBad s.mach) = true →
        m.mem = s.mach.mem ∧ (reg ≠ 0 → getS w' reg = { value := 0#64, mark := true })))

/-- R114, R390 to R392, R407, R464: a remote operation that no port can carry delivers poison or, a store, fails with a recorded
link error; a failed port leaves service; an access from outside is performed under a loaded key and else only recorded; register
errors and the patrol's reads mark and record. A copy that
another package refuses stops (R407). -/
def Obligations.LinkAndErrorEvents : Prop :=
  ∀ (s : State),
    (∀ k id o w, readyOp? s.mach k id = some o → getWarp? s.mach k = some w → (o.acc.any fun a => remoteKey a.key) = true →
      (o.kind.reads = true → exec (.remoteFail k id) s = machNext s
        { performOp s.dev.gtc { s.mach with ports := [] } k o false [] with ports := s.mach.ports }) ∧
      (o.kind.reads = false → o.failed = false → ∃ m, exec (.remoteFail k id) s = machNext s m ∧ m.mem = s.mach.mem ∧
        m.healthNo = s.mach.healthNo + 1 ∧ ∃ w', getWarp? m k = some w' ∧ w'.due = w.due ++ [opRecord w o 1
          { code := TrapName.remoteFail.code, addr := (o.acc.head?.map (·.va)).getD 0 }] ∧ w'.flags = w.flags ∧ w'.v = w.v ∧ w'.s = w.s)) ∧
    (∀ k id c, readyOp? s.mach k id = none → copyAt? s.mach (clusterOf k) id = some c →
      exec (.remoteFail k id) s = .next (failRemoteCopy s (clusterOf k) id c)) ∧
    (∀ port, s.mach.ports.contains port = true → ∃ m, exec (.ualinkPortFail port) s = machNext s m ∧
      m.ports = s.mach.ports.erase port ∧ m.healthNo = s.mach.healthNo + 1 ∧ m.mem = s.mach.mem ∧
      ∀ k w o, getWarp? s.mach k = some w → o ∈ w.ops → o.failed = false →
        (∃ a ∈ o.acc, remoteKey a.key = true ∧ portFor s.mach (lineOf a.key) = some port) → (mapGet? m.retry o.id).any (·.1 = port)) ∧
    (∀ k id o j v p, opOf? s.mach k id = some o → (j, v) ∈ s.mach.warps → p ∈ v.ops → p.failed = false → p.id < id →
      (∃ port ls, (p.id, port, ls) ∈ s.mach.retry ∧ ((mapGet? s.mach.retry id).any (·.1 = port) = true ∨ ∃ l ∈ remoteLines o, l ∈ ls)) →
      readyOp? s.mach k id = none) ∧
    (∀ port, s.mach.ports.contains port = false → exec (.ualinkPortFail port) s = .next s) ∧
    (∀ key q rest, s.inputs = .remote key q :: rest →
      (keyLoaded s.mach key = true → exec .incomingRemoteAccess s =
        .next { s with inputs := rest, mach := remoteAccess s.dev.gtc key s.mach q }) ∧
      (keyLoaded s.mach key = false → ∃ m, exec .incomingRemoteAccess s = .next { s with inputs := rest, mach := m } ∧
        m.mem = s.mach.mem ∧ m.ecc = s.mach.ecc ∧ m.healthNo = s.mach.healthNo + 1)) ∧
    (∀ t rest, s.inputs = .error t :: rest → (let x := accessorOf s.dev.gtc s.mach (errorCtx s.mach t) 0
      exec .registerUncorrectableError s = .next { s with inputs := rest, mach := logHealth (markError s.mach t) (eccRecord x 6 0 1) })) ∧
    (∀ l rest, s.inputs = .scrub l :: rest → ∃ m, exec .patrolScrub s = .next { s with inputs := rest, mach := m } ∧
      m.mem = s.mach.mem ∧ m.warps = s.mach.warps ∧
      (mapGet? s.mach.ecc (scrubKey l) = some .double → mapGet? m.ecc (wordOf (scrubKey l)) = some .poison))

/-- R103, R218 to R220: an episode in which every participant has issued its FLUSH is applied once, and closes; what each deferred
operation makes of its target's old value. -/
def Obligations.FlushEpisodes : Prop :=
  ∀ (s : State) (group : Nat),
    (episodeDue s.mach .team group [] = true → exec (.flushEpisodeApply .team group) s = machNext s (applyTeam s.dev.gtc s.mach group)) ∧
    (episodeDue s.mach .task group [] = true → exec (.flushEpisodeApply .task group) s = machNext s (applyTask s.dev.gtc s.mach group)) ∧
    (∀ e, (s.mach.episodes.find? fun e => devGroup e.ctx e.fgrp = group) = some e →
      episodeDue s.mach .dev group e.nodes = true →
      exec (.flushEpisodeApply .dev group) s = machNext s (applyDev s.dev.gtc s.mach e group)) ∧
    (∀ sc, sc ≠ .dev → episodeDue s.mach sc group [] = false → exec (.flushEpisodeApply sc group) s = .next s) ∧
    (∀ old v : DWord, (let a : Word := old.setWidth 32
      let b : Word := v.setWidth 32
      (daccNew .addI32 old v).1 = (a + b).setWidth 64 ∧ (daccNew .addI64 old v).1 = old + v ∧
      (daccNew .minI32 old v).1 = (if a.toInt ≤ b.toInt then a else b).setWidth 64 ∧
      (daccNew .maxI32 old v).1 = (if b.toInt ≤ a.toInt then a else b).setWidth 64 ∧
      (daccNew .minI64 old v).1.toInt = min old.toInt v.toInt ∧ (daccNew .maxI64 old v).1.toInt = max old.toInt v.toInt ∧
      (daccNew .addF32 old v).1 = (fadd32 a b).1.setWidth 64 ∧ (daccNew .addF32 old v).2 = (fadd32 a b).2 ∧
      (daccNew .minF32 old v).1 = (fminmax false a b).1.setWidth 64 ∧ (daccNew .maxF32 old v).1 = (fminmax true a b).1.setWidth 64))

/-! ### Events of the engines -/

/-- R228 to R237, R240 to R248, R360, R361: a copy that may run performs the units it is given, ends when none is left, stops at a fault
with its issuer's asynchronous fault pending, and a CPYAT is launched when its time has come. A free matrix engine goes to the request with
the most tokens, the oldest among equals; each running chain takes one read beat; chains whose steps are done close; a deposit of a slot
with results is written to its tile. That one event takes a read beat of every running chain (log 31), how its engine beats are counted (log
24), and where a copy that faulted takes up again (log 32) are the model's choice. -/
def Obligations.EngineEvents : Prop :=
  (∀ (s : State) (cl id : Nat) (c : Copy), copyAt? s.mach cl id = some c →
    (∀ words, mayRun s.dev.gtc s.mach c = true →
      exec (.copyStart cl id words) s = machNext s (advanceCopy s.dev.gtc s.mach cl id words c).1) ∧
    (∀ words, mayRun s.dev.gtc s.mach c = false → exec (.copyStart cl id words) s = .next s) ∧
    (∀ t, c.launch = some t → t ≤ s.dev.gtc → exec (.cpyatLaunch cl id) s = machNext s
      (putCopy s.mach cl id { c with launch := none, started := c.started || mayRun s.dev.gtc s.mach c })) ∧
    (∀ t, c.launch = some t → s.dev.gtc < t → exec (.cpyatLaunch cl id) s = .next s) ∧
    (∀ m c', mayRun s.dev.gtc s.mach c = true → advanceCopy s.dev.gtc s.mach cl id (unitBound c) c = (m, c', none, true) →
      exec (.copyComplete cl id) s = machNext s (finishCopy m cl id c')) ∧
    (∀ m c' e ps last k w, mayRun s.dev.gtc s.mach c = true → c.fault = none →
      advanceCopy s.dev.gtc s.mach cl id (unitBound c) c = (m, c', some (.fault e ps), last) → e.code ≠ TrapName.remoteFail.code →
      issuer? m c' = some (k, w) →
      exec (.copyFault cl id) s = machNext s
        (updWarp (putCopy m cl id { c' with fault := some (copyRecord s.dev m c' e) }) k fun w =>
          { w with due := w.due ++ [copyRecord s.dev m c' e] }))) ∧
  (∀ (s : State) (cl : Nat), (let mx := getMatrix s.mach cl
    ((mx.owners ≠ [] ∨ mx.mrt = []) → exec (.mrtGrant cl) s = .next s) ∧
    (mx.owners = [] → mx.mrt ≠ [] → ∃ r ∈ mx.mrt, (∀ q ∈ mx.mrt, q.tokens ≤ r.tokens ∧ (q.tokens = r.tokens → r.order ≤ q.order)) ∧
      exec (.mrtGrant cl) s = machNext s (grantMatrix s.mach cl r)) ∧
    exec (.matrixReadBeat cl) s = machNext s
      ((mx.chains.filter (chainRuns s.mach)).foldl (fun m c => takeBeat s.dev.gtc m cl c) s.mach) ∧
    (∀ c h, (mx.chains.find? fun c => chainDone c && !c.group) = some c → c.che = some h →
      exec (.chainClose cl) s = machNext s (closeChain s.mach cl c h)) ∧
    ((∀ c ∈ mx.chains, chainDone c = false) → mx.owners ≠ [] → exec (.chainClose cl) s = .next s) ∧
    (∀ id d, (mx.mdeps.find? fun x => x.id = id) = some d →
      ((getSlot mx d.slot).ready = true → exec (.mdepComplete cl id) s = machNext s (deposit s.mach cl d)) ∧
      ((getSlot mx d.slot).ready = false → exec (.mdepComplete cl id) s = .next s))))

/-! ### Events of tasks -/

/-- R363, R382 to R389, R404, R420: a post whose record passes its checks becomes a node and has its status doubleword written with the
handle and 1, a refused one with its status; a TPOST whose record cannot be translated has its fault pending (in place of NO_READ: log 37,
the model's choice); a ready node whose turn has
come and that fits is dispatched; a task with nothing left completes with its status, and a kill completes it with the kill's; a task that
is not over, and a node whose turn has not come, stay as they are. -/
def Obligations.TaskLifecycle : Prop :=
  ∀ (s : State), (let m := s.mach
    (∀ post p c m1 key m2 bs, (readyPosts m)[post]? = some p → (let m0 := postWalks s.dev.gtc m p
      postFaults m0 p = none → getCtx? m0 p.ctx = some c →
      ensurePage m0 p.ctx (p.va + 0x38) .write = some (m1, key) → recordBytes s.dev.gtc m1 p.ctx p.va = (m2, some bs) →
      (let n := nodeOfRecord bs p.ctx p.jseq
      let status (m : Mach) (st h : Nat) : Mach := writeBytes m key (leBytes 8 (BitVec.ofNat 64 (h * 2 ^ 32 + st)))
      let done (r : Dev × Mach) : Host.Outcome State Fault Refusal := .next { s with dev := r.1, mach := r.2 }
      (refuseNode m2 c bs n = none → exec (.nodeCreate post) s =
        (let r := insertNode m2 c n p.die
        done (closePost s.dev (status r.1 1 r.2) p 1 r.2))) ∧
      (∀ st, refuseNode m2 c bs n = some st → exec (.nodeCreate post) s = done (closePost s.dev (status m2 st 0) p st 0))))) ∧
    (∀ post p k o e, (readyPosts m)[post]? = some p → postFaults (postWalks s.dev.gtc m p) p = some (k, o, e) →
      exec (.nodeCreate post) s = machNext s (updWarp (postWalks s.dev.gtc m p) k fun w => failOp w o 2 e)) ∧
    (∀ h n, getNode? m h = some n →
      (∀ cls c ps m', n.stage = .ready → n.saved = none → getCtx? m n.ctx = some c → fitOn m n cls = some ps →
        clustersOk m n cls = true → turnOf m n = true → dispatchNode s.dev.gtc m c h n ps = some m' →
        exec (.nodeDispatch h cls) s = .next { s with mach := m', dev := setEntry s.dev n.jseq 2 0 h }) ∧
      (∀ cls, (n.stage ≠ .ready ∨ turnOf m n = false ∨ clustersOk m n cls = false ∨ fitOn m n cls = none) →
        exec (.nodeDispatch h cls) s = .next s) ∧
      (taskOver m h n = true → exec (.taskComplete h) s = .next (completeNode s h (n.status.getD 0))) ∧
      (taskOver m h n = false → exec (.taskComplete h) s = .next s) ∧
      (∀ status, n.dispatched = true → exec (.taskKill h status) s =
        .next (completeNode { s with mach := clearTask s.dev m h } h status.toNat)) ∧
      (∀ status, n.dispatched = false → exec (.taskKill h status) s = .next (completeNode s h status.toNat))) ∧
    (∀ h, getNode? m h = none → exec (.taskComplete h) s = .next s ∧ ∀ status, exec (.taskKill h status) s = .next s))

/-- R80: the state of a warp that is dispatched. The clear poison marks (log 12), and SUP, which R72 has outside R80's table, stand beside
it. -/
def Obligations.DispatchRegisters : Prop :=
  ∀ (c : Context) (n : Node) (h team teamw lim top order : Nat), (let w := freshWarp c n h team teamw lim top order
    (∀ v, getV w v = VReg.zero) ∧ w.chunks = 0 ∧ w.p0.banks = [] ∧ w.flight = [] ∧
    (∀ i, 1 ≤ i → i ≤ 8 → getS w i = { value := n.args.getD (i - 1) 0#64, mark := false }) ∧
    (∀ i, (i = 0 ∨ 9 ≤ i) → i ≠ 55 → getS w i = SReg.zero) ∧ getS w 55 = { value := BitVec.ofNat 64 top, mark := false } ∧
    (∀ q, portOf w q = none) ∧
    (∀ f, getF w f = { set := true, pend := false, seq := 0, plane := 0, cidx := 0, instant := 0 }) ∧
    w.p0.xm = ~~~0#64 ∧ w.pmlo = 0#64 ∧ w.pmhi = 0#64 ∧ w.region = none ∧ w.p1 = none ∧ w.split = none ∧ pathDepth w.p0 = 0 ∧
    w.seq = 0 ∧ w.vbeat = 0 ∧ w.wtimer = 0 ∧ w.exs = 0 ∧ w.round = 0 ∧ w.gidx = 0 ∧
    w.teamw = teamw ∧ w.stklim = lim ∧ w.ctx = n.ctx ∧ w.node = h ∧ w.gang = none ∧ w.sup = false)

/-- R362, R364 to R366: the policy drains, checkpoints, kills or waits by the first condition that the victim meets, and decides a drain
that has run out again, each newcomer with one task at a time; a save stops its task, is sealed once the task is drained and no later than
its deadline, and is abandoned when that passes first; a restore whose seal matches brings the task back, any other seal abandons it; a
switch-in makes the switched-out tasks ready. -/
def Obligations.SavesAndRestores : Prop :=
  ∀ (s : State) (h : Nat) (n : Node) (c : Context), getNode? s.mach h = some n → getCtx? s.mach n.ctx = some c →
    (let m := s.mach
    let policy (mayDrain : Bool) (by' : Option (Nat × Nat)) (t : State) : Prop :=
      let m := updNode m h fun x => { x with causer := by'.orElse fun _ => x.causer }
      if mayDrain = true ∧ n.est - taskBeats s.mach h ≤ c.drainlim then t = { s with mach := updNode m h fun x =>
        { x with stage := .draining (taskBeats m h + 2 * (n.est - taskBeats s.mach h)) } }
      else if n.ckpt = true then t = { s with mach := beginSave s.dev m h false }
      else if n.kill = true then t = killTask { s with mach := m } h 0x200
      else t = { s with mach := updNode m h fun x => { x with stage := .running } }
    (∀ k new, getNode? m k = some new → new.stage = .ready → placeable m new = false → turnOf m new = true →
      ((∀ x ∈ mapVals m.nodes, x.yieldsTo k = false) → victim m new = some (h, n) →
        ∃ t, exec (.preemptionDecision k) s = .next t ∧ policy true (some (new.ctx, k)) t) ∧
      ((∃ x ∈ mapVals m.nodes, x.yieldsTo k = true) ∨ victim m new = none → exec (.preemptionDecision k) s = .next s)) ∧
    (∀ mark, n.stage = .draining mark → mark ≤ taskBeats m h →
      (∀ k new, (k, new) ∈ m.nodes → new.stage = .ready → n.eff < effNow m.clock new → placeable m new = false →
        ∃ t, exec (.drainRedecide h) s = .next t ∧ policy false none t)) ∧
    (∀ mark, n.stage = .draining mark → taskBeats m h < mark → exec (.drainRedecide h) s = .next s) ∧
    (∀ out, n.resident = true → exec (.preempt h out) s =
      machNext s (beginSave s.dev (updNode m h fun x => { x with causer := none }) h out)) ∧
    (∀ out, n.resident = false → exec (.preempt h out) s = .next s) ∧
    (∀ deadline out, n.stage = .saving deadline out → (let m1 := stopTask s.dev m h
      (taskWarps m1 h ≠ [] → s.dev.gtc ≤ deadline → drained m1 h = true →
        exec (.contextSave h) s = machNext s (sealTask s.dev.gtc m1 h n c (deadline - 2000000) out)) ∧
      (taskWarps m1 h ≠ [] → (deadline < s.dev.gtc ∨ drained m1 h = false) → exec (.contextSave h) s = machNext s m1) ∧
      (deadline < s.dev.gtc → exec (.saveDeadline h) s = .next (abandonSave s h n)) ∧
      (s.dev.gtc ≤ deadline → exec (.saveDeadline h) s = .next s))) ∧
    (∀ v cls ps, n.saved = some v → fitOn m n cls = some ps → n.stage = .ready → clustersOk m n cls = true →
      turnOf m n = true →
      (let r := sealOk s.dev.gtc m c n v
      (r.2 = true → exec (.taskRestore h cls) s = machNext s (restoreTask s.dev r.1 h n v ps)) ∧
      (r.2 = false → exec (.taskRestore h cls) s = .next (abandonSave { s with mach := r.1 } h n)))) ∧
    (mapWf m.nodes = true → ∃ t, exec (.contextSwitchIn n.ctx) s = .next t ∧
      ∀ k x, getNode? m k = some x → ∃ y, getNode? t.mach k = some y ∧
        y.stage = if x.ctx = n.ctx ∧ x.stage = .switched then .ready else x.stage))

/-! ### Events of Pumal and of the debug unit -/

/-- R350, R351, R394, R401, R402: a listed miss is walked once for all that wait for it; a touched page is mapped and its warps resume,
or their tasks are killed; Pumal resumes, serves, leaves or kills by the code of the record of a frozen warp; a request removes the
translations that it covers and ends where nothing uses them. -/
def Obligations.PumalServices : Prop :=
  ∀ (s : State), (let m := s.mach
    (∀ x, m.misses.contains x = true → exec (.translationWalk x.die x.ctx x.page) s = machNext s (finishWalk s.dev.gtc m x.ctx x.page)) ∧
    (∀ x, m.misses.contains x = false → exec (.translationWalk x.die x.ctx x.page) s = .next s) ∧
    (∀ ctx (va : DWord), (let ks := m.warps.filter fun x => waitsTouch ctx (va.toNat / 65536) x.2
      (∀ m1, ks ≠ [] → serveTouch m ctx va.toNat = some m1 →
        exec (.firstTouchService ctx va) s = machNext s ((ks.map (·.1)).foldl (resumeFrozen s.dev) m1)) ∧
      (ks ≠ [] → serveTouch m ctx va.toNat = none → exec (.firstTouchService ctx va) s =
        .next ((ks.map fun x => x.2.node).eraseDups.foldl (fun s h => killTask s h 0x140) s)) ∧
      (ks = [] → exec (.firstTouchService ctx va) s = .next s))) ∧
    (∀ k w frame inHandler held r, getWarp? m k = some w → w.trapped = .pumal frame inHandler held → w.record = some r →
      (r.code = 0x60 → exec (.pumalTrapService k) s = .next s) ∧
      (r.code ≠ 0x60 → (inHandler = true ∨ r.code ∉ [0x40, 0x61, 0x63]) →
        exec (.pumalTrapService k) s = .next (killTask s w.node (0x100 + r.code))) ∧
      (inHandler = false → r.code = 0x61 ∨ r.code = 0x63 → exec (.pumalTrapService k) s = machNext s (resumeFrozen s.dev m k)) ∧
      (inHandler = false → r.code = 0x40 → ∀ m1, serveTouch m w.ctx r.addr = some m1 →
        exec (.pumalTrapService k) s = machNext s (resumeFrozen s.dev m1 k))) ∧
    (∀ k w, getWarp? m k = some w → (w.trapped = .running ∨ ∃ frame, w.trapped = .handler frame) →
      exec (.pumalTrapService k) s = .next s) ∧
    (∀ q : TlbScope, ∀ i ∈ [Instr.tlbiContext (q.ctx.getD 0), .tlbiRange (q.ctx.getD 0) (q.range.getD (0, 0)).1 (q.range.getD (0, 0)).2,
        .tlbiAll], (match i with
          | .tlbiContext _ => q.ctx.isSome ∧ q.range = none
          | .tlbiRange .. => q.ctx.isSome ∧ q.range.isSome
          | _ => q.ctx = none ∧ q.range = none) →
      ∃ t, exec i s = .next t ∧ t.mach.mem = m.mem ∧ t.mach.warps = m.warps ∧
        (∀ e, e ∈ t.mach.tlb0 ↔ e ∈ m.tlb0 ∧ q.hits e = false) ∧ (∀ e, e ∈ t.mach.tlb1 ↔ e ∈ m.tlb1 ∧ q.hits e = false) ∧
        (tlbBusy t.mach q = false → t.dev.tlbiCtl.getLsbD 63 = false) ∧ (tlbBusy t.mach q = true → t.dev = s.dev)))

/-- R421 to R428: a stop that is due freezes its warp; CONT frees the stopped warps of its context, which then do not test the same
breakpoint again, and no other warp; a dump shows DDONE or DERR; a sample is written where the sampled warp's context samples. CONT and DUMP
as events of the Debug Page (log 46), and when a sample is due and which warp it names (log 47), are the model's choice. -/
def Obligations.DebugUnit : Prop :=
  ∀ (s : State), (let m := s.mach
    (∀ k w p pl st, getWarp? (atBoundary s.dev.gtc m k) k = some w → stepsItself w = true →
      standsAtBoundary (atBoundary s.dev.gtc m k) w = true →
      stopDue (atBoundary s.dev.gtc m k) k w (dueStreams (atBoundary s.dev.gtc m k) w) = some (p, pl, st) →
      exec (.debugStop k) s = machNext s (stopWarp s.dev (atBoundary s.dev.gtc m k) k p pl st)) ∧
    (∀ k w, getWarp? (atBoundary s.dev.gtc m k) k = some w →
      stopDue (atBoundary s.dev.gtc m k) k w (dueStreams (atBoundary s.dev.gtc m k) w) = none → exec (.debugStop k) s = .next s) ∧
    (∀ ctx, ∃ t, exec (.debugCont ctx) s = .next t ∧ t.dev = s.dev ∧
      ∀ k w, getWarp? m k = some w →
        (w.ctx ≠ ctx ∨ w.stopped = none → getWarp? t.mach k = some w) ∧
        (∀ st, w.ctx = ctx → w.stopped = some st →
          (let past (q : PathSt) : PathSt := { q with skipbp := q.skipbp || decide (st.code ≠ 3) }
          getWarp? t.mach k = some { w with stopped := none, p0 := past w.p0, p1 := w.p1.map past }))) ∧
    (∀ ctx c, getCtx? m ctx = some c →
      exec (.debugDump ctx) s = machNext s (
        (let r := dumpOf s.dev m ctx c
        let m := updCtx (r.getD m) ctx fun c => { c with ddone := r.isSome, derr := r.isNone }
        noteStops m ctx))) ∧
    (∀ core k w c, sampled m core = some k → getWarp? m k = some w → ctxOf m w = some c →
      (c.dbg = true → (dbgWord c 0).getLsbD 5 = true → m.clock % 2 ^ bits (dbgWord c 8) 4 0 = 0 → (getCore m core).sampledTo ≤ m.clock →
        exec (.stallSample core) s = machNext s (traceWrite (updCore (bump m) core fun c => { c with sampledTo := m.clock + 1 }) w.ctx
          (sampleRecord s.dev m k w))) ∧
      (c.dbg = false ∨ (dbgWord c 0).getLsbD 5 = false ∨ m.clock % 2 ^ bits (dbgWord c 8) 4 0 ≠ 0 ∨ m.clock < (getCore m core).sampledTo →
        exec (.stallSample core) s = .next s)) ∧
    (∀ core, sampled m core = none → exec (.stallSample core) s = .next s))

/-! ### Events of power, wear and time -/

/-- R295, R402, R430 to R438, R449: Pumal's register writes, an invalid one discarded whole with a record that names the register, one of
SCOPE 11 with CREG_RESERVED to Pumal (which number names a register is the model's choice, log 54), clamps, the store's model in units of
10 nJ, grants and launches. An event that takes a reading takes the one at the head of the inputs. -/
def Obligations.PowerControl : Prop :=
  ∀ (s : State), (let p := s.dev.pcc
    let gtc := s.dev.gtc
    let clock := s.mach.clock
    (∀ reg v, writeOk reg v = true → exec (.registerWrite reg v) s = .next { s with dev := writeReg s.dev reg v }) ∧
    (∀ reg v, writeOk reg v = false → ¬ (reg = .tlbiCtl ∧ bits v 62 61 = 3) → exec (.registerWrite reg v) s =
      machNext s (logHealth s.mach { healthOf 3 0 (regNumber reg) with gtc := gtc })) ∧
    (∀ v : DWord, bits v 62 61 = 3 → exec (.registerWrite .tlbiCtl v) s =
      .next { s with dev := { s.dev with traps := (0x2e, v) :: s.dev.traps } }) ∧
    (∀ a b, regNumber a = regNumber b → a = b) ∧
    (∀ src, ∃ t, exec (.clamp src) s = .next t ∧ t.mach.warps = s.mach.warps ∧ t.mach.mem = s.mach.mem ∧
      ∀ c, (let x := getCluster s.mach c
        let y := getCluster t.mach c
        (c ∉ clampTargets s.mach p src → mapWf s.mach.clusters = true → y = x) ∧
        (c ∈ clampTargets s.mach p src → mapWf s.mach.clusters = true → y.sourceAt = some clock ∧
          y.clp = if ∃ at_, x.clampAt = some at_ ∧ clock < at_ + 1000 then x.clp else min 4 (2 * x.clp)))) ∧
    (∀ c < 512, (getCluster s.mach c).present = true →
      (∀ die, c ∈ clampTargets s.mach p (.current die) ↔ dieOf c = die ∧ p.ilim < (if die = 0 then p.amps.1 else p.amps.2)) ∧
      (∀ cl, c ∈ clampTargets s.mach p (.droop cl) ↔ c = cl ∧ cl ∈ p.droops) ∧
      (c ∈ clampTargets s.mach p .ceiling ↔ 1000 * p.ceil < 1000 * p.load + p.shaped) ∧
      (c ∈ clampTargets s.mach p .melt ↔ p.melt = 1023 ∧ p.susw < p.power)) ∧
    (∀ c, (let x := getCluster s.mach c
      (x.hold4 = true ∨ x.clp ≤ 1 ∨ clampHeld p c = true ∨ (∃ at_, x.sourceAt = some at_ ∧ clock < at_ + 20000) →
        ∃ t, exec (.unclamp c) s = .next t ∧ (mapWf s.mach.clusters = true → getCluster t.mach c = x)) ∧
      (x.hold4 = false → 1 < x.clp → clampHeld p c = false → (∀ at_, x.sourceAt = some at_ → at_ + 20000 ≤ clock) →
        ∃ t, exec (.unclamp c) s = .next t ∧ (mapWf s.mach.clusters = true → (getCluster t.mach c).clp = x.clp / 2)))) ∧
    (∀ w rest, s.inputs = .power w :: rest → ∃ t, exec .heatStoreUpdate s = .next t ∧ t.inputs = rest ∧ t.mach = s.mach ∧
      (let q := t.dev.pcc
      (min p.susw p.qc < w → (q.e : Int) = min 1600000000000 ((p.e : Int) + (w - min p.susw p.qc : Int) * 1000)) ∧
      (w ≤ min p.susw p.qc → p.e ≤ 1600000000000 → (q.e : Int) = max 0 ((p.e : Int) - (p.qc - w : Int) * 1000)) ∧
      q.melt = min 1023 (q.e / 1562500000) ∧
      q.rfz = if 960 ≤ q.melt then true else if q.melt < 256 then false else p.rfz)) ∧
    (∀ (eth lid : Nat) rest, s.inputs = .thermistor eth lid :: rest → p.e ≤ 1600000000000 → eth ≤ 1600000000000 →
      ∃ t, exec .thermistorCorrection s = .next t ∧ t.inputs = rest ∧
      (t.dev.pcc.e : Int) = p.e + max (-25000000000) (min 25000000000 ((eth : Int) - p.e)) ∧
      t.mach.healthNo = s.mach.healthNo + if 100000000000 < ((eth : Int) - p.e).natAbs then 1 else 0) ∧
    (∀ r rest, s.mach.sprints = r :: rest → exec .sprintGrant s = machNext s (decideSprint gtc s.mach r (grantOf p s.mach r))) ∧
    (∀ r : SprintReq, (((getTeam? s.mach r.team).bind (·.lease)).isSome ∨ p.rfz = true → grantOf p s.mach r = 0) ∧
      ((getTeam? s.mach r.team).bind (·.lease) = none → p.rfz = false →
        (grantOf p s.mach r : Int) = max 0 (min (r.want : Int)
          (((1023 - p.melt) * 1562500000 - 4 * listSum ((mapVals s.mach.teams).filterMap fun t => t.lease.map (·.left)) : Int) / 4)))) ∧
    (s.mach.sprints = [] → exec .sprintGrant s = .next s) ∧
    (∀ launch : DWord, ∃ t, exec (.ballastPreRamp launch) s = .next t ∧ t.mach = s.mach ∧ t.dev.pcc.ballast =
      (let b := p.ballast.filter fun x => gtc ≤ x.1
      b ++ if p.balen = true ∧ p.bstep ≠ 0 ∧ (pendingLaunches s.mach).contains launch.toNat = true ∧ gtc ≤ launch.toNat ∧
        (∀ x ∈ b, 10000 < ((x.1 : Int) - launch.toNat).natAbs) then [(launch.toNat, gtc)] else [])) ∧
    (∀ t launch noted, 0 < p.ramp → noted + (1000 * p.bstep + p.ramp - 1) / p.ramp + p.sso ≤ launch →
      (launch - p.sso ≤ t → t ≤ launch → launchBallast p t (launch, noted) = 1000 * p.bstep) ∧
      (t + p.sso + (1000 * p.bstep + p.ramp - 1) / p.ramp ≤ launch → launchBallast p t (launch, noted) = 0) ∧
      (launch ≤ t → launchBallast p t (launch, noted) = 1000 * p.bstep - p.ramp * (t - launch)) ∧
      launchBallast p (t + 1) (launch, noted) ≤ launchBallast p t (launch, noted) + p.ramp) ∧
    (∀ ns, (passBallast p gtc ns).balen = true → p.shaped ≤ (passBallast p gtc ns).shaped + p.ramp * ns) ∧
    (∀ amps load droops, p.balen = true → (let q := senseLoad p gtc amps load droops
      1000 * p.load + p.shaped ≤ 1000 * q.load + q.shaped ∧ q.load = load ∧ q.amps = amps ∧ q.droops = droops)))

/-- R450 to R452, R454 to R456, R461, R463, R465, R466: the energy of an interval is divided and charged; readings give margins, which
move the guard-bands; the wear record grows by a day's entry; the coolant sets the plate's capacity; the management controller's
reads are answered. R433 to R438, R449: a clamp stamps its clusters, an unclamp halves the pass count, the store takes a power reading and
a correction of at most 250 J, the oldest sprint request is decided, ballast is judged against BALEN. The day of an entry (log 58), and what
waits for the scale of its interval and where fractions go (log 56), are the model's choice. -/
def Obligations.EnergyAndWear : Prop :=
  ∀ (s : State) (rest : List Input), (let d := s.dev
    (∀ src c, mapWf s.mach.clusters = true → c ∈ clampTargets s.mach d.pcc src → ∃ t, exec (.clamp src) s = .next t ∧
      t.inputs = s.inputs ∧ (getCluster t.mach c).sourceAt = some s.mach.clock ∧ (getCluster t.mach c).clp ≤ max 4 (getCluster s.mach c).clp) ∧
    (∀ c, mapWf s.mach.clusters = true → (let x := getCluster s.mach c
      x.hold4 = false → 1 < x.clp → clampHeld d.pcc c = false →
        (x.sourceAt = none ∨ ∃ at_, x.sourceAt = some at_ ∧ at_ + 20000 ≤ s.mach.clock) →
        ∃ t, exec (.unclamp c) s = .next t ∧ t.inputs = s.inputs ∧ t.dev = d ∧ (getCluster t.mach c).clp = x.clp / 2)) ∧
    (∀ w, s.inputs = .power w :: rest → ∃ t, exec .heatStoreUpdate s = .next t ∧ t.inputs = rest ∧ t.mach = s.mach ∧
      t.dev.pcc.power = w ∧ t.dev.pcc.e ≤ 1600000000000) ∧
    (∀ eth lid, s.inputs = .thermistor eth lid :: rest → ∃ t, exec .thermistorCorrection s = .next t ∧ t.inputs = rest ∧
      t.mach.mem = s.mach.mem ∧ t.dev.pcc.e ≤ min 1600000000000 (d.pcc.e + 25000000000) ∧
      min 1600000000000 d.pcc.e ≤ t.dev.pcc.e + 25000000000) ∧
    (∀ r more, s.mach.sprints = r :: more → ∃ t, exec .sprintGrant s = .next t ∧ t.dev = d ∧ t.inputs = s.inputs ∧
      t.mach.sprints = more ∧ t.mach.mem = s.mach.mem) ∧
    (∀ launch : DWord, ∃ t, exec (.ballastPreRamp launch) s = .next t ∧ t.mach = s.mach ∧ t.inputs = s.inputs ∧
      (d.pcc.balen = false → t.dev.pcc.ballast = d.pcc.ballast.filter fun x => d.gtc ≤ x.1)) ∧
    (∀ cls tasks saves system ballast, s.inputs = .energies cls tasks saves system ballast :: rest →
      ∃ t, exec .energyEstimate s = .next t ∧ t.inputs = rest ∧
      t.dev.pcc.bale = min (2 ^ 64 - 1) (d.pcc.bale + ballast) ∧ t.dev.pcc.pendAt = s.mach.clock ∧ t.mach.mem = s.mach.mem ∧
      t.mach.warps = s.mach.warps) ∧
    (∀ e, s.inputs = .measured e :: rest → d.pcc.pending = [] → d.pcc.early = 0 → d.pcc.frac = [] → getNode? s.mach 0 = none →
      mapGet? d.pcc.owed 0 = none → ∃ t, exec .energyScale s = .next t ∧ t.inputs = rest ∧ t.dev.pcc.syse = min (2 ^ 64 - 1) (d.pcc.syse + e) ∧ t.mach = s.mach) ∧
    (∀ e, s.inputs = .measured e :: rest → ∃ t, exec .energyScale s = .next t ∧ t.dev.pcc.pending = [] ∧ t.dev.pcc.early = 0 ∧
      t.mach.mem = s.mach.mem) ∧
    (∀ total (ws : List (Nat × Nat)), 0 < listSum (ws.map (·.2)) →
      (let cut := cutShares total (listSum (ws.map (·.2))) 0 ws
      cut.map (·.1) = ws.map (·.1) ∧ listSum (cut.map (·.2)) = total)) ∧
    (∀ h n parts, getNode? s.mach h = some n → mapGet? d.pcc.pending h = some parts → d.pcc.frac = [] →
      (settleEnergy s h).dev.pcc.early = d.pcc.early + parts ∧
      ∃ x, getNode? (settleEnergy s h).mach h = some x ∧ x.energy = min (2 ^ 64 - 1) (n.energy + parts / 2 ^ 32)) ∧
    (∀ h parts ctx by', getNode? s.mach h = none → mapGet? d.pcc.owed h = some (ctx, by') → d.pcc.frac = [] →
      (getCtx? s.mach ctx).isSome → (chargeNode d s.mach h parts).2 = chargeCtx s.mach ctx (parts / 2 ^ 32) ∧
      (chargeNode d s.mach h parts).1.pcc.syse = d.pcc.syse) ∧
    (∀ (m : Mach) ctx c n, getCtx? m ctx = some c → ∃ x, getCtx? (chargeCtx m ctx n) ctx = some x ∧
      (c.esat = true → x = c) ∧ (c.esat = false → c.energy + n < 2 ^ 64 → x = { c with energy := c.energy + n }) ∧
      (c.esat = false → 2 ^ 64 ≤ c.energy + n → x = { c with energy := 2 ^ 64 - 1, esat := true })) ∧
    (∀ common others, s.inputs = .margins common others :: rest → ∃ t, exec .monitorRead s = .next t ∧ t.inputs = rest ∧
      t.mach.mem = s.mach.mem ∧ (mapWf s.mach.clusters = true → ∀ c < 512, (getCluster s.mach c).present = true →
        (let slacks := (mapGet? others c).getD common
        let read (i : Nat) : Prop := i < 8 ∧ i < slacks.length ∧ sensorUnit c i ∉ d.wear.removed
        ∀ i, read i → (getCluster t.mach c).margin ≤ slacks.getD i 0 ∧
          ∃ j, read j ∧ (getCluster t.mach c).margin = slacks.getD j 0))) ∧
    (∀ die, dieVoltage d.wear die = Config.vnom die + 5 * (if die = 0 then d.wear.gb.1 else d.wear.gb.2)) ∧
    (∀ die c, die < 2 → lowestMargin s.mach die = some c →
      (let x := (getCluster s.mach c).margin
      let gb := ofDie d.wear.gb die
      (40 ≤ x → exec (.gbStep die) s = .next s) ∧
      (x < 40 → gb < 40 → s.mach.clock < ofDie d.wear.stepAt die → exec (.gbStep die) s = .next s) ∧
      (x < 40 → gb < 40 → ofDie d.wear.stepAt die ≤ s.mach.clock → ∃ t, exec (.gbStep die) s = .next t ∧ t.mach = s.mach ∧
        ofDie t.dev.wear.gb die = gb + 1 ∧ ofDie t.dev.wear.stepAt die = s.mach.clock + 10000) ∧
      (x < 0 → 40 ≤ gb → ∃ t, exec (.gbStep die) s = .next t ∧ (LostUnit.cluster c) ∈ t.dev.wear.pending ∧
        (mapWf s.mach.clusters = true → (getCluster t.mach c).clp = 4 ∧ (getCluster t.mach c).hold4 = true)))) ∧
    (∀ die, die < 2 → ∃ t, exec (.gbHourlyFall die) s = .next t ∧ t.mach = s.mach ∧ ofDie t.dev.wear.gb die =
      (let since := ofDie d.wear.above die
      if since ≠ 0 ∧ since + 3600000000000 ≤ s.mach.clock + 1 then ofDie d.wear.gb die - 1 else ofDie d.wear.gb die)) ∧
    (d.gtc < d.wear.lastDay + 86400000000000 → exec .wearDailyAppend s = .next s) ∧
    (d.wear.lastDay + 86400000000000 ≤ d.gtc → ∃ t e, exec .wearDailyAppend s = .next t ∧ t.dev.wear.lastDay = d.wear.lastDay + 86400000000000 ∧
      t.dev.wear.entries = (d.wear.entries ++ [e]).drop (d.wear.entries.length - 4095) ∧ e.day = d.wear.headDay + 1 ∧
      e.chain = (sha3 (d.wear.headChain ++ wearBody e)).take 32 ∧ t.dev.wear.headChain = e.chain ∧ t.mach.mem = s.mach.mem) ∧
    (∀ tin flow, s.inputs = .coolant tin flow :: rest → ∃ t, exec .coolantChange s = .next t ∧ t.inputs = rest ∧
      (200 ≤ tin ∧ tin ≤ 400 ∧ 100 ≤ flow → t.mach = s.mach ∧ t.dev.pcc.sust = d.pcc.sustSaved.getD d.pcc.sust) ∧
      (¬ (200 ≤ tin ∧ tin ≤ 400 ∧ 100 ≤ flow) → t.mach.healthNo = s.mach.healthNo + 1 ∧ t.dev.pcc.sust = 8)) ∧
    (∀ v : DWord, ∀ die < 2, (let t := writeReg d (.hlthGb die) v
      ofDie t.wear.gb die = bits v 5 0 ∧ bits v 5 0 ≤ ofDie t.wear.today.gb die)) ∧
    (∀ f key, s.inputs = .mgmt f :: rest → messagesOk f = true → frameSound d f = true → f.count = 1 →
      frameKey (acceptFrame d f) f.slot.toNat f.session.toNat = some key →
      (let item := itemAt f 0
      let s1 : State := { s with inputs := rest, dev := acceptFrame d f }
      let answers (i : Instr) (parts : List (List Byte)) : Prop := ∃ t o, exec i s = .next t ∧ t.inputs = rest ∧ t.mach = s.mach ∧
        t.dev.mgmt = d.mgmt ++ [o] ∧ o.item = parts.flatten ∧ o.count = parts.length ∧ o.typ = 2 ∧ o.slot = f.slot.toNat ∧
        o.session = f.session.toNat ∧ o.fseq = d.mgmtNo + 1
      (kindOf item = 0x30 → healthFrom s.mach (itemNat item 16 8) 16 ≠ [] →
        answers .readHealthLog ((healthFrom s.mach (itemNat item 16 8) 16).map (healthBytes s.mach))) ∧
      (kindOf item = 0x31 → answers .readWearRecord (((d.wear.entries.filter fun e => itemNat item 16 8 ≤ e.day).take 14).map wearBytes ++
        [pendingBytes d.wear, signedHead d.wear])) ∧
      (kindOf item ≠ 0x30 → kindOf item ≠ 0x31 → exec .readHealthLog s = .next s1))) ∧
    (∀ f, s.inputs = .mgmt f :: rest → (messagesOk f && frameSound d f) = false →
      exec (if kindOf (itemAt f 0) = 0x31 then .readWearRecord else .readHealthLog) s = .next { s with inputs := rest }))

/-- R446, R447: the messages of the selected source stamp and complete a measurement, whose offset is half the difference of the two delays;
the first negative offset may set the clock and no other does; eight seconds without a Sync unlock the receiver; a request goes out with its
sequence number and domain; a transmitter's Announce is kept, and the better of two sources is selected. The floor of the halving and the
opaque slew (log 57), that a source counts from its first Announce to 6 s after its last (log 89) and that the count of the day moves with
the clock (log 88) are the model's choice. -/
def Obligations.TimeReceiver : Prop :=
  ∀ (s : State) (rest : List Input) (src seqId domain : Nat), (let p := s.dev.ptp
    let mine : Prop := domain = p.domain ∧ ∃ a, p.source = some a ∧ a.sender = src
    let out (i : Instr) (f : Ptp) : Prop := exec i s = .next { s with inputs := rest, dev := { s.dev with ptp := f } }
    (∀ t1 two, s.inputs = .sync src seqId domain t1 two :: rest → (mine → out .ptpSync { p with
        lastSync := s.mach.clock, hold := false, seqId := seqId, t2 := some s.dev.gtc, t1 := if two = true then none else some t1 }) ∧
      (¬ mine → out .ptpSync p)) ∧
    (∀ t1, s.inputs = .followUp src seqId domain t1 :: rest →
      (mine → p.seqId = seqId → p.t2.isSome → p.t1 = none → out .ptpFollowUp { p with t1 := some t1 }) ∧
      (¬ mine ∨ p.seqId ≠ seqId → out .ptpFollowUp p)) ∧
    (p.source.isSome → (let n := (p.dseq + 1) % 65536
      exec .ptpDelayReq s = .next { s with dev := { s.dev with ptp := { p with
        dseq := n, sent := p.sent ++ [(n, p.domain)], t3 := some s.dev.gtc } } })) ∧
    (p.source = none → exec .ptpDelayReq s = .next s) ∧
    (∀ t1 t2 t3 t4, s.inputs = .delayResp src seqId domain t4 :: rest → mine → p.dseq = seqId → p.t1 = some t1 → p.t2 = some t2 →
      p.t3 = some t3 → ∃ t, exec .ptpDelayResp s = .next t ∧ t.inputs = rest ∧ t.mach = s.mach ∧ (let o := t.dev.ptp.offs
        2 * o ≤ ((t2 : Int) - t1) - ((t4 : Int) - t3) ∧ ((t2 : Int) - t1) - ((t4 : Int) - t3) < 2 * o + 2 ∧
        (t.dev.gtc : Int) = (if p.measured = false ∧ s.mach.ctxs = [] ∧ o < 0 then (s.dev.gtc : Int) - o else s.dev.gtc) ∧
        t.dev.wear.lastDay + s.dev.gtc = s.dev.wear.lastDay + t.dev.gtc ∧
        (200 < o.natAbs → t.dev.ptp.lock = false) ∧ (p.lock = true → o.natAbs ≤ 200 → t.dev.ptp.lock = true) ∧
        (o.natAbs ≤ 50 → 15 ≤ p.good → t.dev.ptp.lock = true) ∧ t.dev.ptp.slew.natAbs ≤ 100000)) ∧
    (∀ t4, s.inputs = .delayResp src seqId domain t4 :: rest → ¬ mine → out .ptpDelayResp p) ∧
    (∀ a, s.inputs = .announce a :: rest → (let clock := s.mach.clock
      let others := p.foreign.filter fun x => x.1.sender != a.sender
      (a.domain ≠ p.domain → out .ptpAnnounce p) ∧
      (a.domain = p.domain → ∃ f, out .ptpAnnounce f ∧ f.foreign = others ++ [(a, clock)] ∧
        (others = [] → f.source = some a) ∧
        (∀ b n, others = [(b, n)] → f.source = some (if announceBefore a b = true then a else b)) ∧
        (f.source.map (·.sender) ≠ p.source.map (·.sender) → f.t1 = none ∧ f.t2 = none ∧ f.t3 = none) ∧
        (f.source.map (·.sender) = p.source.map (·.sender) → f.t1 = p.t1 ∧ f.t2 = p.t2 ∧ f.t3 = p.t3) ∧
        f.lastSync = if p.source = none then clock else p.lastSync))) ∧
    (∀ a b : Announce, (a.identity ≠ b.identity → announceBefore a b = listLess (announceKey a) (announceKey b)) ∧
      (a.identity = b.identity → (announceBefore a b = true ↔ a.steps < b.steps ∨ (a.steps = b.steps ∧ a.sender < b.sender)))) ∧
    (∀ clock, (∀ x ∈ (dropSilent clock p).foreign, clock < x.2 + 6000000000) ∧
      ((∀ x ∈ p.foreign, clock < x.2 + 6000000000) → dropSilent clock p = p)) ∧
    (∀ v : DWord, bits v 6 0 ≠ p.domain → (let q := (writeReg s.dev .timeCtl v).ptp
      q.domain = bits v 6 0 ∧ q.source = none ∧ q.foreign = [])) ∧
    (p.lastSync + 8000000000 ≤ s.mach.clock →
      exec .ptpHoldover s = .next { s with dev := { s.dev with ptp := { p with lock := false, hold := true, good := 0 } } }) ∧
    (s.mach.clock < p.lastSync + 8000000000 → exec .ptpHoldover s = .next s))

/-- R381, R410, R440 to R444, R457, R461, R467: a reset or a return without a marker boots cold; a return with an intact marker on good
images keeps memory, contexts, keys and the journal, whose open entries fail, and leaves no warp; a warning and a shutdown leave no warp,
team or session and take the supply away, the marker of a warning also in its line of HBM; with a hold-up below 1 ms the package stays in
reset, without a boot, and the failure is reported. That memory is empty after a cold boot (log 3), what a cold boot and a resume keep (log
53), and that the sequence of a supply loss is one step and a shutdown writes no marker (log 59) are the model's choice. -/
def Obligations.BootAndSupply : Prop :=
  ∀ (s : State),
    (∀ x rest b, s.inputs = x :: rest → bootInput? x = some b → 1000 ≤ b.holdup →
      exec .deviceReset s = .next (coldBoot { s with inputs := rest } b)) ∧
    (∀ x rest b, s.inputs = x :: rest → bootInput? x = some b → b.holdup < 1000 →
      ∃ t, exec .deviceReset s = .next t ∧ t.inputs = rest ∧ t.mach.warps = [] ∧ t.mach.teams = [] ∧ t.dev.supply = .held ∧
        t.dev.boots = s.dev.boots ∧ t.dev.mr0 = s.dev.mr0 ∧ t.dev.reports = s.dev.reports ++ [.holdup b.holdup]) ∧
    (∀ x rest b, s.inputs = x :: rest → bootInput? x = some b → s.dev.supply ≠ .on →
      (mayResume s.dev b = true → imageGood b.d0 = true → 1000 ≤ b.holdup → ∃ t, exec .supplyReturn s = .next t ∧
        t.inputs = rest ∧ t.mach.mem = s.mach.mem ∧ t.mach.ctxs = s.mach.ctxs ∧ t.mach.keys = s.mach.keys ∧
        t.dev.jhead = s.dev.jhead ∧ t.dev.pcc = s.dev.pcc ∧ t.dev.boots = s.dev.boots + 1 ∧ t.dev.supply = .on ∧ t.dev.marker = none ∧
        t.dev.journal.length = s.dev.journal.length ∧ (∀ e ∈ s.dev.journal, e.finished → e ∈ t.dev.journal) ∧
        (∀ h n, getNode? t.mach h = some n → n.stage = .ready ∧ n.saved.isSome)) ∧
      (1000 ≤ b.holdup → mayResume s.dev b = false ∨ imageGood b.d0 = false →
        exec .supplyReturn s = .next (coldBoot { s with inputs := rest } b)) ∧
      (b.holdup < 1000 → exec .supplyReturn s = .next { s with inputs := rest, dev := { s.dev with
        supply := .held, reports := s.dev.reports ++ [.holdup b.holdup] } })) ∧
    (s.dev.supply = .on → exec .supplyReturn s = .next s) ∧
    (∀ b, (let t := coldBoot s b
      t.mach.mem = [] ∧ t.mach.warps = [] ∧ t.mach.ctxs = [] ∧ t.mach.nodes = [] ∧ t.dev.gtc = 0 ∧ t.dev.journal = [] ∧
      t.dev.boots = s.dev.boots + 1 ∧ t.dev.supply = .on ∧ t.dev.wear.entries = s.dev.wear.entries ∧
      t.dev.wear.removed = b.lost ++ s.dev.wear.pending ∧
      (imageGood b.d0 = true → t.dev.mr0 = sha3 (measureZero ++ sha3 b.d0.body) ∧ t.dev.mr1 = sha3 (measureZero ++ b.d0.pumal)) ∧
      (imageGood b.d0 = false → t.dev.recovery.1 = true ∧ Report.recovery 0 ∈ t.dev.reports) ∧
      (∀ stack, LostUnit.l2OrHbm 0 stack ∈ t.dev.wear.removed → b.rates.getD stack 0 = 0 ∨ 10000 ≤ b.rates.getD stack 0 →
        t.dev.recovery.1 = true) ∧
      (∀ c < 512, (∃ u ∈ t.dev.wear.removed, u = .cluster c ∨ u = .copyEngine c ∨ u = .matrixEngine c ∨ u = .clusterTlb c ∨
        ∃ bank, u = .spadBank c bank) → (getCluster t.mach c).present = false))) ∧
    (s.dev.supply = .on → ∀ i ∈ [Instr.supplyLossWarning, .shutdown], ∃ t, exec i s = .next t ∧ t.dev.supply = .off ∧
      t.mach.warps = [] ∧ t.mach.teams = [] ∧ t.mach.gangs = [] ∧ t.dev.mailbox = [] ∧ t.dev.gtc = s.dev.gtc ∧
      t.dev.journal = s.dev.journal ∧ t.dev.wear.entries.length = min 4096 (s.dev.wear.entries.length + 1) ∧
      (i = .shutdown → t.dev.marker = none ∧ t.mach.mem = s.mach.mem) ∧
      (i = .supplyLossWarning → (∀ k x, mapGet? t.dev.slots k = some x → x.session = 0) ∧
        ∃ k, t.dev.marker = some k ∧ k.head = s.dev.jhead ∧ k.gtc = s.dev.gtc ∧ k.flushed = true ∧
          k.hash = (sha3 (markerBody k)).take 32 ∧ ∃ mem, t.mach.mem = memWrite mem markerLine (markerBytes k))) ∧
    (s.dev.supply ≠ .on → exec .supplyLossWarning s = .next s ∧ exec .shutdown s = .next s)

/-! ### The host's messages -/

/-- The message `q` stands at the head of the mailbox and has a kind, its session is live, and `s1` is the state without it (R374). -/
def standing (s s1 : State) (q : Msg) (kind : Nat) : Prop :=
  ∃ k more, s.dev.mailbox = (q.frame, k) :: more ∧ q.item = itemAt q.frame k ∧ q.frame.typ = 0 ∧ q.kind = kind ∧
    s1 = { s with dev := { s.dev with mailbox := more } } ∧ sessionLive s1.dev q.frame = true

/-- The checks of R376 that every journalled message passes: a session, a new HSEQ in sequence, the context that its kind names, no
reserved bit, room in the journal. -/
def admissible (s : State) (q : Msg) (used : List (Nat × Nat)) (needsCtx : Bool) : Prop :=
  q.frame.session ≠ 0 ∧ sequenceCheck s.dev q = none ∧ (if needsCtx then (msgCtx? s q).isSome else q.ctx = 0) ∧
  bodyClear q used = true ∧ journalFull s.dev = false

/-- The state after a message is accepted: its entry is written, and its reply says so (R376, R377). -/
def acceptedState (s : State) (q : Msg) : State :=
  (let d := journalAdd s.dev q
  { s with dev := answer q d.jhead 1 0 [] d })

/-- The journalled messages: row, KIND, bytes of BODY in use, whether a context is named (R375). -/
def journalledKinds : List (Instr × Nat × List (Nat × Nat) × Bool) :=
  [(.ctxCreate, 0x10, [(0, 8)], false), (.ctxDestroy, 0x11, [], true), (.window, 0x12, [(0, 16)], true),
   (.commit, 0x13, [(0, 1), (8, 32)], true), (.post, 0x20, [(0, 8)], true), (.evsetMessage, 0x21, [(0, 32)], true),
   (.evclr, 0x22, [(0, 32)], true), (.kill, 0x23, [(0, 4)], true)]

/-- R370, R375 to R381, R384: each journalled message that passes its checks has its entry accepted and then its effect, and the entry's
final state; a duplicate or a stale HSEQ is refused with no effect but its reply. The reply at acceptance (log 50), window numbers and
failed COMMITs (log 51), and what CTX_CREATE makes (log 52) are the model's choice. -/
def Obligations.JournalledMessages : Prop :=
  ∀ (s s1 : State) (q : Msg), (let a := acceptedState s1 q
    let j := s1.dev.jhead + 1
    let ok (i : Instr) (kind : Nat) (used : List (Nat × Nat)) (ctx : Bool) : Prop :=
      (i, kind, used, ctx) ∈ journalledKinds ∧ standing s s1 q kind ∧ admissible s1 q used ctx
    (ok .evsetMessage 0x21 [(0, 32)] true → exec .evsetMessage s = .next
      (finishEntry { a with mach := setEvents s.mach q.ctx (ofLe 256 (q.bytes 0 32)) } j 3 0)) ∧
    (ok .evclr 0x22 [(0, 32)] true → exec .evclr s = .next (finishEntry { a with
      mach := updCtx s.mach q.ctx fun c => { c with events := c.events &&& ~~~(ofLe 256 (q.bytes 0 32)) } } j 3 0)) ∧
    (ok .kill 0x23 [(0, 4)] true → (∀ n, getNode? s.mach (q.field 0 4) = some n → n.ctx = q.ctx) →
      exec .kill s = .next (finishEntry (killTask a (q.field 0 4) 0x200) j 3 0)) ∧
    (ok .post 0x20 [(0, 8)] true → q.field 0 8 % 64 = 0 → exec .post s = .next { a with mach := { s.mach with
      posts := s.mach.posts ++ [{ ctx := q.ctx, va := q.field 0 8, die := 0, jseq := j, warp := none }] } }) ∧
    (ok .ctxDestroy 0x11 [] true → exec .ctxDestroy s = .next (finishEntry (destroyContext a q.ctx) j 3 0)) ∧
    (∀ id, ok .window 0x12 [(0, 16)] true → q.field 8 8 ≠ 0 → q.field 8 8 ≤ 2 ^ 32 → freeWindow s.dev q.slot = some id →
      freeWindow a.dev q.slot = some id → exec .window s = .next (finishEntry { a with dev := updHostSlot a.dev q.slot fun x =>
        { x with windows := mapPut x.windows id (q.ctx, q.field 0 8, q.field 8 8) } } j 3 id)) ∧
    (∀ va len, ok .commit 0x13 [(0, 1), (8, 32)] true →
      mapGet? (getHostSlot s.dev q.slot).windows (q.field 0 1) = some (q.ctx, va, len) →
      mapGet? (getHostSlot a.dev q.slot).windows (q.field 0 1) = some (q.ctx, va, len) → ∃ t, exec .commit s = .next t ∧
      (let d := updHostSlot a.dev q.slot fun x => { x with windows := mapErase x.windows (q.field 0 1) }
      let r := readRange s.dev.gtc s.mach q.ctx va len
      (r.2.length = len → (sha3 r.2).take 32 = q.bytes 8 32 → (let x := commitPage d r.1 q.ctx va r.2
        t = finishEntry { a with mach := x.1, dev := d } j x.2.1 x.2.2)) ∧
      (¬ (r.2.length = len ∧ (sha3 r.2).take 32 = q.bytes 8 32) → t = finishEntry { a with mach := r.1, dev := d } j 4 0x30))) ∧
    (ok .ctxCreate 0x10 [(0, 8)] false → q.field 0 8 % 256 = 0 → q.field 0 8 + 256 ≤ 2 ^ 20 →
      contextBad s.mach (stagedRecord s1 q) (contextOfRecord q.slot (stagedRecord s1 q)) = false →
      stagedRecord a q = stagedRecord s1 q → exec .ctxCreate s = .next (
        (let r := createContext a.dev s.mach (getHostSlot a.dev q.slot).nonce (contextOfRecord q.slot (stagedRecord s1 q))
        finishEntry { a with mach := r.1 } j 3 r.2))) ∧
    (∀ e ∈ journalledKinds, standing s s1 q e.2.1 → q.frame.session ≠ 0 → ∀ r, sequenceCheck s1.dev q = some r →
      exec e.1 s = .next { s1 with dev := refuse q r s1.dev }))

/-- R371 to R375, R380, R465, R471: OPEN begins a session with a fresh key, CLOSE ends one, JREAD, READ and QUERY are answered without
the journal, an unlisted kind is refused with BAD_KIND; a good bulk frame writes its bytes in the staging area; a secret is
installed; other traffic is counted and dropped. -/
def Obligations.OtherHostTraffic : Prop :=
  ∀ (s s1 : State) (q : Msg), mapWf s.dev.slots = true → (let d := s1.dev
    (standing s s1 q 0x01 → q.ctx = 0 → bodyClear q [(0, 32)] = true → ∃ t, exec .openSession s = .next t ∧ t.mach = s.mach ∧
      t.dev.sessions = d.sessions + 1 ∧ (let x := getHostSlot t.dev q.slot
        x.session = sessionId d.sessions ∧ x.session ≠ 0 ∧ x.fseq = 0 ∧ x.nonce = q.bytes 0 32 ∧
        x.key = (sha3 ((getHostSlot d q.slot).secret.getD [] ++ q.bytes 0 32 ++ nonceBytes d.sessions)).take 32)) ∧
    (standing s s1 q 0x02 → q.frame.session ≠ 0 → q.ctx = 0 → bodyClear q [] = true → ∃ t, exec .closeSession s = .next t ∧
      t.mach = s.mach ∧ (getHostSlot t.dev q.slot).session = 0 ∧ (getHostSlot t.dev q.slot).windows = [] ∧
      ∀ k, k ≠ q.slot → getHostSlot t.dev k = getHostSlot d k) ∧
    (standing s s1 q 0x03 → q.ctx = 0 → bodyClear q [(0, 8), (8, 1)] = true → 1 ≤ q.field 0 8 → 1 ≤ q.field 8 1 → q.field 8 1 ≤ 15 →
      exec .jread s = .next { s1 with dev :=
        (let r := readEntries d q.slot (d.jhead + 1 - q.field 0 8) (q.field 0 8) (q.field 8 1)
        answer q 0 0 0 (wordsBytes [d.jhead, (getHostSlot d q.slot).hseq - 1, r.2] ++ r.1.flatten) d) }) ∧
    (standing s s1 q 0x14 → q.frame.session ≠ 0 → (msgCtx? s1 q).isSome → bodyClear q [(0, 16)] = true → 1 ≤ q.field 8 8 →
      q.field 8 8 ≤ 2 ^ 20 → (let r := readRange d.gtc s.mach q.ctx (q.field 0 8) (q.field 8 8)
        (r.2.length = q.field 8 8 → exec .read s =
          .next { s1 with mach := r.1, dev := answer q 0 0 0 [] (sendBulk q 128 0 r.2 d) }) ∧
        (r.2.length ≠ q.field 8 8 → exec .read s = .next { s1 with dev := refuse q .badBody d }))) ∧
    (∀ bs, standing s s1 q 0x24 → q.frame.session ≠ 0 → (msgCtx? s1 q).isSome → bodyClear q [(0, 1), (8, 8)] = true →
      q.field 0 1 ≤ 1 → (q.field 0 1 = 0 → q.field 8 8 < 2 ^ 32) → queried s1 q = some (q.ctx, bs) →
      exec .query s = .next { s1 with dev := answer q 0 0 0 bs d }) ∧
    (standing s s1 q 0x24 → q.frame.session ≠ 0 → ((msgCtx? s1 q) = none ∨ ∃ c bs, queried s1 q = some (c, bs) ∧ c ≠ q.ctx) →
      exec .query s = .next { s1 with dev := refuse q .noContext d }) ∧
    (standing s s1 q 0x24 → q.frame.session ≠ 0 → (msgCtx? s1 q).isSome → (∀ c bs, queried s1 q = some (c, bs) → c = q.ctx) →
      bodyClear q [(0, 1), (8, 8)] = false ∨ 1 < q.field 0 1 ∨ (q.field 0 1 = 0 ∧ 2 ^ 32 ≤ q.field 8 8) ∨ queried s1 q = none →
      exec .query s = .next { s1 with dev := refuse q .badBody d }) ∧
    (∀ kind, kind ∉ listedKinds → standing s s1 q kind →
      exec .unlistedMessageKind s = .next { s1 with dev := answer q 0 0 4 [] d }) ∧
    (∀ f rest, s.dev.mailbox = [] → s.inputs = .frame f :: rest → f.typ = 1 → bulkOk f = true → frameOk s.dev f = true →
      itemNat f.items 0 8 = 0 → itemNat f.items 8 8 + (f.items.length - 16) ≤ 2 ^ 20 → ∃ t, exec .bulkWrite s = .next t ∧
      t.inputs = rest ∧ t.mach = s.mach ∧ (getHostSlot t.dev f.slot.toNat).staging =
        memWrite (getHostSlot s.dev f.slot.toNat).staging (itemNat f.items 8 8) (f.items.drop 16)) ∧
    (∀ f rest, s.dev.mailbox = [] → s.inputs = .frame f :: rest → f.typ = 1 → (bulkOk f = false ∨ frameOk s.dev f = false) →
      exec .bulkWrite s = .next { s with inputs := rest }) ∧
    (∃ t, exec .otherTraffic s = .next t ∧ t.dev = { s.dev with dropped := s.dev.dropped + 1 } ∧ t.mach.healthNo = s.mach.healthNo + 1 ∧
      t.mach.mem = s.mach.mem) ∧
    (∀ slot hs rest, s.inputs = .secret slot hs :: rest → slot < 16 → hs.length = 32 → ∃ t, exec .hostSecretInstall s = .next t ∧
      t.inputs = rest ∧ t.mach = s.mach ∧ (getHostSlot t.dev slot).secret = some hs))

/-! ### Traps -/

/-- R348 to R354, R418: a trap of a running warp writes its frame and enters the handler with s53, s54 and a fresh stream, or freezes the
warp for Pumal with s53 and s54 unchanged; where the frame cannot be written the frame's fault goes to Pumal and memory stays as it
was; a trap in the handler is nested. Registers, flags, chunks and mode stay. -/
def Obligations.TrapEntry : Prop :=
  ∀ (m : Mach) (k : Nat) (w : Warp) (r : TrapRec) (rest : List TrapRec) (conf : Bool), getWarp? m k = some w →
    (∀ c, ctxOf m w = some c → dbgCtl c 7 = false) →
    (let t := takeTrap m k r rest conf
    let frame := frameAddr m w
    let keeps (w' : Warp) : Prop := w'.v = w.v ∧ w'.flags = w.flags ∧ w'.chunks = w.chunks ∧ w'.sup = w.sup ∧ w'.vbeat = w.vbeat ∧
      w'.exs = w.exs ∧ w'.ops = w.ops ∧ w'.gang = w.gang ∧ (∀ n, n ≠ 53 → n ≠ 54 → getS w' n = getS w n)
    (w.trapped = .running → ∀ h, frameHit m k w .write = .ok h → h.key + 0x8000 < foreignBase →
      (∀ x, x < h.key ∨ h.key + 0x8000 ≤ x → memGet t.mem x = memGet m.mem x) ∧
      (Memory.wf m.mem = true → memRead t.mem h.key 80 = wordsBytes (recordWords r (min 16 rest.length) ++
        [(getS w 53).value.toNat, (getS w 54).value.toNat])) ∧
      (∀ c, ctxOf m w = some c → c.route.getLsbD r.code = true → r.code ∉ [0x60, 0x64, 0x65] → mapWf w.s = true →
        ∃ w', getWarp? t k = some w' ∧ keeps w' ∧ w'.trapped = .handler frame ∧ w'.record = some r ∧ w'.pend = rest.take 16 ∧
          getS w' 53 = { value := BitVec.ofNat 64 frame, mark := false } ∧
          getS w' 54 = { value := BitVec.ofNat 64 (descriptor r (min 16 rest.length)), mark := false } ∧
          w'.p0 = freshPath c.hentry ∧ w'.p1 = none ∧ w'.region = none ∧ w'.split = none ∧ w'.flight = [] ∧ w'.enter = true) ∧
      (∀ c, ctxOf m w = some c → (c.route.getLsbD r.code = false ∨ r.code ∈ [0x60, 0x64, 0x65]) →
        ∃ w', getWarp? t k = some w' ∧ keeps w' ∧ w'.trapped = .pumal frame false none ∧ w'.record = some r ∧ w'.s = w.s ∧
          w'.p0 = w.p0 ∧ w'.p1 = w.p1)) ∧
    (w.trapped = .running → ∀ e, frameHit m k w .write = .error e → t.mem = m.mem ∧
      ∃ w' x, getWarp? t k = some w' ∧ keeps w' ∧ w'.trapped = .pumal frame false (some r) ∧ w'.record = some x ∧ x.code = e.code ∧
        x.addr = frame ∧ w'.s = w.s) ∧
    (∀ f, w.trapped = .handler f → t.mem = m.mem ∧ ∃ w', getWarp? t k = some w' ∧ keeps w' ∧ w'.trapped = .pumal f true none ∧
      w'.record = some { r with nested := true } ∧ w'.s = w.s))

/-- R352, R354, R355, R357: leaving a handler with no record pending restores s53, s54, the masks and places of the streams and the planes
from the frame, and the planed region and the split as the frame's words 0x1ED0 and 0x1ED8 have them; the warp runs again with its
registers and flags as the handler left them, and memory stays as it is. That a path's reconvergence stack, its banks' order and the marks
of s53 and s54 are kept on chip is the model's choice (log 33). -/
def Obligations.TrapReturn : Prop :=
  ∀ (d : Dev) (m : Mach) (k key frame : Nat) (w : Warp) (r : TrapRec) (sh : Shadow), getWarp? m k = some w →
    w.trapped = .handler frame → w.record = some r → r.cls ≠ 2 → w.shadow = some sh → w.flight = [] → w.due = [] → w.ext = [] →
    mapWf w.s = true → (let bs := openBytes m key 0x8000
    framePending bs = [] → (wordAt bs 0).getLsbD 63 = false →
    ∃ w', getWarp? (leaveTrap d m k key false) k = some w' ∧ (leaveTrap d m k key false).mem = m.mem ∧ w'.trapped = .running ∧
      w'.record = none ∧ w'.shadow = none ∧ w'.v = w.v ∧ w'.flags = w.flags ∧ w'.chunks = w.chunks ∧ w'.vbeat = w.vbeat ∧
      (∀ n, n ≠ 53 → n ≠ 54 → getS w' n = getS w n) ∧ (getS w' 53).value = wordAt bs 0x40 ∧ (getS w' 54).value = wordAt bs 0x48 ∧
      w'.pmlo = wordAt bs 0x1ec0 ∧ w'.pmhi = wordAt bs 0x1ec8 ∧
      w'.region = regionOfFrame bs (regionWord { w with p0 := sh.p0, region := sh.region } 0) sh.region ∧
      w'.split = (if (wordAt bs 0x1ed8).getLsbD 63 = true then sh.split else none) ∧
      (∀ i pl more, ((frameStreams bs).filter fun x => x.2.1 = 0) = (i, 0, pl) :: more →
        w'.p0.xm = wordAt bs (0x110 + 64 * i) ∧ w'.p0.mask = wordAt bs (0x118 + 64 * i) ∧
        w'.p0.vp0 = wordAt bs (0x120 + 64 * i) ∧ w'.p0.vp1 = wordAt bs (0x128 + 64 * i) ∧ w'.p0.vpv = wordAt bs (0x130 + 64 * i) ∧
        w'.p0.gap = bits (wordAt bs (0x100 + 64 * i)) 19 16 + (if pathSpent sh.p0 = true ∧
          (∃ x ∈ frameStreams bs, x.2.1 = 0 ∧ (wordAt bs (0x100 + 64 * x.1)).getLsbD 62 = true) then 1 else 0) ∧
        w'.p0.place.off = bits (wordAt bs (0x100 + 64 * i)) 15 0))

/-! ### What register operations leave alone -/

/-- The warp at issue has nothing in flight and no transfer under way. -/
def calm (s : State) (st : Stage) : Prop :=
  ∃ w, getWarp? s.mach st.cur.warp = some w ∧ w.flight = [] ∧ w.late = [] ∧ w.p0.delay = none ∧ ∀ q, w.p1 = some q → q.delay = none

/-- What the issue of a register operation leaves as it was: memory and its poison, the device, the contexts, every other warp, and of
the warp its vector registers, flags, chunks, ports, command count and the rest of its control state, and every scalar but `sd`. -/
def leavesAlone (s t : State) (k : Nat) (sd : Option Nat) : Prop :=
  t.mach.mem = s.mach.mem ∧ t.mach.ecc = s.mach.ecc ∧ t.dev = s.dev ∧ t.inputs = s.inputs ∧ t.mach.ctxs = s.mach.ctxs ∧
  (∀ j, j ≠ k → getWarp? t.mach j = getWarp? s.mach j) ∧
  ∃ w w', getWarp? s.mach k = some w ∧ getWarp? t.mach k = some w' ∧ w'.v = w.v ∧ w'.flags = w.flags ∧ w'.chunks = w.chunks ∧
    w'.ports = w.ports ∧ w'.seq = w.seq ∧ w'.round = w.round ∧ w'.target = w.target ∧ w'.stklim = w.stklim ∧ w'.sup = w.sup ∧
    w'.trapped = w.trapped ∧ w'.due = w.due ∧ (∀ n, sd ≠ some n → getS w' n = getS w n)

/-- R20, R53, R62, R171: VADD to VSRA, VCLZ to VFKEY, the FP32 operations of two sources and the scalar operations on registers and
immediates change no memory, no flag, no vector register at issue and no scalar but their own; the integer ones leave c.exs. -/
def Obligations.RegisterFormsFrame : Prop :=
  ∀ (s t : State) (st : Stage), calm s st → (let k := st.cur.warp
    let same (f : Warp → Nat) : Prop := ∀ w w', getWarp? s.mach k = some w → getWarp? t.mach k = some w' → f w' = f w
    (∀ e ∈ integerLanes, ∀ vd va vb nw, AtIssue s .v (e.1 vd va vb nw) st → st.c.readable [va, vb] →
      exec (e.1 vd va vb nw) s = .next t → leavesAlone s t k none ∧ same (·.exs)) ∧
    (∀ e ∈ unaryLanes, ∀ vd va nw, AtIssue s .v (e.1 vd va nw) st → st.c.readable [va] →
      exec (e.1 vd va nw) s = .next t → leavesAlone s t k none ∧ same (·.exs)) ∧
    (∀ e ∈ floatLanes, ∀ vd va vb nw, AtIssue s .v (e.1 vd va vb nw) st → st.c.readable [va, vb] →
      (st.c.untrapped fun i => (e.2.2.2 (st.c.lane va i) (st.c.lane vb i)).2) →
      exec (e.1 vd va vb nw) s = .next t → leavesAlone s t k none) ∧
    (∀ e ∈ scalarPairs, ∀ sd sa sb, AtIssue s .c (e.1 sd sa sb) st → st.c.usable [sa, sb] (some sd) →
      exec (e.1 sd sa sb) s = .next t → leavesAlone s t k (some sd.toNat) ∧ same (·.exs)) ∧
    (∀ e ∈ scalarImmediates, ∀ sd sa i, AtIssue s .c (e.1 sd sa i) st → st.c.usable [sa] (some sd) →
      exec (e.1 sd sa i) s = .next t → leavesAlone s t k (some sd.toNat) ∧ same (·.exs)))

/-! ### The whole machine -/

/-- R145, R148 to R157: every slot word that the encoder writes for a well-formed operation decodes to that operation with all its
operands, four such words packed with any gap, sync mark and broadcast number come back as they were, and a bundle of one operation
decodes to it; three words stand apart: a LIMM alone, a BRD whose target field is below 3, and an unassigned opcode. -/
def Obligations.EncodeDecode : Prop :=
  (∀ i w, i.wf = true → encodeV i = some w → decodeV w = .ok i) ∧ (∀ i w, i.wf = true → encodeM i = some w → decodeM w = .ok i) ∧
  (∀ i w, i.wf = true → encodeX i = some w → decodeX w = .ok i) ∧ (∀ i w, i.wf = true → encodeC i = some w → decodeC w = .ok i) ∧
  (∀ (gap : BitVec 4) (sync : Bool) (b : BitVec 6) (v m x c : Instr) (wv wm : BitVec 30) (wx wc : BitVec 28),
    v.wf = true → m.wf = true → x.wf = true → c.wf = true →
    (encodeV v = some wv ∨ (v = .nop ∧ wv = 0#30)) → (encodeM m = some wm ∨ (m = .nop ∧ wm = 0#30)) →
    (encodeX x = some wx ∨ (x = .nop ∧ wx = 0#28)) → (encodeC c = some wc ∨ (c = .nop ∧ wc = 0#28)) →
    bundleOps (packBundle gap sync b wv wm wx wc) = { gap := gap, sync := sync, b := b, v := v, m := m, x := x, c := c } ∧
    (packBundle gap sync b wv wm wx wc).getLsbD 122 = false) ∧
  (∀ i b, i.wf = true → encode i = some b → (∀ l, i ≠ .limm l) → (∀ s t j, i = .brd s t j → 3 ≤ t.toNat) →
    (∀ slot op, i ≠ .unassignedOpcode slot op) →
    (∃ o, decodeBundle b = .ok o ∧ o.single = some i) ∧ bundleOfBytes (leBytes 16 b) = b)

/-- R145, R158, R249, R268, R453: words that the spec writes out decode to the instructions that it gives them, and its bundle to the
bit to the operations of its four slots. -/
def Obligations.DecodedWords : Prop :=
  decodeV 0x05067FFA#30 = .ok (.vmovi 12 (-3) false) ∧ decodeV 0x0C028620#30 = .ok (.vcvt 5 6 .rz .f2i false) ∧
  decodeV 0x10870650#30 = .ok (.vcmpLt 7 3 20) ∧ decodeM 0x01121C02#30 = .ok (.ldv 9 3 .word 0 2) ∧
  decodeM 0x0610A713#30 = .ok (.ldsAcq 4 10 .team .dword 1 3) ∧ decodeM 0x220C1C22#30 = .ok (.daccv .addF32 6 7 2) ∧
  decodeM 0x28100001#30 = .ok (.flush .task 1) ∧ decodeM 0x29A00000#30 = .ok (.fence .rel .device) ∧
  decodeX 0x0A208C6#28 = .ok (.cpyin true 4 2 6 (some 3)) ∧ decodeX 0x4A00200#28 = .ok (.chb 1 none) ∧
  decodeX 0x5000C30#28 = .ok (.mstepG 0 3 3) ∧ decodeX 0x7120000#28 = .ok (.gang 1 1) ∧
  decodeC 0x0E38620#28 = .ok (.div 7 3 4) ∧ decodeC 0x50484BF#28 = .ok (.cmpi .lt 9 2 0x3f) ∧
  decodeC 0x8818580#28 = .ok (.crd 3 0x0b) ∧ decodeC 0x8000024#28 = .ok (.fwait 0x24) ∧
  decodeC 0xA041304#28 = .ok (.sprint true 8 9 4) ∧ decodeC 0x79000A0#28 = .ok (.penter 2 20) ∧
  decodeC 0x6C20283#28 = .ok (.brd 4 5 3) ∧ decodeC 0x8818980#28 = .ok (.crdEnergyLo 3) ∧ decodeC 0x3228820#28 = .ok (.shli 5 4 32) ∧
  decodeBundle (bundleOfBytes [0x01, 0x8A, 0x42, 0, 0, 0, 0, 0x02, 0x1C, 0x12, 0x01, 0x41, 0x80, 0x30, 0x02, 0x10]) =
    .ok { gap := 1, sync := false, b := 0, v := .vfma 4 1 2 false, m := .ldv 9 3 .word 0 2, x := .nop, c := .addi 5 5 1 }

/-- R15, R30, R158: when the bundle at the place of the one due stream of the selected warp decodes and holds one operation, the step
of its core is that operation's meaning, with the warp brought to its boundary and the bundle at the issue stage; a bundle of several
operations takes its whole beat; an event of the agenda is that event's meaning. -/
def Obligations.StepRunsDecoded : Prop :=
  ∀ (s : State) (rest : List Move), s.dev.supply = .on →
    (∀ core, s.agenda = .issue core :: rest → clockRuns s.mach core = false → step s = .next { s with agenda := rest }) ∧
    (∀ core k, s.agenda = .issue core :: rest → clockRuns s.mach core = true → (let s1 : State := { s with agenda := rest, mach := selectWarp s.mach core }
      let m := lookAhead s1 k
      let b := atBoundary s.dev.gtc m k
      (getCore s1.mach core).selected = some k →
      (returns m k = true → step s = .next { s1 with mach := leaveAfter s.dev m k, cur := none }) ∧
      (∀ w p pl v bundle o i, returns m k = false → getWarp? b k = some w → stepsItself w = true → gangTurn b w = .go →
        entryWaits w = false → w.ret = false → (∀ q ∈ pathsOf w, atJoin b k w q = false) →
        dueStreams b w = [(p, pl)] → stopDue b k w [(p, pl)] = none → boundaryTrap actionOf s.dev b k w [(p, pl)] = none →
        (let view := beatView b k w [(p, pl)]
        let addr := bundleAddr v (getPath v p).place pl
        getWarp? view k = some v → boundaryTrap actionOf s.dev view k v [(p, pl)] = none →
        fetchFor view k v p pl = .got bundle → fetchSound view k v p pl = true → decodeBundle bundle = .ok o →
        stateFaults v p pl addr o (if pl = 0 then none else leadOps view k v p) = [] → pastEnd v p = false →
        joinMissing v p o = false → soleOp o = some i →
        step s = exec i { s1 with mach := b, cur := some (stageOf k p pl o) })) ∧
      (returns m k = false → soleIssue s.dev b k = none → step s = .next { s1 with mach := wholeBeat actionOf s.dev 8 m k, cur := none }))) ∧
    (∀ i, s.agenda = .event i :: rest → encode i = none → step s = exec i { s with agenda := rest }) ∧
    (∀ ns, s.agenda = .elapse ns :: rest → ∃ t, step s = .next t ∧ t.mach.clock = s.mach.clock + ns ∧
      t.dev.gtc = s.dev.gtc + (s.dev.ptp.part + ns * (1000000000 + s.dev.ptp.slew).toNat) / 1000000000 ∧
      (s.dev.ptp.slew = 0 → s.dev.ptp.part = 0 → t.dev.gtc = s.dev.gtc + ns) ∧ t.agenda = rest ∧
      (dueSamples s.mach ns = [] → t.mach.mem = s.mach.mem))

/-- R430, R431, R435, R448, R456, R466: the limits of PCC.LIM and of the other registers of the control block after reset; PCC.LIM's
layout; a write of it is valid when ILIM is not 0 and then holds its fields; QC follows the plate's capacity as it is reported; the
machine after reset has GTC 0, no memory listed, no warp, context or node, and is inside every limit. Memory's contents at reset are
the model's choice (log 3). -/
def Obligations.ResetState : Prop :=
  (let d := State.reset.dev
  let m := State.reset.mach
  d.pcc.ilim = 2400 ∧ d.pcc.ceil = 3400 ∧ d.pcc.susw = 2200 ∧ d.pcc.qc = 2600 ∧ d.pcc.ramp = 64 ∧ d.pcc.sust = 11 ∧ d.pcc.bstep = 0 ∧
  d.pcc.sso = 0 ∧ d.pcc.balen = false ∧ d.pcc.e = 0 ∧ d.pcc.melt = 0 ∧ d.pcc.rfz = false ∧ d.pcc.syse = 0 ∧ d.pcc.bale = 0 ∧
  d.gtc = 0 ∧ d.ptp.lock = false ∧ d.ptp.hold = false ∧ d.ptp.offs = 0 ∧ d.ptp.domain = 0 ∧ d.wear.gb = (0, 0) ∧ d.tlbiCtl = 0#64 ∧
  d.tlbiRng = 0#64 ∧ d.traps = [] ∧ d.journal = [] ∧ m.mem = [] ∧ m.warps = [] ∧ m.ctxs = [] ∧ m.nodes = [] ∧ m.teams = [] ∧ d.inLimits) ∧
  (∀ p : Pcc, p.ilim < 2 ^ 16 → p.ceil < 2 ^ 16 → p.susw < 2 ^ 16 → p.qc < 2 ^ 16 →
    pccLim p = p.ilim * 2 ^ 48 + p.ceil * 2 ^ 32 + p.susw * 2 ^ 16 + p.qc) ∧
  (∀ (s : State) (v : DWord), (1 ≤ v.toNat / 2 ^ 48 → ∃ t, exec (.registerWrite .pccLim v) s = .next t ∧ t.mach = s.mach ∧
      pccLim t.dev.pcc = v.toNat ∧ t.dev.pcc = { s.dev.pcc with
        ilim := t.dev.pcc.ilim, ceil := t.dev.pcc.ceil, susw := t.dev.pcc.susw, qc := t.dev.pcc.qc }) ∧
    (v.toNat / 2 ^ 48 = 0 → ∃ t, exec (.registerWrite .pccLim v) s = .next t ∧ t.dev = s.dev)) ∧
  (∀ (s : State) (tin flow : Nat) (rest : List Input), s.inputs = .coolant tin flow :: rest →
    ∃ t, exec .coolantChange s = .next t ∧ t.dev.pcc.qc = plateCapacity tin flow)

/-- R430, R431, R435, R448, R456: no step takes a register of the control block outside its limits, and MELT is always that of the
store's energy. -/
def Obligations.LimitsKept : Prop :=
  ∀ s t : State, s.dev.inLimits → step s = .next t → t.dev.inLimits

/-- R377, R378: a finished journal entry stays as it is until a new entry takes its position or a boot empties the ring. -/
def Obligations.FinishedEntriesStay : Prop :=
  ∀ (s t : State) (e : JEntry), e ∈ s.dev.journal → e.finished → 1 ≤ e.jseq → step s = .next t →
    e ∈ t.dev.journal ∨ (t.dev.jhead = s.dev.jhead + 1 ∧ e.jseq + journalSize = t.dev.jhead) ∨ t.dev.boots = s.dev.boots + 1

/-- The machine never stops: every step from every state answers a next state, whatever the agenda holds. -/
def Obligations.EveryStepCompletes : Prop := ∀ s : State, Completes (step s)
end

