-- ==== Sys2Proof/Laws/Issue.lean ====
section
/-!
SUPPORT. What the meaning of an operation of a bundle does at the issue stage: one lemma for each way an examination ends.
-/

namespace Sys2Proof.Machine

/-- The warp and the bundle of a stage. -/
theorem opStage_o {s : State} {slot : Slot} {i : Instr} {st : Stage} (h : opStage s slot i = some st) :
    st.o = stageOps st.cur slot i ∧ s.cur = some st.cur ∧ st.c.d = s.dev ∧ st.c.k = st.cur.warp ∧
    st.c.path = st.cur.path ∧ st.c.plane = st.cur.plane ∧ st.c.limm = (stageOps st.cur slot i).x.limm22 := by
  unfold opStage at h
  split at h
  · cases h
  · split at h
    · cases h
    · simp only [Option.some.injEq] at h
      subst h
      simp_all [ctxFor]

/-- Where a stage has a warp, the operation has an outcome. -/
theorem runOp_stage {s : State} {slot : Slot} {i : Instr} {st : Stage} (h : opStage s slot i = some st) (a : Act) :
    runOp s slot i a = .next { s with mach := stageMach s st slot a } := by
  simp [runOp, h]

/-- The C slot of a stage whose operation is no FWAIT. -/
theorem stageOps_c {cur : Cur} {slot : Slot} {i : Instr} (hi : ∀ f, i ≠ .fwait f) (f : BitVec 16) :
    (stageOps cur slot i).c ≠ .fwait f := by
  cases slot <;> simp [stageOps, hi]

/-- A bundle whose popped entries are there feeds every slot. -/
theorem not_starved {c : Ctx} (h : (c.pops.any fun p => p.value.isNone) = false) (ns : List Nat) : starved c ns = false := by
  simp only [starved, List.any_eq_false, List.any_eq_true, Bool.and_eq_true, not_exists, not_and] at *
  intro n _ p hp he
  exact absurd he.2 (h p hp)

/-- A slot that has its operand keeps all its checks. -/
@[simp] theorem unfed_false (a : Action) : a.unfed false = a := by simp [Action.unfed]

/-- An operation with nothing against it makes its bundle ready. -/
theorem stageExam_ready {s : State} {slot : Slot} {i : Instr} {st : Stage} (h : AtIssue s slot i st) {a : Act}
    (hi : ∀ f, i ≠ .fwait f) (ha : (a st.c).free) :
    stageMach s st slot a = st.issued (a st.c).fx (a st.c).last (a st.c).after := by
  obtain ⟨ho, hp, hq⟩ := h
  obtain ⟨hs, ht, hb⟩ := ha
  have hc := fun f => stageOps_c (cur := st.cur) (slot := slot) hi f
  rw [← (opStage_o ho).1] at hc
  cases slot <;>
  · unfold stageMach stageExam examOps
    simp only [reduceIte, reduceCtorEq, nopAct, not_starved hp, unfed_false, placeTrap, hs, ht, hb, hp, hq, causeIf, leastCause, Bool.false_eq_true]
    cases hcase : (a st.c).after <;> simp [Stage.issued, issueStream, effects, firstExn, hcase]

/-- The meaning of an operation with nothing against it. -/
theorem runOp_ready {s : State} {slot : Slot} {i : Instr} {st : Stage} (h : AtIssue s slot i st) {a : Act}
    (hi : ∀ f, i ≠ .fwait f) (ha : (a st.c).free) :
    runOp s slot i a = st.next s (a st.c).fx (a st.c).last (a st.c).after := by
  rw [runOp_stage h.1, stageExam_ready h hi ha]; rfl

/-- The number of a slot in a trap record (R354). -/
def slotNo (s : Slot) : Nat := slotCode (some s)

/-- What a slot shows without its operand of an action whose check traps: all of it, where the check reads no value or the operand is
there. -/
theorem unfed_trap {a : Action} {b : Bool} {e : Exn} (ht : a.trap = some e) (h : b = true → e.code ∈ valueFree) :
    (a.unfed b).trap = some e := by
  cases b with
  | false => simpa using ht
  | true => simp [Action.unfed, ht, h rfl]

theorem unfed_stop (a : Action) (b : Bool) : (a.unfed b).stop = a.stop := by cases b <;> rfl

theorem unfed_empty (b : Bool) : Action.unfed {} b = {} := by cases b <;> rfl

/-- An operation whose check fails traps, unless the check reads a queue that is empty as yet; its record names its slot. -/
theorem runOp_traps {s : State} {slot : Slot} {i : Instr} {st : Stage} (h : opStage s slot i = some st) {a : Act} {e : Exn}
    (hi : ∀ f, i ≠ .fwait f) (hs : (a st.c).stop = none) (ht : (a st.c).trap = some e) (he : e.code ≠ TrapName.fpTrap.code)
    (hv : e.code ∈ valueFree ∨ (st.c.pops.any fun p => p.value.isNone) = false) :
    runOp s slot i a = st.traps s (slotNo slot) e := by
  have hc := fun f => stageOps_c (cur := st.cur) (slot := slot) hi f
  rw [← (opStage_o h).1] at hc
  rw [runOp_stage h]
  have hf : ∀ ns, ((a st.c).unfed (starved st.c ns)).trap = some e := fun ns =>
    unfed_trap ht fun hb => hv.elim id fun h0 => by simp [not_starved h0] at hb
  cases slot <;>
  · unfold stageMach stageExam examOps
    simp [nopAct, hs, hf, unfed_stop, unfed_empty, placeTrap, Stage.traps, slotNo, slotCode, fpTrapBits, he]

/-- An operation that blocks its bundle. -/
theorem runOp_waits {s : State} {slot : Slot} {i : Instr} {st : Stage} (h : opStage s slot i = some st) {a : Act} {w : Cause}
    (hi : ∀ f, i ≠ .fwait f) (hp : (st.c.pops.any fun p => p.value.isNone) = false)
    (hq : pushFull st.c.m st.c.w st.o = false) (hs : (a st.c).stop = none) (ht : (a st.c).trap = none) (hb : (a st.c).block = some w) :
    runOp s slot i a = st.waits s w (a st.c).miss (if slot = .x then (a st.c).early else id) := by
  have hc := fun f => stageOps_c (cur := st.cur) (slot := slot) hi f
  rw [← (opStage_o h).1] at hc
  rw [runOp_stage h]
  cases slot <;>
  · unfold stageMach stageExam examOps
    simp only [not_starved hp, hp, hq]
    simp [nopAct, placeTrap, hs, ht, hb, causeIf, leastCause, Stage.waits]

/-! ### Checks that hold -/

/-- Scalars that may be used pass their checks. -/
theorem scalars_none {c : Ctx} {srcs : List (BitVec 6)} {dst : Option (BitVec 6)} (h : c.usable srcs dst) :
    c.scalars srcs dst = none := by
  obtain ⟨h1, h2⟩ := h
  have hp : srcs.find? (fun n => (c.s n).mark) = none := by
    simp only [List.find?_eq_none]
    intro n hn; simp [(h1 n hn).1]
  have hr : (srcs.any fun n => (portOf c.w n.toNat).elim false (·.role = .producer)) = false := by
    simp only [List.any_eq_false]
    intro n hn
    cases hq : portOf c.w n.toNat with
    | none => simp
    | some b => simp [(h1 n hn).2.1 b hq]
  have hd : (dst.elim false fun n => (portOf c.w n.toNat).elim false (·.role = .consumer)) = false := by
    cases dst with
    | none => rfl
    | some n =>
      cases hq : portOf c.w n.toNat with
      | none => simp [hq]
      | some b => simp [hq, h2 n rfl b hq]
  have hs : (srcs.any fun n => c.pops.any fun p => p.port = n.toNat && p.shut) = false := by
    simp only [List.any_eq_false]
    intro n hn
    simp only [List.any_eq_true, not_exists, not_and]
    intro p hp
    by_cases he : p.port = n.toNat
    · simp [he, (h1 n hn).2.2 p hp he]
    · simp [he]
  simp [Ctx.scalars, Ctx.poisonS, Ctx.roles, Ctx.shut, exnIf, firstExn, hp, hr, hd, hs]

/-- Lanes that are clean pass the poison check. -/
theorem poisonReads_none {c : Ctx} {rs : List (BitVec 7 × DWord)} (h : c.clean rs) : c.poisonReads rs = none := by
  unfold Ctx.poisonReads
  simp only [Option.map_eq_none_iff, List.find?_eq_none, List.mem_range, List.any_eq_true, Bool.and_eq_true, not_exists, not_and]
  intro l hl r hr hm
  simp [h r hr l hl hm]

/-- The scalar of bs passes its checks where it may be used. -/
theorem bsChecks_none {c : Ctx} {rs : List (BitVec 7)} (h : c.bsUsable rs) : c.bsChecks rs = none := by
  unfold Ctx.bsChecks
  split
  · next hc =>
    have h2 := scalars_none (h (by simpa using hc))
    unfold Ctx.scalars at h2
    revert h2
    cases c.poisonS [BitVec.ofNat 6 c.b] <;> simp [firstExn]
  · rfl

/-- A lane operation whose sources may be read has nothing against it. -/
theorem vecOp_free {l : Nat} {rs : List (BitVec 7)} {reads : Ctx → List (BitVec 7 × DWord)} {pre : Ctx → Option Exn}
    {vd : BitVec 7} {nw : Bool} {f : Ctx → Nat → Flagged Word} {c : Ctx} (hm : c.mask ≠ 0#64) (hr : c.clean (reads c))
    (hb : c.bsUsable rs) (hp : pre c = none) (hf : c.untrapped fun i => (f c i).2) : (vecOp l rs reads pre vd nw f c).free := by
  have h1 := poisonReads_none hr
  have h2 := bsChecks_none hb
  have h3 : (c.fpTrap fun i => (f c i).2) = none := by
    unfold Ctx.fpTrap firstLane lanesOf
    simp only [Option.map_eq_none_iff, List.find?_eq_none, List.mem_filter, List.mem_range]
    intro i hi
    simp [hf i hi.1 hi.2]
  simp [vecOp, hm, h1, h2, h3, hp, Action.free, firstExn]

/-! ### Shared operations of the V slot -/

/-- What the mould of V operations with a vector result does. -/
theorem vecOp_next {s : State} {i : Instr} {st : Stage} (h : AtIssue s .v i st) (hi : ∀ f, i ≠ .fwait f) {l : Nat}
    {rs : List (BitVec 7)} {reads : Ctx → List (BitVec 7 × DWord)} {pre : Ctx → Option Exn} {vd : BitVec 7} {nw : Bool}
    {f : Ctx → Nat → Flagged Word} (hr : st.c.mask ≠ 0#64 → st.c.clean (reads st.c) ∧ st.c.bsUsable rs)
    (hp : st.c.mask ≠ 0#64 → pre st.c = none) (hf : st.c.untrapped fun i => (f st.c i).2) :
    runOp s .v i (vecOp l rs reads pre vd nw f) = st.next s (st.c.vectorResult l vd nw (f st.c)) := by
  by_cases hm : st.c.mask = 0#64
  · have he : vecOp l rs reads pre vd nw f st.c = {} := by simp [vecOp, hm]
    rw [runOp_ready h hi (by rw [he]; exact ⟨rfl, rfl, rfl⟩), he]
    congr 1
    funext m
    simp [Ctx.vectorResult, hm]
  · rw [runOp_ready h hi (vecOp_free hm (hr hm).1 (hr hm).2 (hp hm) hf)]
    simp only [vecOp, hm, if_false]
    congr 1
    funext m
    simp [Ctx.vectorResult, hm]

/-- An operation without flags traps on none. -/
theorem untrapped_zero (c : Ctx) {f : Nat → Nat} (h : ∀ i, f i = 0) : c.untrapped f := fun l _ _ => by simp [h l]

theorem poisonV_none {c : Ctx} {rs : List (BitVec 7)} (h : c.clean (rs.map fun r => (r, c.mask))) : c.poisonV rs = none := by
  unfold Ctx.poisonV firstLane lanesOf
  simp only [Option.map_eq_none_iff, List.find?_eq_none, List.mem_filter, List.mem_range, List.any_eq_true, not_exists, not_and]
  intro l hl r hr
  simp [h (r, c.mask) (List.mem_map.2 ⟨r, hr, rfl⟩) l hl.1 hl.2]

/-- The roles of scalars that may be used. -/
theorem roles_none {c : Ctx} {srcs : List (BitVec 6)} {dst : Option (BitVec 6)} (h : c.usable srcs dst) :
    c.roles srcs dst = none := by
  have h2 := scalars_none h
  unfold Ctx.scalars at h2
  revert h2
  cases c.poisonS srcs <;> cases c.roles srcs dst <;> simp [firstExn]

/-- What the mould of V operations with a scalar result does. -/
theorem maskOp_next {s : State} {i : Instr} {st : Stage} (h : AtIssue s .v i st) (hi : ∀ f, i ≠ .fwait f) {l : Nat}
    {sd : BitVec 6} {rs : List (BitVec 7)} {f : Ctx → Nat → Flagged Bool}
    (hr : st.c.clean (rs.map fun r => (r, st.c.mask))) (hb : st.c.mask ≠ 0#64 → st.c.bsUsable rs)
    (hd : st.c.usable [] (some sd)) (hf : st.c.untrapped fun i => (f st.c i).2) :
    runOp s .v i (maskOp l sd rs f) = st.next s (st.c.maskResult l sd (f st.c)) := by
  have h3 : (st.c.fpTrap fun i => (f st.c i).2) = none := by
    unfold Ctx.fpTrap firstLane lanesOf
    simp only [Option.map_eq_none_iff, List.find?_eq_none, List.mem_filter, List.mem_range]
    intro i hi
    simp [hf i hi.1 hi.2]
  have h4 : (if st.c.mask = 0#64 then none else st.c.bsChecks rs) = none := by
    split
    · rfl
    · next hm => exact bsChecks_none (hb hm)
  have hfree : (maskOp l sd rs f st.c).free := by
    simp [maskOp, Action.free, poisonV_none hr, h4, roles_none hd, h3, firstExn]
  rw [runOp_ready h hi hfree]
  rfl

/-! ### Shared operations on scalars -/

/-- An operation whose only check is that its scalars may be used. -/
theorem scalar_next {s : State} {slot : Slot} {i : Instr} {st : Stage} (h : AtIssue s slot i st) (hi : ∀ f, i ≠ .fwait f) {a : Act}
    {srcs : List (BitVec 6)} {dst : Option (BitVec 6)} {fx : Mach → Mach} (hu : st.c.usable srcs dst)
    (ha : a st.c = { trap := st.c.scalars srcs dst, fx := fx }) : runOp s slot i a = st.next s fx := by
  rw [runOp_ready h hi (by rw [ha]; exact ⟨rfl, scalars_none hu, rfl⟩), ha]

/-- An operation without a check. -/
theorem plain_next {s : State} {slot : Slot} {i : Instr} {st : Stage} (h : AtIssue s slot i st) (hi : ∀ f, i ≠ .fwait f) {a : Act}
    {fx last : Mach → Mach} {after : Option Exn} (ha : a st.c = { fx := fx, last := last, after := after }) :
    runOp s slot i a = st.next s fx last after := by
  rw [runOp_ready h hi (by rw [ha]; exact ⟨rfl, rfl, rfl⟩), ha]

end Sys2Proof.Machine
end

