-- ==== Sys2Proof/Laws/Memory.lean ====
section
/-!
SUPPORT. Maps and memory: reading what was set, leaving every other key alone, and the canonical form that every operation
keeps.
-/

namespace Sys2Proof.Machine

variable {α : Type}

/-! ### Looking a key up -/

@[simp] theorem mapGet?_put_self (m : Map α) (n : Nat) (a : α) : mapGet? (mapPut m n a) n = some a := by
  induction m with
  | nil => simp [mapPut, mapGet?]
  | cons x rest ih =>
    obtain ⟨k, b⟩ := x
    simp only [mapPut]
    split
    · simp [mapGet?]
    · split
      · simp [mapGet?]
      · rename_i h1 h2
        simp [mapGet?, h2, ih]

theorem mapGet?_put_other (m : Map α) {n j : Nat} (a : α) (h : j ≠ n) : mapGet? (mapPut m n a) j = mapGet? m j := by
  induction m with
  | nil => simp [mapPut, mapGet?, h]
  | cons x rest ih =>
    obtain ⟨k, b⟩ := x
    simp only [mapPut]
    split
    · simp [mapGet?, h]
    · split
      · rename_i h1 h2
        subst h2
        simp [mapGet?, h]
      · simp [mapGet?, ih]

theorem mapGet?_erase_other (m : Map α) {n j : Nat} (h : j ≠ n) : mapGet? (mapErase m n) j = mapGet? m j := by
  induction m with
  | nil => rfl
  | cons x rest ih =>
    obtain ⟨k, b⟩ := x
    simp only [mapErase]
    split
    · rename_i h1
      subst h1
      simp [mapGet?, h]
    · simp [mapGet?, ih]

theorem mapGet?_upd_self (m : Map α) (n : Nat) (f : α → α) : mapGet? (mapUpd m n f) n = (mapGet? m n).map f := by
  induction m with
  | nil => rfl
  | cons x rest ih =>
    obtain ⟨k, b⟩ := x
    simp only [mapUpd, List.map_cons] at ih ⊢
    by_cases h : k = n
    · simp [mapGet?, h]
    · simp [mapGet?, h, Ne.symm h, ih]

theorem mapGet?_upd_other (m : Map α) {n j : Nat} (f : α → α) (h : j ≠ n) : mapGet? (mapUpd m n f) j = mapGet? m j := by
  induction m with
  | nil => rfl
  | cons x rest ih =>
    obtain ⟨k, b⟩ := x
    simp only [mapUpd, List.map_cons] at ih ⊢
    by_cases hk : k = n
    · have : j ≠ k := by omega
      simp [mapGet?, hk, h, ih]
    · by_cases hj : j = k <;> simp [mapGet?, hk, hj, ih]

/-! ### Sorted maps -/

theorem mapSortedFrom_mono {m : Map α} {lo lo' : Nat} (h : mapSortedFrom lo m = true) (hl : lo' ≤ lo) :
    mapSortedFrom lo' m = true := by
  cases m with
  | nil => rfl
  | cons x rest =>
    obtain ⟨k, b⟩ := x
    simp only [mapSortedFrom, Bool.and_eq_true, decide_eq_true_eq] at h ⊢
    exact ⟨by omega, h.2⟩

/-- A sorted map from above a key does not list it. -/
theorem mapGet?_below {m : Map α} {lo n : Nat} (h : mapSortedFrom lo m = true) (hn : n < lo) : mapGet? m n = none := by
  induction m generalizing lo with
  | nil => rfl
  | cons x rest ih =>
    obtain ⟨k, b⟩ := x
    simp only [mapSortedFrom, Bool.and_eq_true, decide_eq_true_eq] at h
    have : n ≠ k := by omega
    simp [mapGet?, this, ih h.2 (by omega)]

theorem mapSortedFrom_put {m : Map α} {lo n : Nat} (a : α) (h : mapSortedFrom lo m = true) (hn : lo ≤ n) :
    mapSortedFrom lo (mapPut m n a) = true := by
  induction m generalizing lo with
  | nil => simp [mapPut, mapSortedFrom, hn]
  | cons x rest ih =>
    obtain ⟨k, b⟩ := x
    have h' := h
    simp only [mapSortedFrom, Bool.and_eq_true, decide_eq_true_eq] at h'
    simp only [mapPut]
    split
    · rename_i h1
      simp only [mapSortedFrom, Bool.and_eq_true, decide_eq_true_eq]
      exact ⟨hn, by omega, h'.2⟩
    · split
      · rename_i h2
        subst h2
        simp only [mapSortedFrom, Bool.and_eq_true, decide_eq_true_eq]
        exact ⟨h'.1, h'.2⟩
      · simp only [mapSortedFrom, Bool.and_eq_true, decide_eq_true_eq]
        exact ⟨h'.1, ih h'.2 (by omega)⟩

theorem mapSortedFrom_erase {m : Map α} {lo n : Nat} (h : mapSortedFrom lo m = true) : mapSortedFrom lo (mapErase m n) = true := by
  induction m generalizing lo with
  | nil => rfl
  | cons x rest ih =>
    obtain ⟨k, b⟩ := x
    simp only [mapSortedFrom, Bool.and_eq_true, decide_eq_true_eq] at h
    simp only [mapErase]
    split
    · exact mapSortedFrom_mono h.2 (by omega)
    · simp only [mapSortedFrom, Bool.and_eq_true, decide_eq_true_eq]
      exact ⟨h.1, ih h.2⟩

theorem mapGet?_erase_self {m : Map α} {lo n : Nat} (h : mapSortedFrom lo m = true) : mapGet? (mapErase m n) n = none := by
  induction m generalizing lo with
  | nil => rfl
  | cons x rest ih =>
    obtain ⟨k, b⟩ := x
    simp only [mapSortedFrom, Bool.and_eq_true, decide_eq_true_eq] at h
    simp only [mapErase]
    split
    · rename_i h1
      subst h1
      exact mapGet?_below h.2 (by omega)
    · rename_i h1
      simp [mapGet?, h1, ih h.2]

theorem mapSortedFrom_filter {m : Map α} {lo : Nat} (p : Nat × α → Bool) (h : mapSortedFrom lo m = true) :
    mapSortedFrom lo (m.filter p) = true := by
  induction m generalizing lo with
  | nil => rfl
  | cons x rest ih =>
    obtain ⟨k, b⟩ := x
    simp only [mapSortedFrom, Bool.and_eq_true, decide_eq_true_eq] at h
    simp only [List.filter_cons]
    split
    · simp only [mapSortedFrom, Bool.and_eq_true, decide_eq_true_eq]
      exact ⟨h.1, ih h.2⟩
    · exact mapSortedFrom_mono (ih h.2) (by omega)

theorem mapWf_put {m : Map α} (n : Nat) (a : α) (h : mapWf m = true) : mapWf (mapPut m n a) = true :=
  mapSortedFrom_put a h (Nat.zero_le n)
theorem mapWf_erase {m : Map α} (n : Nat) (h : mapWf m = true) : mapWf (mapErase m n) = true := mapSortedFrom_erase h

/-! ### Maps with a value for what is not listed -/

theorem mapGetD_setD_self [DecidableEq α] {m : Map α} (n : Nat) (d a : α) (h : mapWf m = true) :
    mapGetD (mapSetD m n d a) n d = a := by
  unfold mapSetD mapGetD
  split
  · rename_i h1
    rw [mapGet?_erase_self h, h1]; rfl
  · rw [mapGet?_put_self]; rfl

theorem mapGetD_setD_other [DecidableEq α] (m : Map α) {n j : Nat} (d a e : α) (h : j ≠ n) :
    mapGetD (mapSetD m n d a) j e = mapGetD m j e := by
  unfold mapSetD mapGetD
  split
  · rw [mapGet?_erase_other m h]
  · rw [mapGet?_put_other m a h]

theorem mapWf_setD [DecidableEq α] {m : Map α} (n : Nat) (d a : α) (h : mapWf m = true) : mapWf (mapSetD m n d a) = true := by
  unfold mapSetD
  split
  · exact mapWf_erase n h
  · exact mapWf_put n a h

/-! ### Byte memory (log 3) -/

theorem memGet_set_self {m : Memory} (a : Nat) (b : Byte) (h : Memory.wf m = true) : memGet (memSet m a b) a = b := by
  unfold Memory.wf at h
  simp only [Bool.and_eq_true] at h
  exact mapGetD_setD_self a 0#8 b h.1

theorem memGet_set_other (m : Memory) {a x : Nat} (b : Byte) (h : x ≠ a) : memGet (memSet m a b) x = memGet m x :=
  mapGetD_setD_other m 0#8 b 0#8 h

theorem all_put (m : Memory) (a : Nat) {b : Byte} (hb : b ≠ 0#8) (h : m.all (fun x => x.2 != 0#8) = true) :
    (mapPut m a b).all (fun x => x.2 != 0#8) = true := by
  induction m with
  | nil => simp [mapPut, hb]
  | cons x rest ih =>
    obtain ⟨k, c⟩ := x
    have h' := h
    simp only [List.all_cons, Bool.and_eq_true] at h'
    simp only [mapPut]
    split
    · simp only [List.all_cons, Bool.and_eq_true]
      exact ⟨by simpa using hb, h'.1, h'.2⟩
    · split
      · simp only [List.all_cons, Bool.and_eq_true]
        exact ⟨by simpa using hb, h'.2⟩
      · simp only [List.all_cons, Bool.and_eq_true]
        exact ⟨h'.1, ih h'.2⟩

theorem all_erase (m : Memory) (a : Nat) (h : m.all (fun x => x.2 != 0#8) = true) :
    (mapErase m a).all (fun x => x.2 != 0#8) = true := by
  induction m with
  | nil => rfl
  | cons x rest ih =>
    obtain ⟨k, c⟩ := x
    simp only [List.all_cons, Bool.and_eq_true] at h
    simp only [mapErase]
    split
    · exact h.2
    · simp only [List.all_cons, Bool.and_eq_true]
      exact ⟨h.1, ih h.2⟩

theorem memSet_wf {m : Memory} (a : Nat) (b : Byte) (h : Memory.wf m = true) : Memory.wf (memSet m a b) = true := by
  unfold Memory.wf at h ⊢
  simp only [Bool.and_eq_true] at h ⊢
  refine ⟨mapWf_setD a 0#8 b h.1, ?_⟩
  unfold memSet mapSetD
  split
  · exact all_erase m a h.2
  · rename_i hb
    exact all_put m a hb h.2

theorem memWrite_wf {m : Memory} (a : Nat) (bs : List Byte) (h : Memory.wf m = true) : Memory.wf (memWrite m a bs) = true := by
  induction bs generalizing m a with
  | nil => exact h
  | cons b bs ih => exact ih (a + 1) (memSet_wf a b h)

theorem memZero_wf {m : Memory} (a n : Nat) (h : Memory.wf m = true) : Memory.wf (memZero m a n) = true := by
  unfold Memory.wf at h ⊢
  simp only [Bool.and_eq_true] at h ⊢
  refine ⟨mapSortedFrom_filter _ h.1, ?_⟩
  unfold memZero
  rw [List.all_eq_true] at h ⊢
  intro x hx
  exact h.2 x (List.mem_of_mem_filter hx)

/-- A write leaves every byte below it and from its end on alone. -/
theorem memGet_write_other (m : Memory) (bs : List Byte) {a x : Nat} (h : x < a ∨ a + bs.length ≤ x) :
    memGet (memWrite m a bs) x = memGet m x := by
  induction bs generalizing m a with
  | nil => rfl
  | cons b bs ih =>
    simp only [List.length_cons] at h
    simp only [memWrite]
    rw [ih (memSet m a b) (by omega), memGet_set_other m b (by omega)]

/-- A byte that was written is read back. -/
theorem memGet_write_self {m : Memory} (bs : List Byte) {a i : Nat} (hm : Memory.wf m = true) (h : i < bs.length) :
    memGet (memWrite m a bs) (a + i) = bs.getD i 0#8 := by
  induction bs generalizing m a i with
  | nil => simp at h
  | cons b bs ih =>
    simp only [memWrite]
    cases i with
    | zero =>
      rw [memGet_write_other _ bs (by omega)]
      simpa using memGet_set_self a b hm
    | succ j =>
      simp only [List.length_cons] at h
      have := ih (m := memSet m a b) (a := a + 1) (i := j) (memSet_wf a b hm) (by omega)
      rw [show a + (j + 1) = a + 1 + j by omega, this]
      simp

theorem memRead_write {m : Memory} (a : Nat) (bs : List Byte) (hm : Memory.wf m = true) :
    memRead (memWrite m a bs) a bs.length = bs := by
  unfold memRead
  apply List.ext_getElem
  · simp
  · intro i h1 h2
    simp only [List.getElem_map, List.getElem_range]
    rw [memGet_write_self bs hm h2]
    simp [List.getD, h2]

/-- A whitewash makes its bytes 0 and leaves the others alone. -/
theorem mapGet?_filter {m : Map α} (p : Nat → Bool) (n : Nat) :
    mapGet? (m.filter fun x => p x.1) n = if p n then mapGet? m n else none := by
  induction m with
  | nil => simp [mapGet?]
  | cons x rest ih =>
    obtain ⟨k, b⟩ := x
    simp only [List.filter_cons]
    by_cases hk : p k = true
    · rw [if_pos hk]
      by_cases hn : n = k
      · subst hn; simp [mapGet?, hk]
      · simp [mapGet?, hn, ih]
    · rw [if_neg hk, ih]
      by_cases hn : n = k
      · subst hn; simp [hk]
      · simp [mapGet?, hn]

theorem memGet_zero (m : Memory) (a n x : Nat) : memGet (memZero m a n) x = if x < a ∨ a + n ≤ x then memGet m x else 0#8 := by
  have := mapGet?_filter (m := m) (fun k => k < a || a + n ≤ k) x
  unfold memGet mapGetD memZero
  simp only [Bool.or_eq_true, decide_eq_true_eq] at this
  rw [this]
  split <;> rfl

theorem reset_mem_wf : Memory.wf State.reset.mach.mem = true := rfl

end Sys2Proof.Machine
end

