-- ==== Sys2Proof/Laws/State.lean ====
section
/-!
SUPPORT. Which field of the machine each update leaves alone: one lemma per field per update, true by unfolding, so that no
later proof unfolds a record update.
-/

namespace Sys2Proof.Machine

/-! ### setWarp -/

@[simp] theorem setWarp_mem (m : Mach) (k : Nat) (w : Warp) : (setWarp m k w).mem = m.mem := rfl
@[simp] theorem setWarp_ecc (m : Mach) (k : Nat) (w : Warp) : (setWarp m k w).ecc = m.ecc := rfl
@[simp] theorem setWarp_cores (m : Mach) (k : Nat) (w : Warp) : (setWarp m k w).cores = m.cores := rfl
@[simp] theorem setWarp_clusters (m : Mach) (k : Nat) (w : Warp) : (setWarp m k w).clusters = m.clusters := rfl
@[simp] theorem setWarp_teams (m : Mach) (k : Nat) (w : Warp) : (setWarp m k w).teams = m.teams := rfl
@[simp] theorem setWarp_gangs (m : Mach) (k : Nat) (w : Warp) : (setWarp m k w).gangs = m.gangs := rfl
@[simp] theorem setWarp_ctxs (m : Mach) (k : Nat) (w : Warp) : (setWarp m k w).ctxs = m.ctxs := rfl
@[simp] theorem setWarp_nodes (m : Mach) (k : Nat) (w : Warp) : (setWarp m k w).nodes = m.nodes := rfl
@[simp] theorem setWarp_gens (m : Mach) (k : Nat) (w : Warp) : (setWarp m k w).gens = m.gens := rfl
@[simp] theorem setWarp_posts (m : Mach) (k : Nat) (w : Warp) : (setWarp m k w).posts = m.posts := rfl
@[simp] theorem setWarp_episodes (m : Mach) (k : Nat) (w : Warp) : (setWarp m k w).episodes = m.episodes := rfl
@[simp] theorem setWarp_misses (m : Mach) (k : Nat) (w : Warp) : (setWarp m k w).misses = m.misses := rfl
@[simp] theorem setWarp_tlb0 (m : Mach) (k : Nat) (w : Warp) : (setWarp m k w).tlb0 = m.tlb0 := rfl
@[simp] theorem setWarp_tlb1 (m : Mach) (k : Nat) (w : Warp) : (setWarp m k w).tlb1 = m.tlb1 := rfl
@[simp] theorem setWarp_keys (m : Mach) (k : Nat) (w : Warp) : (setWarp m k w).keys = m.keys := rfl
@[simp] theorem setWarp_ports (m : Mach) (k : Nat) (w : Warp) : (setWarp m k w).ports = m.ports := rfl
@[simp] theorem setWarp_pkg (m : Mach) (k : Nat) (w : Warp) : (setWarp m k w).pkg = m.pkg := rfl
@[simp] theorem setWarp_pod (m : Mach) (k : Nat) (w : Warp) : (setWarp m k w).pod = m.pod := rfl
@[simp] theorem setWarp_draws (m : Mach) (k : Nat) (w : Warp) : (setWarp m k w).draws = m.draws := rfl
@[simp] theorem setWarp_retry (m : Mach) (k : Nat) (w : Warp) : (setWarp m k w).retry = m.retry := rfl
@[simp] theorem setWarp_clock (m : Mach) (k : Nat) (w : Warp) : (setWarp m k w).clock = m.clock := rfl
@[simp] theorem setWarp_pagenext (m : Mach) (k : Nat) (w : Warp) : (setWarp m k w).pagenext = m.pagenext := rfl
@[simp] theorem setWarp_pinned (m : Mach) (k : Nat) (w : Warp) : (setWarp m k w).pinned = m.pinned := rfl
@[simp] theorem setWarp_lastctx (m : Mach) (k : Nat) (w : Warp) : (setWarp m k w).lastctx = m.lastctx := rfl
@[simp] theorem setWarp_sprints (m : Mach) (k : Nat) (w : Warp) : (setWarp m k w).sprints = m.sprints := rfl
@[simp] theorem setWarp_health (m : Mach) (k : Nat) (w : Warp) : (setWarp m k w).health = m.health := rfl
@[simp] theorem setWarp_healthNo (m : Mach) (k : Nat) (w : Warp) : (setWarp m k w).healthNo = m.healthNo := rfl
@[simp] theorem setWarp_errs (m : Mach) (k : Nat) (w : Warp) : (setWarp m k w).errs = m.errs := rfl
@[simp] theorem setWarp_tick (m : Mach) (k : Nat) (w : Warp) : (setWarp m k w).tick = m.tick := rfl

/-! ### updCore -/

@[simp] theorem updCore_mem (m : Mach) (c : Nat) (f : Core → Core) : (updCore m c f).mem = m.mem := rfl
@[simp] theorem updCore_ecc (m : Mach) (c : Nat) (f : Core → Core) : (updCore m c f).ecc = m.ecc := rfl
@[simp] theorem updCore_warps (m : Mach) (c : Nat) (f : Core → Core) : (updCore m c f).warps = m.warps := rfl
@[simp] theorem updCore_clusters (m : Mach) (c : Nat) (f : Core → Core) : (updCore m c f).clusters = m.clusters := rfl
@[simp] theorem updCore_teams (m : Mach) (c : Nat) (f : Core → Core) : (updCore m c f).teams = m.teams := rfl
@[simp] theorem updCore_gangs (m : Mach) (c : Nat) (f : Core → Core) : (updCore m c f).gangs = m.gangs := rfl
@[simp] theorem updCore_ctxs (m : Mach) (c : Nat) (f : Core → Core) : (updCore m c f).ctxs = m.ctxs := rfl
@[simp] theorem updCore_nodes (m : Mach) (c : Nat) (f : Core → Core) : (updCore m c f).nodes = m.nodes := rfl
@[simp] theorem updCore_gens (m : Mach) (c : Nat) (f : Core → Core) : (updCore m c f).gens = m.gens := rfl
@[simp] theorem updCore_posts (m : Mach) (c : Nat) (f : Core → Core) : (updCore m c f).posts = m.posts := rfl
@[simp] theorem updCore_episodes (m : Mach) (c : Nat) (f : Core → Core) : (updCore m c f).episodes = m.episodes := rfl
@[simp] theorem updCore_misses (m : Mach) (c : Nat) (f : Core → Core) : (updCore m c f).misses = m.misses := rfl
@[simp] theorem updCore_tlb0 (m : Mach) (c : Nat) (f : Core → Core) : (updCore m c f).tlb0 = m.tlb0 := rfl
@[simp] theorem updCore_tlb1 (m : Mach) (c : Nat) (f : Core → Core) : (updCore m c f).tlb1 = m.tlb1 := rfl
@[simp] theorem updCore_keys (m : Mach) (c : Nat) (f : Core → Core) : (updCore m c f).keys = m.keys := rfl
@[simp] theorem updCore_ports (m : Mach) (c : Nat) (f : Core → Core) : (updCore m c f).ports = m.ports := rfl
@[simp] theorem updCore_pkg (m : Mach) (c : Nat) (f : Core → Core) : (updCore m c f).pkg = m.pkg := rfl
@[simp] theorem updCore_pod (m : Mach) (c : Nat) (f : Core → Core) : (updCore m c f).pod = m.pod := rfl
@[simp] theorem updCore_draws (m : Mach) (c : Nat) (f : Core → Core) : (updCore m c f).draws = m.draws := rfl
@[simp] theorem updCore_retry (m : Mach) (c : Nat) (f : Core → Core) : (updCore m c f).retry = m.retry := rfl
@[simp] theorem updCore_clock (m : Mach) (c : Nat) (f : Core → Core) : (updCore m c f).clock = m.clock := rfl
@[simp] theorem updCore_pagenext (m : Mach) (c : Nat) (f : Core → Core) : (updCore m c f).pagenext = m.pagenext := rfl
@[simp] theorem updCore_pinned (m : Mach) (c : Nat) (f : Core → Core) : (updCore m c f).pinned = m.pinned := rfl
@[simp] theorem updCore_lastctx (m : Mach) (c : Nat) (f : Core → Core) : (updCore m c f).lastctx = m.lastctx := rfl
@[simp] theorem updCore_sprints (m : Mach) (c : Nat) (f : Core → Core) : (updCore m c f).sprints = m.sprints := rfl
@[simp] theorem updCore_health (m : Mach) (c : Nat) (f : Core → Core) : (updCore m c f).health = m.health := rfl
@[simp] theorem updCore_healthNo (m : Mach) (c : Nat) (f : Core → Core) : (updCore m c f).healthNo = m.healthNo := rfl
@[simp] theorem updCore_errs (m : Mach) (c : Nat) (f : Core → Core) : (updCore m c f).errs = m.errs := rfl
@[simp] theorem updCore_tick (m : Mach) (c : Nat) (f : Core → Core) : (updCore m c f).tick = m.tick := rfl

/-! ### updCluster -/

@[simp] theorem updCluster_mem (m : Mach) (c : Nat) (f : Cluster → Cluster) : (updCluster m c f).mem = m.mem := rfl
@[simp] theorem updCluster_ecc (m : Mach) (c : Nat) (f : Cluster → Cluster) : (updCluster m c f).ecc = m.ecc := rfl
@[simp] theorem updCluster_warps (m : Mach) (c : Nat) (f : Cluster → Cluster) : (updCluster m c f).warps = m.warps := rfl
@[simp] theorem updCluster_cores (m : Mach) (c : Nat) (f : Cluster → Cluster) : (updCluster m c f).cores = m.cores := rfl
@[simp] theorem updCluster_teams (m : Mach) (c : Nat) (f : Cluster → Cluster) : (updCluster m c f).teams = m.teams := rfl
@[simp] theorem updCluster_gangs (m : Mach) (c : Nat) (f : Cluster → Cluster) : (updCluster m c f).gangs = m.gangs := rfl
@[simp] theorem updCluster_ctxs (m : Mach) (c : Nat) (f : Cluster → Cluster) : (updCluster m c f).ctxs = m.ctxs := rfl
@[simp] theorem updCluster_nodes (m : Mach) (c : Nat) (f : Cluster → Cluster) : (updCluster m c f).nodes = m.nodes := rfl
@[simp] theorem updCluster_gens (m : Mach) (c : Nat) (f : Cluster → Cluster) : (updCluster m c f).gens = m.gens := rfl
@[simp] theorem updCluster_posts (m : Mach) (c : Nat) (f : Cluster → Cluster) : (updCluster m c f).posts = m.posts := rfl
@[simp] theorem updCluster_episodes (m : Mach) (c : Nat) (f : Cluster → Cluster) : (updCluster m c f).episodes = m.episodes := rfl
@[simp] theorem updCluster_misses (m : Mach) (c : Nat) (f : Cluster → Cluster) : (updCluster m c f).misses = m.misses := rfl
@[simp] theorem updCluster_tlb0 (m : Mach) (c : Nat) (f : Cluster → Cluster) : (updCluster m c f).tlb0 = m.tlb0 := rfl
@[simp] theorem updCluster_tlb1 (m : Mach) (c : Nat) (f : Cluster → Cluster) : (updCluster m c f).tlb1 = m.tlb1 := rfl
@[simp] theorem updCluster_keys (m : Mach) (c : Nat) (f : Cluster → Cluster) : (updCluster m c f).keys = m.keys := rfl
@[simp] theorem updCluster_ports (m : Mach) (c : Nat) (f : Cluster → Cluster) : (updCluster m c f).ports = m.ports := rfl
@[simp] theorem updCluster_pkg (m : Mach) (c : Nat) (f : Cluster → Cluster) : (updCluster m c f).pkg = m.pkg := rfl
@[simp] theorem updCluster_pod (m : Mach) (c : Nat) (f : Cluster → Cluster) : (updCluster m c f).pod = m.pod := rfl
@[simp] theorem updCluster_draws (m : Mach) (c : Nat) (f : Cluster → Cluster) : (updCluster m c f).draws = m.draws := rfl
@[simp] theorem updCluster_retry (m : Mach) (c : Nat) (f : Cluster → Cluster) : (updCluster m c f).retry = m.retry := rfl
@[simp] theorem updCluster_clock (m : Mach) (c : Nat) (f : Cluster → Cluster) : (updCluster m c f).clock = m.clock := rfl
@[simp] theorem updCluster_pagenext (m : Mach) (c : Nat) (f : Cluster → Cluster) : (updCluster m c f).pagenext = m.pagenext := rfl
@[simp] theorem updCluster_pinned (m : Mach) (c : Nat) (f : Cluster → Cluster) : (updCluster m c f).pinned = m.pinned := rfl
@[simp] theorem updCluster_lastctx (m : Mach) (c : Nat) (f : Cluster → Cluster) : (updCluster m c f).lastctx = m.lastctx := rfl
@[simp] theorem updCluster_sprints (m : Mach) (c : Nat) (f : Cluster → Cluster) : (updCluster m c f).sprints = m.sprints := rfl
@[simp] theorem updCluster_health (m : Mach) (c : Nat) (f : Cluster → Cluster) : (updCluster m c f).health = m.health := rfl
@[simp] theorem updCluster_healthNo (m : Mach) (c : Nat) (f : Cluster → Cluster) : (updCluster m c f).healthNo = m.healthNo := rfl
@[simp] theorem updCluster_errs (m : Mach) (c : Nat) (f : Cluster → Cluster) : (updCluster m c f).errs = m.errs := rfl
@[simp] theorem updCluster_tick (m : Mach) (c : Nat) (f : Cluster → Cluster) : (updCluster m c f).tick = m.tick := rfl

/-! ### updTeam -/

@[simp] theorem updTeam_mem (m : Mach) (t : Nat) (f : Team → Team) : (updTeam m t f).mem = m.mem := rfl
@[simp] theorem updTeam_ecc (m : Mach) (t : Nat) (f : Team → Team) : (updTeam m t f).ecc = m.ecc := rfl
@[simp] theorem updTeam_warps (m : Mach) (t : Nat) (f : Team → Team) : (updTeam m t f).warps = m.warps := rfl
@[simp] theorem updTeam_cores (m : Mach) (t : Nat) (f : Team → Team) : (updTeam m t f).cores = m.cores := rfl
@[simp] theorem updTeam_clusters (m : Mach) (t : Nat) (f : Team → Team) : (updTeam m t f).clusters = m.clusters := rfl
@[simp] theorem updTeam_gangs (m : Mach) (t : Nat) (f : Team → Team) : (updTeam m t f).gangs = m.gangs := rfl
@[simp] theorem updTeam_ctxs (m : Mach) (t : Nat) (f : Team → Team) : (updTeam m t f).ctxs = m.ctxs := rfl
@[simp] theorem updTeam_nodes (m : Mach) (t : Nat) (f : Team → Team) : (updTeam m t f).nodes = m.nodes := rfl
@[simp] theorem updTeam_gens (m : Mach) (t : Nat) (f : Team → Team) : (updTeam m t f).gens = m.gens := rfl
@[simp] theorem updTeam_posts (m : Mach) (t : Nat) (f : Team → Team) : (updTeam m t f).posts = m.posts := rfl
@[simp] theorem updTeam_episodes (m : Mach) (t : Nat) (f : Team → Team) : (updTeam m t f).episodes = m.episodes := rfl
@[simp] theorem updTeam_misses (m : Mach) (t : Nat) (f : Team → Team) : (updTeam m t f).misses = m.misses := rfl
@[simp] theorem updTeam_tlb0 (m : Mach) (t : Nat) (f : Team → Team) : (updTeam m t f).tlb0 = m.tlb0 := rfl
@[simp] theorem updTeam_tlb1 (m : Mach) (t : Nat) (f : Team → Team) : (updTeam m t f).tlb1 = m.tlb1 := rfl
@[simp] theorem updTeam_keys (m : Mach) (t : Nat) (f : Team → Team) : (updTeam m t f).keys = m.keys := rfl
@[simp] theorem updTeam_ports (m : Mach) (t : Nat) (f : Team → Team) : (updTeam m t f).ports = m.ports := rfl
@[simp] theorem updTeam_pkg (m : Mach) (t : Nat) (f : Team → Team) : (updTeam m t f).pkg = m.pkg := rfl
@[simp] theorem updTeam_pod (m : Mach) (t : Nat) (f : Team → Team) : (updTeam m t f).pod = m.pod := rfl
@[simp] theorem updTeam_draws (m : Mach) (t : Nat) (f : Team → Team) : (updTeam m t f).draws = m.draws := rfl
@[simp] theorem updTeam_retry (m : Mach) (t : Nat) (f : Team → Team) : (updTeam m t f).retry = m.retry := rfl
@[simp] theorem updTeam_clock (m : Mach) (t : Nat) (f : Team → Team) : (updTeam m t f).clock = m.clock := rfl
@[simp] theorem updTeam_pagenext (m : Mach) (t : Nat) (f : Team → Team) : (updTeam m t f).pagenext = m.pagenext := rfl
@[simp] theorem updTeam_pinned (m : Mach) (t : Nat) (f : Team → Team) : (updTeam m t f).pinned = m.pinned := rfl
@[simp] theorem updTeam_lastctx (m : Mach) (t : Nat) (f : Team → Team) : (updTeam m t f).lastctx = m.lastctx := rfl
@[simp] theorem updTeam_sprints (m : Mach) (t : Nat) (f : Team → Team) : (updTeam m t f).sprints = m.sprints := rfl
@[simp] theorem updTeam_health (m : Mach) (t : Nat) (f : Team → Team) : (updTeam m t f).health = m.health := rfl
@[simp] theorem updTeam_healthNo (m : Mach) (t : Nat) (f : Team → Team) : (updTeam m t f).healthNo = m.healthNo := rfl
@[simp] theorem updTeam_errs (m : Mach) (t : Nat) (f : Team → Team) : (updTeam m t f).errs = m.errs := rfl
@[simp] theorem updTeam_tick (m : Mach) (t : Nat) (f : Team → Team) : (updTeam m t f).tick = m.tick := rfl

/-! ### updCtx -/

@[simp] theorem updCtx_mem (m : Mach) (c : Nat) (f : Context → Context) : (updCtx m c f).mem = m.mem := rfl
@[simp] theorem updCtx_ecc (m : Mach) (c : Nat) (f : Context → Context) : (updCtx m c f).ecc = m.ecc := rfl
@[simp] theorem updCtx_warps (m : Mach) (c : Nat) (f : Context → Context) : (updCtx m c f).warps = m.warps := rfl
@[simp] theorem updCtx_cores (m : Mach) (c : Nat) (f : Context → Context) : (updCtx m c f).cores = m.cores := rfl
@[simp] theorem updCtx_clusters (m : Mach) (c : Nat) (f : Context → Context) : (updCtx m c f).clusters = m.clusters := rfl
@[simp] theorem updCtx_teams (m : Mach) (c : Nat) (f : Context → Context) : (updCtx m c f).teams = m.teams := rfl
@[simp] theorem updCtx_gangs (m : Mach) (c : Nat) (f : Context → Context) : (updCtx m c f).gangs = m.gangs := rfl
@[simp] theorem updCtx_nodes (m : Mach) (c : Nat) (f : Context → Context) : (updCtx m c f).nodes = m.nodes := rfl
@[simp] theorem updCtx_gens (m : Mach) (c : Nat) (f : Context → Context) : (updCtx m c f).gens = m.gens := rfl
@[simp] theorem updCtx_posts (m : Mach) (c : Nat) (f : Context → Context) : (updCtx m c f).posts = m.posts := rfl
@[simp] theorem updCtx_episodes (m : Mach) (c : Nat) (f : Context → Context) : (updCtx m c f).episodes = m.episodes := rfl
@[simp] theorem updCtx_misses (m : Mach) (c : Nat) (f : Context → Context) : (updCtx m c f).misses = m.misses := rfl
@[simp] theorem updCtx_tlb0 (m : Mach) (c : Nat) (f : Context → Context) : (updCtx m c f).tlb0 = m.tlb0 := rfl
@[simp] theorem updCtx_tlb1 (m : Mach) (c : Nat) (f : Context → Context) : (updCtx m c f).tlb1 = m.tlb1 := rfl
@[simp] theorem updCtx_keys (m : Mach) (c : Nat) (f : Context → Context) : (updCtx m c f).keys = m.keys := rfl
@[simp] theorem updCtx_ports (m : Mach) (c : Nat) (f : Context → Context) : (updCtx m c f).ports = m.ports := rfl
@[simp] theorem updCtx_pkg (m : Mach) (c : Nat) (f : Context → Context) : (updCtx m c f).pkg = m.pkg := rfl
@[simp] theorem updCtx_pod (m : Mach) (c : Nat) (f : Context → Context) : (updCtx m c f).pod = m.pod := rfl
@[simp] theorem updCtx_draws (m : Mach) (c : Nat) (f : Context → Context) : (updCtx m c f).draws = m.draws := rfl
@[simp] theorem updCtx_retry (m : Mach) (c : Nat) (f : Context → Context) : (updCtx m c f).retry = m.retry := rfl
@[simp] theorem updCtx_clock (m : Mach) (c : Nat) (f : Context → Context) : (updCtx m c f).clock = m.clock := rfl
@[simp] theorem updCtx_pagenext (m : Mach) (c : Nat) (f : Context → Context) : (updCtx m c f).pagenext = m.pagenext := rfl
@[simp] theorem updCtx_pinned (m : Mach) (c : Nat) (f : Context → Context) : (updCtx m c f).pinned = m.pinned := rfl
@[simp] theorem updCtx_lastctx (m : Mach) (c : Nat) (f : Context → Context) : (updCtx m c f).lastctx = m.lastctx := rfl
@[simp] theorem updCtx_sprints (m : Mach) (c : Nat) (f : Context → Context) : (updCtx m c f).sprints = m.sprints := rfl
@[simp] theorem updCtx_health (m : Mach) (c : Nat) (f : Context → Context) : (updCtx m c f).health = m.health := rfl
@[simp] theorem updCtx_healthNo (m : Mach) (c : Nat) (f : Context → Context) : (updCtx m c f).healthNo = m.healthNo := rfl
@[simp] theorem updCtx_errs (m : Mach) (c : Nat) (f : Context → Context) : (updCtx m c f).errs = m.errs := rfl
@[simp] theorem updCtx_tick (m : Mach) (c : Nat) (f : Context → Context) : (updCtx m c f).tick = m.tick := rfl

/-! ### updNode -/

@[simp] theorem updNode_mem (m : Mach) (n : Nat) (f : Node → Node) : (updNode m n f).mem = m.mem := rfl
@[simp] theorem updNode_ecc (m : Mach) (n : Nat) (f : Node → Node) : (updNode m n f).ecc = m.ecc := rfl
@[simp] theorem updNode_warps (m : Mach) (n : Nat) (f : Node → Node) : (updNode m n f).warps = m.warps := rfl
@[simp] theorem updNode_cores (m : Mach) (n : Nat) (f : Node → Node) : (updNode m n f).cores = m.cores := rfl
@[simp] theorem updNode_clusters (m : Mach) (n : Nat) (f : Node → Node) : (updNode m n f).clusters = m.clusters := rfl
@[simp] theorem updNode_teams (m : Mach) (n : Nat) (f : Node → Node) : (updNode m n f).teams = m.teams := rfl
@[simp] theorem updNode_gangs (m : Mach) (n : Nat) (f : Node → Node) : (updNode m n f).gangs = m.gangs := rfl
@[simp] theorem updNode_ctxs (m : Mach) (n : Nat) (f : Node → Node) : (updNode m n f).ctxs = m.ctxs := rfl
@[simp] theorem updNode_gens (m : Mach) (n : Nat) (f : Node → Node) : (updNode m n f).gens = m.gens := rfl
@[simp] theorem updNode_posts (m : Mach) (n : Nat) (f : Node → Node) : (updNode m n f).posts = m.posts := rfl
@[simp] theorem updNode_episodes (m : Mach) (n : Nat) (f : Node → Node) : (updNode m n f).episodes = m.episodes := rfl
@[simp] theorem updNode_misses (m : Mach) (n : Nat) (f : Node → Node) : (updNode m n f).misses = m.misses := rfl
@[simp] theorem updNode_tlb0 (m : Mach) (n : Nat) (f : Node → Node) : (updNode m n f).tlb0 = m.tlb0 := rfl
@[simp] theorem updNode_tlb1 (m : Mach) (n : Nat) (f : Node → Node) : (updNode m n f).tlb1 = m.tlb1 := rfl
@[simp] theorem updNode_keys (m : Mach) (n : Nat) (f : Node → Node) : (updNode m n f).keys = m.keys := rfl
@[simp] theorem updNode_ports (m : Mach) (n : Nat) (f : Node → Node) : (updNode m n f).ports = m.ports := rfl
@[simp] theorem updNode_pkg (m : Mach) (n : Nat) (f : Node → Node) : (updNode m n f).pkg = m.pkg := rfl
@[simp] theorem updNode_pod (m : Mach) (n : Nat) (f : Node → Node) : (updNode m n f).pod = m.pod := rfl
@[simp] theorem updNode_draws (m : Mach) (n : Nat) (f : Node → Node) : (updNode m n f).draws = m.draws := rfl
@[simp] theorem updNode_retry (m : Mach) (n : Nat) (f : Node → Node) : (updNode m n f).retry = m.retry := rfl
@[simp] theorem updNode_clock (m : Mach) (n : Nat) (f : Node → Node) : (updNode m n f).clock = m.clock := rfl
@[simp] theorem updNode_pagenext (m : Mach) (n : Nat) (f : Node → Node) : (updNode m n f).pagenext = m.pagenext := rfl
@[simp] theorem updNode_pinned (m : Mach) (n : Nat) (f : Node → Node) : (updNode m n f).pinned = m.pinned := rfl
@[simp] theorem updNode_lastctx (m : Mach) (n : Nat) (f : Node → Node) : (updNode m n f).lastctx = m.lastctx := rfl
@[simp] theorem updNode_sprints (m : Mach) (n : Nat) (f : Node → Node) : (updNode m n f).sprints = m.sprints := rfl
@[simp] theorem updNode_health (m : Mach) (n : Nat) (f : Node → Node) : (updNode m n f).health = m.health := rfl
@[simp] theorem updNode_healthNo (m : Mach) (n : Nat) (f : Node → Node) : (updNode m n f).healthNo = m.healthNo := rfl
@[simp] theorem updNode_errs (m : Mach) (n : Nat) (f : Node → Node) : (updNode m n f).errs = m.errs := rfl
@[simp] theorem updNode_tick (m : Mach) (n : Nat) (f : Node → Node) : (updNode m n f).tick = m.tick := rfl

/-! ### bump -/

@[simp] theorem bump_mem (m : Mach) : (bump m).mem = m.mem := rfl
@[simp] theorem bump_ecc (m : Mach) : (bump m).ecc = m.ecc := rfl
@[simp] theorem bump_warps (m : Mach) : (bump m).warps = m.warps := rfl
@[simp] theorem bump_cores (m : Mach) : (bump m).cores = m.cores := rfl
@[simp] theorem bump_clusters (m : Mach) : (bump m).clusters = m.clusters := rfl
@[simp] theorem bump_teams (m : Mach) : (bump m).teams = m.teams := rfl
@[simp] theorem bump_gangs (m : Mach) : (bump m).gangs = m.gangs := rfl
@[simp] theorem bump_ctxs (m : Mach) : (bump m).ctxs = m.ctxs := rfl
@[simp] theorem bump_nodes (m : Mach) : (bump m).nodes = m.nodes := rfl
@[simp] theorem bump_gens (m : Mach) : (bump m).gens = m.gens := rfl
@[simp] theorem bump_posts (m : Mach) : (bump m).posts = m.posts := rfl
@[simp] theorem bump_episodes (m : Mach) : (bump m).episodes = m.episodes := rfl
@[simp] theorem bump_misses (m : Mach) : (bump m).misses = m.misses := rfl
@[simp] theorem bump_tlb0 (m : Mach) : (bump m).tlb0 = m.tlb0 := rfl
@[simp] theorem bump_tlb1 (m : Mach) : (bump m).tlb1 = m.tlb1 := rfl
@[simp] theorem bump_keys (m : Mach) : (bump m).keys = m.keys := rfl
@[simp] theorem bump_ports (m : Mach) : (bump m).ports = m.ports := rfl
@[simp] theorem bump_pkg (m : Mach) : (bump m).pkg = m.pkg := rfl
@[simp] theorem bump_pod (m : Mach) : (bump m).pod = m.pod := rfl
@[simp] theorem bump_draws (m : Mach) : (bump m).draws = m.draws := rfl
@[simp] theorem bump_retry (m : Mach) : (bump m).retry = m.retry := rfl
@[simp] theorem bump_clock (m : Mach) : (bump m).clock = m.clock := rfl
@[simp] theorem bump_pagenext (m : Mach) : (bump m).pagenext = m.pagenext := rfl
@[simp] theorem bump_pinned (m : Mach) : (bump m).pinned = m.pinned := rfl
@[simp] theorem bump_lastctx (m : Mach) : (bump m).lastctx = m.lastctx := rfl
@[simp] theorem bump_sprints (m : Mach) : (bump m).sprints = m.sprints := rfl
@[simp] theorem bump_health (m : Mach) : (bump m).health = m.health := rfl
@[simp] theorem bump_healthNo (m : Mach) : (bump m).healthNo = m.healthNo := rfl
@[simp] theorem bump_errs (m : Mach) : (bump m).errs = m.errs := rfl

/-! ### logHealth -/

@[simp] theorem logHealth_mem (m : Mach) (h : Health) : (logHealth m h).mem = m.mem := rfl
@[simp] theorem logHealth_ecc (m : Mach) (h : Health) : (logHealth m h).ecc = m.ecc := rfl
@[simp] theorem logHealth_warps (m : Mach) (h : Health) : (logHealth m h).warps = m.warps := rfl
@[simp] theorem logHealth_cores (m : Mach) (h : Health) : (logHealth m h).cores = m.cores := rfl
@[simp] theorem logHealth_clusters (m : Mach) (h : Health) : (logHealth m h).clusters = m.clusters := rfl
@[simp] theorem logHealth_teams (m : Mach) (h : Health) : (logHealth m h).teams = m.teams := rfl
@[simp] theorem logHealth_gangs (m : Mach) (h : Health) : (logHealth m h).gangs = m.gangs := rfl
@[simp] theorem logHealth_ctxs (m : Mach) (h : Health) : (logHealth m h).ctxs = m.ctxs := rfl
@[simp] theorem logHealth_nodes (m : Mach) (h : Health) : (logHealth m h).nodes = m.nodes := rfl
@[simp] theorem logHealth_gens (m : Mach) (h : Health) : (logHealth m h).gens = m.gens := rfl
@[simp] theorem logHealth_posts (m : Mach) (h : Health) : (logHealth m h).posts = m.posts := rfl
@[simp] theorem logHealth_episodes (m : Mach) (h : Health) : (logHealth m h).episodes = m.episodes := rfl
@[simp] theorem logHealth_misses (m : Mach) (h : Health) : (logHealth m h).misses = m.misses := rfl
@[simp] theorem logHealth_tlb0 (m : Mach) (h : Health) : (logHealth m h).tlb0 = m.tlb0 := rfl
@[simp] theorem logHealth_tlb1 (m : Mach) (h : Health) : (logHealth m h).tlb1 = m.tlb1 := rfl
@[simp] theorem logHealth_keys (m : Mach) (h : Health) : (logHealth m h).keys = m.keys := rfl
@[simp] theorem logHealth_ports (m : Mach) (h : Health) : (logHealth m h).ports = m.ports := rfl
@[simp] theorem logHealth_pkg (m : Mach) (h : Health) : (logHealth m h).pkg = m.pkg := rfl
@[simp] theorem logHealth_pod (m : Mach) (h : Health) : (logHealth m h).pod = m.pod := rfl
@[simp] theorem logHealth_draws (m : Mach) (h : Health) : (logHealth m h).draws = m.draws := rfl
@[simp] theorem logHealth_retry (m : Mach) (h : Health) : (logHealth m h).retry = m.retry := rfl
@[simp] theorem logHealth_clock (m : Mach) (h : Health) : (logHealth m h).clock = m.clock := rfl
@[simp] theorem logHealth_pagenext (m : Mach) (h : Health) : (logHealth m h).pagenext = m.pagenext := rfl
@[simp] theorem logHealth_pinned (m : Mach) (h : Health) : (logHealth m h).pinned = m.pinned := rfl
@[simp] theorem logHealth_lastctx (m : Mach) (h : Health) : (logHealth m h).lastctx = m.lastctx := rfl
@[simp] theorem logHealth_sprints (m : Mach) (h : Health) : (logHealth m h).sprints = m.sprints := rfl
@[simp] theorem logHealth_tick (m : Mach) (h : Health) : (logHealth m h).tick = m.tick := rfl

@[simp] theorem bump_tick (m : Mach) : (bump m).tick = m.tick + 1 := rfl
@[simp] theorem logHealth_healthNo (m : Mach) (h : Health) : (logHealth m h).healthNo = m.healthNo + 1 := rfl
@[simp] theorem setWarp_warps (m : Mach) (k : Nat) (w : Warp) : (setWarp m k w).warps = mapPut m.warps k w := rfl

/-! ### updWarp -/

/-- A change of a warp is nothing, or a warp set in its place. -/
theorem updWarp_eq (m : Mach) (k : Nat) (f : Warp → Warp) :
    updWarp m k f = m ∨ ∃ w, getWarp? m k = some w ∧ updWarp m k f = setWarp m k (f w) := by
  unfold updWarp
  cases h : getWarp? m k with
  | none => exact .inl rfl
  | some w => exact .inr ⟨w, rfl, rfl⟩

@[simp] theorem updWarp_mem (m : Mach) (k : Nat) (f : Warp → Warp) : (updWarp m k f).mem = m.mem := by
  unfold updWarp; split <;> rfl
@[simp] theorem updWarp_ecc (m : Mach) (k : Nat) (f : Warp → Warp) : (updWarp m k f).ecc = m.ecc := by
  unfold updWarp; split <;> rfl
@[simp] theorem updWarp_cores (m : Mach) (k : Nat) (f : Warp → Warp) : (updWarp m k f).cores = m.cores := by
  unfold updWarp; split <;> rfl
@[simp] theorem updWarp_clusters (m : Mach) (k : Nat) (f : Warp → Warp) : (updWarp m k f).clusters = m.clusters := by
  unfold updWarp; split <;> rfl
@[simp] theorem updWarp_teams (m : Mach) (k : Nat) (f : Warp → Warp) : (updWarp m k f).teams = m.teams := by
  unfold updWarp; split <;> rfl
@[simp] theorem updWarp_gangs (m : Mach) (k : Nat) (f : Warp → Warp) : (updWarp m k f).gangs = m.gangs := by
  unfold updWarp; split <;> rfl
@[simp] theorem updWarp_ctxs (m : Mach) (k : Nat) (f : Warp → Warp) : (updWarp m k f).ctxs = m.ctxs := by
  unfold updWarp; split <;> rfl
@[simp] theorem updWarp_nodes (m : Mach) (k : Nat) (f : Warp → Warp) : (updWarp m k f).nodes = m.nodes := by
  unfold updWarp; split <;> rfl
@[simp] theorem updWarp_gens (m : Mach) (k : Nat) (f : Warp → Warp) : (updWarp m k f).gens = m.gens := by
  unfold updWarp; split <;> rfl
@[simp] theorem updWarp_posts (m : Mach) (k : Nat) (f : Warp → Warp) : (updWarp m k f).posts = m.posts := by
  unfold updWarp; split <;> rfl
@[simp] theorem updWarp_episodes (m : Mach) (k : Nat) (f : Warp → Warp) : (updWarp m k f).episodes = m.episodes := by
  unfold updWarp; split <;> rfl
@[simp] theorem updWarp_misses (m : Mach) (k : Nat) (f : Warp → Warp) : (updWarp m k f).misses = m.misses := by
  unfold updWarp; split <;> rfl
@[simp] theorem updWarp_tlb0 (m : Mach) (k : Nat) (f : Warp → Warp) : (updWarp m k f).tlb0 = m.tlb0 := by
  unfold updWarp; split <;> rfl
@[simp] theorem updWarp_tlb1 (m : Mach) (k : Nat) (f : Warp → Warp) : (updWarp m k f).tlb1 = m.tlb1 := by
  unfold updWarp; split <;> rfl
@[simp] theorem updWarp_keys (m : Mach) (k : Nat) (f : Warp → Warp) : (updWarp m k f).keys = m.keys := by
  unfold updWarp; split <;> rfl
@[simp] theorem updWarp_ports (m : Mach) (k : Nat) (f : Warp → Warp) : (updWarp m k f).ports = m.ports := by
  unfold updWarp; split <;> rfl
@[simp] theorem updWarp_pkg (m : Mach) (k : Nat) (f : Warp → Warp) : (updWarp m k f).pkg = m.pkg := by
  unfold updWarp; split <;> rfl
@[simp] theorem updWarp_pod (m : Mach) (k : Nat) (f : Warp → Warp) : (updWarp m k f).pod = m.pod := by
  unfold updWarp; split <;> rfl
@[simp] theorem updWarp_draws (m : Mach) (k : Nat) (f : Warp → Warp) : (updWarp m k f).draws = m.draws := by
  unfold updWarp; split <;> rfl
@[simp] theorem updWarp_retry (m : Mach) (k : Nat) (f : Warp → Warp) : (updWarp m k f).retry = m.retry := by
  unfold updWarp; split <;> rfl
@[simp] theorem updWarp_clock (m : Mach) (k : Nat) (f : Warp → Warp) : (updWarp m k f).clock = m.clock := by
  unfold updWarp; split <;> rfl
@[simp] theorem updWarp_pagenext (m : Mach) (k : Nat) (f : Warp → Warp) : (updWarp m k f).pagenext = m.pagenext := by
  unfold updWarp; split <;> rfl
@[simp] theorem updWarp_pinned (m : Mach) (k : Nat) (f : Warp → Warp) : (updWarp m k f).pinned = m.pinned := by
  unfold updWarp; split <;> rfl
@[simp] theorem updWarp_lastctx (m : Mach) (k : Nat) (f : Warp → Warp) : (updWarp m k f).lastctx = m.lastctx := by
  unfold updWarp; split <;> rfl
@[simp] theorem updWarp_sprints (m : Mach) (k : Nat) (f : Warp → Warp) : (updWarp m k f).sprints = m.sprints := by
  unfold updWarp; split <;> rfl
@[simp] theorem updWarp_health (m : Mach) (k : Nat) (f : Warp → Warp) : (updWarp m k f).health = m.health := by
  unfold updWarp; split <;> rfl
@[simp] theorem updWarp_healthNo (m : Mach) (k : Nat) (f : Warp → Warp) : (updWarp m k f).healthNo = m.healthNo := by
  unfold updWarp; split <;> rfl
@[simp] theorem updWarp_errs (m : Mach) (k : Nat) (f : Warp → Warp) : (updWarp m k f).errs = m.errs := by
  unfold updWarp; split <;> rfl
@[simp] theorem updWarp_tick (m : Mach) (k : Nat) (f : Warp → Warp) : (updWarp m k f).tick = m.tick := by
  unfold updWarp; split <;> rfl

/-! ### Registers and flags of a warp -/

@[simp] theorem putV_team (w : Warp) (n : Nat) (k : DWord) (d : Lanes) (x : DWord) : (putV w n k d x).team = w.team := by simp only [putV]
@[simp] theorem putV_node (w : Warp) (n : Nat) (k : DWord) (d : Lanes) (x : DWord) : (putV w n k d x).node = w.node := by simp only [putV]
@[simp] theorem putV_ctx (w : Warp) (n : Nat) (k : DWord) (d : Lanes) (x : DWord) : (putV w n k d x).ctx = w.ctx := by simp only [putV]
@[simp] theorem putV_teamw (w : Warp) (n : Nat) (k : DWord) (d : Lanes) (x : DWord) : (putV w n k d x).teamw = w.teamw := by simp only [putV]
@[simp] theorem putV_chunks (w : Warp) (n : Nat) (k : DWord) (d : Lanes) (x : DWord) : (putV w n k d x).chunks = w.chunks := by simp only [putV]
@[simp] theorem putV_s (w : Warp) (n : Nat) (k : DWord) (d : Lanes) (x : DWord) : (putV w n k d x).s = w.s := by simp only [putV]
@[simp] theorem putV_ports (w : Warp) (n : Nat) (k : DWord) (d : Lanes) (x : DWord) : (putV w n k d x).ports = w.ports := by simp only [putV]
@[simp] theorem putV_portsIn (w : Warp) (n : Nat) (k : DWord) (d : Lanes) (x : DWord) : (putV w n k d x).portsIn = w.portsIn := by simp only [putV]
@[simp] theorem putV_flags (w : Warp) (n : Nat) (k : DWord) (d : Lanes) (x : DWord) : (putV w n k d x).flags = w.flags := by simp only [putV]
@[simp] theorem putV_pmlo (w : Warp) (n : Nat) (k : DWord) (d : Lanes) (x : DWord) : (putV w n k d x).pmlo = w.pmlo := by simp only [putV]
@[simp] theorem putV_pmhi (w : Warp) (n : Nat) (k : DWord) (d : Lanes) (x : DWord) : (putV w n k d x).pmhi = w.pmhi := by simp only [putV]
@[simp] theorem putV_region (w : Warp) (n : Nat) (k : DWord) (d : Lanes) (x : DWord) : (putV w n k d x).region = w.region := by simp only [putV]
@[simp] theorem putV_split (w : Warp) (n : Nat) (k : DWord) (d : Lanes) (x : DWord) : (putV w n k d x).split = w.split := by simp only [putV]
@[simp] theorem putV_p0 (w : Warp) (n : Nat) (k : DWord) (d : Lanes) (x : DWord) : (putV w n k d x).p0 = w.p0 := by simp only [putV]
@[simp] theorem putV_p1 (w : Warp) (n : Nat) (k : DWord) (d : Lanes) (x : DWord) : (putV w n k d x).p1 = w.p1 := by simp only [putV]
@[simp] theorem putV_flight (w : Warp) (n : Nat) (k : DWord) (d : Lanes) (x : DWord) : (putV w n k d x).flight = w.flight := by simp only [putV]
@[simp] theorem putV_late (w : Warp) (n : Nat) (k : DWord) (d : Lanes) (x : DWord) : (putV w n k d x).late = w.late := by simp only [putV]
@[simp] theorem putV_target (w : Warp) (n : Nat) (k : DWord) (d : Lanes) (x : DWord) : (putV w n k d x).target = w.target := by simp only [putV]
@[simp] theorem putV_seq (w : Warp) (n : Nat) (k : DWord) (d : Lanes) (x : DWord) : (putV w n k d x).seq = w.seq := by simp only [putV]
@[simp] theorem putV_vbeat (w : Warp) (n : Nat) (k : DWord) (d : Lanes) (x : DWord) : (putV w n k d x).vbeat = w.vbeat := by simp only [putV]
@[simp] theorem putV_wtimer (w : Warp) (n : Nat) (k : DWord) (d : Lanes) (x : DWord) : (putV w n k d x).wtimer = w.wtimer := by simp only [putV]
@[simp] theorem putV_exs (w : Warp) (n : Nat) (k : DWord) (d : Lanes) (x : DWord) : (putV w n k d x).exs = w.exs := by simp only [putV]
@[simp] theorem putV_round (w : Warp) (n : Nat) (k : DWord) (d : Lanes) (x : DWord) : (putV w n k d x).round = w.round := by simp only [putV]
@[simp] theorem putV_gidx (w : Warp) (n : Nat) (k : DWord) (d : Lanes) (x : DWord) : (putV w n k d x).gidx = w.gidx := by simp only [putV]
@[simp] theorem putV_stklim (w : Warp) (n : Nat) (k : DWord) (d : Lanes) (x : DWord) : (putV w n k d x).stklim = w.stklim := by simp only [putV]
@[simp] theorem putV_stktop (w : Warp) (n : Nat) (k : DWord) (d : Lanes) (x : DWord) : (putV w n k d x).stktop = w.stktop := by simp only [putV]
@[simp] theorem putV_sptop (w : Warp) (n : Nat) (k : DWord) (d : Lanes) (x : DWord) : (putV w n k d x).sptop = w.sptop := by simp only [putV]
@[simp] theorem putV_elatch (w : Warp) (n : Nat) (k : DWord) (d : Lanes) (x : DWord) : (putV w n k d x).elatch = w.elatch := by simp only [putV]
@[simp] theorem putV_sup (w : Warp) (n : Nat) (k : DWord) (d : Lanes) (x : DWord) : (putV w n k d x).sup = w.sup := by simp only [putV]
@[simp] theorem putV_ops (w : Warp) (n : Nat) (k : DWord) (d : Lanes) (x : DWord) : (putV w n k d x).ops = w.ops := by simp only [putV]
@[simp] theorem putV_floors (w : Warp) (n : Nat) (k : DWord) (d : Lanes) (x : DWord) : (putV w n k d x).floors = w.floors := by simp only [putV]
@[simp] theorem putV_dones (w : Warp) (n : Nat) (k : DWord) (d : Lanes) (x : DWord) : (putV w n k d x).dones = w.dones := by simp only [putV]
@[simp] theorem putV_touched (w : Warp) (n : Nat) (k : DWord) (d : Lanes) (x : DWord) : (putV w n k d x).touched = w.touched := by simp only [putV]
@[simp] theorem putV_looked (w : Warp) (n : Nat) (k : DWord) (d : Lanes) (x : DWord) : (putV w n k d x).looked = w.looked := by simp only [putV]
@[simp] theorem putV_mres (w : Warp) (n : Nat) (k : DWord) (d : Lanes) (x : DWord) : (putV w n k d x).mres = w.mres := by simp only [putV]
@[simp] theorem putV_stack (w : Warp) (n : Nat) (k : DWord) (d : Lanes) (x : DWord) : (putV w n k d x).stack = w.stack := by simp only [putV]
@[simp] theorem putV_trapped (w : Warp) (n : Nat) (k : DWord) (d : Lanes) (x : DWord) : (putV w n k d x).trapped = w.trapped := by simp only [putV]
@[simp] theorem putV_shadow (w : Warp) (n : Nat) (k : DWord) (d : Lanes) (x : DWord) : (putV w n k d x).shadow = w.shadow := by simp only [putV]
@[simp] theorem putV_record (w : Warp) (n : Nat) (k : DWord) (d : Lanes) (x : DWord) : (putV w n k d x).record = w.record := by simp only [putV]
@[simp] theorem putV_pend (w : Warp) (n : Nat) (k : DWord) (d : Lanes) (x : DWord) : (putV w n k d x).pend = w.pend := by simp only [putV]
@[simp] theorem putV_due (w : Warp) (n : Nat) (k : DWord) (d : Lanes) (x : DWord) : (putV w n k d x).due = w.due := by simp only [putV]
@[simp] theorem putV_user (w : Warp) (n : Nat) (k : DWord) (d : Lanes) (x : DWord) : (putV w n k d x).user = w.user := by simp only [putV]
@[simp] theorem putV_enter (w : Warp) (n : Nat) (k : DWord) (d : Lanes) (x : DWord) : (putV w n k d x).enter = w.enter := by simp only [putV]
@[simp] theorem putV_ext (w : Warp) (n : Nat) (k : DWord) (d : Lanes) (x : DWord) : (putV w n k d x).ext = w.ext := by simp only [putV]
@[simp] theorem putV_ffault (w : Warp) (n : Nat) (k : DWord) (d : Lanes) (x : DWord) : (putV w n k d x).ffault = w.ffault := by simp only [putV]
@[simp] theorem putV_misses (w : Warp) (n : Nat) (k : DWord) (d : Lanes) (x : DWord) : (putV w n k d x).misses = w.misses := by simp only [putV]
@[simp] theorem putV_block (w : Warp) (n : Nat) (k : DWord) (d : Lanes) (x : DWord) : (putV w n k d x).block = w.block := by simp only [putV]
@[simp] theorem putV_arrived (w : Warp) (n : Nat) (k : DWord) (d : Lanes) (x : DWord) : (putV w n k d x).arrived = w.arrived := by simp only [putV]
@[simp] theorem putV_grow (w : Warp) (n : Nat) (k : DWord) (d : Lanes) (x : DWord) : (putV w n k d x).grow = w.grow := by simp only [putV]
@[simp] theorem putV_watch64 (w : Warp) (n : Nat) (k : DWord) (d : Lanes) (x : DWord) : (putV w n k d x).watch64 = w.watch64 := by simp only [putV]
@[simp] theorem putV_gang (w : Warp) (n : Nat) (k : DWord) (d : Lanes) (x : DWord) : (putV w n k d x).gang = w.gang := by simp only [putV]
@[simp] theorem putV_stopped (w : Warp) (n : Nat) (k : DWord) (d : Lanes) (x : DWord) : (putV w n k d x).stopped = w.stopped := by simp only [putV]
@[simp] theorem putV_ret (w : Warp) (n : Nat) (k : DWord) (d : Lanes) (x : DWord) : (putV w n k d x).ret = w.ret := by simp only [putV]
@[simp] theorem putV_watchHit (w : Warp) (n : Nat) (k : DWord) (d : Lanes) (x : DWord) : (putV w n k d x).watchHit = w.watchHit := by simp only [putV]
@[simp] theorem putV_flushes (w : Warp) (n : Nat) (k : DWord) (d : Lanes) (x : DWord) : (putV w n k d x).flushes = w.flushes := by simp only [putV]
@[simp] theorem putV_count (w : Warp) (n : Nat) (k : DWord) (d : Lanes) (x : DWord) : (putV w n k d x).count = w.count := by simp only [putV]
@[simp] theorem putV_hang (w : Warp) (n : Nat) (k : DWord) (d : Lanes) (x : DWord) : (putV w n k d x).hang = w.hang := by simp only [putV]
@[simp] theorem putV_ready (w : Warp) (n : Nat) (k : DWord) (d : Lanes) (x : DWord) : (putV w n k d x).ready = w.ready := by simp only [putV]
@[simp] theorem putF_team (w : Warp) (n : Nat) (r : FlagRec) : (putF w n r).team = w.team := rfl
@[simp] theorem putF_node (w : Warp) (n : Nat) (r : FlagRec) : (putF w n r).node = w.node := rfl
@[simp] theorem putF_ctx (w : Warp) (n : Nat) (r : FlagRec) : (putF w n r).ctx = w.ctx := rfl
@[simp] theorem putF_teamw (w : Warp) (n : Nat) (r : FlagRec) : (putF w n r).teamw = w.teamw := rfl
@[simp] theorem putF_v (w : Warp) (n : Nat) (r : FlagRec) : (putF w n r).v = w.v := rfl
@[simp] theorem putF_chunks (w : Warp) (n : Nat) (r : FlagRec) : (putF w n r).chunks = w.chunks := rfl
@[simp] theorem putF_s (w : Warp) (n : Nat) (r : FlagRec) : (putF w n r).s = w.s := rfl
@[simp] theorem putF_ports (w : Warp) (n : Nat) (r : FlagRec) : (putF w n r).ports = w.ports := rfl
@[simp] theorem putF_portsIn (w : Warp) (n : Nat) (r : FlagRec) : (putF w n r).portsIn = w.portsIn := rfl
@[simp] theorem putF_pmlo (w : Warp) (n : Nat) (r : FlagRec) : (putF w n r).pmlo = w.pmlo := rfl
@[simp] theorem putF_pmhi (w : Warp) (n : Nat) (r : FlagRec) : (putF w n r).pmhi = w.pmhi := rfl
@[simp] theorem putF_region (w : Warp) (n : Nat) (r : FlagRec) : (putF w n r).region = w.region := rfl
@[simp] theorem putF_split (w : Warp) (n : Nat) (r : FlagRec) : (putF w n r).split = w.split := rfl
@[simp] theorem putF_p0 (w : Warp) (n : Nat) (r : FlagRec) : (putF w n r).p0 = w.p0 := rfl
@[simp] theorem putF_p1 (w : Warp) (n : Nat) (r : FlagRec) : (putF w n r).p1 = w.p1 := rfl
@[simp] theorem putF_flight (w : Warp) (n : Nat) (r : FlagRec) : (putF w n r).flight = w.flight := rfl
@[simp] theorem putF_late (w : Warp) (n : Nat) (r : FlagRec) : (putF w n r).late = w.late := rfl
@[simp] theorem putF_target (w : Warp) (n : Nat) (r : FlagRec) : (putF w n r).target = w.target := rfl
@[simp] theorem putF_seq (w : Warp) (n : Nat) (r : FlagRec) : (putF w n r).seq = w.seq := rfl
@[simp] theorem putF_vbeat (w : Warp) (n : Nat) (r : FlagRec) : (putF w n r).vbeat = w.vbeat := rfl
@[simp] theorem putF_wtimer (w : Warp) (n : Nat) (r : FlagRec) : (putF w n r).wtimer = w.wtimer := rfl
@[simp] theorem putF_exs (w : Warp) (n : Nat) (r : FlagRec) : (putF w n r).exs = w.exs := rfl
@[simp] theorem putF_round (w : Warp) (n : Nat) (r : FlagRec) : (putF w n r).round = w.round := rfl
@[simp] theorem putF_gidx (w : Warp) (n : Nat) (r : FlagRec) : (putF w n r).gidx = w.gidx := rfl
@[simp] theorem putF_stklim (w : Warp) (n : Nat) (r : FlagRec) : (putF w n r).stklim = w.stklim := rfl
@[simp] theorem putF_stktop (w : Warp) (n : Nat) (r : FlagRec) : (putF w n r).stktop = w.stktop := rfl
@[simp] theorem putF_sptop (w : Warp) (n : Nat) (r : FlagRec) : (putF w n r).sptop = w.sptop := rfl
@[simp] theorem putF_elatch (w : Warp) (n : Nat) (r : FlagRec) : (putF w n r).elatch = w.elatch := rfl
@[simp] theorem putF_sup (w : Warp) (n : Nat) (r : FlagRec) : (putF w n r).sup = w.sup := rfl
@[simp] theorem putF_ops (w : Warp) (n : Nat) (r : FlagRec) : (putF w n r).ops = w.ops := rfl
@[simp] theorem putF_prods (w : Warp) (n : Nat) (r : FlagRec) : (putF w n r).prods = w.prods := rfl
@[simp] theorem putF_floors (w : Warp) (n : Nat) (r : FlagRec) : (putF w n r).floors = w.floors := rfl
@[simp] theorem putF_dones (w : Warp) (n : Nat) (r : FlagRec) : (putF w n r).dones = w.dones := rfl
@[simp] theorem putF_touched (w : Warp) (n : Nat) (r : FlagRec) : (putF w n r).touched = w.touched := rfl
@[simp] theorem putF_looked (w : Warp) (n : Nat) (r : FlagRec) : (putF w n r).looked = w.looked := rfl
@[simp] theorem putF_mres (w : Warp) (n : Nat) (r : FlagRec) : (putF w n r).mres = w.mres := rfl
@[simp] theorem putF_stack (w : Warp) (n : Nat) (r : FlagRec) : (putF w n r).stack = w.stack := rfl
@[simp] theorem putF_trapped (w : Warp) (n : Nat) (r : FlagRec) : (putF w n r).trapped = w.trapped := rfl
@[simp] theorem putF_shadow (w : Warp) (n : Nat) (r : FlagRec) : (putF w n r).shadow = w.shadow := rfl
@[simp] theorem putF_record (w : Warp) (n : Nat) (r : FlagRec) : (putF w n r).record = w.record := rfl
@[simp] theorem putF_pend (w : Warp) (n : Nat) (r : FlagRec) : (putF w n r).pend = w.pend := rfl
@[simp] theorem putF_due (w : Warp) (n : Nat) (r : FlagRec) : (putF w n r).due = w.due := rfl
@[simp] theorem putF_user (w : Warp) (n : Nat) (r : FlagRec) : (putF w n r).user = w.user := rfl
@[simp] theorem putF_enter (w : Warp) (n : Nat) (r : FlagRec) : (putF w n r).enter = w.enter := rfl
@[simp] theorem putF_ext (w : Warp) (n : Nat) (r : FlagRec) : (putF w n r).ext = w.ext := rfl
@[simp] theorem putF_ffault (w : Warp) (n : Nat) (r : FlagRec) : (putF w n r).ffault = w.ffault := rfl
@[simp] theorem putF_misses (w : Warp) (n : Nat) (r : FlagRec) : (putF w n r).misses = w.misses := rfl
@[simp] theorem putF_block (w : Warp) (n : Nat) (r : FlagRec) : (putF w n r).block = w.block := rfl
@[simp] theorem putF_arrived (w : Warp) (n : Nat) (r : FlagRec) : (putF w n r).arrived = w.arrived := rfl
@[simp] theorem putF_grow (w : Warp) (n : Nat) (r : FlagRec) : (putF w n r).grow = w.grow := rfl
@[simp] theorem putF_watch64 (w : Warp) (n : Nat) (r : FlagRec) : (putF w n r).watch64 = w.watch64 := rfl
@[simp] theorem putF_gang (w : Warp) (n : Nat) (r : FlagRec) : (putF w n r).gang = w.gang := rfl
@[simp] theorem putF_stopped (w : Warp) (n : Nat) (r : FlagRec) : (putF w n r).stopped = w.stopped := rfl
@[simp] theorem putF_ret (w : Warp) (n : Nat) (r : FlagRec) : (putF w n r).ret = w.ret := rfl
@[simp] theorem putF_watchHit (w : Warp) (n : Nat) (r : FlagRec) : (putF w n r).watchHit = w.watchHit := rfl
@[simp] theorem putF_flushes (w : Warp) (n : Nat) (r : FlagRec) : (putF w n r).flushes = w.flushes := rfl
@[simp] theorem putF_count (w : Warp) (n : Nat) (r : FlagRec) : (putF w n r).count = w.count := rfl
@[simp] theorem putF_hang (w : Warp) (n : Nat) (r : FlagRec) : (putF w n r).hang = w.hang := rfl
@[simp] theorem putF_ready (w : Warp) (n : Nat) (r : FlagRec) : (putF w n r).ready = w.ready := rfl
@[simp] theorem putS_team (w : Warp) (n : Nat) (v : DWord) (b : Bool) : (putS w n v b).team = w.team := by
  unfold putS; split <;> rfl
@[simp] theorem putS_node (w : Warp) (n : Nat) (v : DWord) (b : Bool) : (putS w n v b).node = w.node := by
  unfold putS; split <;> rfl
@[simp] theorem putS_ctx (w : Warp) (n : Nat) (v : DWord) (b : Bool) : (putS w n v b).ctx = w.ctx := by
  unfold putS; split <;> rfl
@[simp] theorem putS_teamw (w : Warp) (n : Nat) (v : DWord) (b : Bool) : (putS w n v b).teamw = w.teamw := by
  unfold putS; split <;> rfl
@[simp] theorem putS_v (w : Warp) (n : Nat) (v : DWord) (b : Bool) : (putS w n v b).v = w.v := by
  unfold putS; split <;> rfl
@[simp] theorem putS_chunks (w : Warp) (n : Nat) (v : DWord) (b : Bool) : (putS w n v b).chunks = w.chunks := by
  unfold putS; split <;> rfl
@[simp] theorem putS_ports (w : Warp) (n : Nat) (v : DWord) (b : Bool) : (putS w n v b).ports = w.ports := by
  unfold putS; split <;> rfl
@[simp] theorem putS_portsIn (w : Warp) (n : Nat) (v : DWord) (b : Bool) : (putS w n v b).portsIn = w.portsIn := by
  unfold putS; split <;> rfl
@[simp] theorem putS_flags (w : Warp) (n : Nat) (v : DWord) (b : Bool) : (putS w n v b).flags = w.flags := by
  unfold putS; split <;> rfl
@[simp] theorem putS_pmlo (w : Warp) (n : Nat) (v : DWord) (b : Bool) : (putS w n v b).pmlo = w.pmlo := by
  unfold putS; split <;> rfl
@[simp] theorem putS_pmhi (w : Warp) (n : Nat) (v : DWord) (b : Bool) : (putS w n v b).pmhi = w.pmhi := by
  unfold putS; split <;> rfl
@[simp] theorem putS_region (w : Warp) (n : Nat) (v : DWord) (b : Bool) : (putS w n v b).region = w.region := by
  unfold putS; split <;> rfl
@[simp] theorem putS_split (w : Warp) (n : Nat) (v : DWord) (b : Bool) : (putS w n v b).split = w.split := by
  unfold putS; split <;> rfl
@[simp] theorem putS_p0 (w : Warp) (n : Nat) (v : DWord) (b : Bool) : (putS w n v b).p0 = w.p0 := by
  unfold putS; split <;> rfl
@[simp] theorem putS_p1 (w : Warp) (n : Nat) (v : DWord) (b : Bool) : (putS w n v b).p1 = w.p1 := by
  unfold putS; split <;> rfl
@[simp] theorem putS_flight (w : Warp) (n : Nat) (v : DWord) (b : Bool) : (putS w n v b).flight = w.flight := by
  unfold putS; split <;> rfl
@[simp] theorem putS_late (w : Warp) (n : Nat) (v : DWord) (b : Bool) : (putS w n v b).late = w.late := by
  unfold putS; split <;> rfl
@[simp] theorem putS_target (w : Warp) (n : Nat) (v : DWord) (b : Bool) : (putS w n v b).target = w.target := by
  unfold putS; split <;> rfl
@[simp] theorem putS_seq (w : Warp) (n : Nat) (v : DWord) (b : Bool) : (putS w n v b).seq = w.seq := by
  unfold putS; split <;> rfl
@[simp] theorem putS_vbeat (w : Warp) (n : Nat) (v : DWord) (b : Bool) : (putS w n v b).vbeat = w.vbeat := by
  unfold putS; split <;> rfl
@[simp] theorem putS_wtimer (w : Warp) (n : Nat) (v : DWord) (b : Bool) : (putS w n v b).wtimer = w.wtimer := by
  unfold putS; split <;> rfl
@[simp] theorem putS_exs (w : Warp) (n : Nat) (v : DWord) (b : Bool) : (putS w n v b).exs = w.exs := by
  unfold putS; split <;> rfl
@[simp] theorem putS_round (w : Warp) (n : Nat) (v : DWord) (b : Bool) : (putS w n v b).round = w.round := by
  unfold putS; split <;> rfl
@[simp] theorem putS_gidx (w : Warp) (n : Nat) (v : DWord) (b : Bool) : (putS w n v b).gidx = w.gidx := by
  unfold putS; split <;> rfl
@[simp] theorem putS_stklim (w : Warp) (n : Nat) (v : DWord) (b : Bool) : (putS w n v b).stklim = w.stklim := by
  unfold putS; split <;> rfl
@[simp] theorem putS_stktop (w : Warp) (n : Nat) (v : DWord) (b : Bool) : (putS w n v b).stktop = w.stktop := by
  unfold putS; split <;> rfl
@[simp] theorem putS_sptop (w : Warp) (n : Nat) (v : DWord) (b : Bool) : (putS w n v b).sptop = w.sptop := by
  unfold putS; split <;> rfl
@[simp] theorem putS_elatch (w : Warp) (n : Nat) (v : DWord) (b : Bool) : (putS w n v b).elatch = w.elatch := by
  unfold putS; split <;> rfl
@[simp] theorem putS_sup (w : Warp) (n : Nat) (v : DWord) (b : Bool) : (putS w n v b).sup = w.sup := by
  unfold putS; split <;> rfl
@[simp] theorem putS_ops (w : Warp) (n : Nat) (v : DWord) (b : Bool) : (putS w n v b).ops = w.ops := by
  unfold putS; split <;> rfl
@[simp] theorem putS_floors (w : Warp) (n : Nat) (v : DWord) (b : Bool) : (putS w n v b).floors = w.floors := by
  unfold putS; split <;> rfl
@[simp] theorem putS_dones (w : Warp) (n : Nat) (v : DWord) (b : Bool) : (putS w n v b).dones = w.dones := by
  unfold putS; split <;> rfl
@[simp] theorem putS_touched (w : Warp) (n : Nat) (v : DWord) (b : Bool) : (putS w n v b).touched = w.touched := by
  unfold putS; split <;> rfl
@[simp] theorem putS_looked (w : Warp) (n : Nat) (v : DWord) (b : Bool) : (putS w n v b).looked = w.looked := by
  unfold putS; split <;> rfl
@[simp] theorem putS_mres (w : Warp) (n : Nat) (v : DWord) (b : Bool) : (putS w n v b).mres = w.mres := by
  unfold putS; split <;> rfl
@[simp] theorem putS_stack (w : Warp) (n : Nat) (v : DWord) (b : Bool) : (putS w n v b).stack = w.stack := by
  unfold putS; split <;> rfl
@[simp] theorem putS_trapped (w : Warp) (n : Nat) (v : DWord) (b : Bool) : (putS w n v b).trapped = w.trapped := by
  unfold putS; split <;> rfl
@[simp] theorem putS_shadow (w : Warp) (n : Nat) (v : DWord) (b : Bool) : (putS w n v b).shadow = w.shadow := by
  unfold putS; split <;> rfl
@[simp] theorem putS_record (w : Warp) (n : Nat) (v : DWord) (b : Bool) : (putS w n v b).record = w.record := by
  unfold putS; split <;> rfl
@[simp] theorem putS_pend (w : Warp) (n : Nat) (v : DWord) (b : Bool) : (putS w n v b).pend = w.pend := by
  unfold putS; split <;> rfl
@[simp] theorem putS_due (w : Warp) (n : Nat) (v : DWord) (b : Bool) : (putS w n v b).due = w.due := by
  unfold putS; split <;> rfl
@[simp] theorem putS_user (w : Warp) (n : Nat) (v : DWord) (b : Bool) : (putS w n v b).user = w.user := by
  unfold putS; split <;> rfl
@[simp] theorem putS_enter (w : Warp) (n : Nat) (v : DWord) (b : Bool) : (putS w n v b).enter = w.enter := by
  unfold putS; split <;> rfl
@[simp] theorem putS_ext (w : Warp) (n : Nat) (v : DWord) (b : Bool) : (putS w n v b).ext = w.ext := by
  unfold putS; split <;> rfl
@[simp] theorem putS_ffault (w : Warp) (n : Nat) (v : DWord) (b : Bool) : (putS w n v b).ffault = w.ffault := by
  unfold putS; split <;> rfl
@[simp] theorem putS_misses (w : Warp) (n : Nat) (v : DWord) (b : Bool) : (putS w n v b).misses = w.misses := by
  unfold putS; split <;> rfl
@[simp] theorem putS_block (w : Warp) (n : Nat) (v : DWord) (b : Bool) : (putS w n v b).block = w.block := by
  unfold putS; split <;> rfl
@[simp] theorem putS_arrived (w : Warp) (n : Nat) (v : DWord) (b : Bool) : (putS w n v b).arrived = w.arrived := by
  unfold putS; split <;> rfl
@[simp] theorem putS_grow (w : Warp) (n : Nat) (v : DWord) (b : Bool) : (putS w n v b).grow = w.grow := by
  unfold putS; split <;> rfl
@[simp] theorem putS_watch64 (w : Warp) (n : Nat) (v : DWord) (b : Bool) : (putS w n v b).watch64 = w.watch64 := by
  unfold putS; split <;> rfl
@[simp] theorem putS_gang (w : Warp) (n : Nat) (v : DWord) (b : Bool) : (putS w n v b).gang = w.gang := by
  unfold putS; split <;> rfl
@[simp] theorem putS_stopped (w : Warp) (n : Nat) (v : DWord) (b : Bool) : (putS w n v b).stopped = w.stopped := by
  unfold putS; split <;> rfl
@[simp] theorem putS_ret (w : Warp) (n : Nat) (v : DWord) (b : Bool) : (putS w n v b).ret = w.ret := by
  unfold putS; split <;> rfl
@[simp] theorem putS_watchHit (w : Warp) (n : Nat) (v : DWord) (b : Bool) : (putS w n v b).watchHit = w.watchHit := by
  unfold putS; split <;> rfl
@[simp] theorem putS_flushes (w : Warp) (n : Nat) (v : DWord) (b : Bool) : (putS w n v b).flushes = w.flushes := by
  unfold putS; split <;> rfl
@[simp] theorem putS_count (w : Warp) (n : Nat) (v : DWord) (b : Bool) : (putS w n v b).count = w.count := by
  unfold putS; split <;> rfl
@[simp] theorem putS_hang (w : Warp) (n : Nat) (v : DWord) (b : Bool) : (putS w n v b).hang = w.hang := by
  unfold putS; split <;> rfl
@[simp] theorem putS_ready (w : Warp) (n : Nat) (v : DWord) (b : Bool) : (putS w n v b).ready = w.ready := by
  unfold putS; split <;> rfl

end Sys2Proof.Machine
end

