-- ==== Sys2Proof/Laws/Ops.lean ====
section
/-!
SUPPORT. What each shared operation can do: warps looked up after an update, writes of memory with their frame and canonical
form, the entry of the handler, the landing of a result, journal entries, events that take an input.
-/

namespace Sys2Proof.Machine

/-! ### Warps by key -/

@[simp] theorem getWarp?_set_self (m : Mach) (k : Nat) (w : Warp) : getWarp? (setWarp m k w) k = some w :=
  mapGet?_put_self m.warps k w

theorem getWarp?_set_other (m : Mach) {k j : Nat} (w : Warp) (h : j ≠ k) : getWarp? (setWarp m k w) j = getWarp? m j :=
  mapGet?_put_other m.warps w h

theorem updWarp_some {m : Mach} {k : Nat} {w : Warp} (f : Warp → Warp) (h : getWarp? m k = some w) :
    updWarp m k f = setWarp m k (f w) := by
  unfold updWarp; rw [h]

theorem updWarp_none {m : Mach} {k : Nat} (f : Warp → Warp) (h : getWarp? m k = none) : updWarp m k f = m := by
  unfold updWarp; rw [h]

@[simp] theorem getWarp?_upd_self (m : Mach) (k : Nat) (f : Warp → Warp) :
    getWarp? (updWarp m k f) k = (getWarp? m k).map f := by
  cases h : getWarp? m k with
  | none => rw [updWarp_none f h, h]; rfl
  | some w => rw [updWarp_some f h, getWarp?_set_self]; rfl

theorem getWarp?_upd_other (m : Mach) {k j : Nat} (f : Warp → Warp) (h : j ≠ k) : getWarp? (updWarp m k f) j = getWarp? m j := by
  rcases updWarp_eq m k f with e | ⟨w, -, e⟩
  · rw [e]
  · rw [e, getWarp?_set_other m (f w) h]

@[simp] theorem getWarp?_bump (m : Mach) (k : Nat) : getWarp? (bump m) k = getWarp? m k := rfl
@[simp] theorem getWarp?_updCore (m : Mach) (c k : Nat) (f : Core → Core) : getWarp? (updCore m c f) k = getWarp? m k := rfl
@[simp] theorem getWarp?_updCluster (m : Mach) (c k : Nat) (f : Cluster → Cluster) :
    getWarp? (updCluster m c f) k = getWarp? m k := rfl
@[simp] theorem getWarp?_updTeam (m : Mach) (t k : Nat) (f : Team → Team) : getWarp? (updTeam m t f) k = getWarp? m k := rfl
@[simp] theorem getWarp?_updNode (m : Mach) (n k : Nat) (f : Node → Node) : getWarp? (updNode m n f) k = getWarp? m k := rfl
@[simp] theorem getWarp?_updCtx (m : Mach) (c k : Nat) (f : Context → Context) : getWarp? (updCtx m c f) k = getWarp? m k := rfl
@[simp] theorem getWarp?_logHealth (m : Mach) (h : Health) (k : Nat) : getWarp? (logHealth m h) k = getWarp? m k := rfl
@[simp] theorem getWarp?_deselect (m : Mach) (j k : Nat) : getWarp? (deselect m j) k = getWarp? m k := rfl

theorem getCtx?_upd_self (m : Mach) (c : Nat) (f : Context → Context) : getCtx? (updCtx m c f) c = (getCtx? m c).map f :=
  mapGet?_upd_self m.ctxs c f
theorem getNode?_upd_self (m : Mach) (n : Nat) (f : Node → Node) : getNode? (updNode m n f) n = (getNode? m n).map f :=
  mapGet?_upd_self m.nodes n f
theorem getTeam?_upd_self (m : Mach) (t : Nat) (f : Team → Team) : getTeam? (updTeam m t f) t = (getTeam? m t).map f :=
  mapGet?_upd_self m.teams t f
theorem getCluster_upd_self {m : Mach} (c : Nat) (f : Cluster → Cluster) (h : mapWf m.clusters = true) :
    getCluster (updCluster m c f) c = f (getCluster m c) := mapGetD_setD_self c Cluster.atReset _ h
theorem getCluster_upd_other (m : Mach) {c d : Nat} (f : Cluster → Cluster) (h : d ≠ c) :
    getCluster (updCluster m c f) d = getCluster m d := mapGetD_setD_other m.clusters _ _ _ h

/-! ### Scalars and flags of a warp -/

theorem getS_put_other (w : Warp) {n j : Nat} (v : DWord) (b : Bool) (h : j ≠ n) : getS (putS w n v b) j = getS w j := by
  unfold putS getS
  split
  · rfl
  · split
    · rfl
    · exact mapGetD_setD_other w.s _ _ _ h

theorem getS_put_self {w : Warp} {n : Nat} (v : DWord) (b : Bool) (hn : n ≠ 0) (h : mapWf w.s = true) :
    getS (putS w n v b) n = { value := v, mark := b } := by
  unfold putS getS
  simp only [hn, if_false]
  exact mapGetD_setD_self n SReg.zero _ h

theorem getS_zero (w : Warp) : getS w 0 = SReg.zero := rfl

theorem getF_put_self {w : Warp} (f : Nat) (r : FlagRec) (h : mapWf w.flags = true) : getF (putF w f r) f = r :=
  mapGetD_setD_self f FlagRec.atDispatch r h
theorem getF_put_other (w : Warp) {f g : Nat} (r : FlagRec) (h : g ≠ f) : getF (putF w f r) g = getF w g :=
  mapGetD_setD_other w.flags _ _ _ h

/-! ### Writes of memory -/

theorem putUnder_wf {m : Mach} (slot a : Nat) (b : Byte) (h : Memory.wf m.mem = true) : Memory.wf (putUnder m slot a b).mem = true :=
  memWrite_wf _ _ h

/-- A byte written under a foreign slot leaves the other lines alone. -/
theorem putUnder_frame (m : Mach) (slot a x : Nat) (b : Byte) (h : lineOf x ≠ lineOf a) :
    memGet (putUnder m slot a b).mem x = memGet m.mem x := by
  refine memGet_write_other _ _ ?_
  have := List.length_take_le 128 (xtsDecrypt (slotKeys m (lineSlot m (lineOf a))) (lineOf a / 128) (xtsEncrypt (slotKeys m slot)
    (lineOf a / 128) ((lineUnder m slot (lineOf a)).set (a % 128) b)))
  simp only [lineOf] at h this ⊢
  omega

theorem putUnder_only (m : Mach) (slot a : Nat) (b : Byte) : putUnder m slot a b = { m with mem := (putUnder m slot a b).mem } := rfl

/-- What a run of bytes under a foreign slot can do: memory keeps its form, the other lines their bytes, and nothing else changes. -/
theorem putRun_spec (slot base : Nat) (l : List (Byte × Nat)) (m : Mach) :
    (∃ mm, l.foldl (fun m x => putUnder m slot (base + x.2) x.1) m = { m with mem := mm }) ∧
    (Memory.wf m.mem = true → Memory.wf (l.foldl (fun m x => putUnder m slot (base + x.2) x.1) m).mem = true) ∧
    ∀ x, (∀ p ∈ l, lineOf x ≠ lineOf (base + p.2)) →
      memGet (l.foldl (fun m x => putUnder m slot (base + x.2) x.1) m).mem x = memGet m.mem x := by
  induction l generalizing m with
  | nil => exact ⟨⟨m.mem, rfl⟩, id, fun _ _ => rfl⟩
  | cons p l ih =>
    simp only [List.foldl_cons]
    have hw := putUnder_wf (m := m) slot (base + p.2) p.1
    have hf := fun x => putUnder_frame m slot (base + p.2) x p.1
    have hm := putUnder_only m slot (base + p.2) p.1
    generalize putUnder m slot (base + p.2) p.1 = u at hw hf hm
    obtain ⟨⟨mm, h1⟩, h2, h3⟩ := ih u
    refine ⟨⟨mm, by rw [h1, hm]⟩, fun h => h2 (hw h), fun x hx => ?_⟩
    exact (h3 x fun q hq => hx q (List.mem_cons_of_mem _ hq)).trans (hf x (hx p List.mem_cons_self))

/-- What a write of bytes can do, whatever its key: memory keeps its form, the bytes it does not reach stay, and nothing else changes. -/
theorem putBytes_spec (m : Mach) (a : Nat) (bs : List Byte) :
    (∃ mm, putBytes m a bs = { m with mem := mm }) ∧ (Memory.wf m.mem = true → Memory.wf (putBytes m a bs).mem = true) ∧
    ∀ x, writeReaches a bs.length x = false → memGet (putBytes m a bs).mem x = memGet m.mem x := by
  unfold putBytes writeReaches
  split
  · refine ⟨⟨_, rfl⟩, memWrite_wf a bs, fun x h => memGet_write_other m.mem bs ?_⟩
    simp at h
    omega
  · obtain ⟨h1, h2, h3⟩ := putRun_spec (foreignSlot a) (placeOf a) (bs.zip (List.range bs.length)) m
    refine ⟨h1, h2, fun x h => h3 x fun p hp => ?_⟩
    simp only [List.any_eq_false, decide_eq_true_eq] at h
    exact h p.2 (List.of_mem_zip hp).2

theorem putWords_spec (ws : List (Nat × List Byte)) (m : Mach) :
    let m' := ws.foldl (fun m (a, bs) => putBytes m a bs) m
    (Memory.wf m.mem = true → Memory.wf m'.mem = true) ∧
    ∀ x, (∀ w ∈ ws, writeReaches w.1 w.2.length x = false) → memGet m'.mem x = memGet m.mem x := by
  induction ws generalizing m with
  | nil => exact ⟨id, fun _ _ => rfl⟩
  | cons w ws ih =>
    obtain ⟨h1, h2⟩ := ih (putBytes m w.1 w.2)
    refine ⟨fun h => h1 ((putBytes_spec m w.1 w.2).2.1 h), fun x hx => ?_⟩
    exact (h2 x fun v hv => hx v (List.mem_cons_of_mem _ hv)).trans ((putBytes_spec m w.1 w.2).2.2 x (hx w List.mem_cons_self))

theorem putBytes_own {m : Mach} {a : Nat} (bs : List Byte) (h : a < foreignBase) :
    putBytes m a bs = { m with mem := memWrite m.mem a bs } := if_pos h
theorem memBytes_own {m : Mach} {a : Nat} (n : Nat) (h : a < foreignBase) : memBytes m a n = memRead m.mem a n := if_pos h
theorem writeReaches_own {a n x : Nat} (h : a < foreignBase) : writeReaches a n x = false ↔ (x < a ∨ a + n ≤ x) := by
  simp [writeReaches, h]; omega

/-- What the plaintext after a write depends on: the bytes, the keys and the contexts. -/
def SamePlace (m m' : Mach) : Prop := m.mem = m'.mem ∧ m.keys = m'.keys ∧ m.ctxs = m'.ctxs

theorem putUnder_same {m m' : Mach} (slot a : Nat) (b : Byte) (h : SamePlace m m') : SamePlace (putUnder m slot a b) (putUnder m' slot a b) := by
  obtain ⟨h1, h2, h3⟩ := h
  have hs (s : Nat) : slotKeys m s = slotKeys m' s := by unfold slotKeys; rw [h2]
  have hl (x : Nat) : lineSlot m x = lineSlot m' x := by unfold lineSlot; rw [h3]
  have hu (s l : Nat) : lineUnder m s l = lineUnder m' s l := by unfold lineUnder hbmLine; rw [h1, hs, hs, hl]
  refine ⟨?_, by rw [putUnder_only m, putUnder_only m']; exact h2, by rw [putUnder_only m, putUnder_only m']; exact h3⟩
  unfold putUnder
  rw [hu, hs, hs, hl, h1]

theorem putRun_same (slot base : Nat) (l : List (Byte × Nat)) {m m' : Mach} (h : SamePlace m m') :
    SamePlace (l.foldl (fun m x => putUnder m slot (base + x.2) x.1) m) (l.foldl (fun m x => putUnder m slot (base + x.2) x.1) m') := by
  induction l generalizing m m' with
  | nil => exact h
  | cons p l ih =>
    simp only [List.foldl_cons]
    have := putUnder_same slot (base + p.2) p.1 h
    generalize putUnder m slot (base + p.2) p.1 = u at this ⊢
    generalize putUnder m' slot (base + p.2) p.1 = u' at this ⊢
    exact ih this

theorem putBytes_same {m m' : Mach} (a : Nat) (bs : List Byte) (h : SamePlace m m') : SamePlace (putBytes m a bs) (putBytes m' a bs) := by
  unfold putBytes
  split
  · exact ⟨by simp only [h.1], h.2⟩
  · exact putRun_same _ _ _ h

/-- The bytes that a run of writes leaves depend on the bytes, the keys and the contexts alone. -/
theorem putWords_same (ws : List (Nat × List Byte)) {m m' : Mach} (h : SamePlace m m') :
    SamePlace (ws.foldl (fun m x => putBytes m x.1 x.2) m) (ws.foldl (fun m x => putBytes m x.1 x.2) m') := by
  induction ws generalizing m m' with
  | nil => exact h
  | cons w ws ih =>
    simp only [List.foldl_cons]
    have := putBytes_same w.1 w.2 h
    generalize putBytes m w.1 w.2 = u at this ⊢
    generalize putBytes m' w.1 w.2 = u' at this ⊢
    exact ih this

/-- A write of words keeps memory's canonical form. -/
theorem writeWords_wf {m : Mach} (ws : List (Nat × List Byte)) (h : Memory.wf m.mem = true) :
    Memory.wf (writeWords m ws).mem = true := (putWords_spec ws m).1 h

/-- A write of words leaves every byte that its pieces do not reach alone. -/
theorem writeWords_frame (m : Mach) (ws : List (Nat × List Byte)) {x : Nat}
    (h : ∀ w ∈ ws, writeReaches w.1 w.2.length x = false) : memGet (writeWords m ws).mem x = memGet m.mem x :=
  (putWords_spec ws m).2 x h

theorem writeBytes_wf {m : Mach} (a : Nat) (bs : List Byte) (h : Memory.wf m.mem = true) :
    Memory.wf (writeBytes m a bs).mem = true := writeWords_wf _ h
theorem writeBytes_frame (m : Mach) {a x : Nat} (bs : List Byte) (h : writeReaches a bs.length x = false) :
    memGet (writeBytes m a bs).mem x = memGet m.mem x := (putBytes_spec m a bs).2.2 x h
theorem writeBytes_read {m : Mach} (a : Nat) (bs : List Byte) (ha : a < foreignBase) (h : Memory.wf m.mem = true) :
    memRead (writeBytes m a bs).mem a bs.length = bs := by
  simp only [writeBytes, writeWords, List.foldl_cons, List.foldl_nil, putBytes_own bs ha]
  exact memRead_write a bs h

theorem whitewash_wf {m : Mach} (a n : Nat) (h : Memory.wf m.mem = true) : Memory.wf (whitewash m a n).mem = true :=
  memZero_wf a n h
theorem whitewash_frame (m : Mach) {a n x : Nat} (h : x < a ∨ a + n ≤ x) :
    memGet (whitewash m a n).mem x = memGet m.mem x := by
  have := memGet_zero m.mem a n x
  rw [if_pos h] at this
  exact this
theorem whitewash_zero (m : Mach) {a n x : Nat} (h1 : a ≤ x) (h2 : x < a + n) : memGet (whitewash m a n).mem x = 0#8 := by
  have := memGet_zero m.mem a n x
  rw [if_neg (by omega)] at this
  exact this

theorem zeroRun_own (m : Mach) {a : Nat} (n : Nat) (h : a < foreignBase) : zeroRun m a n = whitewash m a n := if_pos h
theorem zeroRun_wf {m : Mach} (a n : Nat) (h : Memory.wf m.mem = true) : Memory.wf (zeroRun m a n).mem = true := by
  unfold zeroRun
  split
  · exact whitewash_wf a n h
  · exact writeBytes_wf a _ h

theorem writeImage_wf {m : Mach} (key n : Nat) (ps : List (Nat × List Byte)) (h : Memory.wf m.mem = true) :
    Memory.wf (writeImage m key n ps).mem = true := writeWords_wf _ (zeroRun_wf key n h)

/-- An image whose pieces lie inside it changes nothing outside it. -/
theorem writeImage_frame (m : Mach) {key n x : Nat} (ps : List (Nat × List Byte)) (hp : ∀ p ∈ ps, p.1 + p.2.length ≤ n)
    (hk : key + n < foreignBase) (h : x < key ∨ key + n ≤ x) : memGet (writeImage m key n ps).mem x = memGet m.mem x := by
  unfold writeImage
  rw [writeWords_frame, zeroRun_own m n (by omega), whitewash_frame m h]
  intro w hw
  obtain ⟨p, hp', rfl⟩ := List.mem_map.mp hw
  have := hp p hp'
  exact (writeReaches_own (by simp only; omega)).mpr (by simp only; omega)

@[simp] theorem writeWords_warps (m : Mach) (ws : List (Nat × List Byte)) : (writeWords m ws).warps = m.warps := rfl
@[simp] theorem writeBytes_warps (m : Mach) (a : Nat) (bs : List Byte) : (writeBytes m a bs).warps = m.warps := rfl
@[simp] theorem whitewash_warps (m : Mach) (a n : Nat) : (whitewash m a n).warps = m.warps := rfl
@[simp] theorem writeImage_warps (m : Mach) (k n : Nat) (ps : List (Nat × List Byte)) : (writeImage m k n ps).warps = m.warps := by
  unfold writeImage zeroRun; split <;> rfl
@[simp] theorem writeWords_ctxs (m : Mach) (ws : List (Nat × List Byte)) : (writeWords m ws).ctxs = m.ctxs := rfl
@[simp] theorem writeImage_ctxs (m : Mach) (k n : Nat) (ps : List (Nat × List Byte)) : (writeImage m k n ps).ctxs = m.ctxs := by
  unfold writeImage zeroRun; split <;> rfl

/-! ### Errors of memory words -/

/-- A read's records and corrections leave the bytes of memory, the keys, the contexts and the warps alone. -/
theorem noteRead_same (x : Accessor) (m : Mach) (a n : Nat) :
    (noteRead x m a n).mem = m.mem ∧ (noteRead x m a n).keys = m.keys ∧ (noteRead x m a n).ctxs = m.ctxs ∧
    (noteRead x m a n).warps = m.warps := by
  unfold noteRead
  induction wordsOf a n generalizing m with
  | nil => exact ⟨rfl, rfl, rfl, rfl⟩
  | cons w ws ih =>
    simp only [List.foldl_cons]
    cases h : mapGet? m.ecc w with
    | none => simpa [h] using ih m
    | some e => exact ih _

@[simp] theorem noteRead_mem (x : Accessor) (m : Mach) (a n : Nat) : (noteRead x m a n).mem = m.mem := (noteRead_same x m a n).1
@[simp] theorem noteRead_keys (x : Accessor) (m : Mach) (a n : Nat) : (noteRead x m a n).keys = m.keys := (noteRead_same x m a n).2.1
@[simp] theorem noteRead_ctxs (x : Accessor) (m : Mach) (a n : Nat) : (noteRead x m a n).ctxs = m.ctxs := (noteRead_same x m a n).2.2.1
@[simp] theorem noteRead_warps (x : Accessor) (m : Mach) (a n : Nat) : (noteRead x m a n).warps = m.warps := (noteRead_same x m a n).2.2.2

/-- The records of the words that an instruction's writes cover in part leave the bytes of memory, the keys, the contexts and the warps
alone. -/
theorem writeNoted_before (x : Accessor) (ws : List (Nat × List Byte)) (l : List Nat) (m : Mach) :
    let m' := l.foldl (fun m w => if coversWord ws w then m else noteRead x m w 8) m
    m'.mem = m.mem ∧ m'.keys = m.keys ∧ m'.ctxs = m.ctxs ∧ m'.warps = m.warps := by
  induction l generalizing m with
  | nil => exact ⟨rfl, rfl, rfl, rfl⟩
  | cons w l ih =>
    obtain ⟨h1, h2, h3, h4⟩ := ih (if coversWord ws w then m else noteRead x m w 8)
    simp only [List.foldl_cons]
    rw [h1, h2, h3, h4]
    split <;> simp

/-- A noted write of words writes what the plain one writes. -/
theorem writeNoted_mem (x : Accessor) (m : Mach) (ws : List (Nat × List Byte)) :
    (writeNoted x m ws).mem = (writeWords m ws).mem := by
  obtain ⟨h1, h2, h3, -⟩ := writeNoted_before x ws (touchedWords ws) m
  exact (putWords_same ws ⟨h1, h2, h3⟩).1

theorem writeNoted_wf {m : Mach} (x : Accessor) (ws : List (Nat × List Byte)) (h : Memory.wf m.mem = true) :
    Memory.wf (writeNoted x m ws).mem = true := by
  rw [writeNoted_mem]; exact writeWords_wf ws h

theorem writeNoted_frame (x : Accessor) (m : Mach) (ws : List (Nat × List Byte)) {a : Nat}
    (h : ∀ w ∈ ws, writeReaches w.1 w.2.length a = false) : memGet (writeNoted x m ws).mem a = memGet m.mem a := by
  rw [writeNoted_mem]; exact writeWords_frame m ws h

@[simp] theorem writeNoted_warps (x : Accessor) (m : Mach) (ws : List (Nat × List Byte)) : (writeNoted x m ws).warps = m.warps :=
  (writeNoted_before x ws (touchedWords ws) m).2.2.2

/-! ### Entering the handler (R350) -/

/-- The handler's warp: s53, s54, one fresh stream at HENTRY, nothing in flight. -/
theorem enterHandler_warp {m : Mach} {k : Nat} {w : Warp} (frame : Nat) (r : TrapRec) (rest : List TrapRec)
    (h : getWarp? m k = some w) : ∃ w', getWarp? (enterHandler m k frame r rest) k = some w' ∧ w'.trapped = .handler frame ∧
      w'.record = some r ∧ w'.pend = rest ∧ w'.p0 = freshPath ((ctxOf m w).elim 0 (·.hentry)) ∧ w'.p1 = none ∧ w'.region = none ∧
      w'.split = none ∧ w'.flight = [] ∧ w'.v = w.v ∧ w'.flags = w.flags ∧ w'.chunks = w.chunks ∧ w'.sup = w.sup := by
  refine ⟨_, by rw [enterHandler, getWarp?_upd_self, h]; rfl, ?_⟩
  simp

theorem enterHandler_mem (m : Mach) (k frame : Nat) (r : TrapRec) (rest : List TrapRec) :
    (enterHandler m k frame r rest).mem = m.mem := updWarp_mem m k _

theorem freezeForPumal_mem (m : Mach) (k frame : Nat) (r : TrapRec) (rest : List TrapRec) (b : Bool) (o : Option TrapRec) :
    (freezeForPumal m k frame r rest b o).mem = m.mem := updWarp_mem m k _

/-! ### Results that land (R53, R62) -/

theorem landFlight_mem (m : Mach) (k : Nat) (f : Flight) : (landFlight m k f).mem = m.mem := by
  unfold landFlight
  split
  · split
    · rfl
    · exact updWarp_mem m k _
  · split
    · rfl
    · exact updWarp_mem m k _

theorem landFlight_other (m : Mach) {k j : Nat} (f : Flight) (h : j ≠ k) : getWarp? (landFlight m k f) j = getWarp? m j := by
  unfold landFlight
  split
  · split
    · rfl
    · exact getWarp?_upd_other m _ h
  · split
    · rfl
    · exact getWarp?_upd_other m _ h

/-! ### The journal (R378) -/

/-- A journal entry that is finished is not changed. -/
theorem setEntry_finished {d : Dev} {e : JEntry} (jseq state result handle : Nat) (h : e ∈ d.journal) (hf : 3 ≤ e.state) :
    e ∈ (setEntry d jseq state result handle).journal := by
  unfold setEntry
  refine List.mem_map.mpr ⟨e, h, ?_⟩
  have : ¬ e.state < 3 := by omega
  simp [this]

@[simp] theorem setEntry_jhead (d : Dev) (j s r h : Nat) : (setEntry d j s r h).jhead = d.jhead := rfl
@[simp] theorem setEntry_pcc (d : Dev) (j s r h : Nat) : (setEntry d j s r h).pcc = d.pcc := rfl
@[simp] theorem setEntry_wear (d : Dev) (j s r h : Nat) : (setEntry d j s r h).wear = d.wear := rfl
@[simp] theorem setEntry_ptp (d : Dev) (j s r h : Nat) : (setEntry d j s r h).ptp = d.ptp := rfl
@[simp] theorem setEntry_boots (d : Dev) (j s r h : Nat) : (setEntry d j s r h).boots = d.boots := rfl

/-! ### Events that take an input -/

/-- What an event that takes an input does: nothing, or its change with the input gone. -/
theorem takeInput_cases {α : Type} (s : State) (pick : Input → Option α) (f : State → α → State) :
    takeInput s pick f = .next s ∨
    ∃ x rest a, s.inputs = x :: rest ∧ pick x = some a ∧ takeInput s pick f = .next (f { s with inputs := rest } a) := by
  unfold takeInput
  split
  · rename_i x rest hi
    split
    · rename_i a ha
      exact .inr ⟨x, rest, a, hi, ha, rfl⟩
    · exact .inl rfl
  · exact .inl rfl

/-- An event on the execution part changes that part alone. -/
theorem onMach_next (s : State) (f : Dev → Mach → Mach) : onMach s f = .next { s with mach := f s.dev s.mach } := rfl

end Sys2Proof.Machine
end

