-- ==== Sys2Proof/Tests/Slice0.lean ====
section
/-!
SUPPORT. Tests of the model on small states: words written out from the encoding tables, terms that the well-formedness checks
refuse, results worked out by hand from the rules, and states that meet the premises of the obligations.
-/

open Sys2Proof Sys2Proof.Machine

set_option Elab.async false

namespace Sys2Proof.Tests

/-! ### Small states -/

/-- A page of data at 0x100000010000: user region 1, readable and writable. -/
def dataLeaf : DWord :=
  BitVec.ofNat 64 (leafWord { home := 0, w := true, x := false, sd := false, ds := false } 1 (trialPa / 65536 + 1))

/-- A page for deferred operations at 0x100000020000. -/
def deferLeaf : DWord :=
  BitVec.ofNat 64 (leafWord { home := 0, w := true, x := false, sd := false, ds := true } 1 (trialPa / 65536 + 2))

/-- The page of the warp's stack at 0x780000000000. -/
def stackLeaf : DWord :=
  BitVec.ofNat 64 (leafWord { home := 0, w := true, x := false, sd := false, ds := false } 1 (trialPa / 65536 + 3))

/-- An instruction alone at the issue stage of a fresh warp, whose s3 holds the address of the data page, whose core translates the
three pages, and whose team has 64 KiB of scratchpad in each window, four tiles and four queues. -/
def seat (i : Instr) : State :=
  let s := placeBundle State.reset (leBytes 16 ((encode i).getD 0#128))
  let m := updTeam s.mach 512 fun t => { t with lima := 0x10000, limb := 0x10000, ntiles := 4, nqueues := 4 }
  let m := updCore m 4 fun c => { c with tlb := c.tlb ++
    [{ ctx := 1, page := pageOf 0 0x100000010000, level := 0, leaf := dataLeaf },
     { ctx := 1, page := pageOf 0 0x100000020000, level := 0, leaf := deferLeaf },
     { ctx := 1, page := pageOf 0 0x780000000000, level := 0, leaf := stackLeaf }] }
  let m := updWarp m 16 fun w => putS w 3 0x100000010000#64 false
  { s with mach := m, agenda := []
           cur := some { warp := 16, path := 0, plane := 0, gap := 0, sync := false, b := 0, limm := none } }

/-- The same with a change of the machine. -/
def seatWith (f : Mach → Mach) (i : Instr) : State := { seat i with mach := f (seat i).mach }

/-- The same with a change of the warp. -/
def seatWarp (f : Warp → Warp) (i : Instr) : State := seatWith (fun m => updWarp m 16 f) i

/-- Every trap of FP32 enabled, and a signalling NaN in lanes 5 to 63 of v6. -/
def nanSeat (i : Instr) : State :=
  seatWith (fun m => updCtx (updWarp m 16 fun w =>
    putV w 6 (~~~0#64) (Lanes.ofLane fun l => if l < 5 then 0#32 else 0x7fa00000#32) 0#64) 1 fun c => { c with fpte := 0x7f }) i

/-- The record of a USER_TRAP of the first bundle. -/
def userTrapRecord : TrapRec :=
  { code := 0x34, cls := 1, slot := 3, plane := 0, path := 0, member := 0, lane := 0, imm := 9, issx := false, nested := false, skip := false
    pc := 0x100000000000, seq := 0, addr := 0, info := 0, resume := 0x100000000010, vbeat := 1, gtc := 0 }

/-- The next state of an outcome. -/
def nextOf (o : Host.Outcome State Fault Refusal) : Option State :=
  match o with
  | .next t => some t
  | .fault _ | .refused _ => none

/-! ### Premises that can be computed -/

/-- The stage of an operation that stands at the issue stage, tested. -/
def stageHas (s : State) (slot : Slot) (i : Instr) (p : Stage → Bool) : Bool :=
  match opStage s slot i with
  | some st => !(st.c.pops.any fun p => p.value.isNone) && !pushFull st.c.m st.c.w st.o && p st
  | none => false

/-- Some stage has the operation at issue and meets the premise. -/
def Shows (s : State) (slot : Slot) (i : Instr) (p : Stage → Prop) : Prop := ∃ st, AtIssue s slot i st ∧ p st

theorem shows_of {s : State} {slot : Slot} {i : Instr} {p : Stage → Prop} {q : Stage → Bool} (h : stageHas s slot i q = true)
    (hq : ∀ st, q st = true → p st) : Shows s slot i p := by
  unfold stageHas at h
  split at h
  · rename_i st hst
    simp only [Bool.and_eq_true, Bool.not_eq_true'] at h
    exact ⟨st, ⟨hst, h.1.1, h.1.2⟩, hq st h.2⟩
  · cases h

theorem shows_all {α : Type} {l : List α} {s : α → State} {slot : Slot} {i : α → Instr} {p : α → Stage → Prop}
    {q : α → Stage → Bool} (h : (l.all fun e => stageHas (s e) slot (i e) (q e)) = true)
    (hq : ∀ e st, q e st = true → p e st) : ∀ e ∈ l, Shows (s e) slot (i e) (p e) :=
  fun e he => shows_of (List.all_eq_true.mp h e he) (hq e)

def usableB (c : Ctx) (srcs : List (BitVec 6)) (dst : Option (BitVec 6)) : Bool :=
  (srcs.all fun n => !(c.s n).mark && (portOf c.w n.toNat).all (·.role = .consumer) &&
    c.pops.all fun p => !(p.port = n.toNat) || !p.shut) &&
  dst.all fun n => (portOf c.w n.toNat).all (·.role = .producer)

theorem usable_of {c : Ctx} {srcs : List (BitVec 6)} {dst : Option (BitVec 6)} (h : usableB c srcs dst = true) :
    c.usable srcs dst := by
  simp only [usableB, Bool.and_eq_true, List.all_eq_true, Bool.not_eq_true', Option.all_eq_true, decide_eq_true_eq,
    Bool.or_eq_true, decide_eq_false_iff_not] at h
  refine ⟨fun n hn => ⟨(h.1 n hn).1.1, fun b hb => (h.1 n hn).1.2 b hb, fun p hp hq => ?_⟩, fun n hn b hb => h.2 n hn b hb⟩
  rcases (h.1 n hn).2 p hp with h' | h'
  · exact absurd hq h'
  · exact h'

def cleanB (c : Ctx) (rs : List (BitVec 7 × DWord)) : Bool :=
  rs.all fun r => (List.range 64).all fun l => !maskBit r.2 l || !maskBit (c.src r.1).marks l

theorem clean_of {c : Ctx} {rs : List (BitVec 7 × DWord)} (h : cleanB c rs = true) : c.clean rs := by
  simp only [cleanB, List.all_eq_true, List.mem_range, Bool.or_eq_true, Bool.not_eq_true'] at h
  intro r hr l hl hm
  rcases h r hr l hl with h' | h'
  · rw [hm] at h'; cases h'
  · exact h'

def bsB (c : Ctx) (rs : List (BitVec 7)) : Bool := !rs.contains 119#7 || usableB c [BitVec.ofNat 6 c.b] none

theorem bs_of {c : Ctx} {rs : List (BitVec 7)} (h : bsB c rs = true) : c.bsUsable rs := by
  intro hr
  simp only [bsB, Bool.or_eq_true, Bool.not_eq_true', List.contains_eq_mem, decide_eq_false_iff_not] at h
  rcases h with h | h
  · exact absurd hr h
  · exact usable_of h

def readableB (c : Ctx) (rs : List (BitVec 7)) : Bool := cleanB c (rs.map fun r => (r, c.mask)) && bsB c rs

theorem readable_of {c : Ctx} {rs : List (BitVec 7)} (h : readableB c rs = true) : c.readable rs := by
  simp only [readableB, Bool.and_eq_true] at h
  exact fun _ => ⟨clean_of h.1, bs_of h.2⟩

def untrappedB (c : Ctx) (fl : Nat → Nat) : Bool := (List.range 64).all fun l => fl l &&& c.fpte = 0

theorem untrapped_of {c : Ctx} {fl : Nat → Nat} (h : untrappedB c fl = true) : c.untrapped fl := by
  simp only [untrappedB, List.all_eq_true, List.mem_range, decide_eq_true_eq] at h
  exact fun l hl _ => h l hl

def comparableB (c : Ctx) (sd : BitVec 6) (va vb : BitVec 7) : Bool :=
  cleanB c [(va, c.mask), (vb, c.mask)] && bsB c [va, vb] && usableB c [] (some sd)

theorem comparable_of {c : Ctx} {sd : BitVec 6} {va vb : BitVec 7} (h : comparableB c sd va vb = true) :
    comparable c sd va vb := by
  simp only [comparableB, Bool.and_eq_true] at h
  exact ⟨clean_of h.1.1, fun _ => bs_of h.1.2, usable_of h.2⟩

def lanesB (n : Nat) (mask : DWord) (p : Nat → Bool) : Bool := (List.range n).all fun l => !maskBit mask l || p l

theorem lanes_of {n : Nat} {mask : DWord} {p : Nat → Prop} [DecidablePred p] (h : lanesB n mask (fun l => decide (p l)) = true) :
    ∀ l < n, maskBit mask l = true → p l := by
  intro l hl hm
  have := List.all_eq_true.mp h l (List.mem_range.mpr hl)
  simpa [hm] using this

theorem and_of {a b : Bool} {p q : Prop} (h : (a && b) = true) (hp : a = true → p) (hq : b = true → q) : p ∧ q :=
  ⟨hp (Bool.and_eq_true_iff.mp h).1, hq (Bool.and_eq_true_iff.mp h).2⟩

/-! ### The V slot -/

/-- Premises of IntegerLaneResults: a warp with all lanes active. -/
theorem witness_IntegerLaneResults :
    (∀ e ∈ integerLanes, Shows (seat (e.1 5 6 119 false)) .v (e.1 5 6 119 false) (·.c.readable [6, 119])) ∧
    (∀ e ∈ unaryLanes, Shows (seat (e.1 111 117 true)) .v (e.1 111 117 true) (·.c.readable [117])) :=
  ⟨shows_all (q := fun _ st => readableB st.c [6, 119]) (by decide +kernel) fun _ _ => readable_of,
   shows_all (q := fun _ st => readableB st.c [117]) (by decide +kernel) fun _ _ => readable_of⟩

/-! ### Words written out from the encoding tables (R148 to R151) -/

theorem test_decode_v_1 : (([
    (0x0042f0ee#30, .vadd 5 112 119 false), (0x0082f0ef#30, .vsub 5 112 119 true), (0x00c2f0ee#30, .vmul 5 112 119 false),
    (0x0102f0ef#30, .vmulhi 5 112 119 true), (0x0142f0ee#30, .vmin 5 112 119 false), (0x0182f0ef#30, .vmax 5 112 119 true),
    (0x01c2f0ee#30, .vminu 5 112 119 false), (0x0202f0ef#30, .vmaxu 5 112 119 true), (0x0242f0ee#30, .vand 5 112 119 false),
    (0x0282f0ef#30, .vor 5 112 119 true), (0x02c2f0ee#30, .vxor 5 112 119 false), (0x0302f0ef#30, .vandn 5 112 119 true),
    (0x0342f0ee#30, .vshl 5 112 119 false), (0x0382f0ef#30, .vshr 5 112 119 true), (0x03c2f0ee#30, .vsra 5 112 119 false),
    (0x0437c001#30, .vclz 111 64 true)] : List (BitVec 30 × Instr)).all fun x => decide (decodeV x.1 = .ok x.2)) = true := by decide

theorem test_decode_v_2 : (([
    (0x0477c001#30, .vpopc 111 64 true), (0x04f7c001#30, .vmov 111 64 true), (0x09f7c001#30, .vfabs 111 64 true),
    (0x0a37c001#30, .vfneg 111 64 true), (0x0ab7c001#30, .vfsqrt 111 64 true), (0x0af7c001#30, .vfexp2 111 64 true),
    (0x0b37c001#30, .vflog2 111 64 true), (0x0df7c001#30, .vbunpk 111 64 true), (0x1437c001#30, .vfkey 111 64 true),
    (0x16b7c001#30, .vredadd 111 64 true), (0x16f7c001#30, .vredfadd 111 64 true), (0x1737c001#30, .vredmax 111 64 true),
    (0x1777c001#30, .vscan 111 64 true), (0x17b7c001#30, .vfscan 111 64 true), (0x048082ea#30, .vsel 1 2 117 false),
    (0x080082ea#30, .vfadd 1 2 117 false)] : List (BitVec 30 × Instr)).all fun x => decide (decodeV x.1 = .ok x.2)) = true := by decide

theorem test_decode_v_3 : (([
    (0x084082ea#30, .vfsub 1 2 117 false), (0x088082ea#30, .vfmul 1 2 117 false), (0x08c082ea#30, .vfma 1 2 117 false),
    (0x090082ea#30, .vfms 1 2 117 false), (0x094082ea#30, .vfmin 1 2 117 false), (0x098082ea#30, .vfmax 1 2 117 false),
    (0x0a4082ea#30, .vfdiv 1 2 117 false), (0x0d0082ea#30, .vbpackM7 1 2 117 false),
    (0x0d4082ea#30, .vbpackM4 1 2 117 false), (0x0d8082ea#30, .vbpackM2 1 2 117 false),
    (0x144082ea#30, .vrng 1 2 117 false), (0x160082ea#30, .vshfl 1 2 117 false), (0x164082ea#30, .vrotl 1 2 117 false),
    (0x0504c003#30, .vmovi 9 0x2001 true), (0x05448000#30, .viota 9 false), (0x0b418480#30, .vfrnd 3 4 .dyn false)] : List (BitVec 30 × Instr)).all fun x => decide (decodeV x.1 = .ok x.2)) = true := by decide

theorem test_decode_v_4 : (([
    (0x0c018442#30, .vcvt 3 4 .ru .f2u false), (0x0c01840f#30, .vcvt 3 4 .rne .u8 true),
    (0x0c018466#30, .vcvt 3 4 .rd .u2f false), (0x0c418424#30, .vpkh 3 4 .rz .fp16 true false),
    (0x0c818402#30, .vupkh 3 4 .bf16 false false), (0x103fc80c#30, .vcmpEq 63 100 3), (0x107fc80c#30, .vcmpNe 63 100 3),
    (0x10bfc80c#30, .vcmpLt 63 100 3), (0x10ffc80c#30, .vcmpLe 63 100 3), (0x113fc80c#30, .vcmpLtu 63 100 3),
    (0x117fc80c#30, .vcmpLeu 63 100 3), (0x123fc80c#30, .vfcmpEq 63 100 3), (0x127fc80c#30, .vfcmpNe 63 100 3),
    (0x12bfc80c#30, .vfcmpLt 63 100 3), (0x12ffc80c#30, .vfcmpLe 63 100 3), (0x133fc80c#30, .vfcmpUn 63 100 3)] : List (BitVec 30 × Instr)).all fun x => decide (decodeV x.1 = .ok x.2)) = true := by decide

theorem test_decode_v_5 : (([
    (0x17ffc80c#30, .vmatch 63 100 3), (0x18004d00#30, .vplane 77)] : List (BitVec 30 × Instr)).all fun x => decide (decodeV x.1 = .ok x.2)) = true := by decide

theorem test_decode_m_1 : (([
    (0x01c909ff#30, .ldv 100 33 .byte 0x1f 15), (0x020e4230#30, .stv 7 8 .half 3 0), (0x300e4504#30, .vspill 7 8 0x10 4),
    (0x31dc4414#30, .vfill 110 8 1 4), (0x03800f29#30, .ldg 64 3 50 9), (0x04800f29#30, .stg 64 3 50 9),
    (0x20800f29#30, .casv 64 3 50 9), (0x10800f29#30, .atomvAdd 64 3 50 9), (0x11800f29#30, .atomvAnd 64 3 50 9),
    (0x12800f29#30, .atomvOr 64 3 50 9), (0x13800f29#30, .atomvXor 64 3 50 9), (0x14800f29#30, .atomvMin 64 3 50 9),
    (0x15800f29#30, .atomvMax 64 3 50 9), (0x16800f29#30, .atomvMinu 64 3 50 9), (0x17800f29#30, .atomvMaxu 64 3 50 9),
    (0x090a1870#30, .spld 5 6 7)] : List (BitVec 30 × Instr)).all fun x => decide (decodeM x.1 = .ok x.2)) = true := by decide

theorem test_decode_m_2 : (([
    (0x0a0a1870#30, .spst 5 6 7), (0x220a1878#30, .daccv .maxF32 5 6 7), (0x0524a3f1#30, .lds 9 10 .dword 0xf 1),
    (0x0624ae41#30, .ldsAcq 9 10 .pod .word 4 1), (0x0724a082#30, .sts 9 10 .byte 8 2),
    (0x0824a572#30, .stsRel 9 10 .team .half 7 2), (0x0b24a310#30, .splds 9 10 .dword 1),
    (0x0c24a190#30, .spsts 9 10 .half 9), (0x2a01f060#30, .pref 31 6), (0x0d51fff0#30, .tld 40 63 127),
    (0x210420ee#30, .cass 1 2 3 .device 14), (0x180420ee#30, .atomsAdd 1 2 3 .device 14),
    (0x190420ee#30, .atomsAnd 1 2 3 .device 14), (0x1a0420ee#30, .atomsOr 1 2 3 .device 14),
    (0x1b0420ee#30, .atomsXor 1 2 3 .device 14), (0x1c0420ee#30, .atomsMin 1 2 3 .device 14)] : List (BitVec 30 × Instr)).all fun x => decide (decodeM x.1 = .ok x.2)) = true := by decide

theorem test_decode_m_3 : (([
    (0x1d0420ee#30, .atomsMax 1 2 3 .device 14), (0x1e0420ee#30, .atomsMinu 1 2 3 .device 14),
    (0x1f0420ee#30, .atomsMaxu 1 2 3 .device 14), (0x23014546#30, .daccs .maxI64 20 21), (0x2820000f#30, .flush .dev 15),
    (0x29400000#30, .fence .acq .warp), (0x29f00000#30, .fence .ar .pod)] : List (BitVec 30 × Instr)).all fun x => decide (decodeM x.1 = .ok x.2)) = true := by decide

theorem test_decode_x_1 : (([
    (0x004f84de#28, .cpy false 31 1 6 (some 15)), (0x00af84de#28, .cpyin true 31 1 6 (some 15)),
    (0x00cf84de#28, .cpyout false 31 1 6 (some 15)), (0x012f84de#28, .cpyr true 31 1 6 (some 15)),
    (0x014f84de#28, .cpym false 31 1 6 (some 15)), (0x01af84de#28, .cpyat true 31 1 6 (some 15)),
    (0x01d18120#28, .cpyz false 3 9 none), (0x023f1400#28, .tdef 63 5), (0x027f0000#28, .tfree 63),
    (0x0282ec00#28, .tstat 2 59), (0x04000007#28, .mres 7), (0x04400000#28, .mrel), (0x049ffe00#28, .chb 3 (some 0x3ff)),
    (0x04a00400#28, .chb 2 none), (0x04c10bf0#28, .mstep 1 2 63), (0x05010bf0#28, .mstepG 1 2 63)] : List (BitVec 28 × Instr)).all fun x => decide (decodeX x.1 = .ok x.2)) = true := by decide

theorem test_decode_x_2 : (([
    (0x0550000c#28, .che 1 12), (0x0590000c#28, .cheG 1 12), (0x05f18000#28, .mpop 99), (0x061ec001#28, .mdep 30 3 1),
    (0x072e0000#28, .gang 2 7), (0x07400000#28, .ungang), (0x08049100#28, .xsv 9 8 none),
    (0x080490fc#28, .xsv 9 8 (some 63)), (0x08788d08#28, .xvs 56 70 33), (0x093fe000#28, .qbind 7 31 .consumer),
    (0x09088000#28, .qbind 1 2 .producer), (0x09600000#28, .qunbind 4), (0x09a88800#28, .qstat 40 17),
    (0x0a2c0003#28, .barr 5 true 3), (0x0a4b0003#28, .tpost 11 3), (0x0ab20000#28, .evset 200)] : List (BitVec 28 × Instr)).all fun x => decide (decodeX x.1 = .ok x.2)) = true := by decide

theorem test_decode_x_3 : (([
    (0x0fe12345#28, .limm 0x212345)] : List (BitVec 28 × Instr)).all fun x => decide (decodeX x.1 = .ok x.2)) = true := by decide

theorem test_decode_c_1 : (([
    (0x003e05f8#28, .add 60 2 63), (0x007e05f8#28, .sub 60 2 63), (0x009e05f8#28, .mul 60 2 63),
    (0x00be05f8#28, .mulhi 60 2 63), (0x00de05f8#28, .mulhu 60 2 63), (0x00fe05f8#28, .div 60 2 63),
    (0x011e05f8#28, .divu 60 2 63), (0x013e05f8#28, .rem 60 2 63), (0x015e05f8#28, .remu 60 2 63),
    (0x021e05f8#28, .and 60 2 63), (0x025e05f8#28, .or 60 2 63), (0x029e05f8#28, .xor 60 2 63),
    (0x031e05f8#28, .shl 60 2 63), (0x035e05f8#28, .shr 60 2 63), (0x039e05f8#28, .sra 60 2 63),
    (0x049e05f8#28, .sel 60 2 63)] : List (BitVec 28 × Instr)).all fun x => decide (decodeC x.1 = .ok x.2)) = true := by decide

theorem test_decode_c_2 : (([
    (0x03c18800#28, .clz 3 4), (0x03e18800#28, .ctz 3 4), (0x04018800#28, .popc 3 4), (0x04e0841d#28, .cmp .leu 1 2 3),
    (0x06802200#28, .callr 17), (0x08402400#28, .setx 18), (0x0a498000#28, .rgrow 19), (0x0b002800#28, .timer 20),
    (0x00439101#28, .addi 7 8 0x101), (0x02239101#28, .andi 7 8 0x101), (0x02639101#28, .ori 7 8 0x101),
    (0x02a39101#28, .xori 7 8 0x101), (0x0323903f#28, .shli 7 8 63), (0x0363903f#28, .shri 7 8 63),
    (0x03a3903f#28, .srai 7 8 63), (0x05039121#28, .cmpi .ltu 7 8 0x21)] : List (BitVec 28 × Instr)).all fun x => decide (decodeC x.1 = .ok x.2)) = true := by decide

theorem test_decode_c_3 : (([
    (0x04a3c001#28, .movi 7 0x4001), (0x04c3c001#28, .movhi 7 0x4001), (0x06126001#28, .br true 9 0x2001),
    (0x06224005#28, .brf false 9 5), (0x06500001#28, .jmp 0x100001), (0x06600003#28, .call 3),
    (0x06c2e464#28, .brd 5 200 100), (0x07140001#28, .bprep 2 0x40001), (0x073c4000#28, .bgo 3 true 4),
    (0x078c0008#28, .penter 1 0x8001), (0x08008001#28, .fwait 0x8001), (0x08208001#28, .fclr 0x8001),
    (0x08831780#28, .crd 6 0x2f), (0x08830980#28, .crdEnergyLo 6), (0x08a30b80#28, .cwr 0x17 6),
    (0x08a30600#28, .cwrWtimer 6)] : List (BitVec 28 × Instr)).all fun x => decide (decodeC x.1 = .ok x.2)) = true := by decide

theorem test_decode_c_4 : (([
    (0x08a30700#28, .cwrGdead 6), (0x0900beef#28, .trap 0xbeef), (0x0940beef#28, .brk 0xbeef),
    (0x0960beef#28, .trmark 0xbeef), (0x0a030b04#28, .sprint true 6 5 4), (0x06a00000#28, .ret), (0x06e00000#28, .join),
    (0x07a00000#28, .pexit), (0x09200000#28, .eret), (0x0a200000#28, .sprel), (0x0a600000#28, .rshrink),
    (0x0b200000#28, .yield), (0x0b400000#28, .endWarp)] : List (BitVec 28 × Instr)).all fun x => decide (decodeC x.1 = .ok x.2)) = true := by decide

/-- The context's page tables at 0x40200000, with a page at 0x400000040000 mapped, where the node's trap frames lie. -/
def framed (m : Mach) : Mach :=
  let m := updNode (updCtx m 1 fun c => { c with root := 0x40200000, route := ~~~0#128 }) 1 fun n => { n with tframe := 0x400000040000 }
  (mapPage m 1 0x400000040000).getD m

/-- A warp in its handler, with a frame that the model wrote. -/
def handlerMach (m : Mach) : Mach := takeTrap (framed m) 16 userTrapRecord [] false

/-- Premises of TrapAndDebugOps for ERET: the handler's frame can be read and no store is outstanding. -/
theorem witness_ReturnIssues :
    stageHas (seatWith (fun m => updWarp (handlerMach m) 16 fun w => { w with enter := false }) .eret) .c .eret (fun st => match st.c.w.trapped with
      | .handler frame => (translateNow st.c.m st.c.w.ctx frame .read false).toOption.isSome && unacked st.c.w == 0
      | _ => false) = true := by decide +kernel

/-- Premises of TrapAndDebugOps for an ERET that waits and one that traps: a store outstanding, and a frame whose page is not mapped. -/
theorem witness_ReturnWaits :
    (stageHas (seatWith (fun m => updWarp (handlerMach m) 16 fun w => { w with enter := false, ops := [{
        id := 5, kind := .store 4 none, acc := [], flag := none, path := 0, plane := 0, cidx := 0, pc := 0, seq := 0, ticket := none
        both := false, floor := 0, failed := false }] }) .eret) .c .eret (fun st => unacked st.c.w != 0) &&
    stageHas (seatWith (fun m => updWarp m 16 fun w => { w with trapped := .handler 0x400000080000 }) .eret) .c .eret fun st =>
      match translateNow st.c.m st.c.w.ctx 0x400000080000 .read false with
      | .error e => e.code != 0x33
      | _ => false) = true := by decide +kernel

/-- Premises of TrapEntry: a frame that can be written with the code routed to the handler and not, one that is not mapped, and a trap
in the handler. -/
theorem witness_TrapEntry :
    (((getWarp? (framed (seat .nop).mach) 16).any fun w => (ctxOf (framed (seat .nop).mach) w).all (!dbgCtl · 7) && w.trapped = .running &&
        (translateNow (framed (seat .nop).mach) w.ctx (frameAddr (framed (seat .nop).mach) w) .write false).toOption.isSome &&
        (ctxOf (framed (seat .nop).mach) w).any (fun c => c.route.getLsbD userTrapRecord.code) && userTrapRecord.code != 0x60 &&
        Memory.wf (framed (seat .nop).mach).mem && mapWf w.s) &&
    ((getWarp? (seat .nop).mach 16).any fun w => w.trapped = .running && (ctxOf (seat .nop).mach w).any (fun c =>
        !c.route.getLsbD userTrapRecord.code) && (translateNow (seat .nop).mach w.ctx (frameAddr (seat .nop).mach w) .write false).toOption.isNone) &&
    (getWarp? (handlerMach (seat .nop).mach) 16).any fun w => match w.trapped with
      | .handler _ => true
      | _ => false) = true := by decide +kernel

/-- Premises of TrapReturn: the frame that the entry wrote holds no pending record, and its stream is path 0's. -/
theorem witness_TrapReturn :
    ((getWarp? (handlerMach (seat .nop).mach) 16).any fun w =>
      let m := handlerMach (seat .nop).mach
      let key := ((translateNow m 1 (frameAddr m w) .read false).toOption.map (·.key)).getD 0
      let bs := openBytes m key 0x8000
      w.record.any (·.cls != 2) && w.shadow.isSome && w.flight.isEmpty && w.due.isEmpty && w.ext.isEmpty && mapWf w.s &&
      (framePending bs).isEmpty && !(wordAt bs 0).getLsbD 63 && ((frameStreams bs).filter fun x => x.2.1 = 0) == [(0, 0, 0)]) = true := by
  decide +kernel

/-! ### Results worked out by hand -/

/-- Lane 0 of v6 and of v7, and s1 and s2, as given, in every operand of an instruction at the issue stage. -/
def given (a b : Word) (x y : DWord) (i : Instr) : State :=
  seatWarp (fun w => putS (putS (putV (putV w 6 (~~~0#64) (Lanes.ofLane fun _ => a) 0#64) 7 (~~~0#64) (Lanes.ofLane fun _ => b) 0#64)
    1 x false) 2 y false) i

/-- The warp when everything that it has in flight has landed. -/
def landed (o : Host.Outcome State Fault Refusal) : Option Warp := (nextOf o).bind fun t => getWarp? (landAll t.mach 16) 16

/-- Lane 63 of v5, once an instruction of `a` and `b` has landed. -/
def laneResult (a b : Word) (i : Instr) : Option Word := (landed (exec i (given a b 0#64 0#64 i))).map fun w => (getV w 5).lanes.at 63

/-- s5, once an instruction of `x` and `y` has landed. -/
def scalarResult (x y : DWord) (i : Instr) : Option DWord := (landed (exec i (given 0#32 0#32 x y i))).map fun w => (getS w 5).value

/-- R175: 2³² − 1 and 2 wrap to 1; −1 times 1 has the high word −1; a shift of 32 leaves the sign. -/
theorem test_integer_lanes :
    laneResult 0xffffffff#32 2#32 (.vadd 5 6 7 false) = some 1#32 ∧
    laneResult 0xffffffff#32 1#32 (.vmulhi 5 6 7 false) = some 0xffffffff#32 ∧
    laneResult 0x80000000#32 32#32 (.vsra 5 6 7 false) = some 0xffffffff#32 ∧
    laneResult 3#32 32#32 (.vshl 5 6 7 false) = some 0#32 ∧
    laneResult 0xffffffff#32 1#32 (.vmin 5 6 7 false) = some 0xffffffff#32 ∧
    laneResult 0xffffffff#32 1#32 (.vminu 5 6 7 false) = some 1#32 := by decide +kernel

/-- R176, R140: no bit set gives 32 leading zeros; the key of −0 is one below the key of +0. -/
theorem test_counts_and_keys :
    laneResult 0#32 0#32 (.vclz 5 6 false) = some 32#32 ∧ laneResult 0x80000000#32 0#32 (.vfkey 5 6 false) = some 0x7fffffff#32 ∧
    laneResult 0#32 0#32 (.vfkey 5 6 false) = some 0x80000000#32 := by decide +kernel

/-- R182: 1 + 2 is 3; 1 over 3 rounds to 0x3eaaaaab; the square root of 2 rounds to 0x3fb504f3. -/
theorem test_float_lanes :
    laneResult 0x3f800000#32 0x40000000#32 (.vfadd 5 6 7 false) = some 0x40400000#32 ∧
    laneResult 0x3f800000#32 0x40400000#32 (.vfdiv 5 6 7 false) = some 0x3eaaaaab#32 ∧
    laneResult 0x40000000#32 0#32 (.vfsqrt 5 6 false) = some 0x3fb504f3#32 := by decide +kernel

/-- R264: the rows of its table of examples. -/
theorem test_division :
    scalarResult (-7) 2 (.div 5 1 2) = some (-3) ∧ scalarResult (-7) 2 (.rem 5 1 2) = some (-1) ∧
    scalarResult (-7) 2 (.divu 5 1 2) = some 0x7ffffffffffffffc#64 ∧ scalarResult 7 0 (.div 5 1 2) = some (-1) ∧
    scalarResult 7 0 (.remu 5 1 2) = some 7 ∧
    scalarResult 0x8000000000000000#64 (-1) (.div 5 1 2) = some 0x8000000000000000#64 ∧
    scalarResult 0x8000000000000000#64 (-1) (.rem 5 1 2) = some 0 := by decide +kernel

/-- R195: the mask has the bit of each lane in which a is less. -/
theorem test_compare_mask :
    (landed (exec (.vcmpLt 5 6 7) (given 0xffffffff#32 0#32 0#64 0#64 (.vcmpLt 5 6 7)))).map (fun w => (getS w 5).value) = some (~~~0#64) ∧
    (landed (exec (.vcmpLtu 5 6 7) (given 0xffffffff#32 0#32 0#64 0#64 (.vcmpLtu 5 6 7)))).map (fun w => (getS w 5).value) = some 0#64 := by
  decide +kernel

/-- A step runs the bundle that stands where the warp fetches: ADDI s5, s0, 7, whose word is written out from R151, then its sum is in
s5 and the warp's path stands at the next bundle. -/
theorem test_step_runs :
    ((nextOf (step (State.reset.withFetchWord 128 0x428007))).bind fun t => getWarp? (landAll t.mach 16) 16).map
      (fun w => ((getS w 5).value, w.p0.place.addr)) = some (7#64, trialVa + 16) := by decide +kernel

/-! ### Terms that are not well formed -/

/-- A destination above v111, a source that names no register or latch, a control register that R71 lacks, a conversion whose mode has
no meaning, words of another row. -/
theorem test_ill_formed :
    (Instr.vadd 112 0 0 false).flaw = some .vregCode ∧ (Instr.vadd 0 118 0 false).flaw = some .vregCode ∧
    (Instr.crd 1 0x18).flaw = some .cregUndef ∧ (Instr.vcvt 0 0 .rz .i16 false).flaw = some .reserved ∧
    (Instr.crd 1 0x13).flaw = some .otherRow ∧ decodeV 0x00780000#30 = .error .vregCode := by decide +kernel

/-- An opcode that no slot's map assigns is refused by name. -/
theorem test_unassigned : (decodeBundle (0xff#128 <<< 108)).toOption = none ∧ staticFaults (0xff#128 <<< 108) = [(.opcUndef, some .v)] ∧
    (Instr.unassignedOpcode .v 0x01).flaw = some .otherRow := by decide +kernel

/-- Whether lane `l` is the first that traps. -/
def trapsFirstB (c : Ctx) (flags : Nat → Nat) (l : Nat) : Bool := decide
  ((l < 64 ∧ maskBit c.mask l = true ∧ flags l &&& c.fpte ≠ 0) ∧ ∀ j < l, maskBit c.mask j = true → flags j &&& c.fpte = 0)

theorem trapsFirst_any {c : Ctx} {f : Nat → Nat} {ls : List Nat} (h : ls.any (trapsFirstB c f) = true) : ∃ l ∈ ls, c.trapsFirst f l := by
  obtain ⟨l, hm, hl⟩ := List.any_eq_true.mp h
  exact ⟨l, hm, by simpa [trapsFirstB, Ctx.trapsFirst] using hl⟩

/-- Premises of FloatLaneResults: lanes of zeros raise no flag; with every trap enabled, a signalling NaN in lanes 5 to 63 traps in
lane 5, unless a zero in lane 0 traps already. -/
theorem witness_FloatLaneResults :
    (∀ e ∈ floatLanes, Shows (seat (e.1 5 6 7 false)) .v (e.1 5 6 7 false) fun st =>
      st.c.readable [6, 7] ∧ st.c.untrapped fun i => (e.2.2.2 (st.c.lane 6 i) (st.c.lane 7 i)).2) ∧
    (∀ e ∈ floatUnary, Shows (seat (e.1 5 6 false)) .v (e.1 5 6 false) fun st =>
      st.c.readable [6] ∧ st.c.untrapped fun i => (e.2.2.2 (st.c.lane 6 i)).2) ∧
    (∀ e ∈ ternaryLanes, Shows (seat (e.1 5 6 7 false)) .v (e.1 5 6 7 false) fun st =>
      st.c.readable [5, 6, 7] ∧ st.c.untrapped fun i => (e.2.2.2 (st.c.lane 6 i) (st.c.lane 7 i) (st.c.lane 5 i)).2) ∧
    (∀ e ∈ floatLanes, Shows (nanSeat (e.1 5 6 7 false)) .v (e.1 5 6 7 false) fun st =>
      st.c.readable [6, 7] ∧ ∃ l ∈ [0, 5], st.c.trapsFirst (fun i => (e.2.2.2 (st.c.lane 6 i) (st.c.lane 7 i)).2) l) ∧
    (∀ e ∈ floatUnary.drop 2, Shows (nanSeat (e.1 5 6 false)) .v (e.1 5 6 false) fun st =>
      st.c.readable [6] ∧ ∃ l ∈ [0, 5], st.c.trapsFirst (fun i => (e.2.2.2 (st.c.lane 6 i)).2) l) ∧
    (∀ e ∈ ternaryLanes.drop 1, Shows (nanSeat (e.1 5 6 7 false)) .v (e.1 5 6 7 false) fun st =>
      st.c.readable [5, 6, 7] ∧
        st.c.trapsFirst (fun i => (e.2.2.2 (st.c.lane 6 i) (st.c.lane 7 i) (st.c.lane 5 i)).2) 5) :=
  ⟨shows_all (q := fun e st => readableB st.c [6, 7] && untrappedB st.c fun i => (e.2.2.2 (st.c.lane 6 i) (st.c.lane 7 i)).2)
      (by decide +kernel) fun _ _ h => and_of h readable_of untrapped_of,
    shows_all (q := fun e st => readableB st.c [6] && untrappedB st.c fun i => (e.2.2.2 (st.c.lane 6 i)).2)
      (by decide +kernel) fun _ _ h => and_of h readable_of untrapped_of,
    shows_all (q := fun e st => readableB st.c [5, 6, 7] &&
        untrappedB st.c fun i => (e.2.2.2 (st.c.lane 6 i) (st.c.lane 7 i) (st.c.lane 5 i)).2)
      (by decide +kernel) fun _ _ h => and_of h readable_of untrapped_of,
    shows_all (q := fun e st => readableB st.c [6, 7] && [0, 5].any (trapsFirstB st.c (fun i => (e.2.2.2 (st.c.lane 6 i) (st.c.lane 7 i)).2)))
      (by decide +kernel) fun _ _ h => and_of h readable_of trapsFirst_any,
    shows_all (q := fun e st => readableB st.c [6] && [0, 5].any (trapsFirstB st.c (fun i => (e.2.2.2 (st.c.lane 6 i)).2)))
      (by decide +kernel) fun _ _ h => and_of h readable_of trapsFirst_any,
    shows_all (q := fun e st => readableB st.c [5, 6, 7] &&
        trapsFirstB st.c (fun i => (e.2.2.2 (st.c.lane 6 i) (st.c.lane 7 i) (st.c.lane 5 i)).2) 5)
      (by decide +kernel) fun _ _ h => and_of h readable_of of_decide_eq_true⟩

/-- Whether every active lane's quarter has a header that names a format. -/
def headsB (c : Ctx) (va : BitVec 7) : Bool := lanesB 64 c.mask fun l => quarterHead (c.src va).lanes (l / 16) ≠ .bad

theorem heads_of {c : Ctx} {va : BitVec 7} (h : headsB c va = true) :
    ∀ l < 64, ¬ (maskBit c.mask l = true ∧ quarterHead (c.src va).lanes (l / 16) = .bad) :=
  fun l hl hb => lanes_of h l hl hb.1 hb.2

/-- Premises of ConversionResults, for every rounding, kind and format; VBUNPK reads the block image that VBPACK.M7 makes of zeros. -/
theorem witness_ConversionResults :
    Shows (seat (.vmovi 111 0x2000 true)) .v (.vmovi 111 0x2000 true) (fun _ => True) ∧
    Shows (seat (.viota 0 false)) .v (.viota 0 false) (fun _ => True) ∧
    (∀ rm ∈ [Rm.rne, .rz, .ru, .rd, .dyn], Shows (seat (.vfrnd 5 6 rm false)) .v (.vfrnd 5 6 rm false) fun st =>
      st.c.readable [6] ∧ st.c.untrapped fun i => (frnd (rmMode rm st.c.w.round) (st.c.lane 6 i)).2) ∧
    (∀ kind ∈ [CvtKind.f2i, .f2u, .i2f, .u2f, .i16, .i8, .u16, .u8],
      Shows (seat (.vcvt 5 6 .rne kind false)) .v (.vcvt 5 6 .rne kind false) fun st =>
        st.c.readable [6] ∧ st.c.untrapped fun i => (cvtLane kind (rmMode .rne st.c.w.round) (st.c.lane 6 i)).2) ∧
    (∀ e ∈ [(HalfFmt.fp16, true), (.fp16, false), (.bf16, true), (.bf16, false)],
      Shows (seat (.vpkh 5 6 .rne e.1 e.2 false)) .v (.vpkh 5 6 .rne e.1 e.2 false) fun st => st.c.readable [5, 6] ∧
        st.c.untrapped fun i => (packHalf e.1 e.2 (rmMode .rne st.c.w.round) (st.c.lane 6 i) (st.c.lane 5 i)).2) ∧
    (∀ e ∈ [(HalfFmt.fp16, true), (.fp16, false), (.bf16, true), (.bf16, false)],
      Shows (seat (.vupkh 5 6 e.1 e.2 false)) .v (.vupkh 5 6 e.1 e.2 false) fun st => st.c.readable [6] ∧
        st.c.untrapped fun i => (unpackHalf e.1 e.2 (st.c.lane 6 i)).2) ∧
    (∀ e ∈ [(Instr.vbpackM7, BFmt.m7), (.vbpackM4, .m4), (.vbpackM2, .m2)],
      Shows (seat (e.1 5 6 7 false)) .v (e.1 5 6 7 false) fun st => (st.c.bsUsable [6, 7] ∧
        st.c.clean [(6, st.c.mask), (7, maskOf fun l => l % 16 = 0 && quarterActive st.c.mask (l / 16))]) ∧
        st.c.untrapped fun i => (packQuarter e.2 st.c.mask (st.c.src 6).lanes (st.c.src 7).lanes (i / 16)).2) ∧
    Shows (seat (.vbunpk 5 6 false)) .v (.vbunpk 5 6 false) fun st => (st.c.clean (unpackReads 6 st.c) ∧ st.c.bsUsable [6]) ∧
      ((∀ l < 64, ¬ (maskBit st.c.mask l = true ∧ quarterHead (st.c.src 6).lanes (l / 16) = .bad)) ∧
        st.c.untrapped fun i => (unpackLane (st.c.src 6).lanes i).2) :=
  ⟨shows_of (q := fun _ => true) (by decide +kernel) fun _ _ => trivial, shows_of (q := fun _ => true) (by decide +kernel) fun _ _ => trivial,
    shows_all (q := fun rm st => readableB st.c [6] && untrappedB st.c fun i => (frnd (rmMode rm st.c.w.round) (st.c.lane 6 i)).2)
      (by decide +kernel) fun _ _ h => and_of h readable_of untrapped_of,
    shows_all (q := fun kind st => readableB st.c [6] &&
        untrappedB st.c fun i => (cvtLane kind (rmMode .rne st.c.w.round) (st.c.lane 6 i)).2)
      (by decide +kernel) fun _ _ h => and_of h readable_of untrapped_of,
    shows_all (q := fun e st => readableB st.c [5, 6] &&
        untrappedB st.c fun i => (packHalf e.1 e.2 (rmMode .rne st.c.w.round) (st.c.lane 6 i) (st.c.lane 5 i)).2)
      (by decide +kernel) fun _ _ h => and_of h readable_of untrapped_of,
    shows_all (q := fun e st => readableB st.c [6] && untrappedB st.c fun i => (unpackHalf e.1 e.2 (st.c.lane 6 i)).2)
      (by decide +kernel) fun _ _ h => and_of h readable_of untrapped_of,
    shows_all (q := fun e st => (bsB st.c [6, 7] &&
        cleanB st.c [(6, st.c.mask), (7, maskOf fun l => l % 16 = 0 && quarterActive st.c.mask (l / 16))]) &&
        untrappedB st.c fun i => (packQuarter e.2 st.c.mask (st.c.src 6).lanes (st.c.src 7).lanes (i / 16)).2)
      (by decide +kernel) fun _ _ h => and_of h (fun h => and_of h bs_of clean_of) untrapped_of,
    shows_of (q := fun st => (cleanB st.c (unpackReads 6 st.c) && bsB st.c [6]) &&
        (headsB st.c 6 &&
          untrappedB st.c fun i => (unpackLane (st.c.src 6).lanes i).2))
      (by decide +kernel) fun _ h => and_of h (fun h => and_of h clean_of bs_of) fun h => and_of h heads_of untrapped_of⟩

/-- Every trap of FP32 enabled, and in each quarter of v6 a block image whose first words are `h` and 0x255c0002. -/
def blockSeat (h : Word) (i : Instr) : State :=
  seatWith (fun m => updCtx (updWarp m 16 fun w =>
    putV w 6 (~~~0#64) (Lanes.ofLane fun l => if l % 16 = 0 then h else if l % 16 = 1 then 0x255c0002#32 else 0#32) 0#64) 1
      fun c => { c with fpte := 0x7f }) i

/-- Premises of ConversionResults where a flag traps: signalling NaNs, and an M4 block of which the first element is too large for FP32; and
where VBUNPK finds a header that names no format. -/
theorem witness_ConversionResults_traps :
    (Shows (nanSeat (.vfrnd 5 6 .rne false)) .v (.vfrnd 5 6 .rne false) fun st =>
      st.c.readable [6] ∧ ∃ l ∈ [0, 5], st.c.trapsFirst (fun i => (frnd (rmMode .rne st.c.w.round) (st.c.lane 6 i)).2) l) ∧
    (Shows (nanSeat (.vcvt 5 6 .rz .f2i false)) .v (.vcvt 5 6 .rz .f2i false) fun st =>
      st.c.readable [6] ∧ ∃ l ∈ [0, 5], st.c.trapsFirst (fun i => (cvtLane .f2i (rmMode .rz st.c.w.round) (st.c.lane 6 i)).2) l) ∧
    (Shows (nanSeat (.vpkh 5 6 .rd .fp16 true false)) .v (.vpkh 5 6 .rd .fp16 true false) fun st => st.c.readable [5, 6] ∧
      ∃ l ∈ [0, 5], st.c.trapsFirst (fun i => (packHalf .fp16 true (rmMode .rd st.c.w.round) (st.c.lane 6 i) (st.c.lane 5 i)).2) l) ∧
    (Shows (nanSeat (.vupkh 5 6 .bf16 true false)) .v (.vupkh 5 6 .bf16 true false) fun st =>
      st.c.readable [6] ∧ ∃ l ∈ [0, 5], st.c.trapsFirst (fun i => (unpackHalf .bf16 true (st.c.lane 6 i)).2) l) ∧
    (∀ e ∈ [(Instr.vbpackM7, BFmt.m7), (.vbpackM4, .m4), (.vbpackM2, .m2)],
      Shows (nanSeat (e.1 5 6 7 false)) .v (e.1 5 6 7 false) fun st => (st.c.bsUsable [6, 7] ∧
        st.c.clean [(6, st.c.mask), (7, maskOf fun l => l % 16 = 0 && quarterActive st.c.mask (l / 16))]) ∧
        ∃ l ∈ [0, 5], st.c.trapsFirst (fun i => (packQuarter e.2 st.c.mask (st.c.src 6).lanes (st.c.src 7).lanes (i / 16)).2) l) ∧
    (Shows (blockSeat 0x02fe7f21 (.vbunpk 5 6 false)) .v (.vbunpk 5 6 false) fun st => (st.c.clean (unpackReads 6 st.c) ∧ st.c.bsUsable [6]) ∧
      ((∀ l < 64, ¬ (maskBit st.c.mask l = true ∧ quarterHead (st.c.src 6).lanes (l / 16) = .bad)) ∧
        ∃ l ∈ [0, 5], st.c.trapsFirst (fun i => (unpackLane (st.c.src 6).lanes i).2) l)) ∧
    Shows (blockSeat 0xff (.vbunpk 5 6 false)) .v (.vbunpk 5 6 false) fun st => (st.c.clean (unpackReads 6 st.c) ∧ st.c.bsUsable [6]) ∧
      (maskBit st.c.mask 0 = true ∧ quarterHead (st.c.src 6).lanes (0 / 16) = .bad) :=
  ⟨shows_of (q := fun st => readableB st.c [6] &&
        [0, 5].any (trapsFirstB st.c (fun i => (frnd (rmMode .rne st.c.w.round) (st.c.lane 6 i)).2)))
      (by decide +kernel) fun _ h => and_of h readable_of trapsFirst_any,
    shows_of (q := fun st => readableB st.c [6] &&
        [0, 5].any (trapsFirstB st.c (fun i => (cvtLane .f2i (rmMode .rz st.c.w.round) (st.c.lane 6 i)).2)))
      (by decide +kernel) fun _ h => and_of h readable_of trapsFirst_any,
    shows_of (q := fun st => readableB st.c [5, 6] &&
        [0, 5].any (trapsFirstB st.c (fun i => (packHalf .fp16 true (rmMode .rd st.c.w.round) (st.c.lane 6 i) (st.c.lane 5 i)).2)))
      (by decide +kernel) fun _ h => and_of h readable_of trapsFirst_any,
    shows_of (q := fun st => readableB st.c [6] && [0, 5].any (trapsFirstB st.c (fun i => (unpackHalf .bf16 true (st.c.lane 6 i)).2)))
      (by decide +kernel) fun _ h => and_of h readable_of trapsFirst_any,
    shows_all (q := fun e st => (bsB st.c [6, 7] &&
        cleanB st.c [(6, st.c.mask), (7, maskOf fun l => l % 16 = 0 && quarterActive st.c.mask (l / 16))]) &&
        [0, 5].any (trapsFirstB st.c (fun i => (packQuarter e.2 st.c.mask (st.c.src 6).lanes (st.c.src 7).lanes (i / 16)).2)))
      (by decide +kernel) fun _ _ h => and_of h (fun h => and_of h bs_of clean_of) trapsFirst_any,
    shows_of (q := fun st => (cleanB st.c (unpackReads 6 st.c) && bsB st.c [6]) &&
        (headsB st.c 6 &&
          [0, 5].any (trapsFirstB st.c (fun i => (unpackLane (st.c.src 6).lanes i).2))))
      (by decide +kernel) fun _ h => and_of h (fun h => and_of h clean_of bs_of) fun h => and_of h heads_of trapsFirst_any,
    shows_of (q := fun st => (cleanB st.c (unpackReads 6 st.c) && bsB st.c [6]) &&
        decide (maskBit st.c.mask 0 = true ∧ quarterHead (st.c.src 6).lanes (0 / 16) = .bad))
      (by decide +kernel) fun _ h => and_of h (fun h => and_of h clean_of bs_of) of_decide_eq_true⟩

/-- Premises of CompareResults: sources in registers, latches and bs, a mask to s63 and to s0. -/
theorem witness_CompareResults :
    (∀ e ∈ integerCompares, Shows (seat (e.1 63 112 119)) .v (e.1 63 112 119) (comparable ·.c 63 112 119)) ∧
    (∀ e ∈ floatCompares, Shows (seat (e.1 0 6 7)) .v (e.1 0 6 7) fun st => comparable st.c 0 6 7 ∧
      st.c.untrapped fun i => (fcmp e.2.2 (st.c.lane 6 i) (st.c.lane 7 i)).2) ∧
    (∀ e ∈ floatCompares, Shows (nanSeat (e.1 0 6 7)) .v (e.1 0 6 7) fun st => comparable st.c 0 6 7 ∧
      ∃ l ∈ [5], st.c.trapsFirst (fun i => (fcmp e.2.2 (st.c.lane 6 i) (st.c.lane 7 i)).2) l) ∧
    Shows (seat (.vmatch 9 6 6)) .v (.vmatch 9 6 6) (comparable ·.c 9 6 6) :=
  ⟨shows_all (q := fun _ st => comparableB st.c 63 112 119) (by decide +kernel) fun _ _ => comparable_of,
    shows_all (q := fun e st => comparableB st.c 0 6 7 && untrappedB st.c fun i => (fcmp e.2.2 (st.c.lane 6 i) (st.c.lane 7 i)).2)
      (by decide +kernel) fun _ _ h => and_of h comparable_of untrapped_of,
    shows_all (q := fun e st => comparableB st.c 0 6 7 &&
        [5].any (trapsFirstB st.c (fun i => (fcmp e.2.2 (st.c.lane 6 i) (st.c.lane 7 i)).2)))
      (by decide +kernel) fun _ _ h => and_of h comparable_of trapsFirst_any,
    shows_of (q := fun st => comparableB st.c 9 6 6) (by decide +kernel) fun _ => comparable_of⟩

/-- Premises of LaneMovementResults. -/
theorem witness_LaneMovementResults :
    Shows (seat (.vrng 5 6 7 false)) .v (.vrng 5 6 7 false) (·.c.readable [6, 7]) ∧
    Shows (seat (.vshfl 5 6 7 false)) .v (.vshfl 5 6 7 false) (fun st => st.c.bsUsable [6, 7] ∧
      st.c.clean [(6, takenLanes st.c.mask fun i => (st.c.lane 7 i).toNat % 64), (7, st.c.mask)]) ∧
    Shows (seat (.vrotl 5 6 7 false)) .v (.vrotl 5 6 7 false) (fun st => st.c.bsUsable [6, 7] ∧
      st.c.clean [(6, takenLanes st.c.mask fun i => (i + 64 - (st.c.lane 7 0).toNat % 64) % 64), (7, 1#64)]) ∧
    (∀ e ∈ [Instr.vredadd, .vscan], Shows (seat (e 5 6 false)) .v (e 5 6 false) (·.c.readable [6])) ∧
    (∀ e ∈ floatFolds, Shows (seat (e.1 5 6 false)) .v (e.1 5 6 false) (fun st => st.c.readable [6] ∧
      st.c.untrapped fun i => (e.2.2 st.c.mask (st.c.src 6).lanes i).2)) ∧
    (∀ e ∈ floatFolds, Shows (nanSeat (e.1 5 6 false)) .v (e.1 5 6 false) (fun st => st.c.readable [6] ∧
      ∃ l ∈ [0, 5], st.c.trapsFirst (fun i => (e.2.2 st.c.mask (st.c.src 6).lanes i).2) l)) :=
  ⟨shows_of (q := fun st => readableB st.c [6, 7]) (by decide +kernel) fun _ => readable_of,
    shows_of (q := fun st => bsB st.c [6, 7] &&
      cleanB st.c [(6, takenLanes st.c.mask fun i => (st.c.lane 7 i).toNat % 64), (7, st.c.mask)]) (by decide +kernel)
      fun _ h => and_of h bs_of clean_of,
    shows_of (q := fun st => bsB st.c [6, 7] &&
      cleanB st.c [(6, takenLanes st.c.mask fun i => (i + 64 - (st.c.lane 7 0).toNat % 64) % 64), (7, 1#64)]) (by decide +kernel)
      fun _ h => and_of h bs_of clean_of,
    shows_all (q := fun _ st => readableB st.c [6]) (by decide +kernel) fun _ _ => readable_of,
    shows_all (q := fun e st => readableB st.c [6] && untrappedB st.c fun i => (e.2.2 st.c.mask (st.c.src 6).lanes i).2) (by decide +kernel)
      fun _ _ h => and_of h readable_of untrapped_of,
    shows_all (q := fun e st => readableB st.c [6] &&
        [0, 5].any (trapsFirstB st.c (fun i => (e.2.2 st.c.mask (st.c.src 6).lanes i).2))) (by decide +kernel)
      fun _ _ h => and_of h readable_of trapsFirst_any⟩

/-- Premises of PlaneAssignment: lanes of zeros outside a region, where P is 1, and lanes 5 to 63 that hold 2. -/
theorem witness_PlaneAssignment :
    Shows (seat (.vplane 6)) .v (.vplane 6) (fun st => st.c.readable [6] ∧
      ∀ l < 64, maskBit st.c.mask l = true → (st.c.lane 6 l).toNat < planeCount st.c.w) ∧
    Shows (seatWarp (fun w => putV w 6 (~~~0#64) (Lanes.ofLane fun l => if l < 5 then 0#32 else 2#32) 0#64) (.vplane 6)) .v
      (.vplane 6) (fun st => st.c.readable [6] ∧ (maskBit st.c.mask 5 = true ∧ planeCount st.c.w ≤ (st.c.lane 6 5).toNat ∧
        ∀ j < 5, maskBit st.c.mask j = true → (st.c.lane 6 j).toNat < planeCount st.c.w)) :=
  ⟨shows_of (q := fun st => readableB st.c [6] && lanesB 64 st.c.mask fun l => (st.c.lane 6 l).toNat < planeCount st.c.w)
      (by decide +kernel) fun _ h => and_of h readable_of lanes_of,
    shows_of (q := fun st => readableB st.c [6] && ((maskBit st.c.mask 5 && decide (planeCount st.c.w ≤ (st.c.lane 6 5).toNat)) &&
        lanesB 5 st.c.mask fun l => (st.c.lane 6 l).toNat < planeCount st.c.w)) (by decide +kernel)
      fun _ h => and_of h readable_of fun h => by
        obtain ⟨⟨h1, h2⟩, h3⟩ := and_of h (fun h => and_of h id of_decide_eq_true) lanes_of
        exact ⟨h1, h2, h3⟩⟩

/-! ### The M slot -/

/-- The elements where the warp's translations place them. -/
def placedFor (c : Ctx) (k : AccKind) (es : List Elem) : List Placed :=
  es.map fun e => match c.xlate e.addr k with
    | .hit key leaf level => { lane := e.lane, addr := e.addr, key := key, leaf := leaf, level := level }
    | _ => { lane := e.lane, addr := e.addr, key := 0, leaf := 0#64, level := 0 }

def reachesB (c : Ctx) (k : AccKind) (n : Nat) (write : Bool) (es : List Elem) (ps : List Placed) : Bool :=
  decide ((ps.map fun p => ({ lane := p.lane, addr := p.addr } : Elem)) = es) &&
  (ps.all fun p => canonical p.addr && decide (p.addr % n = 0) && decide (c.xlate p.addr k = .hit p.key p.leaf p.level)) &&
  ((ps.all fun p => (lockOn c false write p.addr n).isNone) && ps.all fun p => !leafDs p.leaf || k != .atomic)

theorem reaches_of {c : Ctx} {k : AccKind} {n : Nat} {write : Bool} {es : List Elem} {ps : List Placed}
    (h : reachesB c k n write es ps = true) : c.reaches k n write es ps := by
  simp only [reachesB, Bool.and_eq_true, decide_eq_true_eq, List.all_eq_true, Option.isNone_iff_eq_none, Bool.or_eq_true,
    Bool.not_eq_true', bne_iff_ne] at h
  obtain ⟨⟨h1, h2⟩, h3, h4⟩ := h
  refine ⟨h1, fun p hp => ⟨(h2 p hp).1.1, (h2 p hp).1.2, (h2 p hp).2⟩, fun _ p hp => h3 p hp, fun hk _ p hp => ?_⟩
  rcases h4 p hp with h' | h'
  · exact h'
  · exact absurd hk h'

/-- The address of a row element and of a gathered element. -/
def rowAt (c : Ctx) (sa : BitVec 6) (ofs : BitVec 5) (n l : Nat) : Nat :=
  (c.sv sa + BitVec.ofInt 64 (ofs.toInt * 64 * n) + BitVec.ofNat 64 (l * n)).toNat
def gatherAt (c : Ctx) (vx : BitVec 7) (sa : BitVec 6) (l : Nat) : Nat := (c.sv sa + (c.lane vx l).signExtend 64).toNat

/-- The one element of a scalar access. -/
def dispAt (c : Ctx) (sa : BitVec 6) (disp : BitVec 4) (n : Nat) : List Elem :=
  [{ lane := 0, addr := (c.sv sa + BitVec.ofInt 64 (disp.toInt * n)).toNat }]

/-- Premises that every per-lane access shares: a free flag and a usable base. -/
def laneFree (c : Ctx) (sa : BitVec 6) (f : Nat) : Bool := !(getF c.w f).pend && usableB c [sa] none

theorem laneFree_of {c : Ctx} {sa : BitVec 6} {f : Nat} (h : laneFree c sa f = true) :
    (getF c.w f).pend = false ∧ c.usable [sa] none := by
  simp only [laneFree, Bool.and_eq_true, Bool.not_eq_true'] at h
  exact ⟨h.1, usable_of h.2⟩

/-- Premises of LaneMemoryIssues: every gathering operation, CASV, the rows of each width at both ends of OFS, and a spill and a fill
just below the top of the stack. -/
theorem witness_LaneMemoryIssues :
    (∀ e ∈ gathers, Shows (seat (e.1 4 7 3 15)) .m (e.1 4 7 3 15) fun st =>
      ((getF st.c.w 15).pend = false ∧ st.c.usable [3] none) ∧
      (st.c.clean ((if e.2.2.2 then [4, 7] else [7]).map fun r => (r, st.c.mask)) ∧
      ∃ ps, st.c.reaches e.2.2.1 4 (e.2.1 4).writes (st.c.lanes (gatherAt st.c 7 3)) ps)) ∧
    Shows (seat (.casv 4 7 3 0)) .m (.casv 4 7 3 0) (fun st => ((getF st.c.w 0).pend = false ∧ st.c.usable [3] none) ∧
      (st.c.clean ([4, 5, 7].map fun r => (r, st.c.mask)) ∧
      ∃ ps, st.c.reaches .atomic 4 true (st.c.lanes (gatherAt st.c 7 3)) ps)) ∧
    (∀ e ∈ [(Width.byte, 0#5), (.half, 15), (.word, 15)], Shows (seat (.ldv 4 3 e.1 e.2 1)) .m (.ldv 4 3 e.1 e.2 1) fun st =>
      ((getF st.c.w 1).pend = false ∧ st.c.usable [3] none) ∧
      ∃ ps, st.c.reaches .read e.1.bytes false (st.c.lanes (rowAt st.c 3 e.2 e.1.bytes)) ps) ∧
    (∀ e ∈ [(Width.byte, 0#5), (.half, 15), (.word, 15)], Shows (seat (.stv 4 3 e.1 e.2 1)) .m (.stv 4 3 e.1 e.2 1) fun st =>
      ((getF st.c.w 1).pend = false ∧ st.c.usable [3] none) ∧ (st.c.clean [(4, st.c.mask)] ∧
      ∃ ps, st.c.reaches .write e.1.bytes true (st.c.lanes (rowAt st.c 3 e.2 e.1.bytes)) ps)) ∧
    Shows (seat (.vspill 4 55 (-1) 1)) .m (.vspill 4 55 (-1) 1) (fun st =>
      ((getF st.c.w 1).pend = false ∧ st.c.usable [55] none) ∧
      ∃ ps, st.c.reaches .write 4 true (st.c.lanes (rowAt st.c 55 (-1) 4)) ps ∧
        ∀ p ∈ ps, st.c.w.sptop ≤ p.addr ∧ p.addr + 4 ≤ st.c.w.stktop) ∧
    Shows (seat (.vfill 4 55 (-16) 1)) .m (.vfill 4 55 (-16) 1) (fun st =>
      ((getF st.c.w 1).pend = false ∧ st.c.usable [55] none) ∧
      ∃ ps, st.c.reaches .read 4 false (st.c.lanes (rowAt st.c 55 (-16) 4)) ps ∧
        ∀ p ∈ ps, st.c.w.sptop ≤ p.addr ∧ p.addr + 4 ≤ st.c.w.stktop) := by
  refine ⟨shows_all (q := fun e st => laneFree st.c 3 15 && (cleanB st.c ((if e.2.2.2 then [4, 7] else [7]).map fun r => (r, st.c.mask)) &&
      reachesB st.c e.2.2.1 4 (e.2.1 4).writes (st.c.lanes (gatherAt st.c 7 3)) (placedFor st.c e.2.2.1 (st.c.lanes (gatherAt st.c 7 3)))))
      (by decide +kernel) fun _ _ h => and_of h laneFree_of fun h => and_of h clean_of fun h => ⟨_, reaches_of h⟩,
    shows_of (q := fun st => laneFree st.c 3 0 && (cleanB st.c ([4, 5, 7].map fun r => (r, st.c.mask)) &&
      reachesB st.c .atomic 4 true (st.c.lanes (gatherAt st.c 7 3)) (placedFor st.c .atomic (st.c.lanes (gatherAt st.c 7 3)))))
      (by decide +kernel) fun _ h => and_of h laneFree_of fun h => and_of h clean_of fun h => ⟨_, reaches_of h⟩,
    shows_all (q := fun e st => laneFree st.c 3 1 && reachesB st.c .read e.1.bytes false (st.c.lanes (rowAt st.c 3 e.2 e.1.bytes))
      (placedFor st.c .read (st.c.lanes (rowAt st.c 3 e.2 e.1.bytes))))
      (by decide +kernel) fun _ _ h => and_of h laneFree_of fun h => ⟨_, reaches_of h⟩,
    shows_all (q := fun e st => laneFree st.c 3 1 && (cleanB st.c [(4, st.c.mask)] &&
      reachesB st.c .write e.1.bytes true (st.c.lanes (rowAt st.c 3 e.2 e.1.bytes))
      (placedFor st.c .write (st.c.lanes (rowAt st.c 3 e.2 e.1.bytes)))))
      (by decide +kernel) fun _ _ h => and_of h laneFree_of fun h => and_of h clean_of fun h => ⟨_, reaches_of h⟩,
    shows_of (q := fun st => laneFree st.c 55 1 && (reachesB st.c .write 4 true (st.c.lanes (rowAt st.c 55 (-1) 4))
      (placedFor st.c .write (st.c.lanes (rowAt st.c 55 (-1) 4))) && (placedFor st.c .write (st.c.lanes (rowAt st.c 55 (-1) 4))).all
        fun p => decide (st.c.w.sptop ≤ p.addr ∧ p.addr + 4 ≤ st.c.w.stktop)))
      (by decide +kernel) fun _ h => and_of h laneFree_of fun h => ⟨_, and_of h reaches_of fun h p hp =>
        of_decide_eq_true (List.all_eq_true.mp h p hp)⟩,
    shows_of (q := fun st => laneFree st.c 55 1 && (reachesB st.c .read 4 false (st.c.lanes (rowAt st.c 55 (-16) 4))
      (placedFor st.c .read (st.c.lanes (rowAt st.c 55 (-16) 4))) && (placedFor st.c .read (st.c.lanes (rowAt st.c 55 (-16) 4))).all
        fun p => decide (st.c.w.sptop ≤ p.addr ∧ p.addr + 4 ≤ st.c.w.stktop)))
      (by decide +kernel) fun _ h => and_of h laneFree_of fun h => ⟨_, and_of h reaches_of fun h p hp =>
        of_decide_eq_true (List.all_eq_true.mp h p hp)⟩⟩

/-- Premises of ScalarMemoryIssues: every width with the largest DISP, the acquiring and releasing forms, every atomic, CASS; the flag is
free. -/
theorem witness_ScalarMemoryIssues :
    ((([Width.byte, .half, .word, .dword] : List Width).all fun wd =>
      stageHas (seat (.lds 9 3 wd 7 2)) .m (.lds 9 3 wd 7 2) (fun st => !(getF st.c.w 2).pend && usableB st.c [3] (some 9) &&
        reachesB st.c .read wd.bytes false (dispAt st.c 3 7 wd.bytes) (placedFor st.c .read (dispAt st.c 3 7 wd.bytes))) &&
      stageHas (seat (.ldsAcq 9 3 .pod wd 7 2)) .m (.ldsAcq 9 3 .pod wd 7 2) (fun st => usableB st.c [3] (some 9) &&
        reachesB st.c .read wd.bytes false (dispAt st.c 3 7 wd.bytes) (placedFor st.c .read (dispAt st.c 3 7 wd.bytes))) &&
      stageHas (seat (.sts 9 3 wd 7 2)) .m (.sts 9 3 wd 7 2) (fun st => usableB st.c [9, 3] none &&
        reachesB st.c .write wd.bytes true (dispAt st.c 3 7 wd.bytes) (placedFor st.c .write (dispAt st.c 3 7 wd.bytes))) &&
      stageHas (seat (.stsRel 9 3 .device wd 7 2)) .m (.stsRel 9 3 .device wd 7 2) (fun st => usableB st.c [9, 3] none &&
        reachesB st.c .write wd.bytes true (dispAt st.c 3 7 wd.bytes) (placedFor st.c .write (dispAt st.c 3 7 wd.bytes)))) &&
    (scalarAtomics.all fun e => stageHas (seat (e.1 9 3 4 .team 2)) .m (e.1 9 3 4 .team 2) fun st => usableB st.c [3, 4] (some 9) &&
      reachesB st.c .atomic 8 true (dispAt st.c 3 0 8) (placedFor st.c .atomic (dispAt st.c 3 0 8))) &&
    stageHas (seat (.cass 9 3 4 .warp 2)) .m (.cass 9 3 4 .warp 2) fun st => usableB st.c [9, 3, 4] (some 9) &&
      reachesB st.c .atomic 8 true (dispAt st.c 3 0 8) (placedFor st.c .atomic (dispAt st.c 3 0 8))) = true := by decide +kernel

def inScratchB (c : Ctx) (n : Nat) (write : Bool) (os : List Nat) : Bool :=
  c.team?.any fun t => os.all fun o => decide (o % n = 0) && spInBounds t o n && (lockOn c true write o n).isNone

theorem inScratch_of {c : Ctx} {n : Nat} {write : Bool} {os : List Nat} (h : inScratchB c n write os = true) :
    c.inScratch n write os := by
  simp only [inScratchB, Option.any_eq_true, List.all_eq_true, Bool.and_eq_true, decide_eq_true_eq,
    Option.isNone_iff_eq_none] at h
  obtain ⟨t, ht, h⟩ := h
  exact ⟨t, ht, fun o ho => ⟨(h o ho).1.1, (h o ho).1.2, (h o ho).2⟩⟩

/-- The seat with a scratchpad offset in s4: the last 256 bytes of window A. -/
def padSeat : Instr → State :=
  seatWarp fun w => putV (putS w 4 0xff00#64 false) 7 (~~~0#64) (Lanes.ofLane fun l => BitVec.ofNat 32 (4 * l)) 0#64

/-- Lanes 5 to 63 of v6 and scalar 5 are poisoned; port 0 (s56) is bound to an empty, closed queue as a consumer, port 1 (s57) as a
producer. -/
def flawedSeat : Instr → State :=
  seatWith fun m => updTeam (updWarp m 16 fun w =>
    { putS (putV w 6 (~~~0#64) (Lanes.splat 0#32) (~~~31#64)) 5 0#64 true with
      ports := [(0, { queue := 0, role := .consumer }), (1, { queue := 1, role := .producer })] }) 512
    fun t => { t with queues := [(0, { entries := [], producers := 0, closed := true })] }

/-- Premises of poisonTraps and scalarTraps: lane 5 is the first with a mark; a poisoned second source, a producer port as source and a
consumer port as destination, and a closed queue as source. -/
theorem witness_OperandTraps :
    ((integerLanes.all fun e => (opStage (flawedSeat (e.1 5 7 6 false)) .v (e.1 5 7 6 false)).any fun st => maskBit st.c.mask 5 &&
        maskBit (st.c.src 6).marks 5 && (List.range 5).all fun j => !maskBit (st.c.src 6).marks j && !maskBit (st.c.src 7).marks j) &&
    (unaryLanes.all fun e => (opStage (flawedSeat (e.1 5 6 false)) .v (e.1 5 6 false)).any fun st => maskBit (st.c.src 6).marks 5) &&
    (scalarPairs.all fun e =>
      (opStage (flawedSeat (e.1 9 4 5)) .c (e.1 9 4 5)).any (fun st => (st.c.s 5).mark && !(st.c.s 4).mark) &&
      (opStage (flawedSeat (e.1 9 4 57)) .c (e.1 9 4 57)).any (fun st => !(st.c.s 57).mark && (portOf st.c.w 57).any (·.role = .producer)) &&
      (opStage (flawedSeat (e.1 56 4 3)) .c (e.1 56 4 3)).any (fun st => (portOf st.c.w 56).any (·.role = .consumer)) &&
      (opStage (flawedSeat (e.1 9 4 56)) .c (e.1 9 4 56)).any fun st => st.c.pops.any fun p => p.port == 56 && p.shut)) = true := by
  decide +kernel

/-- A warp of a deterministic task whose s4 is `v`, with a page at 0x100000030000 that may not be written and a copy's registered range on
bytes 64 to 127 of the data page and of the scratchpad. -/
def stopSeat (v : DWord) : Instr → State :=
  seatWith fun m =>
    let leaf := BitVec.ofNat 64 (leafWord { home := 0, w := false, x := false, sd := false, ds := false } 1 (trialPa / 65536 + 4))
    let m := updCore m 4 fun c => { c with tlb := c.tlb ++ [{ ctx := 1, page := pageOf 0 0x100000030000, level := 0, leaf := leaf }] }
    let l (scratch : Bool) (base : Nat) : RangeLock :=
      { copy := 3, team := 512, ctx := 1, tindex := 0, teamw := 0, seq := 1, flag := none, scratch := scratch, write := true, base := base
        len := 64, order := 3 }
    let m := updCluster m 1 fun x => { x with locks := [l false 0x100000010040, l true 64] }
    updWarp (updNode m 1 fun n => { n with det := true }) 16 fun w => putS w 4 v false

/-- Premises of elementStops: an address that is not canonical, one that is misaligned, a spill off the stack, a page that is not held, a
page that may not be written, a registered range, an immediate atomic on a safe page. -/
theorem witness_ElementStops :
    (stageHas (stopSeat (1#64 <<< 60) (.lds 9 4 .word 0 2)) .m (.lds 9 4 .word 0 2) (fun st => usableB st.c [4] (some 9) &&
      !(getF st.c.w 2).pend && !canonical (st.c.sv 4).toNat) &&
    stageHas (stopSeat 0x100000010002#64 (.stv 4 4 .word 0 2)) .m (.stv 4 4 .word 0 2) (fun st => cleanB st.c [(4, st.c.mask)] &&
      canonical (st.c.sv 4).toNat && (st.c.sv 4).toNat % 4 != 0) &&
    stageHas (stopSeat 0x100000010000#64 (.vspill 4 4 0 2)) .m (.vspill 4 4 0 2) (fun st => decide ((st.c.sv 4).toNat < st.c.w.sptop)) &&
    stageHas (stopSeat 0x100000050000#64 (.ldg 5 7 4 2)) .m (.ldg 5 7 4 2) (fun st => match st.c.xlate (st.c.sv 4).toNat .read with
      | .miss _ => true
      | _ => false) &&
    stageHas (stopSeat 0x100000030000#64 (.sts 3 4 .dword 0 2)) .m (.sts 3 4 .dword 0 2) (fun st => match st.c.xlate (st.c.sv 4).toNat .write with
      | .fault _ => usableB st.c [3, 4] none
      | _ => false) &&
    stageHas (stopSeat 0x100000010040#64 (.lds 9 4 .byte 0 2)) .m (.lds 9 4 .byte 0 2) (fun st => (lockOn st.c false false (st.c.sv 4).toNat 1).isSome &&
      match st.c.xlate (st.c.sv 4).toNat .read with
      | .hit .. => true
      | _ => false) &&
    (scalarAtomics.all fun e => stageHas (stopSeat 0x100000020000#64 (e.1 9 4 3 .team 2)) .m (e.1 9 4 3 .team 2) fun st => detOf st.c.m st.c.w &&
      (lockOn st.c false true (st.c.sv 4).toNat 8).isNone && match st.c.xlate (st.c.sv 4).toNat .atomic with
      | .hit _ leaf _ => leafDs leaf
      | _ => false)) = true := by decide +kernel

/-- Premises of scratchStops and of a scratchpad access that waits: an offset that is misaligned, one outside the windows, one in a
registered range, a fence outstanding. -/
theorem witness_ScratchStops :
    (([Width.byte, .half, .word, .dword].drop 1).all fun wd =>
      stageHas (stopSeat 1#64 (.splds 9 4 wd 0)) .m (.splds 9 4 wd 0) fun st => usableB st.c [4] (some 9) && (st.c.sv 4).toNat % wd.bytes != 0) = true ∧
    (stageHas (stopSeat 0x40000#64 (.spsts 3 4 .word 0)) .m (.spsts 3 4 .word 0) (fun st => usableB st.c [3, 4] none &&
      st.c.team?.any fun t => !spInBounds t (st.c.sv 4).toNat 4) &&
    stageHas (stopSeat 64#64 (.spld 5 7 4)) .m (.spld 5 7 4) (fun st => (lockOn st.c true false (st.c.sv 4).toNat 4).isSome &&
      st.c.team?.any fun t => spInBounds t (st.c.sv 4).toNat 4) &&
    stageHas (seatWarp (fun w => { putS w 4 0#64 false with ops := [{ id := 5, kind := .fence .ar .team, acc := [], flag := none, path := 0
                                                                      plane := 0, cidx := 0, pc := 0, seq := 0, ticket := none, both := false
                                                                      floor := 0, failed := false }] }) (.spst 5 7 4)) .m (.spst 5 7 4) fun st =>
      fenceWait st.c true && cleanB st.c [(5, st.c.mask), (7, st.c.mask)] &&
      inScratchB st.c 4 true ((spadElems 4 7 st.c).map (·.addr))) = true :=
  ⟨by decide +kernel, by decide +kernel⟩

/-- A tile of 32 rows of 256 bytes from scratchpad unit 0. -/
def aTile : Tile := { state := .ready, stride := 8, base := 0, rows := 32, rowb := 8, fmt := 0, grp := 0, mover := 0 }

/-- Premises of ScratchAccesses: the last words of window A, every width, and a ready tile with its last row group. -/
theorem witness_ScratchAccesses :
    (stageHas (padSeat (.spld 5 7 4)) .m (.spld 5 7 4) (fun st => !fenceWait st.c false && cleanB st.c [(7, st.c.mask)] &&
      usableB st.c [4] none && inScratchB st.c 4 false ((lanesOf st.c.mask).map fun l => (st.c.sv 4 + (st.c.lane 7 l).setWidth 64).toNat)) &&
    stageHas (padSeat (.spst 5 7 4)) .m (.spst 5 7 4) (fun st => !fenceWait st.c true && cleanB st.c [(5, st.c.mask), (7, st.c.mask)] &&
      usableB st.c [4] none && inScratchB st.c 4 true ((lanesOf st.c.mask).map fun l => (st.c.sv 4 + (st.c.lane 7 l).setWidth 64).toNat)) &&
    (([Width.byte, .half, .word, .dword] : List Width).all fun wd =>
      stageHas (padSeat (.splds 9 4 wd (-8))) .m (.splds 9 4 wd (-8)) (fun st => usableB st.c [4] (some 9) &&
        inScratchB st.c wd.bytes false [(st.c.sv 4 + BitVec.ofInt 64 (-8 * wd.bytes)).toNat]) &&
      stageHas (padSeat (.spsts 9 4 wd 7)) .m (.spsts 9 4 wd 7) (fun st => usableB st.c [9, 4] none &&
        inScratchB st.c wd.bytes true [(st.c.sv 4 + BitVec.ofInt 64 (7 * wd.bytes)).toNat])) &&
    stageHas (seatWith (fun m => updTeam m 512 fun t => { t with tiles := [(3, aTile)] }) (.tld 5 3 31)) .m (.tld 5 3 31) (fun st =>
      st.c.mask != 0#64 && decide (st.c.tile? 3 = some aTile) && decide (31 * 256 + 256 ≤ aTile.rows * (32 * aTile.rowb)) &&
      (lanesOf st.c.mask).all fun l => (lockOn st.c true false (31 * 256 + 4 * l) 4).isNone) &&
    stageHas (seatWarp (fun w => { w with p0 := { w.p0 with xm := 0#64 } }) (.tld 5 63 127)) .m (.tld 5 63 127) fun st =>
      st.c.mask == 0#64) = true := by decide +kernel

/-- The seat with the address of the page for deferred operations in s4. -/
def deferSeat : Instr → State := seatWarp fun w => putS w 4 0x100000020000#64 false

/-- Premises of DeferredAndOrdering: every operation that each form has, every scope and kind, and PREF of a page that no TLB holds. -/
theorem witness_DeferredAndOrdering :
    ((([DaccOp.addI32, .addF32, .minI32, .maxI32, .minF32, .maxF32] : List DaccOp).all fun op =>
      stageHas (deferSeat (.daccv op 5 7 4)) .m (.daccv op 5 7 4) fun st => cleanB st.c [(5, st.c.mask), (7, st.c.mask)] &&
        usableB st.c [4] none && reachesB st.c .deferred 4 true (st.c.lanes (gatherAt st.c 7 4))
          (placedFor st.c .deferred (st.c.lanes (gatherAt st.c 7 4))) && decide ((lanesOf st.c.mask).length ≤ daccRoom st.c)) &&
    (([DaccOp.addI32, .addI64, .minI64, .maxI64, .maxF32] : List DaccOp).all fun op =>
      stageHas (deferSeat (.daccs op 4 9)) .m (.daccs op 4 9) fun st => usableB st.c [4, 9] none && decide (1 ≤ daccRoom st.c) &&
        reachesB st.c .deferred (if op.is64 then 8 else 4) true (dispAt st.c 4 0 8) (placedFor st.c .deferred (dispAt st.c 4 0 8))) &&
    (([FlushScope.team, .task, .dev] : List FlushScope).all fun fs => stageHas (seat (.flush fs 15)) .m (.flush fs 15) fun st =>
      !(getF st.c.w 15).pend && st.c.w.ops.all fun o => o.kind != .flush fs) &&
    (([FenceKind.acq, .rel, .ar] : List FenceKind).all fun kind => ([Scope.warp, .team, .device, .pod] : List Scope).all fun sc =>
      stageHas (seat (.fence kind sc)) .m (.fence kind sc) fun _ => true) &&
    stageHas (seatWarp (fun w => putS w 4 0x100000030000#64 false) (.pref 4 7)) .m (.pref 4 7) fun st =>
      (portOf st.c.w 4).isNone && canonical 0x100000030007 && (tlbLookup st.c.m (coreOf st.c.k) st.c.w.ctx 0x100000030007).isNone) = true := by
  decide +kernel

/-! ### The X slot -/

/-- The seat of a copy of 64 bytes of the data page: destination s4, source s5, descriptor s6. -/
def copySeat (op : CopyOp) : Instr → State :=
  seatWarp fun w =>
    let w := putS w 4 (if op = .cpyin ∨ op = .cpym then 0#64 else 0x100000010000#64) false
    putS (putS w 5 (if op = .cpyout then 0#64 else 0x100000010100#64) false) 6 64#64 false

def copyFitsB (c : Ctx) (r : CopyReq) (ord : Bool) (sideReg : Nat) : Bool :=
  !copyDescBad c r sideReg && decide (copyTileFault c r = none) && decide (copyBounds c r = none) &&
  decide ((copyDet c r ord).1 = none) && decide ((copyDet c r ord).2.1 = []) && !lockTableFull c.m (copyRanges c r) &&
  (!(r.d.ten && !r.fills) || !(c.tile? r.d.tile).elim false (·.state != .ready))

theorem copyFits_of {c : Ctx} {r : CopyReq} {ord : Bool} {n : Nat} (h : copyFitsB c r ord n = true) : copyFits c r ord n := by
  simp only [copyFitsB, Bool.and_eq_true, Bool.not_eq_true', decide_eq_true_eq, Bool.or_eq_true] at h
  obtain ⟨⟨⟨⟨⟨⟨h1, h2⟩, h3⟩, h4⟩, h4'⟩, h5⟩, h6⟩ := h
  refine ⟨h1, h2, h3, h4, h4', h5, fun ht hf => ?_⟩
  rcases h6 with h6 | h6
  · simp [ht, hf] at h6
  · exact h6

/-- Premises of CopyIssues: the seven copies of 64 bytes, with and without a flag. -/
theorem witness_CopyIssues :
    ((copies.all fun e => ([none, some 3#4] : List (Option (BitVec 4))).all fun f =>
      stageHas (copySeat e.2.1 (e.1 true 4 5 6 f)) .x (e.1 true 4 5 6 f) fun st => !(getF st.c.w 3).pend &&
        usableB st.c ([4, 5, 6] ++ if e.2.2 then [7] else []) none &&
        copyFitsB st.c (copyRequest st.c e.2.1 4 (some 5) 6) true (copySideReg (copyRequest st.c e.2.1 4 (some 5) 6) 4 (some 5))) &&
    stageHas (copySeat .cpyz (.cpyz false 4 6 (some 0))) .x (.cpyz false 4 6 (some 0)) fun st => usableB st.c [4, 6] none &&
      copyFitsB st.c (copyRequest st.c .cpyz 4 none 6) false (copySideReg (copyRequest st.c .cpyz 4 none 6) 4 none)) = true := by
  decide +kernel

/-- The seat of an operation that names flag `n`, which is pending. -/
def pendSeat (n : Nat) : Instr → State := seatWarp fun w => putF w n { getF w n with pend := true }

/-- The seat of a TLD whose team has `t` as tile 3 and a copy's registered range on bytes 64 to 127 of its scratchpad. -/
def readSeat (t : Tile) (i : Instr) : State :=
  { stopSeat 0#64 i with mach := updTeam (stopSeat 0#64 i).mach 512 fun x => { x with tiles := [(3, t)] } }

/-- The seat with `n` entries in the core's deferred buffer. -/
def fullSeat (n : Nat) (i : Instr) : State :=
  let e : Dacc := { ctx := 1, team := 512, node := 1, rank := 0, tindex := 0, teamw := 0, lane := 0, order := 0, op := .addI32, va := 0
                    key := 0, value := 0#64, vbeat := 0, plane := 0, path := 0, cidx := 0, seq := 0, epTeam := 0, epTask := 0, epDev := 0 }
  { deferSeat i with mach := updCore (deferSeat i).mach 4 fun x => { x with dacc := List.replicate n e } }

/-- Premises of LaneMemoryIssues, ScratchAccesses and DeferredAndOrdering for the forms that trap or wait: marked lanes, marked, misused and
closed scalars, pending flags with and without active lanes, tiles that are not defined, not ready, too short or under a copy, and a full
deferred buffer. -/
theorem witness_MemoryStops :
    ((gathers.all fun e => (opStage (flawedSeat (e.1 5 6 3 2)) .m (e.1 5 6 3 2)).any fun st => maskBit (st.c.src 6).marks 5 &&
        !maskBit (st.c.src 6).marks 4) &&
      ([5, 56, 57].all fun sa => (opStage (flawedSeat (.ldv 4 sa .word 0 2)) .m (.ldv 4 sa .word 0 2)).any fun st =>
        (st.c.s sa).mark || (portOf st.c.w sa.toNat).isSome) &&
      ([0#64, ~~~0#64].all fun xm => (stageHas (seatWarp (fun w => { putF w 2 { getF w 2 with pend := true } with
          p0 := { w.p0 with xm := xm } }) (.ldv 4 3 .word 0 2)) .m (.ldv 4 3 .word 0 2) fun st => st.c.mask == xm && (getF st.c.w 2).pend))) = true ∧
    (stageHas (seat (.tld 5 3 0)) .m (.tld 5 3 0) (fun st => (st.c.tile? 3).isNone && st.c.team?.any (3 < ·.ntiles)) &&
      stageHas (seat (.tld 5 5 0)) .m (.tld 5 5 0) (fun st => (st.c.tile? 5).isNone && st.c.team?.any (·.ntiles ≤ 5)) &&
      stageHas (readSeat aTile (.tld 5 3 32)) .m (.tld 5 3 32) (fun st => st.c.tile? 3 == some aTile &&
        decide (aTile.rows * (32 * aTile.rowb) < 32 * 256 + 256)) &&
      stageHas (readSeat { aTile with state := .filling } (.tld 5 3 31)) .m (.tld 5 3 31) (fun st => !fenceWait st.c false &&
        (st.c.tile? 3).any (·.state != .ready)) &&
      stageHas (readSeat aTile (.tld 5 3 0)) .m (.tld 5 3 0) fun st => (lockOn st.c true false 64 4).isSome && (lockOn st.c true false 60 4).isNone) = true ∧
    ((opStage (flawedSeat (.daccv .addI32 5 6 3)) .m (.daccv .addI32 5 6 3)).any (fun st => maskBit (st.c.src 6).marks 5) &&
      ([5, 56, 57].all fun sa => (opStage (flawedSeat (.daccs .addI64 3 sa)) .m (.daccs .addI64 3 sa)).any fun st =>
        (st.c.s sa).mark || (portOf st.c.w sa.toNat).isSome) &&
      stageHas (fullSeat 1985 (.daccv .addI32 5 7 4)) .m (.daccv .addI32 5 7 4) (fun st => daccRoom st.c == 63 &&
        reachesB st.c .deferred 4 true (st.c.lanes (gatherAt st.c 7 4)) (placedFor st.c .deferred (st.c.lanes (gatherAt st.c 7 4)))) &&
      stageHas (fullSeat 2048 (.daccs .addI64 4 9)) .m (.daccs .addI64 4 9) (fun st => daccRoom st.c == 0) &&
      stageHas (pendSeat 15 (.flush .dev 15)) .m (.flush .dev 15) (fun st => (getF st.c.w 15).pend) &&
      stageHas (seatWarp (fun w => { w with ops := [{ id := 5, kind := .flush .dev, acc := [], flag := none, path := 0, plane := 0, cidx := 0
                                                      pc := 0, seq := 0, ticket := none, both := false, floor := 0, failed := false }] })
        (.flush .dev 15)) .m (.flush .dev 15) fun st => st.c.w.ops.any fun o => o.kind == .flush .dev) = true :=
  ⟨by decide +kernel, by decide +kernel, by decide +kernel⟩

/-- The seat of a copy whose descriptor is `v` and whose team has `ts` for tiles. -/
def tileSeat (v : DWord) (ts : Map Tile) : Instr → State :=
  seatWith fun m => updWarp (updTeam m 512 fun t => { t with tiles := ts }) 16 fun w => putS (putS w 4 0x100000010000#64 false) 6 v false

/-- The seat with `n` registered ranges of other copies in its cluster. -/
def lockSeat (n : Nat) (i : Instr) : State :=
  { copySeat .cpy i with mach := updCluster (copySeat .cpy i).mach 1 fun x => { x with locks := (List.range n).map fun n =>
      { copy := n, team := 512, ctx := 1, tindex := 0, teamw := 0, seq := 1, flag := none, scratch := false, write := true
        base := 0x200000000000 + 4096 * n, len := 64, order := n } } }

/-- The seat of a copy of 64 bytes of a deterministic task to the address `v`. -/
def safeSeat (v : DWord) (i : Instr) : State :=
  { stopSeat v i with mach := updWarp (stopSeat v i).mach 16 fun w => putS w 6 64#64 false }

/-- Premises of copyStops: a pending flag, a descriptor of no bytes, a tile that is not defined and one that is filling, a side outside the
windows, a full lock table, and in a deterministic task a page that no TLB holds and a safe page without ORD. -/
theorem witness_CopyStops :
    ((copies.all fun e =>
      stageHas (pendSeat 3 (e.1 false 4 5 6 (some 3))) .x (e.1 false 4 5 6 (some 3)) (fun st => (getF st.c.w 3).pend) &&
      stageHas (tileSeat 0#64 [] (e.1 false 4 5 6 none)) .x (e.1 false 4 5 6 none) fun st =>
        (let r := copyRequest st.c e.2.1 4 (some 5) 6
        copyDescBad st.c r (copySideReg r 4 (some 5)))) &&
    ([([], fun st => (copyTileFault st.c (copyRequest st.c .cpyout 4 (some 0) 6)).isSome),
      ([(3, { aTile with state := .filling })], fun st =>
        (let r := copyRequest st.c .cpyout 4 (some 0) 6
        decide (copyTileFault st.c r = none) && decide (copyBounds st.c r = none) && decide ((copyDet st.c r false).1 = none) &&
          (st.c.tile? 3).any (·.state != .ready)))].all fun e : Map Tile × (Stage → Bool) =>
      stageHas (tileSeat 0x860000000002000#64 e.1 (.cpyout false 4 0 6 none)) .x (.cpyout false 4 0 6 none) fun st =>
        (let r := copyRequest st.c .cpyout 4 (some 0) 6
        r.d.ten && !r.fills && !copyDescBad st.c r (copySideReg r 4 (some 0)) && e.2 st)) &&
    stageHas (seatWarp (fun w => putS (putS w 4 0x40000#64 false) 6 64#64 false) (.cpyin false 4 5 6 none)) .x (.cpyin false 4 5 6 none) (fun st =>
      (let r := copyRequest st.c .cpyin 4 (some 5) 6
      !copyDescBad st.c r (copySideReg r 4 (some 5)) && decide (copyTileFault st.c r = none) && (copyBounds st.c r).isSome)) &&
    stageHas (lockSeat 64 (.cpy false 4 5 6 none)) .x (.cpy false 4 5 6 none) (fun st =>
      (let r := copyRequest st.c .cpy 4 (some 5) 6
      copyFitsB { st.c with m := updCluster st.c.m 1 fun x => { x with locks := [] } } r false (copySideReg r 4 (some 5)) &&
        lockTableFull st.c.m (copyRanges st.c r))) &&
    stageHas (safeSeat 0x100000050000#64 (.cpyz false 4 6 none)) .x (.cpyz false 4 6 none) (fun st =>
      (let r := copyRequest st.c .cpyz 4 none 6
      !copyDescBad st.c r (copySideReg r 4 none) && decide ((copyDet st.c r false).1 = none) && !(copyDet st.c r false).2.1.isEmpty)) &&
    stageHas (safeSeat 0x100000020000#64 (.cpyz false 4 6 none)) .x (.cpyz false 4 6 none) fun st =>
      (let r := copyRequest st.c .cpyz 4 none 6
      !copyDescBad st.c r (copySideReg r 4 none) && (copyDet st.c r false).1.isSome)) = true := by decide +kernel

/-- Premises of TileDefinitions: the descriptor of a tile of 32 rows of 256 bytes, a ready tile freed, a tile read; tile 3 is the last. -/
theorem witness_TileDefinitions :
    (stageHas (seatWarp (fun w => putS w 4 0x1000007ce00000#64 false) (.tdef 3 4)) .x (.tdef 3 4) (fun st =>
      let v := st.c.sv 4
      st.c.team?.any (fun t => 3 < t.ntiles && spInBounds t (bits v 48 34 * 32) ((bits v 33 26 * bits v 63 49 + (bits v 25 21 + 1)) * 32)) &&
      usableB st.c [4] none && !tilePending st.c 3 && (st.c.tile? 3).isNone && bits v 15 8 == 0 && bits v 6 2 == 0 && bits v 63 49 != 0 &&
      bits v 20 17 ≤ 4 && bits v 16 16 == bits v 48 34 / 2 ^ 14 % 2) &&
    stageHas (seatWith (fun m => updTeam m 512 fun t => { t with tiles := [(3, aTile)] }) (.tfree 3)) .x (.tfree 3) (fun st =>
      !tilePending st.c 3 && (st.c.tile? 3).any (·.state = .ready)) &&
    stageHas (seat (.tstat 0 9)) .x (.tstat 0 9) fun st => usableB st.c [] (some 9) && st.c.team?.any fun t => 0 < t.ntiles) = true := by
  decide +kernel

/-- Premises of TileDefinitions where it traps: no tile described, a number beyond the tiles, a tile that is filling, one outside the
windows, a tile that is not defined. -/
theorem witness_TileDefinitions_traps :
    (let filling : Map Tile := [(3, { aTile with state := .filling })]
    let define (v : DWord) (ts : Map Tile) (i : Instr) : State :=
      { tileSeat 0#64 ts i with mach := updWarp (tileSeat 0#64 ts i).mach 16 fun w => putS w 4 v false }
    stageHas (define 0x100000#64 [] (.tdef 3 4)) .x (.tdef 3 4) (fun st => usableB st.c [4] none && bits (st.c.sv 4) 63 49 == 0) &&
    stageHas (define 0x1000007ce00000#64 [] (.tdef 4 4)) .x (.tdef 4 4) (fun st => st.c.team?.any (·.ntiles ≤ 4)) &&
    stageHas (define 0x1000007ce00000#64 filling (.tdef 3 4)) .x (.tdef 3 4) (fun st => (st.c.tile? 3).any (·.state = .filling)) &&
    stageHas (define (0x1000007ce00000#64 ||| (0x3fff#64 <<< 34)) [] (.tdef 3 4)) .x (.tdef 3 4) (fun st => (st.c.tile? 3).isNone &&
      st.c.team?.any fun t => !spInBounds t (0x3fff * 32) ((31 * 8 + 8) * 32)) &&
    stageHas (define 0#64 filling (.tfree 3)) .x (.tfree 3) (fun st => (st.c.tile? 3).any (·.state = .filling)) &&
    stageHas (define 0#64 [] (.tfree 3)) .x (.tfree 3) (fun st => (st.c.tile? 3).isNone) &&
    stageHas (define 0#64 [] (.tstat 63 9)) .x (.tstat 63 9) fun st => usableB st.c [] (some 9) && st.c.team?.any (·.ntiles ≤ 63)) = true := by
  decide +kernel

/-- A warp that holds the matrix engine, whose chain of slot 1 is open or closed, and whose tiles 1 and 2 hold ready FP16 operands of
32 rows of 32 bytes. -/
def engineMach (closed gang : Bool) (m : Mach) : Mach :=
  let t (base stride grp : Nat) : Tile :=
    { state := .ready, stride := stride, base := base, rows := 32, rowb := 1, fmt := 1, grp := grp, mover := 0 }
  let m := updTeam m 512 fun x => { x with tiles := [(1, t 0 9 0), (2, t 16384 9 1)] }
  let m := if gang then
      updWarp { m with gangs := mapPut m.gangs 7 { team := 512, members := [16, 20], skew := 1, beats := [0, 0], left := [], decided := []
                                                   used := [0, 0], bundles := [], read := [0, 0], grants := 0
                                                   asked := [0, 0], mres := [] } } 16 fun w => { w with gang := some 7 }
    else m
  updMatrix m 1 fun mx => { mx with
    owners := [16]
    slots := [(1, { anchor := none, acc := [], results := [], ready := closed, closed := closed, begun := true, pops := 0 })]
    chains := if closed then [] else [{ warp := 16, slot := 1, steps := [], kelems := 0, credit := 0, che := none, group := gang, shut := false }]
    popOf := [(16, 1)] }

def heldB (c : Ctx) : Bool := !c.inHandler && c.holds

theorem held_of {c : Ctx} (h : heldB c = true) : c.engineHeld := by simpa [heldB, Ctx.engineHeld] using h

/-- Premises of MatrixIssues: for a free engine, a held one with an open chain, and one whose chain has closed; a chain at its greatest
count of elements. -/
theorem witness_MatrixIssues :
    (stageHas (seat (.mres 3)) .x (.mres 3) (fun st => !(getF st.c.w 3).pend && !st.c.inHandler && !st.c.holds && st.c.request?.isNone &&
      decide (st.c.mx.mrt.length < 16)) &&
    stageHas (seatWith (engineMach true false) .mrel) .x .mrel (fun st => !st.c.inHandler && st.c.holds && !chainOpen st.c) &&
    (([none, some 0x200#10] : List (Option (BitVec 10))).all fun a =>
      stageHas (seatWith (engineMach true false) (.chb 3 a)) .x (.chb 3 a) fun st => heldB st.c && (openChain st.c.m st.c.k).isNone) &&
    (([(Instr.mstep, false), (.mstepG, true)] : List ((BitVec 6 → BitVec 6 → BitVec 6 → Instr) × Bool)).all fun e =>
      stageHas (seatWith (engineMach false e.2) (e.1 1 2 0)) .x (e.1 1 2 0) fun st => heldB st.c && st.c.w.gang.isSome == e.2 &&
        decide (tileRange st.c 1 = none) && decide (tileRange st.c 2 = none) && (st.c.tile? (st.c.tileOf 1)).any (fun a =>
          a.state = .ready && (st.c.tile? 2).any fun b => b.state = .ready && !mstepOperandBad a b 1 && !mstepBankBad a b &&
            (openChain st.c.m st.c.k).any fun x => x.kelems + 1 * unitElements a.fmt ≤ 16777216) &&
        decide (listSum (st.c.mx.chains.map fun x => x.steps.length) < 4)) &&
    (([(Instr.che, false), (.cheG, true)] : List ((BitVec 2 → BitVec 4 → Instr) × Bool)).all fun e =>
      stageHas (seatWith (engineMach false e.2) (e.1 1 15)) .x (e.1 1 15) fun st => !(getF st.c.w 15).pend && heldB st.c &&
        st.c.w.gang.isSome == e.2 && (openChain st.c.m st.c.k).any fun x => x.slot = st.c.slotOf 1) &&
    stageHas (seatWith (engineMach true false) (.mpop 111)) .x (.mpop 111) (fun st => heldB st.c && mapGet? st.c.mx.popOf st.c.k == some 1 &&
      (getSlot st.c.mx 1).ready && decide ((getSlot st.c.mx 1).pops < 16)) &&
    stageHas (seatWith (fun m => updTeam (engineMach true false m) 512 fun t => { t with tiles := [(3, { aTile with
      state := .empty, rowb := 4 })] }) (.mdep 3 1 2)) .x (.mdep 3 1 2) (fun st => !(getF st.c.w 2).pend && heldB st.c &&
      decide (tileRange st.c 3 = none) && (st.c.tile? 3).any (fun a => a.state = .empty && a.fmt = 0 && a.rows = 32 && 4 ≤ a.rowb) &&
      (getSlot st.c.mx 1).begun && (getSlot st.c.mx 1).closed)) = true := by decide +kernel

/-- The lead's request for the engine stands in its table, with `n` requests of other warps before it. -/
def askMach (n : Nat) (own : Bool) (m : Mach) : Mach :=
  updMatrix m 1 fun mx => { mx with mrt := ((List.range n).map fun i =>
    { warp := 100 + i, gang := none, flag := 3, tokens := 0, order := 1 }) ++
      if own then [{ warp := 16, gang := none, flag := 3, tokens := 0, order := 1 }] else [] }

/-- The forms that need the engine, and those that name flag 15. -/
def engineForms : List Instr := [.chb 0 none, .mstep 1 2 0, .mstepG 1 2 0, .mpop 5, .che 1 15, .cheG 1 15, .mdep 3 1 15]

/-- Premises of MatrixIssues where a form traps or waits before its own checks: a pending flag, an engine neither held nor asked for, a
request that stands, and a table of sixteen requests. -/
theorem witness_MatrixIssues_engine :
    (([Instr.che 1 15, .cheG 1 15, .mdep 3 1 15, .mres 15].all fun i => stageHas (pendSeat 15 i) .x i fun st => (getF st.c.w 15).pend) &&
    (engineForms.all fun i => stageHas (seat i) .x i (fun st => !(getF st.c.w 15).pend && !st.c.inHandler && !st.c.holds && st.c.request?.isNone) &&
      stageHas (seatWith (askMach 0 true) i) .x i fun st => !(getF st.c.w 15).pend && !st.c.inHandler && !st.c.holds && st.c.request?.isSome) &&
    stageHas (seatWith (askMach 0 true) (.mres 2)) .x (.mres 2) (fun st => !(getF st.c.w 2).pend && st.c.lead && st.c.request?.isSome) &&
    stageHas (seatWith (askMach 16 false) (.mres 2)) .x (.mres 2) (fun st => !(getF st.c.w 2).pend && !st.c.inHandler && st.c.lead &&
      !st.c.holds && st.c.request?.isNone && decide (16 ≤ st.c.mx.mrt.length)) &&
    stageHas (seat .mrel) .x .mrel (fun st => st.c.lead && !st.c.holds && st.c.request?.isNone) &&
    stageHas (seatWith (engineMach false false) .mrel) .x .mrel fun st => st.c.lead && chainOpen st.c) = true := by decide +kernel

/-- Premises of MatrixIssues for the checks of each form: the engine is held, and each check but those before it fails in turn; tiles that
are not ready and a step queue of four. -/
theorem witness_MatrixIssues_checks :
    (let eng := engineMach false false
    let step : MStep := { team := 512, ta := 1, tb := 2, k := 1, done := 0, rows := [], seq := 1, pc := 0, cidx := 0, plane := 0, path := 0 }
    let chains (f : Chain → Chain) (m : Mach) : Mach := updMatrix (eng m) 1 fun mx => { mx with chains := mx.chains.map f }
    let dep (closed : Bool) (rowb : Nat) (m : Mach) : Mach := updTeam (engineMach closed false m) 512 fun t =>
      { t with tiles := [(3, { aTile with state := .empty, rowb := rowb })] }
    let pair (st : Stage) (p : Tile → Tile → Bool) (b : BitVec 6) : Bool := (st.c.tile? 1).any fun x => (st.c.tile? b.toNat).any fun y => p x y
    stageHas (seatWith eng (.chb 3 none)) .x (.chb 3 none) (fun st => heldB st.c && (openChain st.c.m st.c.k).isSome) &&
    stageHas (seatWith eng (.mstep 5 2 0)) .x (.mstep 5 2 0) (fun st => heldB st.c && st.c.team?.any (·.ntiles ≤ 5)) &&
    stageHas (seatWith eng (.mstep 3 2 0)) .x (.mstep 3 2 0) (fun st => heldB st.c && (st.c.tile? 3).isNone) &&
    stageHas (seatWith eng (.mstepG 1 2 0)) .x (.mstepG 1 2 0) (fun st => heldB st.c && st.c.w.gang.isNone) &&
    stageHas (seatWith (engineMach true false) (.mstep 1 2 0)) .x (.mstep 1 2 0) (fun st => heldB st.c && (openChain st.c.m st.c.k).isNone) &&
    stageHas (seatWith eng (.mstep 1 2 63)) .x (.mstep 1 2 63) (fun st => heldB st.c && pair st (mstepOperandBad · · 64) 2) &&
    stageHas (seatWith eng (.mstep 1 1 0)) .x (.mstep 1 1 0) (fun st => heldB st.c && pair st mstepBankBad 1) &&
    stageHas (seatWith (chains fun x => { x with kelems := 16777216 }) (.mstep 1 2 0)) .x (.mstep 1 2 0) (fun st => heldB st.c &&
      (openChain st.c.m st.c.k).any (·.kelems == 16777216)) &&
    stageHas (seatWith (fun m => updTeam (eng m) 512 fun x => { x with tiles := x.tiles.map fun t => (t.1, { t.2 with state := .filling }) })
      (.mstep 1 2 0)) .x (.mstep 1 2 0) (fun st => heldB st.c && pair st (fun a b => a.state != .ready && b.state != .ready) 2) &&
    stageHas (seatWith (chains fun x => { x with steps := [step, step, step, step] }) (.mstep 1 2 0)) .x (.mstep 1 2 0) (fun st => heldB st.c &&
      decide (4 ≤ listSum (st.c.mx.chains.map fun x => x.steps.length))) &&
    stageHas (seatWith eng (.che 2 15)) .x (.che 2 15) (fun st => heldB st.c && !(openChain st.c.m st.c.k).any (·.slot = 2)) &&
    stageHas (seatWith eng (.mpop 5)) .x (.mpop 5) (fun st => heldB st.c && !(getSlot st.c.mx 1).ready) &&
    stageHas (seatWith eng (.mdep 3 1 2)) .x (.mdep 3 1 2) (fun st => heldB st.c && (st.c.tile? 3).isNone) &&
    stageHas (seatWith (dep false 4) (.mdep 3 1 2)) .x (.mdep 3 1 2) (fun st => heldB st.c && !(getSlot st.c.mx 1).closed) &&
    stageHas (seatWith (dep true 3) (.mdep 3 1 2)) .x (.mdep 3 1 2) fun st => heldB st.c && (st.c.tile? 3).any (·.rowb < 4)) = true := by
  decide +kernel

/-- Premises of GangIssues: after the rendezvous, before it, the lead that holds the engine and a second member. -/
theorem witness_GangIssues :
    (stageHas (seatWith (fun m => updWarp (engineMach true true m) 16 fun w => { w with arrived := [8] }) (.gang 2 7)) .x (.gang 2 7)
      (fun st => arrivedBefore st.c 8 && st.c.w.gang.isSome) &&
    stageHas (seat (.gang 0 0)) .x (.gang 0 0) (fun st => !arrivedBefore st.c 8 && st.c.w.gang.isNone && st.c.w.region.isNone &&
      st.c.w.split.isNone && pathDepth st.c.q == 0 && !st.c.holds && st.c.request?.isNone) &&
    stageHas (seatWith (engineMach true true) .ungang) .x .ungang (fun st => st.c.w.gang.isSome && st.c.lead && !chainOpen st.c) &&
    stageHas (seatWith (fun m => updWarp (engineMach true true m) 16 fun w => { w with gidx := 1 }) .ungang) .x .ungang fun st =>
      st.c.w.gang.isSome && !st.c.lead && (openChain st.c.m st.c.k).isNone) = true := by decide +kernel

/-- Premises of GangIssues where it waits or traps: an arrival before its rendezvous, GANG beside the engine, UNGANG outside a gang and with
a chain open. -/
theorem witness_GangIssues_stops :
    (stageHas (seatWarp (fun w => { w with arrived := [8] }) (.gang 0 0)) .x (.gang 0 0) (fun st => arrivedBefore st.c 8 && st.c.w.gang.isNone) &&
    stageHas (seatWith (engineMach false false) (.gang 0 0)) .x (.gang 0 0) (fun st => !arrivedBefore st.c 8 && st.c.holds) &&
    stageHas (seat .ungang) .x .ungang (fun st => st.c.w.gang.isNone) &&
    stageHas (seatWith (engineMach false true) .ungang) .x .ungang fun st => st.c.w.gang.isSome && st.c.lead && chainOpen st.c) = true := by
  decide +kernel

/-- Premises of CrossingsAndQueues where it traps: a poisoned lane and scalar, a number beyond the queues, a bound port, a closed queue. -/
theorem witness_CrossingsAndQueues_traps :
    (stageHas (flawedSeat (.xvs 9 6 5)) .x (.xvs 9 6 5) (fun st => maskBit (getV st.c.w 6).marks 5) &&
    (opStage (flawedSeat (.xsv 9 5 none)) .x (.xsv 9 5 none)).any (fun st => (st.c.s 5).mark) &&
    stageHas (seat (.qbind 7 31 .consumer)) .x (.qbind 7 31 .consumer) (fun st => st.c.team?.any (·.nqueues ≤ 31)) &&
    stageHas (flawedSeat (.qbind 0 0 .consumer)) .x (.qbind 0 0 .consumer) (fun st => (portNow st.c.w 0).isSome) &&
    stageHas (flawedSeat (.qbind 7 0 .producer)) .x (.qbind 7 0 .producer) (fun st => (portNow st.c.w 7).isNone &&
      (getQueue st.c.m st.c.w.team 0).closed) &&
    stageHas (seat (.qstat 9 31)) .x (.qstat 9 31) fun st => usableB st.c [] (some 9) && st.c.team?.any (·.nqueues ≤ 31)) = true := by
  decide +kernel

/-- Premises of CrossingsAndQueues: crossings with s63 and v111, ports bound and unbound, the last queue of the team. -/
theorem witness_CrossingsAndQueues :
    (stageHas (seat (.xsv 111 63 none)) .x (.xsv 111 63 none) (fun st => usableB st.c [63] none) &&
    stageHas (seat (.xsv 0 3 (some 63))) .x (.xsv 0 3 (some 63)) (fun st => usableB st.c [3] none) &&
    stageHas (seat (.xvs 0 111 63)) .x (.xvs 0 111 63) (fun st => usableB st.c [] (some 0) && !maskBit (getV st.c.w 111).marks 63) &&
    stageHas (seat (.qbind 7 3 .consumer)) .x (.qbind 7 3 .consumer) (fun st => st.c.team?.any (3 < ·.nqueues) && (portNow st.c.w 7).isNone) &&
    stageHas (seat (.qbind 0 0 .producer)) .x (.qbind 0 0 .producer) (fun st => st.c.team?.any (0 < ·.nqueues) && (portNow st.c.w 0).isNone &&
      !(getQueue st.c.m st.c.w.team 0).closed) &&
    stageHas (seat (.qstat 9 3)) .x (.qstat 9 3) (fun st => st.c.team?.any (3 < ·.nqueues) && usableB st.c [] (some 9)) &&
    stageHas (seat (.qunbind 7)) .x (.qunbind 7) (fun st => (portNow st.c.w 7).isNone) &&
    (([.producer, .consumer] : List Role).all fun r => stageHas (seatWarp (fun w => { w with ports := [(7, { queue := 3, role := r })] })
      (.qunbind 7)) .x (.qunbind 7) fun st => (portNow st.c.w 7).isSome)) = true := by decide +kernel

/-- Premises of BarrierPostEvent: an arrival, a wait before and after its phase, a record aligned to 64. -/
theorem witness_BarrierPostEvent :
    (stageHas (seat (.barr 7 false 1)) .x (.barr 7 false 1) (fun st => !(getF st.c.w 1).pend && !barListed st.c.m st.c.w 7) &&
    stageHas (seatWarp (fun w => { w with arrived := [7] }) (.barr 7 true 1)) .x (.barr 7 true 1) (fun st => !(getF st.c.w 1).pend &&
      arrivedBefore st.c 7 && !barListed st.c.m st.c.w 7) &&
    stageHas (seat (.barr 0 true 1)) .x (.barr 0 true 1) (fun st => !(getF st.c.w 1).pend && !arrivedBefore st.c 0 &&
      !barListed st.c.m st.c.w 0) &&
    stageHas (seat (.tpost 3 1)) .x (.tpost 3 1) (fun st => usableB st.c [3] none && !(getF st.c.w 1).pend && (st.c.sv 3).toNat % 64 == 0) &&
    stageHas (seat (.evset 255)) .x (.evset 255) (fun _ => true) && stageHas (seat (.limm 0x3fffff)) .x (.limm 0x3fffff) fun _ => true) = true := by
  decide +kernel

/-- Premises of BarrierPostEvent where it traps or waits: a pending flag, an arrival that stands in the phase, of this bundle or an earlier
one, and a record that is not aligned to 64. -/
theorem witness_BarrierPostEvent_stops :
    (let listed (before : List Nat) : Instr → State := seatWith fun m =>
      updWarp (updTeam m 512 fun t => { t with bars := [(0, { phase := 0, arrived := [{ teamw := 0, warp := 16, flag := 1, order := 1 }] })] }) 16
        fun w => { w with arrived := before }
    stageHas (pendSeat 1 (.barr 0 true 1)) .x (.barr 0 true 1) (fun st => (getF st.c.w 1).pend) &&
    stageHas (pendSeat 1 (.tpost 3 1)) .x (.tpost 3 1) (fun st => usableB st.c [3] none && (getF st.c.w 1).pend) &&
    stageHas (listed [] (.barr 0 false 1)) .x (.barr 0 false 1) (fun st => barListed st.c.m st.c.w 0 && !arrivedBefore st.c 0) &&
    stageHas (listed [0] (.barr 0 true 1)) .x (.barr 0 true 1) (fun st => barListed st.c.m st.c.w 0 && arrivedBefore st.c 0) &&
    stageHas (seatWarp (fun w => putS w 4 32#64 false) (.tpost 4 1)) .x (.tpost 4 1) fun st => usableB st.c [4] none &&
      !(getF st.c.w 1).pend && (st.c.sv 4).toNat % 64 != 0) = true := by decide +kernel

/-! ### The C slot -/

/-- Premises of ScalarResults: every operation, with s0, a register and s63. -/
theorem witness_ScalarResults :
    ((scalarPairs.all fun e => stageHas (seat (e.1 0 3 63)) .c (e.1 0 3 63) fun st => usableB st.c [3, 63] (some 0)) &&
    (([Cc.eq, .ne, .lt, .le, .ltu, .leu] : List Cc).all fun cc =>
      stageHas (seat (.cmp cc 9 3 4)) .c (.cmp cc 9 3 4) fun st => usableB st.c [3, 4] (some 9)) &&
    stageHas (seat (.sel 9 3 4)) .c (.sel 9 3 4) (fun st => usableB st.c [9, 3, 4] (some 9)) &&
    (([.clz, .ctz, .popc] : List (BitVec 6 → BitVec 6 → Instr)).all fun e =>
      stageHas (seat (e 9 3)) .c (e 9 3) fun st => usableB st.c [3] (some 9))) = true := by decide +kernel

/-- Premises of ImmediateResults, without and with a LIMM. -/
theorem witness_ImmediateResults :
    ((scalarImmediates.all fun e => stageHas (seat (e.1 9 3 0x1ff)) .c (e.1 9 3 0x1ff) fun st => usableB st.c [3] (some 9)) &&
    (scalarImmediates.all fun e => stageHas
      { seat (e.1 9 3 0x1ff) with cur := (seat (e.1 9 3 0x1ff)).cur.map fun u => { u with limm := some 0x200000#22 } } .c (e.1 9 3 0x1ff)
        fun st => usableB st.c [3] (some 9) && wide st.c 0x1ff#9 == -1073741313) &&
    (scalarShifts.all fun e => stageHas (seat (e.1 9 3 63)) .c (e.1 9 3 63) fun st => usableB st.c [3] (some 9)) &&
    stageHas (seat (.cmpi .le 9 3 63)) .c (.cmpi .le 9 3 63) (fun st => usableB st.c [3] (some 9)) &&
    stageHas (seat (.movi 9 0x4000)) .c (.movi 9 0x4000) (fun st => usableB st.c [] (some 9)) &&
    stageHas (seat (.movhi 9 0x4000)) .c (.movhi 9 0x4000) fun st => usableB st.c [] (some 9)) = true := by decide +kernel

/-- A region of 4 bundles in which the warp stands at offset 2. -/
def regionSeat : Instr → State :=
  seatWarp fun w => { w with region := some { base := 0x100000000000, p := 1, len := 4 },
                             p0 := { w.p0 with place := { addr := 0x100000000000, off := 2 } } }

def inRegionB (c : Ctx) (n : Int) : Bool :=
  c.w.region.all fun r => decide (0 ≤ (c.q.place.off : Int) + n) && decide ((c.q.place.off : Int) + n < r.len)

theorem inRegion_of {c : Ctx} {n : Int} (h : inRegionB c n = true) : inRegion c n := by
  simp only [inRegionB, Option.all_eq_true, Bool.and_eq_true, decide_eq_true_eq] at h
  exact fun r hr => h r hr

/-- Premises of BranchPlans: outside a region, and inside one to its first and to its last offset. -/
theorem witness_BranchPlans :
    (([(seat, 0x1fff), (seat, 0x2000), (regionSeat, 1), (regionSeat, 0x3ffe)] : List ((Instr → State) × BitVec 14)).all fun e =>
      ([true, false].all fun inv =>
      stageHas (e.1 (.br inv 3 e.2)) .c (.br inv 3 e.2) (fun st => st.c.w.gang.isNone && usableB st.c [3] none && inRegionB st.c (wide st.c e.2)) &&
      stageHas (e.1 (.brf inv 15 e.2)) .c (.brf inv 15 e.2) fun st => st.c.w.gang.isNone && inRegionB st.c (wide st.c e.2))) = true ∧
    (stageHas (seat (.jmp 0x100000)) .c (.jmp 0x100000) (fun st => st.c.w.gang.isNone && st.c.w.region.isNone) &&
    stageHas (seat (.call 0x0fffff)) .c (.call 0x0fffff) (fun st => st.c.w.gang.isNone && st.c.w.region.isNone) &&
    stageHas (seat (.callr 3)) .c (.callr 3) (fun st => usableB st.c [3] none && (st.c.sv 3).toNat % 16 == 0) &&
    stageHas (seat .ret) .c .ret fun st => usableB st.c [54] none && (st.c.sv 54).toNat % 16 == 0) = true :=
  ⟨by decide +kernel, by decide +kernel⟩

/-- A warp that runs as member `i` of a gang whose lead has decided `d`. -/
def memberSeat (i : Nat) (d : List (Bool × Nat)) : Instr → State :=
  seatWith fun m => updWarp { m with gangs := mapPut m.gangs 7 { team := 512, members := [16, 20], skew := 1, beats := [0, 0], left := []
                                                                 decided := d, used := [0, 0], bundles := [], read := [0, 0], grants := 0
                                                                 asked := [0, 0], mres := [] } } 16 fun w => { w with gang := some 7, gidx := i }

/-- Premises of BranchPlans where the target lies outside the region, and in a gang: the lead, a member that agrees and one that does not.
-/
theorem witness_BranchPlans_gang :
    (stageHas (regionSeat (.br true 3 0)) .c (.br true 3 0) (fun st => usableB st.c [3] none) &&
    (opStage (regionSeat (.br true 3 0x3ffd)) .c (.br true 3 0x3ffd)).any (fun st => st.c.w.region.any fun r =>
      decide (¬ (0 ≤ (st.c.q.place.off : Int) + wide st.c 0x3ffd#14 ∧ (st.c.q.place.off : Int) + wide st.c 0x3ffd#14 < r.len))) &&
    (([memberSeat 0 [], memberSeat 1 [(true, 0)]] : List (Instr → State)).all fun g =>
      stageHas (g (.br true 3 1)) .c (.br true 3 1) fun st =>
        usableB st.c [3] none && st.c.sv 3 != 0#64 && inRegionB st.c (wide st.c 1#14) && (gangNote st.c true 0).isSome) &&
    stageHas (memberSeat 1 [(true, 0)] (.brf true 2 1)) .c (.brf true 2 1) (fun st => inRegionB st.c (wide st.c 1#14) &&
      (getF st.c.w 2).set && (gangNote st.c false 0).isNone) &&
    stageHas (memberSeat 1 [(true, 0x100000000000)] .ret) .c .ret fun st => usableB st.c [54] none && (gangNote st.c true 0).isNone) = true := by
  decide +kernel

/-- A path mask of the lanes whose bit of s5 is set. -/
def divideSeat (v : DWord) : Instr → State := seatWarp fun w => putS w 5 v false

/-- Premises of DivergentBranch: no lane, every lane and one lane taken; under a split a stack with room. -/
theorem witness_DivergentBranch :
    (stageHas (divideSeat 0#64 (.brd 5 3 1)) .c (.brd 5 3 1) (fun st => usableB st.c [5] none && st.c.w.gang.isNone &&
      (branchPlace st.c (brdTarget st.c.limm 3)).isSome && st.c.q.xm &&& st.c.q.mask &&& st.c.sv 5 == 0#64) &&
    stageHas (divideSeat (~~~0#64) (.brd 5 255 127)) .c (.brd 5 255 127) (fun st => usableB st.c [5] none &&
      (branchPlace st.c (brdTarget st.c.limm 255)).isSome && st.c.q.xm &&& st.c.q.mask &&& ~~~(st.c.sv 5) == 0#64) &&
    stageHas (divideSeat (1#64 <<< 63) (.brd 5 3 1)) .c (.brd 5 3 1) (fun st => usableB st.c [5] none && st.c.w.split.isNone &&
      st.c.q.xm &&& st.c.q.mask &&& st.c.sv 5 != 0#64 && st.c.q.xm &&& st.c.q.mask &&& ~~~(st.c.sv 5) != 0#64) &&
    stageHas (seatWarp (fun w => { putS w 5 1#64 false with
      split := some { join := 0x100000000100, depth := 0, mask := ~~~0#64, xm := ~~~0#64, inReg := false },
      p1 := some (freshPath 0x100000000080) }) (.brd 5 3 1)) .c (.brd 5 3 1) fun st => st.c.w.split.isSome && decide (pushFault st.c = none)) = true := by
  decide +kernel

/-- Premises of DivergentBranch in a gang: the lead, whose own lanes all fall through, a member that the lead's passes suit, and one whose
lead noted another target; and where the eight entries on chip are in use and s55 stands at the spill top. -/
theorem witness_DivergentBranch_gang :
    (let passes (st : Stage) : Option (Bool × Bool × (Mach → Mach)) := (branchPlace st.c (brdTarget st.c.limm 3)).bind fun p =>
        brdPasses st.c 5 (st.c.q.xm &&& st.c.q.mask &&& st.c.sv 5) (st.c.q.xm &&& st.c.q.mask &&& ~~~(st.c.sv 5)) (bundleAddr st.c.w p 0)
    let target : Nat := 2 * 0x100000000030 + 1
    stageHas (memberSeat 0 [] (.brd 5 3 1)) .c (.brd 5 3 1) (fun st => usableB st.c [5] none && (passes st).any fun x => !x.1 && x.2.1) &&
    stageHas (memberSeat 1 [(true, target)] (.brd 5 3 1)) .c (.brd 5 3 1) (fun st => (passes st).any fun x => x.1 && x.2.1) &&
    stageHas (memberSeat 1 [(false, target + 2)] (.brd 5 3 1)) .c (.brd 5 3 1) (fun st => (passes st).isNone) &&
    stageHas (seatWarp (fun w => { putS (putS w 5 1#64 false) 55 (BitVec.ofNat 64 w.sptop) false with
      split := some { join := 0x100000000100, depth := 0, mask := ~~~0#64, xm := ~~~0#64, inReg := false }
      p0 := { w.p0 with stack := List.replicate 8 { lanes := 0#64, target := 0, join := 0, whole := 0#64, inReg := false, turned := false
                                                    origin := none } },
      p1 := some (freshPath 0x100000000080) }) (.brd 5 3 1)) .c (.brd 5 3 1) (fun st => st.c.w.split.isSome && (passes st).any (fun x => x.1 && x.2.1) &&
        decide (8 ≤ st.c.q.stack.length ∧ (getS st.c.w 55).value.toNat ≤ st.c.w.sptop + 32)) &&
    (opStage (regionSeat (.brd 5 255 1)) .c (.brd 5 255 1)).any fun st => (branchPlace st.c (brdTarget st.c.limm 255)).isNone) = true := by
  decide +kernel

/-- Premises of RegionsAndTargets. -/
theorem witness_RegionsAndTargets :
    (stageHas (seat .join) .c .join (fun st => (joinOf st.c.w st.c.path).isNone) &&
    stageHas (seatWarp (fun w => { w with p0 := { w.p0 with joined := true } }) .join) .c .join (fun st => st.c.q.joined) &&
    stageHas (seatWarp (fun w => { w with sup := true }) (.bprep 3 0x40000)) .c (.bprep 3 0x40000) (fun st => st.c.w.sup) &&
    ([true, false].all fun inv => stageHas (seatWarp (fun w => { w with sup := true, target := [(3, 0x100000000040)] }) (.bgo 3 inv 4)) .c
      (.bgo 3 inv 4) fun st => st.c.w.gang.isNone && st.c.w.sup && usableB st.c [4] none && (mapGet? st.c.w.target 3).isSome) &&
    (([0, 1, 2] : List (BitVec 2)).all fun pl => stageHas (seat (.penter pl 0xffff)) .c (.penter pl 0xffff) fun st => st.c.w.split.isNone) &&
    stageHas (regionSeat .pexit) .c .pexit fun st => st.c.w.region.isSome && !openInside st.c.w st.c.path) = true := by decide +kernel

/-- Premises of RegionsAndTargets for the forms that trap: a JOIN away from its path's join, an empty entry, a split, no region; BGO in a
gang. -/
theorem witness_RegionsAndTargets_traps :
    (let splitSeat : Instr → State := seatWarp fun w => { w with
      split := some { join := 0x100000000100, depth := 0, mask := ~~~0#64, xm := ~~~0#64, inReg := false }
      p1 := some (freshPath 0x100000000080) }
    stageHas (splitSeat .join) .c .join (fun st => !st.c.q.joined && (joinOf st.c.w st.c.path).isSome) &&
    (let s := splitSeat .join
    let s : State := { s with mach := updWarp s.mach 16 fun w => { w with split := w.split.map fun x => { x with join := joinCoord w w.p0.place } } }
    stageHas s .c .join fun st => !st.c.q.joined && joinOf st.c.w st.c.path == some (joinCoord st.c.w st.c.q.place)) &&
    stageHas (seatWarp (fun w => { w with sup := true }) (.bgo 3 true 4)) .c (.bgo 3 true 4) (fun st => st.c.w.sup && usableB st.c [4] none &&
      (mapGet? st.c.w.target 3).isNone) &&
    stageHas (splitSeat (.penter 1 4)) .c (.penter 1 4) (fun st => st.c.w.split.isSome) &&
    stageHas (seat .pexit) .c .pexit (fun st => st.c.w.region.isNone)) = true := by decide +kernel

/-- Flags 0 and 15 pending, or clear with no producer. -/
def flagSeat (set pend : Bool) : Instr → State :=
  seatWarp fun w =>
    let r : FlagRec := { set := set, pend := pend, seq := 0, plane := 0, cidx := 0, instant := 0 }
    putF (putF w 0 r) 15 r

/-- Premises of FlagWaits: flags 0 and 15 set, pending, and clear. -/
theorem witness_FlagWaits :
    (stageHas (flagSeat true false (.fwait 0x8001)) .c (.fwait 0x8001) (fun st => (getF st.c.w 0).set && (getF st.c.w 15).set) &&
    (opStage (flagSeat false true (.fwait 0x8001)) .c (.fwait 0x8001)).any (fun st => !(getF st.c.w 0).set && (getF st.c.w 0).pend &&
      (getF st.c.w 15).pend) &&
    (opStage (flagSeat false false (.fwait 0x8001)) .c (.fwait 0x8001)).any (fun st => !(getF st.c.w 15).set && !(getF st.c.w 15).pend) &&
    stageHas (flagSeat true false (.fclr 0x8001)) .c (.fclr 0x8001) (fun st => !(getF st.c.w 0).pend && !(getF st.c.w 15).pend) &&
    (opStage (flagSeat false true (.fclr 0x8001)) .c (.fclr 0x8001)).any fun st => (getF st.c.w 0).pend) = true := by decide +kernel

/-- Premises of ControlRegisterReads: each readable register; the first and the last producer record, pending and not. -/
theorem witness_ControlRegisterReads :
    (([0x00, 0x01, 0x02, 0x03, 0x04, 0x05, 0x06, 0x07, 0x08, 0x09, 0x0a, 0x0b, 0x0c, 0x0d, 0x0e, 0x0f, 0x10, 0x11, 0x12, 0x14, 0x15, 0x16,
      0x17, 0x30] : List (BitVec 8)).all fun n => stageHas (seat (.crd 9 n)) .c (.crd 9 n) fun st =>
        usableB st.c [] (some 9) && (controlRegisters st.c).any (·.1 == n)) = true ∧
    (([(true, 0), (false, 15)] : List (Bool × Nat)).all fun e => stageHas (flagSeat false e.1 (.crd 9 (BitVec.ofNat 8 (0x20 + e.2)))) .c
      (.crd 9 (BitVec.ofNat 8 (0x20 + e.2))) fun st => usableB st.c [] (some 9) && (getF st.c.w e.2).pend == e.1) = true ∧
    stageHas (seat (.crdEnergyLo 9)) .c (.crdEnergyLo 9) (fun st => usableB st.c [] (some 9)) = true := ⟨by decide +kernel, by decide +kernel, by decide +kernel⟩

/-- Supervisor mode with a value in s4. -/
def supSeat (v : DWord) : Instr → State := seatWarp fun w => { putS w 4 v false with sup := true }

/-- Premises of ControlRegisterWrites: the greatest valid values, a deadline ahead and one that has passed. -/
theorem witness_ControlRegisterWrites :
    (stageHas (seat (.setx 4)) .c (.setx 4) (fun st => usableB st.c [4] none) && stageHas (seat (.cwr 0 4)) .c (.cwr 0 4) (fun _ => true) &&
    stageHas (seat (.cwrWtimer 3)) .c (.cwrWtimer 3) (fun st => usableB st.c [3] none) &&
    stageHas (divideSeat 0x7f#64 (.cwr 0x15 5)) .c (.cwr 0x15 5) (fun st => decide ((st.c.sv 5).toNat < 2 ^ 7)) &&
    stageHas (divideSeat 3#64 (.cwr 0x17 5)) .c (.cwr 0x17 5) (fun st => decide ((st.c.sv 5).toNat < 4)) &&
    stageHas (supSeat 0x780000000000#64 (.cwr 0x0a 4)) .c (.cwr 0x0a 4) (fun st => st.c.w.sup && st.c.w.sptop ≤ st.c.w.stklim) &&
    stageHas (supSeat 1#64 (.cwrGdead 4)) .c (.cwrGdead 4) (fun st => st.c.w.sup && st.c.d.gtc < (st.c.sv 4).toNat) &&
    (let s := supSeat 5#64 (.cwrGdead 4)
    stageHas { s with dev := { s.dev with gtc := 5 } } .c (.cwrGdead 4) fun st => st.c.w.sup && st.c.sv 4 != 0#64 && (st.c.sv 4).toNat ≤ st.c.d.gtc &&
      !(deadlineWarps st.c.m st.c.w.ctx).isEmpty) &&
    stageHas (supSeat 0x7f02#64 (.cwr 0x16 4)) .c (.cwr 0x16 4) (fun st => st.c.w.sup &&
      (st.c.sv 4 ^^^ BitVec.ofNat 64 (modeWord st.c)) &&& ~~~0x7f00#64 == 0#64) &&
    stageHas (supSeat 63#64 (.cwr 0x30 4)) .c (.cwr 0x30 4) fun st => st.c.w.sup && decide ((st.c.sv 4).toNat < 2 ^ 6)) = true := by
  decide +kernel

/-- Premises of FormsThatTrap: a user warp in no handler, and a misaligned address. -/
theorem witness_FormsThatTrap :
    (([0x01, 0x14, 0x2f, 0x0a, 0x16, 0x30] : List (BitVec 8)).all fun n => (opStage (seat (.cwr n 3)) .c (.cwr n 3)).any fun st =>
      usableB st.c [3] none && !st.c.w.sup) = true ∧
    ((opStage (seat (.cwrGdead 3)) .c (.cwrGdead 3)).any (fun st => usableB st.c [3] none && !st.c.w.sup) &&
    (opStage (seat (.bprep 0 0)) .c (.bprep 0 0)).any (fun st => !st.c.w.sup) &&
    (opStage (seat (.bgo 0 true 3)) .c (.bgo 0 true 3)).any (fun st => usableB st.c [3] none && !st.c.w.sup) &&
    (opStage (seat .eret) .c .eret).any (fun st => st.c.w.trapped = .running) &&
    (([(0x15#8, 0x80#64), (0x17, 4)] : List (BitVec 8 × DWord)).all fun e => stageHas (divideSeat e.2 (.cwr e.1 5)) .c (.cwr e.1 5) fun st =>
      usableB st.c [5] none && st.c.sv 5 == e.2) &&
    stageHas (supSeat 1#64 (.cwr 0x16 4)) .c (.cwr 0x16 4) (fun st => st.c.w.sup &&
      (st.c.sv 4 ^^^ BitVec.ofNat 64 (modeWord st.c)) &&& ~~~0x7f00#64 != 0#64) &&
    (let s := supSeat 64#64 (.cwr 0x30 4)
    stageHas { s with mach := updCore s.mach 4 fun c => { c with written := false } } .c (.cwr 0x30 4) fun st => st.c.w.sup &&
      !(getCore st.c.m (coreOf st.c.k)).written && decide (2 ^ 6 ≤ (st.c.sv 4).toNat)) &&
    (let s := supSeat 64#64 (.cwr 0x0a 4)
    stageHas { s with mach := updWarp s.mach 16 fun w => { w with sptop := w.stklim + 32 } } .c (.cwr 0x0a 4) fun st => st.c.w.sup &&
      decide (st.c.w.stklim < st.c.w.sptop)) &&
    (opStage (divideSeat 0x100000000008#64 (.callr 5)) .c (.callr 5)).any (fun st => usableB st.c [5] none && (st.c.sv 5).toNat % 16 != 0) &&
    (opStage (seatWarp (fun w => putS w 54 1#64 false) .ret) .c .ret).any fun st => usableB st.c [54] none && (st.c.sv 54).toNat % 16 != 0) = true :=
  ⟨by decide +kernel, by decide +kernel⟩

/-- A debuggable context with DBG.CTL as given. -/
def debugSeat (v : DWord) : Instr → State := seatWith fun m => updCtx m 1 fun c => { c with dbg := true, page := [(0, v)] }

/-- Premises of TrapAndDebugOps: a handler whose frame can be read, breakpoints and trace marks on and off. -/
theorem witness_TrapAndDebugOps :
    (stageHas (seat (.trap 0xffff)) .c (.trap 0xffff) (fun _ => true) && stageHas (seat .nop) .c .nop (fun _ => true) &&
    stageHas (seat (.brk 7)) .c (.brk 7) (fun st => !(ctxOf st.c.m st.c.w).elim false (dbgCtl · 4)) &&
    stageHas (seat (.trmark 7)) .c (.trmark 7) (fun st => !(ctxOf st.c.m st.c.w).elim false (dbgCtl · 6)) &&
    stageHas (debugSeat 0x10#64 (.brk 7)) .c (.brk 7) (fun st => (ctxOf st.c.m st.c.w).elim false (dbgCtl · 4) && !st.c.q.skipbp &&
      st.c.w.gang.isNone) &&
    (let s := debugSeat 0x10#64 (.brk 7)
    stageHas { s with mach := updWarp s.mach 16 (updPath · 0 fun q => { q with skipbp := true }) } .c (.brk 7) (fun st => st.c.q.skipbp) &&
    stageHas { s with mach := updWarp s.mach 16 fun w => { w with gang := some 7, gidx := 1 } } .c (.brk 7) fun st =>
      st.c.w.gang.isSome && st.c.w.gidx != 0) &&
    stageHas (debugSeat 0x40#64 (.trmark 7)) .c (.trmark 7) fun st => (ctxOf st.c.m st.c.w).elim false (dbgCtl · 6)) = true := by
  decide +kernel

/-- Premises of WarpResources: spare chunks, none to spare, every chunk held, none held; a pass open and none. -/
theorem witness_WarpResources :
    (([true, false] : List Bool).all fun nt => stageHas (seat (.sprint nt 9 4 2)) .c (.sprint nt 9 4 2) fun st =>
      usableB st.c [4] (some 9) && !(getF st.c.w 2).pend) = true ∧
    (stageHas (seat .sprel) .c .sprel (fun _ => true) && stageHas (seat .endWarp) .c .endWarp (fun _ => true) &&
    stageHas (seatWarp (fun w => { w with chunks := 3 }) (.rgrow 9)) .c (.rgrow 9) (fun st => usableB st.c [] (some 9) && 3 ≤ st.c.w.chunks) &&
    stageHas (seatWarp (fun w => { w with chunks := 2 }) (.rgrow 9)) .c (.rgrow 9) (fun st => st.c.w.chunks < 3 && st.c.w.grow.isNone &&
      growAhead st.c < (getCore st.c.m (coreOf st.c.k)).spare) &&
    stageHas (seatWith (fun m => updCore m 4 fun c => { c with spare := 0 }) (.rgrow 9)) .c (.rgrow 9) (fun st => st.c.w.chunks < 3 &&
      (getCore st.c.m (coreOf st.c.k)).spare ≤ growAhead st.c) &&
    (([true, false] : List Bool).all fun b => stageHas (seatWarp (fun w => { w with chunks := 2, grow := some b }) (.rgrow 9)) .c (.rgrow 9)
      fun st => usableB st.c [] (some 9) && st.c.w.chunks < 3 && st.c.w.grow == some b) &&
    stageHas (seatWarp (fun w => { w with chunks := 2, ops := [{ id := 5, kind := .loadV 80 4, acc := [], flag := none, path := 0, plane := 0
                                                                 cidx := 0, pc := 0, seq := 0, ticket := none, both := false, floor := 0
                                                                 failed := false }] }) .rshrink) .c .rshrink
      (fun st => 0 < st.c.w.chunks && st.c.w.ops.any fun o => pendingReg o == some 80) &&
    stageHas (seat .rshrink) .c .rshrink (fun st => st.c.w.chunks == 0) &&
    stageHas (seatWarp (fun w => { w with chunks := 3 }) .rshrink) .c .rshrink (fun st => 0 < st.c.w.chunks && st.c.w.ops.isEmpty) &&
    stageHas (seat (.timer 4)) .c (.timer 4) (fun st => usableB st.c [4] none) &&
    stageHas (seat .yield) .c .yield (fun st => (openChain st.c.m st.c.k).isNone && st.c.w.gang.isNone) &&
    stageHas (seatWith (engineMach false false) .yield) .c .yield fun st => (openChain st.c.m st.c.k).isSome) = true :=
  ⟨by decide +kernel, by decide +kernel⟩

/-- Premises of RegisterFormsFrame: a warp with nothing in flight and no transfer under way, at a V and at a C operation that answers a
next state. -/
theorem witness_RegisterFormsFrame :
    (([(Instr.vadd 5 6 7 false, Slot.v), (.vclz 5 6 false, .v), (.vfadd 5 6 7 false, .v), (.add 9 3 4, .c), (.addi 9 3 1, .c)] :
      List (Instr × Slot)).all fun e => stageHas (seat e.1) e.2 e.1 (fun st => (getWarp? (seat e.1).mach st.cur.warp).any fun w =>
        w.flight.isEmpty && w.late.isEmpty && w.p0.delay.isNone && w.p1.isNone) && (nextOf (exec e.1 (seat e.1))).isSome) = true := by
  decide +kernel

/-! ### Events of scheduling -/

/-- The machine after a step of the seat's instruction, or the seat itself. -/
def after (s : State) (i : Instr) : State := (nextOf (exec i s)).getD s

/-- The seat of an RGROW that blocks, its core without spare chunks. -/
def growSeat : State :=
  after (seatWith (fun m => updCore m 4 fun c => { c with spare := 0 }) (.rgrow 9)) (.rgrow 9)

/-- Premises of SelectionAndBlocks: a core with and without a selected warp, a flag wait that still blocks and one that is over, an RGROW
that a chunk has become free for. -/
theorem witness_SelectionAndBlocks :
    (((getCore (seat .nop).mach 4).selected == some 16 && keepsSelection (seat .nop).mach 16) &&
    (let m := updCore (seat .nop).mach 4 fun c => { c with selected := none }
     oldestReady m 4 == some 16 && (getCore m 4).selected.isNone) &&
    (let s := after (flagSeat false true (.fwait 0x8001)) (.fwait 0x8001)
     (getWarp? s.mach 16).any (fun w => w.block.any (·.cause != .grow) && stepsItself w) && (blockAgain s.dev s.mach 16).isSome &&
     (let m := updWarp s.mach 16 fun w => completeFlag (completeFlag w 0) 15
      (getWarp? m 16).any (fun w => w.block.isSome && stepsItself w) && (blockAgain s.dev m 16).isNone)) &&
    (let m := updCore growSeat.mach 4 fun c => { c with spare := 1 }
     (getWarp? m 16).any (fun w => w.block.any (·.cause = .grow) && stepsItself w && w.grow.isNone) && (blockAgain growSeat.dev m 16).isNone)) = true := by
  decide +kernel

/-- A second warp on core 1 of the cluster. -/
def twoWarps (m : Mach) : Mach :=
  match getWarp? m 16 with
  | some w => setWarp (updTeam m 512 fun t => { t with warps := 2, cores := 2 }) 20 { w with teamw := 1 }
  | none => m

/-- Premises of RendezvousAndPhases: two arrivals that agree, without and with one more behind them, two that disagree, and one alone; a
phase with both arrivals and with one. -/
theorem witness_RendezvousAndPhases :
    agreeing [{ warp := 16, teamw := 0, core := 4, n := 2, skew := 1 }, { warp := 20, teamw := 1, core := 5, n := 2, skew := 1 }] ∧
    (let a (k w c n : Nat) : GangArrival := { warp := k, teamw := w, core := c, n := n, skew := 1 }
    let b (k w : Nat) : Arrival := { teamw := w, warp := k, flag := 1, order := 0 }
    let m := twoWarps (seat .nop).mach
    ([16, 20].all fun k => (getWarp? m k).any fun w => w.trapped = .running) &&
    !clash (a 20 1 5 2) (a 16 0 4 2) && clash (a 20 1 5 3) (a 16 0 4 2) && clash (a 20 1 4 2) (a 16 0 4 2) &&
    (getTeam? m 512).any fun t => phaseFull t { phase := 0, arrived := [b 16 0, b 20 1] } && !phaseFull t { phase := 0, arrived := [b 16 0] } &&
      [b 16 0, b 20 1].all (arrivalReleased m 512)) = true := ⟨by simp [agreeing, clash], by decide +kernel⟩

/-- Premises of GrowAndTimers, at the instant at which each comes due. -/
theorem witness_GrowAndTimers :
    (growStuck growSeat.mach 4 && ((coreWarps growSeat.mach 4).all fun w => w.2.watch64.isNone && w.2.grow != some false) &&
      youngestWaiter growSeat.mach 4 == some 16 &&
    (let m := updWarp growSeat.mach 16 fun w => { w with watch64 := some 64 }
     growStuck m 4 && ((coreWarps m 4).find? fun x => x.2.watch64.isSome).isSome) &&
    (getWarp? (updWarp (seat .nop).mach 16 fun w => { w with wtimer := 5, vbeat := 5 }) 16).any (fun w => w.wtimer != 0 && w.wtimer ≤ w.vbeat) &&
    (getCtx? (updCtx (seat .nop).mach 1 fun c => { c with gdead := 7 }) 1).any (fun c => c.gdead != 0 && c.gdead ≤ 7 && 6 < c.gdead) &&
    (getTeam? (updTeam (seat .nop).mach 512 fun t => { t with lease := some { left := 0, grant := 1, start := 0, nt := false, holder := 16 } }) 512).any
      (fun t => t.lease.any fun l => l.left == 0) &&
    (getWarp? (updWarp (seat .nop).mach 16 fun w => { w with hang := 1000 }) 16).any fun w => !inSave (seat .nop).mach w &&
      (ctxOf (seat .nop).mach w).any fun c => c.wdlim * 1000 ≤ w.hang) = true := by decide +kernel

/-- Premises of BoundaryDeliveries: an external event, an asynchronous fault and neither. -/
theorem witness_BoundaryDeliveries :
    (let look (m : Mach) (p : Option (Delivery × Mach) → Bool) : Bool :=
      let b := atBoundary 0 m 16
      (getWarp? b 16).any fun w => stepsItself w && !entryWaits w && standsAtBoundary b w && (stopDue b 16 w (dueStreams b w)).isNone &&
        p (boundaryTrap actionOf (seat .nop).dev b 16 w (dueStreams b w))
    look (framed (seat .nop).mach) (fun x => x.isNone) &&
    look (updWarp (framed (seat .nop).mach) 16 fun w => raiseExt w 0x61) (fun x => x.any fun y => decide (y.1 ≠ .async)) &&
    look (updWarp (framed (seat .nop).mach) 16 fun w => { w with due := [{ userTrapRecord with code := 0x3a, cls := 2 }] }) fun x => x.any fun y => decide (y.1 = .async)) = true := by
  decide +kernel

/-- Premises of FrameBoundaryPatterns: at GTC 0, and at GTC 1. -/
theorem witness_FrameBoundaryPatterns :
    (mapWf (seat .nop).mach.clusters && (seat .nop).dev.gtc % 16 == 0 && (mapKeys (seat .nop).mach.warps).contains 16 && 1 % 16 != 0) = true := by
  decide +kernel

/-! ### Events of the memory order -/

/-- The one operation that stands in the warp's order after an instruction has issued from its seat. -/
def orderedOp (i : Instr) : Option (Mach × MemOp × Warp) :=
  let s := after (seat i) i
  (getWarp? s.mach 16).bind fun w => w.ops.head?.bind fun o => (readyOp? s.mach 16 o.id).map fun o => (s.mach, o, w)

/-- Premises of CompletionEvents, StoreReachesMemory, ScalarLoadDelivers and AtomicReplacesOnce: the operations that an STS, LDS, LDV,
ATOMS, ATOMV, CASS, VSPILL and EVSET put into the order. -/
theorem witness_CompletionEvents :
    ((orderedOp (.sts 4 3 .dword 0 1)).any (fun (m, o, w) => o.kind = .store 8 none && !o.failed && !remoteStuck m o && Memory.wf m.mem && mapWf w.flags &&
      (ctxOf m w).all (!·.dbg) && o.acc.all (fun a => !stackHit w a.va && a.data.length == 8) && o.acc.length == 1 && o.flag == some 1) &&
    (orderedOp (.lds 9 3 .dword 0 1)).any (fun (m, o, w) => o.kind = .loadS 9 8 none && o.ticket.isNone && mapWf w.s && mapWf w.flags &&
      (ctxOf m w).all (!·.dbg) && o.acc.length == 1 && o.acc.all fun a => !stackHit w a.va && !remoteKey a.key) &&
    (orderedOp (.ldv 9 3 .word 0 1)).any (fun (_, o, _) => o.kind.reads && !o.kind.counted) &&
    (orderedOp (.atomsAdd 9 3 4 .device 1)).any (fun (m, o, w) => o.kind = .atomS 9 .add && o.ticket.isNone && Memory.wf m.mem && mapWf w.s &&
      (ctxOf m w).all (!·.dbg) && o.acc.length == 1 && o.acc.all fun a => !remoteKey a.key) &&
    (orderedOp (.atomvAdd 4 7 3 1)).any (fun (_, o, _) => o.kind.reads && o.kind.counted) &&
    (orderedOp (.cass 9 3 4 .device 1)).any (fun (_, o, _) => o.kind.reads && o.kind.counted) &&
    (orderedOp (.vspill 4 55 (-1) 1)).any (fun (m, o, _) => o.kind = .spill && !remoteStuck m o) &&
    (orderedOp (.evset 3)).any (fun (_, o, _) => o.kind = .evset 3)) = true := by decide +kernel

/-- A page of another package in region 10. -/
def remoteLeaf : DWord :=
  BitVec.ofNat 64 (leafWord { home := 3, w := true, x := false, sd := false, ds := false } 1 (2 ^ 32 + 2 * 2 ^ 23))

def remoteOp (i : Instr) : Option (Mach × MemOp × Warp) :=
  let s := seatWith (fun m => updWarp (updCore m 4 fun c => { c with tlb := [{ ctx := 1, page := pageOf 0 0x2a00000000000, level := 0, leaf := remoteLeaf }] }) 16
    fun w => putS w 3 0x2a00000000000#64 false) i
  let s := after s i
  (getWarp? s.mach 16).bind fun w => w.ops.head?.bind fun o => (readyOp? s.mach 16 o.id).map fun o => (s.mach, o, w)

/-- Premises of LinkAndErrorEvents: a load and a store to another package, ports up and down, a loaded key and an empty one. -/
theorem witness_LinkAndErrorEvents :
    ((remoteOp (.lds 9 3 .dword 0 1)).any (fun (_, o, _) => o.kind.reads && o.acc.any fun a => remoteKey a.key) &&
    (remoteOp (.sts 4 3 .dword 0 1)).any (fun (_, o, _) => !o.kind.reads && !o.failed && o.acc.any fun a => remoteKey a.key) &&
    State.reset.mach.ports.contains 31 && !State.reset.mach.ports.contains 32 && keyLoaded State.reset.mach 0 &&
    !keyLoaded State.reset.mach 8191 &&
    (remoteOp (.sts 4 3 .dword 0 1)).any (fun (m, o, w) => w.ops.contains o && o.acc.any fun a => (portFor m (lineOf a.key)).any fun port =>
      let m := { m with retry := [(o.id, port, remoteLines o)] }
      let later : MemOp := { o with id := o.id + 1 }
      let m := updWarp m 16 fun w => { w with ops := w.ops ++ [later] }
      (opOf? m 16 later.id).isSome && (remoteLines later).any fun l => (mapGet? m.retry o.id).any fun x => x.2.contains l)) = true := by decide +kernel

/-- Premises of FlushEpisodes: a flush of each scope that every participant has issued, and a team whose warp has not. -/
theorem witness_FlushEpisodes :
    (let m (sc : FlushScope) : Mach := (after (seat (.flush sc 1)) (.flush sc 1)).mach
    episodeDue (m .team) .team 512 [] && episodeDue (m .task) .task 1 [] &&
    ((m .dev).episodes.head?.any fun e => episodeDue (m .dev) .dev (devGroup e.ctx e.fgrp) e.nodes) &&
    !episodeDue (seat .nop).mach .team 512 []) = true := by decide +kernel

/-! ### Events of the engines -/

/-- The one copy that a CPY of the seat puts into its engine. -/
def copyMach (op : CopyOp) (i : Instr) : Option (Mach × Nat × Copy) :=
  let m := (after (copySeat op i) i).mach
  ((getCluster m 1).copies.head?).map fun (id, c) => (m, id, c)

/-- Premises of EngineEvents, and of REMOTE_FAIL's clause for copies in LinkAndErrorEvents: a copy that may run and whose page a walk has
found unmapped, a CPYAT before and at its instant, a request of a free engine, a chain that has closed and whose slot has results. -/
theorem witness_EngineEvents :
    ((copyMach .cpy (.cpy false 4 5 6 (some 1))).any (fun (m, id, c0) => (readyOp? m 16 id).isNone &&
      let c := { c0 with ffault := [(0x100000010000 / 65536, 0x40, 3)] }
      let m := putCopy m 1 id c
      (copyAt? m 1 id).isSome && mayRun 0 m c && c.fault.isNone && (match advanceCopy 0 m 1 id (unitBound c) c with
        | (m', c', some (.fault e _), _) => e.code != TrapName.remoteFail.code && (issuer? m' c').isSome
        | _ => false)) &&
    (copyMach .cpyat (.cpyat false 4 5 6 (some 1))).any (fun (_, _, c) => c.launch.isSome) &&
    (let m := (after (seat (.mres 3)) (.mres 3)).mach
     (getMatrix m 1).owners.isEmpty && !(getMatrix m 1).mrt.isEmpty) &&
    (let m := (after (seatWith (engineMach false false) (.che 1 15)) (.che 1 15)).mach
     ((getMatrix m 1).chains.find? fun c => chainDone c && !c.group).any fun c => c.che.isSome)) = true := by decide +kernel

/-! ### Events of tasks, of Pumal and of the debug unit -/

/-- A ready task of one warp, that fits on cluster 2, beside the running one. -/
def readyNode : Node := { trialNode with stage := .ready, clusters := [], eff := 9 }

def twoTasks : Mach := { framed (seat .nop).mach with nodes := [(1, trialNode), (2, readyNode)] }

/-- Premises of TaskLifecycle: a POST whose record can be read, a node whose turn has come, a task that is over. -/
theorem witness_TaskLifecycle :
    (let m := { framed (seat .nop).mach with posts := [{ ctx := 1, va := 0x400000040000, die := 0, jseq := 3, warp := none }] }
    (readyPosts m).length == 1 && (ensurePage m 1 0x400000040038 .write).isSome && (let (m, r) := recordBytes 0 m 1 0x400000040000
     r.any fun bs => (getCtx? m 1).any fun c => (refuseNode m c bs (nodeOfRecord bs 1 3)).isSome) &&
    (fitOn twoTasks readyNode [2]).isSome && clustersOk twoTasks readyNode [2] && turnOf twoTasks readyNode &&
    taskOver { twoTasks with warps := [] } 1 trialNode && !taskOver twoTasks 1 trialNode && trialNode.dispatched && !readyNode.dispatched) = true := by
  decide +kernel

/-- A save image with no byte after its seal, which holds the first four bytes of the SHA3-512 of nothing (FIPS 202) and the generation. -/
def savedTask : SavedTask :=
  { gen := 0, size := 0, digest := [0xa6#8, 0x9f, 0x73, 0xcc], saveGtc := 0, warps := [], teams := [], copies := [], locks := [], dacc := [], passes := [], gangs := []
    sram := [], ecc := [] }

/-- Premises of SavesAndRestores: a newcomer that outranks the running task and fits nowhere, a drain that has run out, a save whose task is
drained before its deadline, a seal that matches and one that does not. -/
theorem witness_SavesAndRestores :
    (let big : Node := { readyNode with clus := 511, tok := 9 }
    let run : Node := { trialNode with tframe := 0x400000040000 }
    let m : Mach := { framed (seat .nop).mach with nodes := [(1, run), (2, big)] }
    !placeable m big && turnOf m big && victim m big == some (1, run) && decide (taskBeats m 1 = 0) && run.resident &&
    (let m1 := stopTask State.reset.dev (beginSave State.reset.dev m 1 false) 1
     !(taskWarps m1 1).isEmpty && drained m1 1) &&
    (let m : Mach := { framed (seat .nop).mach with nodes := [(1, { readyNode with saved := some savedTask })] }
     let m := updCtx m 1 fun c => { c with savebase := 0x400000040000, stride := 65536 }
     (putRange m 1 0x400000040000 (savedTask.digest ++ leBytes 4 0#64)).any fun m =>
       (getCtx? m 1).any fun c => (getNode? m 1).any fun n => (sealOk 0 m c n savedTask).2 && !(sealOk 0 m c n { savedTask with gen := 7 }).2 &&
       (fitOn m n [2]).isSome && clustersOk m n [2] && turnOf m n)) = true := by decide +kernel

/-- A warp frozen for a first touch of the page at 0x400000050000. -/
def touchMach : Mach :=
  updWarp (framed (seat .nop).mach) 16 fun w => { w with
    trapped := .pumal 0x400000040000 false none, record := some { userTrapRecord with code := 0x40, addr := 0x400000050000 } }

/-- Premises of PumalServices: a listed miss, a touch that can be served, a frozen warp with each kind of code, a request that hits. -/
theorem witness_PumalServices :
    (({ touchMach with misses := [{ die := 0, ctx := 1, page := 5 }] } : Mach).misses.contains { die := 0, ctx := 1, page := 5 } &&
    (touchMach.warps.any fun x => waitsTouch 1 (0x400000050000 / 65536) x.2) && (serveTouch touchMach 1 0x400000050000).isSome &&
    (serveTouch (framed (seat .nop).mach) 1 0x500000050000).isSome && (serveTouch touchMach 1 0xb00000000000).isNone &&
    (getWarp? touchMach 16).any (fun w => w.record.any (·.code == 0x40) && (match w.trapped with | .pumal _ i _ => !i | _ => false)) &&
    (TlbScope.hits { ctx := some 1, range := none } { ctx := 1, page := 5, level := 0, leaf := 0 }) &&
    !tlbBusy touchMach { ctx := some 1, range := none }) = true := by decide +kernel

/-- A debuggable context that samples every cycle, and whose breakpoint 0 stands at the warp's bundle. -/
def debugMach : Mach :=
  updCtx (seat .nop).mach 1 fun c => { c with dbg := true, page := [(0, 0x20#64), (0x40, 0x8000100000000000#64)] }

/-- Premises of DebugUnit: a warp with no stop due, a stopped one, a dump that cannot be made, a core that is sampled. -/
theorem witness_DebugUnit :
    ((getWarp? (atBoundary 0 (framed (seat .nop).mach) 16) 16).any (fun w =>
      (stopDue (atBoundary 0 (framed (seat .nop).mach) 16) 16 w (dueStreams (atBoundary 0 (framed (seat .nop).mach) 16) w)).isNone) &&
    (getWarp? (stopWarp State.reset.dev (seat .nop).mach 16 0 0 { code := 1, value := 7 }) 16).any (fun w => w.stopped.isSome) &&
    sampled debugMach 4 == some 16 && (getCore debugMach 4).sampledTo == 0 && (getWarp? debugMach 16).any (fun w => (ctxOf debugMach w).any fun c => c.dbg && (dbgWord c 0).getLsbD 5) &&
    (sampled debugMach 8).isNone) = true := by decide +kernel

/-! ### Events of power, wear and time -/

/-- Every clamp source holds: a droop of cluster 511, die 1's current, the package's power, a full store. -/
def droopPcc : Pcc :=
  { Pcc.atReset with droops := [511], amps := (0, 2401), load := 3401, melt := 1023, power := 2201 }

/-- A ramp of 64 W per µs to 640 W, 50 ns before the launch. -/
def rampPcc : Pcc := { Pcc.atReset with balen := true, bstep := 640, sso := 50, ramp := 64 }

/-- Premises of PowerControl: the limits of each write, a source that hits one cluster, a store that heats, cools and is corrected, a
request without and with a lease, a launch. -/
theorem witness_PowerControl :
    (writeOk .tlbiCtl (2#64 <<< 61) && !writeOk .tlbiCtl (3#64 <<< 61) && bits (3#64 <<< 61 : DWord) 62 61 == 3 &&
    writeOk .pccLim (1#64 <<< 48) && !writeOk .pccLim (0xffff#64) && clampTargets State.reset.mach droopPcc (.droop 511) == [511] &&
    (clampTargets State.reset.mach State.reset.dev.pcc (.droop 511)).isEmpty && (clampTargets State.reset.mach droopPcc (.current 1)).contains 256 &&
    !(clampTargets State.reset.mach droopPcc (.current 1)).contains 255 && (clampTargets State.reset.mach droopPcc .ceiling).contains 0 &&
    (clampTargets State.reset.mach droopPcc .melt).contains 511 && !clampHeld State.reset.dev.pcc 3 && clampHeld droopPcc 3 &&
    mapWf State.reset.mach.clusters && launchBallast rampPcc 19950 (20000, 0) == 640000 && launchBallast rampPcc 19940 (20000, 0) == 640000 - 640 &&
    launchBallast rampPcc 20001 (20000, 0) == 640000 - 64 &&
    decide (min State.reset.dev.pcc.susw State.reset.dev.pcc.qc < 2201) && decide (2200 ≤ min State.reset.dev.pcc.susw State.reset.dev.pcc.qc) &&
    decide (State.reset.dev.pcc.e ≤ 1600000000000) && (getTeam? (seat .nop).mach 512).any (fun t => t.lease.isNone) && !State.reset.dev.pcc.rfz &&
    State.reset.mach.sprints.isEmpty) = true := by decide +kernel

/-- Premises of EnergyAndWear: a cluster that a droop clamps, one that may be unclamped, nothing pending, a context, the lowest margin of
die 1, the day's end. -/
theorem witness_EnergyAndWear :
    (mapWf State.reset.mach.clusters && (clampTargets State.reset.mach droopPcc .melt).contains 0 &&
    (let m := updCluster State.reset.mach 3 fun x => { x with clp := 4, sourceAt := some 0 }
     !(getCluster m 3).hold4 && decide (1 < (getCluster m 3).clp) && !clampHeld State.reset.dev.pcc 3 && decide (0 + 20000 ≤ 20000)) &&
    cutShares 10 3 0 [(1, 1), (2, 1), (0, 1)] == [(1, 3), (2, 3), (0, 4)] && State.reset.dev.pcc.early == 0 && State.reset.dev.pcc.owed.isEmpty &&
    (let s := seat .nop
     let s : State := { s with dev := updPcc s.dev fun p => { p with pending := [(1, 5 * 2 ^ 32)] } }
     (settleEnergy s 1).dev.pcc.early == 5 * 2 ^ 32 && (getNode? (settleEnergy s 1).mach 1).any (·.energy == 5)) &&
    (chargeNode { State.reset.dev with pcc := { Pcc.atReset with owed := [(9, (1, 0))] } } (seat .nop).mach 9 (2 ^ 33)).2.ctxs.any (·.2.energy == 2) &&
    clusterMargin Wear.atReset 3 [50, 41, 60, 70, 80, 90, 99, 45] == some 41 &&
    State.reset.dev.pcc.pending.isEmpty && State.reset.dev.pcc.frac.isEmpty && (getNode? State.reset.mach 0).isNone &&
    (getCtx? (seat .nop).mach 1).any (fun c => !c.esat && decide (c.energy + 5 < 2 ^ 64)) && (lowestMargin State.reset.mach 1).isSome &&
    (let m := updCluster State.reset.mach 300 fun x => { x with margin := -1 }
     lowestMargin m 1 == some 300 && decide ((getCluster m 300).margin < 0)) &&
    decide (State.reset.dev.gtc < State.reset.dev.wear.lastDay + 86400000000000)) = true := by decide +kernel

/-- A source one step from the grandmaster 7, and one two steps from it. -/
def nearSource : Announce :=
  { priority1 := 1, clockClass := 6, accuracy := 0, variance := 0, priority2 := 1, identity := 7, domain := 0, steps := 1, sender := 20 }
def farSource : Announce := { nearSource with steps := 2, sender := 10 }

/-- A selected source, and a measurement that lacks only its response. -/
def ptpState : Ptp :=
  { Ptp.atReset with
    source := some nearSource, foreign := [(nearSource, 0)]
    t1 := some 10, t2 := some 30, t3 := some 50, dseq := 4, seqId := 3 }

/-- Premises of TimeReceiver: messages of the selected source and of another, and eight seconds without one. -/
theorem witness_TimeReceiver :
    (ptpState.source.any (fun a => a.sender = 20 && a.sender != 10) && announceBefore nearSource farSource && !announceBefore farSource nearSource &&
    (dropSilent 5999999999 ptpState).source.isSome && (dropSilent 6000000000 ptpState).source.isNone &&
    bits (5 : DWord) 6 0 != ptpState.domain && ptpState.t1.isSome && ptpState.t2.isSome && ptpState.t3.isSome &&
    ptpState.dseq == 4 && ({ ptpState with t1 := none } : Ptp).t1.isNone && decide (0 + 8000000000 ≤ 8000000000) && Ptp.atReset.source.isNone) = true := by
  decide +kernel

/-- Premises of BootAndSupply: images at the head of the inputs, the supply on and off, a marker that permits a resume. -/
theorem witness_BootAndSupply :
    (let i : DieImage := { body := [], sig := [], version := 1, fuse := 1, pumal := [] }
    let b : BootInput := { standby := true, holdup := 1000, d0 := i, d1 := i, lost := [], pkg := 0, pod := 0, rates := [] }
    (bootInput? (.images true 1000 i i [] 7 3 [])).isSome && (bootInput? (.images true 999 i i [] 7 3 [])).any (·.holdup < 1000) &&
    !clusterSurvives [.spadBank 3 0] (false, false) 3 && clusterSurvives [.spadBank 3 0] (false, false) 4 &&
    keepsRecovery [0] 0 (.l2OrHbm 0 0) && !keepsRecovery [9000] 0 (.l2OrHbm 0 0) && State.reset.dev.supply == .on && !mayResume State.reset.dev b) = true := by decide +kernel

/-! ### The host's messages -/

/-- An item with KIND, CTX and BODY as given, as message 1 of a host, alone in the mailbox of slot 0, whose session is 5. -/
def messageState (kind ctx : Nat) (body : List Byte) : State × Msg :=
  let item := leBytes 8 1#64 ++ leBytes 2 (BitVec.ofNat 16 kind) ++ leBytes 2 0#16 ++ leBytes 4 (BitVec.ofNat 32 ctx) ++ body ++
    List.replicate (48 - body.length) 0#8
  let f : Frame := { fseq := 0, session := 5, rsvd := 0, slot := 0, count := 1, typ := 0, ver := 1, items := item, tag := [] }
  let s := seat .nop
  let slot : HostSlot := { HostSlot.unused with session := 5, windows := [(1, (1, 0x400000040000, 64))] }
  ({ s with mach := framed s.mach, dev := { s.dev with mailbox := [(f, 0)], slots := [(0, slot)] } }, { frame := f, item := item })

/-- What `standing` and `admissible` ask. -/
def messageOk (kind ctx : Nat) (body : List Byte) (used : List (Nat × Nat)) (needs : Bool) (more : State → Msg → Bool) : Bool :=
  let (s, q) := messageState kind ctx body
  let s1 : State := { s with dev := { s.dev with mailbox := [] } }
  q.item == itemAt q.frame 0 && q.frame.typ == 0 && q.kind == kind && sessionLive s1.dev q.frame && q.frame.session != 0 &&
  decide (sequenceCheck s1.dev q = none) && (if needs then (msgCtx? s1 q).isSome else q.ctx == 0) && bodyClear q used && !journalFull s1.dev &&
  mapWf s1.dev.slots && more s1 q

/-- Premises of JournalledMessages and of OtherHostTraffic, for one message of each kind. -/
theorem witness_JournalledMessages :
    (messageOk 0x21 1 (List.replicate 32 255#8) [(0, 32)] true (fun _ _ => true) && messageOk 0x22 1 [1#8] [(0, 32)] true (fun _ _ => true) &&
    messageOk 0x23 1 [1#8] [(0, 4)] true (fun s q => (getNode? s.mach (q.field 0 4)).all fun n => n.ctx = q.ctx) &&
    messageOk 0x20 1 (leBytes 8 0x400000040000#64) [(0, 8)] true (fun _ q => q.field 0 8 % 64 == 0) &&
    messageOk 0x11 1 [] [] true (fun _ _ => true) &&
    messageOk 0x12 1 (leBytes 8 0x400000040000#64 ++ leBytes 8 (1#64 <<< 32)) [(0, 16)] true (fun s q => q.field 8 8 == 2 ^ 32 &&
      freeWindow s.dev q.slot == some 2) &&
    messageOk 0x13 1 [1#8] [(0, 1), (8, 32)] true (fun s q => (mapGet? (getHostSlot s.dev q.slot).windows (q.field 0 1)).isSome) &&
    messageOk 0x10 0 (leBytes 8 0xfff00#64) [(0, 8)] false (fun _ q => q.field 0 8 % 256 == 0 && q.field 0 8 + 256 ≤ 2 ^ 20)) = true := by
  decide +kernel

theorem witness_OtherHostTraffic :
    (messageOk 0x01 0 [] [(0, 32)] false (fun _ _ => true) && messageOk 0x02 0 [] [] false (fun _ _ => true) &&
    messageOk 0x03 0 (leBytes 8 1#64 ++ [15#8]) [(0, 8), (8, 1)] false (fun _ q => 1 ≤ q.field 0 8 && q.field 8 1 == 15) &&
    messageOk 0x14 1 (leBytes 8 0x400000040000#64 ++ leBytes 8 64#64) [(0, 16)] true (fun s q =>
      (readRange 0 s.mach q.ctx (q.field 0 8) (q.field 8 8)).2.length == q.field 8 8) &&
    messageOk 0x24 1 (leBytes 8 0#64 ++ leBytes 8 1#64) [(0, 1), (8, 8)] true (fun s q => (queried s q).any (·.1 == q.ctx)) &&
    messageOk 0x24 1 (leBytes 8 1#64 ++ leBytes 8 9#64) [(0, 1), (8, 8)] true (fun s q => (queried s q).isNone) &&
    (let q := messageState 0x24 2 (leBytes 8 0#64 ++ leBytes 8 1#64)
    (queried q.1 q.2).any (·.1 != q.2.ctx)) &&
    messageOk 0x7f 1 [] [] true (fun _ q => !listedKinds.contains q.kind)) = true := by decide +kernel

/-- A frame of the management port with one item of a kind, in session 5 of slot 0, whose tag is right under that session's key. -/
def mgmtFrame (kind : Nat) : Frame :=
  let f : Frame := { fseq := 0, session := 5, rsvd := 0, slot := 0, count := 1, typ := 0, ver := 1, tag := []
                     items := leBytes 8 1#64 ++ leBytes 2 (BitVec.ofNat 16 kind) ++ List.replicate 54 0#8 }
  { f with tag := tagOf (List.replicate 32 0#8) (frameHeader f) f.items }

/-- Premises of EnergyAndWear for the reads of the management port: a sound frame of each kind, a health log with a record, and a frame
whose tag is cut short. -/
theorem witness_ManagementReads :
    (let d : Dev := { State.reset.dev with slots := [(0, { HostSlot.unused with session := 5, key := List.replicate 32 0#8 })] }
    ([0x30, 0x31].all fun kind => (let f := mgmtFrame kind
      messagesOk f && frameSound d f && f.count == 1 && (frameKey (acceptFrame d f) 0 5).isSome && kindOf (itemAt f 0) == kind)) &&
    !frameSound d { mgmtFrame 0x31 with tag := [] }) = true := by
  decide +kernel

/-! ### The whole machine -/

/-- Premises of StepRunsDecoded: from reset with one bundle placed, the core's warp has one due stream, nothing stops or traps it, and its
bundle decodes to one operation. -/
theorem witness_StepRunsDecoded :
    (let s := State.reset.withFetchWord 128 0x02000000000000000000000000308820
    let m := lookAhead { s with mach := selectWarp s.mach 4 } 16
    let b := atBoundary 0 m 16
    s.dev.supply == .on && s.agenda == [.issue 4] && (getCore m 4).selected == some 16 && !returns m 16 && (getWarp? b 16).any fun w =>
      stepsItself w && gangTurn b w == .go && !entryWaits w && !w.ret && !atJoin b 16 w 0 && dueStreams b w == [(0, 0)] && (stopDue b 16 w [(0, 0)]).isNone &&
      (boundaryTrap actionOf s.dev b 16 w [(0, 0)]).isNone && fetchSound (beatView b 16 w [(0, 0)]) 16 w 0 0 &&
      (soleIssue s.dev b 16).isSome) = true := by decide +kernel

/-- Premises of ResetState, LimitsKept and FinishedEntriesStay: a write that is in its limits and one that is not; reset is inside the
limits; a finished entry. -/
theorem witness_Limits : State.reset.dev.inLimits := by
  refine ⟨by decide, by decide, by decide, by decide, fun n hn => ?_, by decide, by decide, by decide, by decide, by decide⟩
  cases hn

theorem witness_FinishedEntry :
    (let e : JEntry := { jseq := 1, hseq := 0, state := 3, slot := 0, kind := 0x21, ctx := 1, accGtc := 0, chgGtc := 0, digest := [], result := 0
                         handle := 0, epoch := 1 }
    ({ State.reset with dev := { State.reset.dev with journal := [e] } } : State).dev.journal.contains e && decide (3 ≤ e.state)) = true := by decide +kernel

end Sys2Proof.Tests
end

section
/-!
SUPPORT. How the traps of an operation follow from its first failing check: lanes, operands, lists of checks.
-/

namespace Sys2Proof.Machine

/-! ### The lowest lane -/

theorem firstLane_none {mask : DWord} {p : Nat → Bool} (h : ∀ l < 64, maskBit mask l = true → p l = false) :
    firstLane mask p = none := by
  simp only [firstLane, lanesOf, List.find?_eq_none, List.mem_filter, List.mem_range]
  intro l hl
  simp [h l hl.1 hl.2]

theorem firstLane_some {mask : DWord} {p : Nat → Bool} {l : Nat} (hl : l < 64) (hm : maskBit mask l = true) (hp : p l = true)
    (h : ∀ j < l, maskBit mask j = true → p j = false) : firstLane mask p = some l := by
  rw [firstLane, lanesOf, List.find?_filter, List.find?_range_eq_some]
  refine ⟨by simp [hp, show mask.getLsbD l = true from hm], by simpa using hl, fun j hj => ?_⟩
  cases hj' : mask.getLsbD j with
  | false => simp
  | true => simp [h j hj hj']

/-- A mask with a lane is not zero. -/
theorem mask_ne_zero {mask : DWord} {l : Nat} (h : maskBit mask l = true) : mask ≠ 0#64 := by
  rintro rfl
  simp [maskBit] at h

/-! ### Exceptions in order -/

@[simp] theorem firstExn_none_cons (xs : List (Option Exn)) : firstExn (none :: xs) = firstExn xs := rfl
@[simp] theorem firstExn_some_cons (e : Exn) (xs : List (Option Exn)) : firstExn (some e :: xs) = some e := rfl
@[simp] theorem firstExn_nil : firstExn [] = none := rfl
@[simp] theorem firstExn_one (e : Option Exn) : firstExn [e] = e := by cases e <;> rfl
@[simp] theorem exnIf_true (t : TrapName) : exnIf true t = some { code := t.code } := rfl
@[simp] theorem exnIf_false (t : TrapName) : exnIf false t = none := rfl

/-- A check of a list of checks, as the exception that it finds. -/
def checkExn (x : Bool × Nat) : Option Exn := if x.1 then some { code := x.2 } else none

/-- The first check that fails gives the exception. -/
theorem firstExn_checks {before after : List (Bool × Nat)} {code : Nat} (h : ∀ x ∈ before, x.1 = false) :
    firstExn ((before ++ (true, code) :: after).map checkExn) = some { code := code } := by
  induction before with
  | nil => rfl
  | cons x xs ih =>
    have hx : checkExn x = none := by simp [checkExn, h x List.mem_cons_self]
    rw [List.cons_append, List.map_cons, hx, firstExn_none_cons]
    exact ih fun y hy => h y (List.mem_cons_of_mem _ hy)

/-! ### The trap of an operation -/

/-- An operation outside the V slot whose check fails traps, whatever the code of its exception. -/
theorem runOp_traps_outsideV {s : State} {slot : Slot} {i : Instr} {st : Stage} (h : AtIssue s slot i st) {a : Act} {e : Exn}
    (hi : ∀ f, i ≠ .fwait f) (hslot : slot ≠ .v) (hs : (a st.c).stop = none) (ht : (a st.c).trap = some e) :
    runOp s slot i a = st.traps s (slotNo slot) e := by
  obtain ⟨ho, hp, -⟩ := h
  have hc := fun f => stageOps_c (cur := st.cur) (slot := slot) hi f
  rw [← (opStage_o ho).1] at hc
  rw [runOp_stage ho]
  have hf : ∀ ns, ((a st.c).unfed (starved st.c ns)).trap = some e := fun ns =>
    unfed_trap ht fun hb => by simp [not_starved hp] at hb
  cases slot with
  | v => exact absurd rfl hslot
  | m | x | c =>
    unfold stageMach stageExam examOps
    simp [nopAct, hs, hf, unfed_stop, unfed_empty, placeTrap, Stage.traps, slotNo, slotCode, fpTrapBits]

/-- An operation whose trap is the first of a list of checks. -/
theorem checksTrap_of_trap {s : State} {slot : Slot} {i : Instr} {st : Stage} {a : Act} {checks : List (Bool × Nat)}
    (hx : exec i s = runOp s slot i a) (h : AtIssue s slot i st) (hi : ∀ f, i ≠ .fwait f) (hslot : slot ≠ .v)
    (hs : (a st.c).stop = none) (ht : (a st.c).trap = firstExn (checks.map checkExn)) :
    checksTrap s st i (slotNo slot) checks := by
  rintro before code after rfl hb
  rw [hx]
  exact runOp_traps_outsideV h hi hslot hs (ht.trans (firstExn_checks hb))

/-- The poison check names the lowest marked lane. -/
theorem poisonV_some {c : Ctx} {rs : List (BitVec 7)} {l : Nat} (hl : l < 64)
    (hm : maskBit c.mask l = true ∧ ∃ r ∈ rs, maskBit (c.src r).marks l = true)
    (hj : ∀ j < l, ¬ (maskBit c.mask j = true ∧ ∃ r ∈ rs, maskBit (c.src r).marks j = true)) :
    c.poisonV rs = some { code := TrapName.poison.code, lane := l, info := c.laneProd rs l } := by
  rw [Ctx.poisonV, firstLane_some hl hm.1 (by simpa using hm.2)]
  · rfl
  · intro j hjl hmj
    simpa [hmj] using hj j hjl

/-- An operation whose first check is the poison of vector sources. -/
theorem poisonTraps_of_trap {s : State} {slot : Slot} {i : Instr} {st : Stage} {a : Act} {rs : List (BitVec 7)}
    (hx : exec i s = runOp s slot i a) (h : opStage s slot i = some st) (hi : ∀ f, i ≠ .fwait f) (hs : (a st.c).stop = none)
    (ht : st.c.mask ≠ 0#64 → ∀ e, st.c.poisonV rs = some e → (a st.c).trap = some e) : poisonTraps s st i rs (slotNo slot) := by
  intro l hl marked hm hj
  rw [hx]
  exact runOp_traps h hi hs (ht (mask_ne_zero hm.1) _ (poisonV_some hl hm hj)) (by simp [TrapName.code]) (.inl (by simp [valueFree]))

theorem poisonS_some {c : Ctx} {before after : List (BitVec 6)} {n : BitVec 6} (hn : (c.s n).mark = true)
    (hb : ∀ x ∈ before, (c.s x).mark = false) :
    c.poisonS (before ++ n :: after) = some { code := TrapName.poison.code, info := c.scalarProd n } := by
  have : (before ++ n :: after).find? (fun n => (c.s n).mark) = some n :=
    List.find?_eq_some_iff_append.mpr ⟨hn, before, after, rfl, fun x hx => by simp [hb x hx]⟩
  rw [Ctx.poisonS, this]
  rfl

theorem poisonS_none {c : Ctx} {srcs : List (BitVec 6)} (h : ∀ n ∈ srcs, (c.s n).mark = false) : c.poisonS srcs = none := by
  simp only [Ctx.poisonS, Option.map_eq_none_iff, List.find?_eq_none]
  intro n hn
  simp [h n hn]

/-- A source is bound as a producer, or the destination as a consumer (R44). -/
def Ctx.Misused (c : Ctx) (srcs : List (BitVec 6)) (dst : Option (BitVec 6)) : Prop :=
  (∃ n ∈ srcs, ∃ b, portOf c.w n.toNat = some b ∧ b.role = .producer) ∨
    ∃ n, dst = some n ∧ ∃ b, portOf c.w n.toNat = some b ∧ b.role = .consumer

theorem boundAs_iff (c : Ctx) (n : BitVec 6) (r : Role) :
    ((portOf c.w n.toNat).elim false fun b => decide (b.role = r)) = true ↔ ∃ b, portOf c.w n.toNat = some b ∧ b.role = r := by
  cases portOf c.w n.toNat <;> simp

theorem roles_some {c : Ctx} {srcs : List (BitVec 6)} {dst : Option (BitVec 6)} (h : c.Misused srcs dst) :
    c.roles srcs dst = some { code := TrapName.queueRole.code } := by
  rw [Ctx.roles, show (_ || _) = true from ?_, exnIf_true]
  rw [Bool.or_eq_true, List.any_eq_true]
  rcases h with ⟨n, hn, hb⟩ | ⟨n, rfl, hb⟩
  · exact .inl ⟨n, hn, (boundAs_iff c n .producer).mpr hb⟩
  · exact .inr ((boundAs_iff c n .consumer).mpr hb)

theorem roles_none_of_not {c : Ctx} {srcs : List (BitVec 6)} {dst : Option (BitVec 6)} (h : ¬ c.Misused srcs dst) :
    c.roles srcs dst = none := by
  rw [Ctx.roles, show (_ || _) = false from ?_, exnIf_false]
  rw [Bool.eq_false_iff, Ne, Bool.or_eq_true, List.any_eq_true]
  rintro (⟨n, hn, hb⟩ | hb)
  · exact h (.inl ⟨n, hn, (boundAs_iff c n .producer).mp hb⟩)
  · cases dst with
    | none => cases hb
    | some n => exact h (.inr ⟨n, rfl, (boundAs_iff c n .consumer).mp hb⟩)

theorem shut_some {c : Ctx} {srcs : List (BitVec 6)} (h : ∃ n ∈ srcs, ∃ p ∈ c.pops, p.port = n.toNat ∧ p.shut = true) :
    c.shut srcs = some { code := TrapName.queueClosed.code } := by
  have : (srcs.any fun n => c.pops.any fun p => p.port = n.toNat && p.shut) = true := by simpa using h
  rw [Ctx.shut, this, exnIf_true]

/-- An operation that traps with what its scalars' check finds. -/
theorem scalarTraps_of_trap {s : State} {slot : Slot} {i : Instr} {st : Stage} {a : Act} {srcs : List (BitVec 6)}
    {dst : Option (BitVec 6)} (hx : exec i s = runOp s slot i a) (h : opStage s slot i = some st) (hi : ∀ f, i ≠ .fwait f)
    (hs : (a st.c).stop = none) (ht : ∀ e, st.c.scalars srcs dst = some e → (a st.c).trap = some e) :
    scalarTraps s st i (slotNo slot) srcs dst := by
  have traps {e : Exn} (he : st.c.scalars srcs dst = some e) (hc : e.code ≠ 0x33) (hv : e.code ∈ valueFree) :
      exec i s = st.traps s (slotNo slot) e := hx.trans (runOp_traps h hi hs (ht e he) hc (.inl hv))
  refine ⟨?_, fun hclean => ⟨?_, ?_⟩⟩
  · rintro before n after rfl hn hb
    exact traps (by rw [Ctx.scalars, poisonS_some hn hb]; rfl) (by simp) (by simp [valueFree])
  · intro hm
    exact traps (by rw [Ctx.scalars, poisonS_none hclean, roles_some hm]; rfl) (by decide) (by decide)
  · intro hm hshut
    exact traps (by rw [Ctx.scalars, poisonS_none hclean, roles_none_of_not hm, shut_some hshut]; rfl) (by decide) (by decide)

end Sys2Proof.Machine
end

section
/-!
PROOF. VPLANE (R32, R196), GANG and UNGANG (R39, R42, R249), the crossings and queues of the X slot (R43 to R45, R250 to R253).
-/

namespace Sys2Proof.Machine

/-! ### VPLANE -/

/-- The check of VPLANE's lanes against the plane count. -/
def planeCheck (c : Ctx) (va : BitVec 7) : Option Exn :=
  (firstLane c.mask fun l => planeCount c.w ≤ (c.lane va l).toNat).map fun l => { code := TrapName.planeRange.code, lane := l }

/-- VPLANE whose source may be read traps with what the check of its lanes finds. -/
theorem planeOp_trap {c : Ctx} {va : BitVec 7} (h : c.readable [va]) : (planeOp va c).trap = if c.mask = 0#64 then none else planeCheck c va := by
  by_cases hm : c.mask = 0#64
  · simp [planeOp, hm]
  · obtain ⟨hclean, hbs⟩ := h hm
    simp only [planeOp, hm, if_false, poisonV_none hclean, bsChecks_none hbs, firstExn_none_cons, firstExn_one]
    rfl

/-- Settles O6: VPLANE's trap is the check of its lanes, which is empty or names the lowest lane that is out of range. -/
theorem planeAssignment : Obligations.PlaneAssignment := by
  intro s st va h hr c
  have hi : ∀ f, Instr.vplane va ≠ .fwait f := nofun
  refine ⟨fun hin => ?_, fun l hl hm hbad hlow => ?_⟩
  · have hcheck : planeCheck st.c va = none := by
      rw [planeCheck, firstLane_none fun l hl hm => by simpa using hin l hl hm, Option.map_none]
    exact runOp_ready h (a := planeOp va) hi ⟨rfl, by rw [planeOp_trap hr, hcheck, ite_self], rfl⟩
  · have hcheck : planeCheck st.c va = some { code := 0x2c, lane := l } := by
      rw [planeCheck, firstLane_some hl hm (by simpa using hbad) fun j hj hmj => by simpa using hlow j hj hmj]
      rfl
    exact runOp_traps (slot := .v) h.1 (a := planeOp va) hi rfl (by rw [planeOp_trap hr, if_neg (mask_ne_zero hm), hcheck])
      (by simp [TrapName.code]) (.inr h.2.1)

/-! ### GANG and UNGANG -/

/-- Settles O14: GANG's check, block and arrival go by whether its warp has arrived before; UNGANG has its two checks. -/
theorem gangIssues : Obligations.GangIssues := by
  intro s st n skew c
  have hi : ∀ f, Instr.gang n skew ≠ .fwait f := nofun
  have hu : ∀ f, Instr.ungang ≠ .fwait f := nofun
  refine ⟨fun h hb hg => ?_, fun h hb hg hreg hsplit hd ho hq => ?_, fun h hg hchain => ?_, fun h hb hg => ?_, fun h => ?_, fun h => ?_⟩
  · exact runOp_ready h (a := gangOp n skew) hi ⟨rfl, by simp [gangOp, c, hb], by simp [gangOp, c, hb, hg, causeIf]⟩
  · have ht : (gangOp n skew c).trap = none := by simp [gangOp, hb, hg, hreg, hsplit, hd, ho, hq]
    have he : (gangOp n skew c).early = fun m => noteArrival c 8 (updTeam m c.w.team fun t => { t with
        rdv := t.rdv ++ [{ warp := c.k, teamw := c.w.teamw, core := coreOf c.k, n := n.toNat + 2, skew := skew.toNat + 1 }] }) := by
      funext m; simp [gangOp, hb]
    rw [← he]
    exact runOp_waits (slot := .x) h.1 (a := gangOp n skew) hi h.2.1 h.2.2 rfl ht (by simp [gangOp, c, hb, causeIf])
  · have hin : c.w.gang.isNone = false := Option.isNone_eq_false_iff.mpr hg
    have hclosed : (if c.lead then chainOpen c else (openChain c.m c.k).isSome) = false := by
      split at hchain <;> simp_all
    exact runOp_ready h (a := ungangOp) hu ⟨rfl, by simp [ungangOp, c, hin, hclosed], rfl⟩
  · have he : (gangOp n skew c).early = id := by funext m; simp [gangOp, hb]
    exact (runOp_waits (slot := .x) h.1 (a := gangOp n skew) (w := .barrier) hi h.2.1 h.2.2 rfl (by simp [gangOp, c, hb])
      (by simp [gangOp, c, hg, causeIf])).trans (by rw [if_pos rfl, he]; rfl)
  · exact checksTrap_of_trap (slot := .x) (a := gangOp n skew) rfl h hi nofun rfl (firstExn_one _).symm
  · exact checksTrap_of_trap (slot := .x) rfl h hu nofun rfl rfl

/-! ### Crossings and queues -/

/-- The mask of one lane. -/
theorem maskOf_eq_lane : ∀ lane : BitVec 6, (maskOf fun i => i = lane.toNat) = 1#64 <<< lane.toNat := by decide

theorem queueRange_none {c : Ctx} {team : Team} {n : Nat} (ht : c.team? = some team) (hn : n < team.nqueues) : queueRange c n = none := by
  simp [queueRange, ht, exnIf, hn]

/-- The word of QSTAT as the sum of its fields. -/
theorem queueWord_eq (x : Queue) : queueWord x = x.entries.length + x.producers * 2 ^ 16 + bitNat x.closed * 2 ^ 63 := by
  simp only [queueWord, packFields, listSum, List.map_cons, List.map_nil]
  omega

/-- Settles O15: each form's effect where its checks hold, and its checks in their order. -/
theorem crossingsAndQueues : Obligations.CrossingsAndQueues := by
  intro s st vd va sa sd lane q queue c
  refine ⟨fun h hu => ?_, fun h hu => ?_, fun h hu hm => ?_, fun team ht hn => ⟨fun h hp => ?_, fun h hp hq => ?_, fun h hu => ?_⟩,
    fun h hp => ?_, fun b h hp => ?_, fun l h => ?_, fun h hm => ?_, fun role h => ?_, fun h hu => ?_⟩
  · exact scalar_next h (a := xsvOp vd sa none) nofun hu rfl
  · rw [← maskOf_eq_lane]
    exact scalar_next h (a := xsvOp vd sa (some lane)) nofun hu rfl
  · exact runOp_ready h (a := xvsOp sd va lane) nofun ⟨rfl, by simp [xvsOp, c, hm, scalars_none hu], rfl⟩
  · exact runOp_ready h (a := qbindOp q queue .consumer) nofun ⟨rfl, by simp [qbindOp, c, hp, queueRange_none ht hn], rfl⟩
  · exact runOp_ready h (a := qbindOp q queue .producer) nofun ⟨rfl, by simp [qbindOp, c, hp, hq, queueRange_none ht hn], rfl⟩
  · rw [← queueWord_eq]
    exact runOp_ready h (a := qstatOp sd queue) nofun ⟨rfl, by simp [qstatOp, c, scalars_none hu, queueRange_none ht hn], rfl⟩
  · exact plain_next h (a := qunbindOp q) nofun (by simp [qunbindOp, c, hp])
  · exact plain_next h (a := qunbindOp q) nofun (by simp [qunbindOp, c, hp])
  · exact scalarTraps_of_trap (slot := .x) (a := xsvOp vd sa l) rfl h nofun rfl fun e he => he
  · exact runOp_traps (slot := .x) h.1 (a := xvsOp sd va lane) nofun rfl (by simp [xvsOp, c, hm]; rfl) (by simp [TrapName.code]) (.inr h.2.1)
  · exact checksTrap_of_trap (slot := .x) (a := qbindOp q queue role) rfl h nofun nofun rfl rfl
  · exact checksTrap_of_trap (slot := .x) (a := qstatOp sd queue) rfl h nofun nofun rfl (by simp [qstatOp, c, scalars_none hu]; rfl)

end Sys2Proof.Machine
end

section
/-!
PROOF. The per-lane operations of the M slot (R197, R200, R203, R204, R211, R214, R222): all are the mould `lanesOp`, so its issue
and its stops are proved once.
-/

namespace Sys2Proof.Machine

/-! ### Where the elements of an access are placed -/

/-- An element's translation is held. -/
def Ctx.Held (c : Ctx) (k : AccKind) (e : Elem) : Prop := ∃ key leaf level, c.xlate e.addr k = .hit key leaf level

/-- Elements that are all held are placed, and nothing faults or misses. -/
theorem placeAll_of_placed {c : Ctx} {k : AccKind} {ps : List Placed}
    (h : ∀ p ∈ ps, c.xlate p.addr k = .hit p.key p.leaf p.level) :
    placeAll c k (ps.map fun p => { lane := p.lane, addr := p.addr }) = (ps, none, []) := by
  induction ps with
  | nil => rfl
  | cons p ps ih => simp [placeAll, h p List.mem_cons_self, ih fun q hq => h q (List.mem_cons_of_mem _ hq)]

/-- Elements that are held are those of placed ones. -/
theorem exists_placed {c : Ctx} {k : AccKind} {es : List Elem} (h : ∀ e ∈ es, c.Held k e) :
    ∃ ps : List Placed, (ps.map fun p => ({ lane := p.lane, addr := p.addr } : Elem)) = es ∧
      ∀ p ∈ ps, c.xlate p.addr k = .hit p.key p.leaf p.level := by
  induction es with
  | nil => exact ⟨[], rfl, by simp⟩
  | cons e es ih =>
    obtain ⟨ps, hps, hx⟩ := ih fun x hx => h x (List.mem_cons_of_mem _ hx)
    obtain ⟨key, leaf, level, he⟩ := h e List.mem_cons_self
    exact ⟨{ lane := e.lane, addr := e.addr, key, leaf, level } :: ps, by simp [hps], by simpa [he] using hx⟩

/-- A page that an element misses is among those that are missed. -/
theorem placeAll_misses {c : Ctx} {k : AccKind} {e : Elem} {p : Nat} {es : List Elem} (he : e ∈ es) (hp : c.xlate e.addr k = .miss p) :
    p ∈ (placeAll c k es).2.2 := by
  induction es with
  | nil => cases he
  | cons x es ih =>
    rcases List.mem_cons.mp he with rfl | he
    · simp only [placeAll, hp]
      split
      · next h => simpa using h
      · exact List.mem_cons_self
    · have := ih he
      simp only [placeAll]
      split
      · exact this
      · exact this
      · dsimp only
        split
        · exact this
        · exact List.mem_cons_of_mem _ this

/-- Where no element misses, no page is missed. -/
theorem placeAll_no_miss {c : Ctx} {k : AccKind} {es : List Elem} (h : ∀ e ∈ es, ∀ p, c.xlate e.addr k ≠ .miss p) :
    (placeAll c k es).2.2 = [] := by
  induction es with
  | nil => rfl
  | cons e es ih =>
    have := ih fun x hx => h x (List.mem_cons_of_mem _ hx)
    simp only [placeAll]
    split
    · exact this
    · exact this
    · next p hp => exact absurd hp (h e List.mem_cons_self p)

/-- The fault of a translation is that of the first element that has one. -/
theorem placeAll_fault {c : Ctx} {k : AccKind} {before after : List Elem} {e : Elem} {f : Exn} (hf : c.xlate e.addr k = .fault f)
    (hb : ∀ x ∈ before, c.Held k x) : (placeAll c k (before ++ e :: after)).2.1 = some { f with lane := e.lane } := by
  induction before with
  | nil => simp [placeAll, hf]
  | cons x xs ih =>
    obtain ⟨key, leaf, level, hx⟩ := hb x List.mem_cons_self
    simpa [placeAll, hx] using ih fun y hy => hb y (List.mem_cons_of_mem _ hy)

/-! ### The checks of elements -/

theorem elemFault_none {es : List Elem} {t : TrapName} {bad : Nat → Bool} {info : Nat} (h : ∀ e ∈ es, bad e.addr = false) :
    elemFault es t bad info = none := by
  simp only [elemFault, Option.map_eq_none_iff, List.find?_eq_none]
  intro e he
  simp [h e he]

theorem elemFault_some {before after : List Elem} {e : Elem} {t : TrapName} {bad : Nat → Bool} {info : Nat} (he : bad e.addr = true)
    (hb : ∀ x ∈ before, bad x.addr = false) :
    elemFault (before ++ e :: after) t bad info = some { code := t.code, lane := e.lane, addr := e.addr % 2 ^ 64, info := info } := by
  have : (before ++ e :: after).find? (fun e => bad e.addr) = some e :=
    List.find?_eq_some_iff_append.mpr ⟨he, before, after, rfl, fun x hx => by simp [hb x hx]⟩
  rw [elemFault, this]
  rfl

theorem lockFault_none {c : Ctx} {scratch write : Bool} {n : Nat} {es : List Elem} (h : ∀ e ∈ es, lockOn c scratch write e.addr n = none) :
    lockFault c scratch write n es = none := by
  rw [lockFault, List.findSome?_eq_none_iff]
  intro e he
  rw [h e he, Option.map_none]

theorem lockFault_some {c : Ctx} {scratch write : Bool} {n : Nat} {before after : List Elem} {e : Elem} {l : RangeLock}
    (he : lockOn c scratch write e.addr n = some l) (hb : ∀ x ∈ before, lockOn c scratch write x.addr n = none) :
    lockFault c scratch write n (before ++ e :: after) =
      some { code := TrapName.rangeLock.code, lane := e.lane, addr := e.addr, info := lockInfo l } := by
  rw [lockFault, List.findSome?_append, List.findSome?_eq_none_iff.mpr fun x hx => by rw [hb x hx, Option.map_none], List.findSome?_cons, he]
  rfl

/-- Every row of a global access's checks ahead of its translation holds. -/
theorem checkGlobal_late {c : Ctx} {k : AccKind} {n : Nat} {write : Bool} {es : List Elem} {inside : Nat → Bool}
    (hcanon : ∀ x ∈ es, canonical x.addr = true) (halign : ∀ x ∈ es, x.addr % n = 0) (hin : ∀ x ∈ es, inside x.addr = true) :
    (checkGlobal c k n write (elemFault es .stackLimit fun a => !inside a) es).trap =
      if (placeAll c k es).2.2.isEmpty then firstExn [(placeAll c k es).2.1, if k = .deferred then none else lockFault c false write n es,
        if k = .atomic then detFault c (placeAll c k es).1 else none] else none := by
  have h1 : elemFault es .addrCanon (fun a => !canonical a) (xinfo k 0) = none := elemFault_none fun e he => by simp [hcanon e he]
  have h2 : elemFault es .addrAlign (fun a => a % n != 0) = none := elemFault_none fun e he => by simp [halign e he]
  have h3 : elemFault es .stackLimit (fun a => !inside a) = none := elemFault_none fun e he => by simp [hin e he]
  simp only [checkGlobal, h1, h2, h3, firstExn_none_cons, firstExn_one]

/-- Elements that reach memory pass every check, and are placed. -/
theorem checkGlobal_reaches {c : Ctx} {k : AccKind} {n : Nat} {write : Bool} {es : List Elem} {ps : List Placed} {inside : Nat → Bool}
    (h : c.reaches k n write es ps) (hin : ∀ x ∈ es, inside x.addr = true) :
    checkGlobal c k n write (elemFault es .stackLimit fun a => !inside a) es = { trap := none, miss := [], ps := ps } := by
  obtain ⟨rfl, hp, hlock, hdet⟩ := h
  have hplace := placeAll_of_placed fun p hps => (hp p hps).2.2
  have hlock' : (if k = .deferred then none else lockFault c false write n (ps.map fun p => { lane := p.lane, addr := p.addr })) = none := by
    split
    · rfl
    · next hk => exact lockFault_none (by simpa using hlock hk)
  have hdet' : (if k = .atomic then detFault c ps else none) = none := by
    split
    · next hk =>
      unfold detFault
      split
      · next hd => simpa using hdet hk hd
      · rfl
    · rfl
  have ht := checkGlobal_late (c := c) (k := k) (n := n) (write := write) (by simpa using fun p hps => (hp p hps).1)
    (by simpa using fun p hps => (hp p hps).2.1) hin
  simp only [hplace, List.isEmpty_nil, if_true, hlock', hdet', firstExn_none_cons, firstExn_nil] at ht
  simp only [checkGlobal, hplace] at ht ⊢
  rw [ht]

/-- DET_ATOMIC names the first element on a deterministic-safe page. -/
theorem detFault_some {c : Ctx} {ps : List Placed} {before after : List Elem} {e : Elem} {k : AccKind} (hd : detOf c.m c.w = true)
    (hps : (ps.map fun p => ({ lane := p.lane, addr := p.addr } : Elem)) = before ++ e :: after)
    (hx : ∀ p ∈ ps, c.xlate p.addr k = .hit p.key p.leaf p.level)
    (he : ∃ key leaf level, c.xlate e.addr k = .hit key leaf level ∧ leafDs leaf = true)
    (hb : ∀ x ∈ before, ¬ ∃ key leaf level, c.xlate x.addr k = .hit key leaf level ∧ leafDs leaf = true) :
    detFault c ps = some { code := TrapName.detAtomic.code, lane := e.lane, addr := e.addr } := by
  obtain ⟨ps1, rest, rfl, rfl, hrest⟩ := List.map_eq_append_iff.mp hps
  obtain ⟨p, ps2, rfl, rfl, -⟩ := List.map_eq_cons_iff.mp hrest
  obtain ⟨key, leaf, level, hk, hs⟩ := he
  have hp := hx p (by simp)
  have hleaf : leafDs p.leaf = true := by
    rw [show c.xlate p.addr k = _ from hk] at hp
    injection hp with _ hl _
    rw [← hl]; exact hs
  have hfind : (ps1 ++ p :: ps2).find? (fun p => leafDs p.leaf) = some p := by
    refine List.find?_eq_some_iff_append.mpr ⟨hleaf, ps1, ps2, rfl, fun q hq => ?_⟩
    have := hb _ (List.mem_map_of_mem hq)
    simp only [Bool.not_eq_true', Bool.eq_false_iff]
    exact fun hq' => this ⟨q.key, q.leaf, q.level, hx q (by simp [hq]), hq'⟩
  rw [detFault, if_pos hd, hfind]
  rfl

/-- An operation whose trap and block are those of a global access's checks stops where they do. -/
theorem elementStops_of_checked {s : State} {i : Instr} {st : Stage} {a : Act} {k : AccKind} {n : Nat} {write : Bool}
    {inside : Nat → Bool} {es : List Elem} {r : Checked}
    (hr : r = checkGlobal st.c k n write (elemFault es .stackLimit fun a => !inside a) es)
    (hx : exec i s = runOp s .m i a) (h : AtIssue s .m i st) (hi : ∀ f, i ≠ .fwait f) (hs : (a st.c).stop = none)
    (htrap : ∀ e, r.trap = some e → (a st.c).trap = some e)
    (hwait : r.trap = none → r.miss ≠ [] → (a st.c).trap = none ∧ (a st.c).block = some .xlate ∧ (a st.c).miss = r.miss) :
    elementStops s st i k n write inside es := by
  have traps {e : Exn} (he : r.trap = some e) : exec i s = st.traps s 1 e :=
    hx.trans (runOp_traps_outsideV (slot := .m) h hi nofun hs (htrap e he))
  intro before e after hes
  subst hes
  refine ⟨fun hbad hb => traps ?_, fun hcanon => ⟨fun hbad hb => traps ?_, fun halign => ⟨fun hbad hb => traps ?_, fun hin => ?_⟩⟩⟩
  · rw [hr, checkGlobal, elemFault_some (by simpa using hbad) fun x hx => by simpa using hb x hx]
    rfl
  · rw [hr, checkGlobal, elemFault_none (t := .addrCanon) fun x hx => by simpa using hcanon x hx,
      elemFault_some (t := .addrAlign) (by simpa using hbad) fun x hx => by simpa using hb x hx]
    rfl
  · rw [hr, checkGlobal, elemFault_none (t := .addrCanon) fun x hx => by simpa using hcanon x hx,
      elemFault_none (t := .addrAlign) fun x hx => by simpa using halign x hx,
      elemFault_some (t := .stackLimit) (by simpa using hbad) fun x hx => by simpa using hb x hx]
    rfl
  have hlate := checkGlobal_late (c := st.c) (k := k) (write := write) hcanon halign hin
  rw [← hr] at hlate
  refine ⟨fun p hp => ?_, fun hmiss => ⟨fun f hf hb => traps ?_, fun hheld => ?_⟩⟩
  · have hne : (placeAll st.c k (before ++ e :: after)).2.2 ≠ [] := List.ne_nil_of_mem (placeAll_misses (by simp) hp)
    obtain ⟨ht, hb, hm⟩ := hwait (by rw [hlate, if_neg (by simpa using hne)]) (by rw [hr]; exact hne)
    rw [hx, runOp_waits (slot := .m) h.1 hi h.2.1 h.2.2 hs ht hb, hm, hr]
    rfl
  · rw [hlate, placeAll_no_miss hmiss, placeAll_fault hf hb]
    rfl
  obtain ⟨ps, hps, hplaced⟩ := exists_placed hheld
  rw [← hps, placeAll_of_placed hplaced, hps] at hlate
  simp only [List.isEmpty_nil, if_true, firstExn_none_cons] at hlate
  refine ⟨fun l hk hl hb => traps ?_, fun hk hd hfree hs hb => traps ?_⟩
  · rw [hlate, if_neg hk, lockFault_some hl hb]
    rfl
  · have hlock : lockFault st.c false write n (before ++ e :: after) = none := lockFault_none hfree
    subst hk
    rw [hlate, if_neg (by decide), hlock, if_pos rfl, detFault_some hd hps hplaced hs hb]
    rfl

/-! ### The mould of the per-lane operations -/

section Lanes

variable {s : State} {i : Instr} {st : Stage} {kind : MemKind} {k : AccKind} {n : Nat} {vs : List (BitVec 7)} {sa : BitVec 6}
  {f : BitVec 4} {own : Ctx → List Elem → Option Exn} {addr : Ctx → Nat → Nat} {data : Ctx → Nat → Access → Access}

/-- What the mould does where its operands' checks hold. -/
theorem lanesOp_checked {c : Ctx} (hm : c.mask ≠ 0#64) (hv : c.clean (vs.map fun r => (r, c.mask))) (hu : c.usable [sa] none)
    (hf : (getF c.w f.toNat).pend = false) : lanesOp kind k n vs sa f own addr data c =
      let r := checkGlobal c k n kind.writes (own c (c.lanes (addr c))) (c.lanes (addr c))
      { trap := r.trap, block := if r.miss.isEmpty then none else some .xlate, miss := r.miss
        fx := fun m => issueOp c kind (some f) (r.ps.map fun p => data c p.lane (bareAccess p)) none (fillTlbs c r.ps m) } := by
  simp only [lanesOp, hm, if_false, poisonV_none hv, scalars_none hu, Ctx.flagBusy, hf, exnIf_false, firstExn_none_cons, firstExn_one]
  rfl

theorem lanesOp_stop (c : Ctx) : (lanesOp kind k n vs sa f own addr data c).stop = none := by
  unfold lanesOp zeroMask
  split <;> rfl

variable (hx : exec i s = runOp s .m i (lanesOp kind k n vs sa f own addr data)) (hi : ∀ f, i ≠ .fwait f)
include hx hi

/-- A per-lane operation whose checks hold joins the memory order. -/
theorem lanesOp_next {ps : List Placed} {access : Placed → Access} {inside : Nat → Bool} (h : AtIssue s .m i st)
    (hown : ∀ es, own st.c es = elemFault es .stackLimit fun a => !inside a) (hf : (getF st.c.w f.toNat).pend = false)
    (hu : st.c.mask ≠ 0#64 → st.c.usable [sa] none)
    (hr : st.c.mask ≠ 0#64 → st.c.clean (vs.map fun r => (r, st.c.mask)) ∧
      st.c.reaches k n kind.writes (st.c.lanes (addr st.c)) ps ∧ ∀ p ∈ ps, inside p.addr = true)
    (hacc : ∀ p, data st.c p.lane (bareAccess p) = access p) : exec i s = st.next s (st.c.laneIssue kind f ps access) := by
  by_cases hm : st.c.mask = 0#64
  · have ha : lanesOp kind k n vs sa f own addr data st.c = zeroMask st.c f := by simp [lanesOp, hm]
    rw [hx, runOp_ready h hi (by rw [ha]; exact ⟨rfl, by simp [zeroMask, Ctx.flagBusy, hf], rfl⟩), ha]
    congr 1
    funext m
    simp [Ctx.laneIssue, hm, zeroMask]
  · obtain ⟨hv, hreach, hin⟩ := hr hm
    have hchecked := checkGlobal_reaches hreach (inside := inside) (by
      rw [← hreach.1]; simpa using hin)
    have ha := lanesOp_checked (kind := kind) (k := k) (n := n) (own := own) (addr := addr) (data := data) hm hv (hu hm) hf
    rw [hown, hchecked] at ha
    rw [hx, runOp_ready h hi (by rw [ha]; exact ⟨rfl, rfl, rfl⟩), ha]
    congr 1
    funext m
    simp [Ctx.laneIssue, hm, hacc]

/-- A marked lane that is read, then a scalar base that may not be used, traps. -/
theorem lanesOp_operandTraps (h : opStage s .m i = some st) : poisonTraps s st i vs 1 ∧
    (st.c.mask ≠ 0#64 → st.c.clean (vs.map fun r => (r, st.c.mask)) → scalarTraps s st i 1 [sa] none) := by
  refine ⟨poisonTraps_of_trap (slot := .m) hx h hi (lanesOp_stop _) fun hm e he => ?_,
    fun hm hv => scalarTraps_of_trap (slot := .m) hx h hi (lanesOp_stop _) fun e he => ?_⟩
  · simp [lanesOp, hm, he]
  · simp [lanesOp, hm, poisonV_none hv, he]

/-- A flag that is pending traps, whatever the mask. -/
theorem lanesOp_flagBusy (h : AtIssue s .m i st)
    (hu : st.c.mask ≠ 0#64 → st.c.clean (vs.map fun r => (r, st.c.mask)) ∧ st.c.usable [sa] none) (hf : (getF st.c.w f.toNat).pend = true) :
    exec i s = st.traps s 1 { code := 0x15 } := by
  refine hx.trans (runOp_traps_outsideV (slot := .m) h hi nofun (lanesOp_stop _) ?_)
  by_cases hm : st.c.mask = 0#64
  · simp [lanesOp, hm, zeroMask, Ctx.flagBusy, hf, TrapName.code]
  · simp [lanesOp, hm, poisonV_none (hu hm).1, scalars_none (hu hm).2, Ctx.flagBusy, hf, TrapName.code]

/-- Elements that fail a check stop the operation. -/
theorem lanesOp_elementStops {inside : Nat → Bool} (h : AtIssue s .m i st)
    (hown : ∀ es, own st.c es = elemFault es .stackLimit fun a => !inside a) (hm : st.c.mask ≠ 0#64)
    (hu : st.c.clean (vs.map fun r => (r, st.c.mask)) ∧ st.c.usable [sa] none) (hf : (getF st.c.w f.toNat).pend = false) :
    elementStops s st i k n kind.writes inside (st.c.lanes (addr st.c)) := by
  have ha := lanesOp_checked (kind := kind) (k := k) (n := n) (own := own) (addr := addr) (data := data) hm hu.1 hu.2 hf
  rw [hown] at ha
  refine elementStops_of_checked rfl hx h hi (lanesOp_stop _) (fun e he => by rw [ha]; exact he) fun ht hmiss => ?_
  rw [ha]
  exact ⟨ht, by simpa using hmiss, rfl⟩

end Lanes

/-- An operation without limits of its own has no check against them. -/
theorem no_limits (c : Ctx) (es : List Elem) : (fun _ _ => none : Ctx → List Elem → Option Exn) c es =
    elemFault es .stackLimit fun a => !(fun _ => true) a := (elemFault_none fun _ _ => rfl).symm

/-- The limits of VSPILL and VFILL. -/
def Ctx.inStack (c : Ctx) (a : Nat) : Bool := c.w.sptop ≤ a && a + 4 ≤ c.w.stktop

theorem stackFault_eq (c : Ctx) (es : List Elem) : stackFault c es = elemFault es .stackLimit fun a => !c.inStack a := by
  unfold stackFault Ctx.inStack
  congr 1
  funext a
  rw [Bool.eq_iff_iff]
  simp

/-- A gathering operation is the mould. -/
theorem gathers_exec {e} (he : e ∈ gathers) (vt vx : BitVec 7) (sa : BitVec 6) (f : BitVec 4) (s : State) : (∀ g, e.1 vt vx sa f ≠ .fwait g) ∧
    exec (e.1 vt vx sa f) s = runOp s .m (e.1 vt vx sa f) (lanesOp (e.2.1 vt.toNat) e.2.2.1 4 (if e.2.2.2 then [vt, vx] else [vx]) sa f
      (fun _ _ => none) (gatherAddr sa vx) (if e.2.2.2 then laneData vt 4 else fun _ _ a => a)) := by
  simp only [gathers, List.mem_cons, List.not_mem_nil, or_false] at he
  rcases he with rfl | rfl | rfl | rfl | rfl | rfl | rfl | rfl | rfl | rfl <;> exact ⟨nofun, rfl⟩

/-- What the second part of O7 says of one form: its traps at its operands, its flag and its elements. -/
def LaneStops (s : State) (st : Stage) (sa : BitVec 6) (f : BitVec 4) (i : Instr) (k : AccKind) (n : Nat) (write : Bool)
    (vs : List (BitVec 7)) (inside : Nat → Bool) (at_ : Nat → Nat) : Prop :=
  (opStage s .m i = some st → poisonTraps s st i vs (slot := 1) ∧
    (st.c.mask ≠ 0#64 → st.c.clean (vs.map fun r => (r, st.c.mask)) → scalarTraps s st i 1 [sa] none)) ∧
  (AtIssue s .m i st → (st.c.mask ≠ 0#64 → st.c.clean (vs.map fun r => (r, st.c.mask)) ∧ st.c.usable [sa] none) →
    ((getF st.c.w f.toNat).pend = true → exec i s = st.traps s 1 { code := 0x15 }) ∧
    ((getF st.c.w f.toNat).pend = false → st.c.mask ≠ 0#64 → elementStops s st i k n write inside (st.c.lanes at_)))

/-- The mould stops where its form says. -/
theorem lanesOp_stops {s : State} {i : Instr} {st : Stage} {kind : MemKind} {k : AccKind} {n : Nat} {vs : List (BitVec 7)}
    {sa : BitVec 6} {f : BitVec 4} {own : Ctx → List Elem → Option Exn} {addr : Ctx → Nat → Nat} {data : Ctx → Nat → Access → Access}
    {inside : Nat → Bool} (hx : exec i s = runOp s .m i (lanesOp kind k n vs sa f own addr data)) (hi : ∀ f, i ≠ .fwait f)
    (hown : ∀ es, own st.c es = elemFault es .stackLimit fun a => !inside a) :
    LaneStops s st sa f i k n kind.writes vs inside (addr st.c) :=
  ⟨lanesOp_operandTraps hx hi, fun h hu => ⟨lanesOp_flagBusy hx hi h hu, fun hf hm => lanesOp_elementStops hx hi h hown hm (hu hm) hf⟩⟩

/-- Settles O7: every form is the mould with its own kind, width, sources, limits and addresses. -/
theorem laneMemoryIssues : Obligations.LaneMemoryIssues := by
  refine ⟨fun s st vt vx sa wd ofs f ps hf hu => ⟨fun e he h hr => ?_, fun h hr => ?_, fun h hr => ?_, fun h hr => ?_, fun h hr => ?_,
    fun h hr => ?_⟩, fun s st vt vx sa wd ofs f => ?_⟩
  · obtain ⟨hi, hx⟩ := gathers_exec he vt vx sa f s
    refine lanesOp_next hx hi h (no_limits st.c) hf hu (fun hm => ⟨(hr hm).1, (hr hm).2, fun _ _ => rfl⟩) fun p => ?_
    cases e.2.2.2 <;> rfl
  · exact lanesOp_next (i := .casv vt vx sa f) rfl nofun h (no_limits st.c) hf hu (fun hm => ⟨(hr hm).1, (hr hm).2, fun _ _ => rfl⟩) fun _ => rfl
  · exact lanesOp_next (i := .ldv vt sa wd ofs f) rfl nofun h (no_limits st.c) hf hu (fun hm => ⟨nofun, hr hm, fun _ _ => rfl⟩) fun _ => rfl
  · exact lanesOp_next (i := .stv vt sa wd ofs f) rfl nofun h (no_limits st.c) hf hu (fun hm => ⟨(hr hm).1, (hr hm).2, fun _ _ => rfl⟩) fun _ => rfl
  · exact lanesOp_next (i := .vspill vt sa ofs f) rfl nofun h (stackFault_eq st.c) hf hu
      (fun hm => ⟨nofun, (hr hm).1, by simpa [Ctx.inStack] using (hr hm).2⟩) fun _ => rfl
  · exact lanesOp_next (i := .vfill vt sa ofs f) rfl nofun h (stackFault_eq st.c) hf hu
      (fun hm => ⟨nofun, (hr hm).1, by simpa [Ctx.inStack] using (hr hm).2⟩) fun _ => rfl
  · intro c row at_ stack free forms x hx
    rcases List.mem_append.mp hx with hx | hx
    · obtain ⟨e, he, rfl⟩ := List.mem_map.mp hx
      obtain ⟨hi, hx⟩ := gathers_exec he vt vx sa f s
      exact lanesOp_stops hx hi (no_limits st.c)
    · simp only [List.mem_cons, List.not_mem_nil, or_false] at hx
      rcases hx with rfl | rfl | rfl | rfl | rfl
      · exact lanesOp_stops (i := .casv vt vx sa f) rfl nofun (no_limits st.c)
      · exact lanesOp_stops (i := .ldv vt sa wd ofs f) rfl nofun (no_limits st.c)
      · exact lanesOp_stops (i := .stv vt sa wd ofs f) rfl nofun (no_limits st.c)
      · exact lanesOp_stops (i := .vspill vt sa ofs f) rfl nofun (stackFault_eq st.c)
      · exact lanesOp_stops (i := .vfill vt sa ofs f) rfl nofun (stackFault_eq st.c)

end Sys2Proof.Machine
end

section
/-!
PROOF. BRD (R34, R37, R41, R277, R470): its passes, its push, and where its path goes.
-/

namespace Sys2Proof.Machine

/-- Whether a lead's members have lanes for a pass. -/
theorem mates_any (c : Ctx) (x : Gang) (f : Warp → DWord) :
    (((x.members.filter (· != c.k)).filterMap (x.comes? c.m)).any fun w => f w != 0) =
      x.members.any fun k => k != c.k && (x.comes? c.m k).any fun w => f w != 0#64 := by
  rw [List.any_filterMap, List.any_filter]
  congr 1

/-- The passes that BRD runs are those of R41; a member that differs from its lead traps. -/
theorem passesOf_eq (c : Ctx) (sc : BitVec 6) (taken fallen : DWord) (target : Nat) :
    match brdPasses c sc taken fallen target with
    | some (t, f, note) => passesOf c sc taken fallen target = { taken := t, fallen := f, trap := none, note := note }
    | none => (passesOf c sc taken fallen target).trap = some { code := TrapName.gangDiverge.code } := by
  unfold brdPasses passesOf Ctx.runningGang?
  cases hg : (if c.w.trapped = .running then c.gang? else none) with
  | none => rfl
  | some p =>
    obtain ⟨g, x⟩ := p
    dsimp only
    by_cases hi : c.w.gidx = 0
    · simp only [hi, if_true, mates_any]
      rfl
    · simp only [hi, if_false]
      cases hd : x.decided[x.used.getD c.w.gidx 0]? with
      | none => rfl
      | some d =>
        obtain ⟨t, n⟩ := d
        have hbad : ((taken != 0 && !t) || (fallen != 0 && !decide (n % 2 = 1)) || n / 2 != target) =
            !decide (n / 2 = target ∧ (taken ≠ 0#64 → t = true) ∧ (fallen ≠ 0#64 → n % 2 = 1)) := by
          rw [Bool.eq_iff_iff]
          simp only [Bool.or_eq_true, Bool.and_eq_true, bne_iff_ne, ne_eq, Bool.not_eq_true', decide_eq_false_iff_not]
          cases t <;> tauto
        dsimp only
        by_cases hok : n / 2 = target ∧ (taken ≠ 0#64 → t = true) ∧ (fallen ≠ 0#64 → n % 2 = 1)
        · rw [if_pos hok]
          simp only [hbad, decide_eq_true hok, Bool.not_true, exnIf_false]
        · rw [if_neg hok]
          simp only [hbad, decide_eq_false hok, Bool.not_false, exnIf_true]

/-- A division that goes to the reconvergence stack (R34, R41). -/
def brdSerial (c : Ctx) : Bool :=
  c.w.split.isSome || c.w.gang.isSome || (c.w.region.isSome && 4 < 2 * (occupied c.w c.path).length)

/-- The passes of a BRD with a target. -/
def brdPassesAt (c : Ctx) (sc : BitVec 6) (target : Place) : Passes :=
  passesOf c sc (c.q.xm &&& c.q.mask &&& c.sv sc) (c.q.xm &&& c.q.mask &&& ~~~(c.sv sc)) (bundleAddr c.w target 0)

/-- What BRD does whose scalar may be used and whose target is in reach: the check of its passes, then, where it divides by the stack, those
of its push. -/
theorem brdOp_eq {c : Ctx} {sc : BitVec 6} {tdisp : BitVec 8} {jdisp : BitVec 7} {target : Place} (hu : c.usable [sc] none)
    (ht : branchPlace c (brdTarget c.limm tdisp) = some target) : brdOp sc tdisp jdisp c =
      let ps := brdPassesAt c sc target
      let pushes := ps.taken && ps.fallen && brdSerial c
      let push := if pushes then pushXlate c else .hit 0 0#64 0
      { trap := firstExn [ps.trap, if pushes then pushFault c else none, push.fault?]
        block := if push.missed.isEmpty then none else some .xlate
        miss := push.missed
        fx := fun m => if ps.taken && ps.fallen then
            plan c 2 (.divide (c.q.xm &&& c.q.mask &&& c.sv sc) (c.q.xm &&& c.q.mask &&& ~~~(c.sv sc)) target
              (placePlus c target (brdJoin c.limm jdisp)) (brdSerial c)) (ps.note m)
          else planBranch c 2 ps.taken (some target) (ps.note m) } := by
  simp only [brdOp, scalars_none hu, ht, Option.isNone_some, Bool.false_eq_true, if_false, firstExn_none_cons, Option.getD_some]
  rfl

theorem planBranch_some (c : Ctx) (left : Nat) (t : Bool) (p : Place) (m : Mach) :
    planBranch c left t (some p) m = plan c left (if t then .goto p else .fall) m := by
  cases t <;> rfl

/-- A push that has no room, or whose entries are too many, has the fault STACK_LIMIT. -/
theorem pushFault_some {c : Ctx}
    (h : 65535 ≤ pathDepth c.q ∨ (8 ≤ c.q.stack.length ∧ (getS c.w 55).value.toNat ≤ pushTop c + 32)) :
    pushFault c = some { code := TrapName.stackLimit.code } := by
  have : (65535 ≤ pathDepth c.q || (8 ≤ c.q.stack.length && (getS c.w 55).value.toNat ≤ pushTop c + 32)) = true := by simpa using h
  rw [pushFault, this, exnIf_true]

/-- Settles O20: BRD's passes are those of R41; the checks of its push come after theirs. -/
theorem divergentBranch : Obligations.DivergentBranch := by
  intro s st sc tdisp jdisp h hu
  dsimp only
  have hi : ∀ f, Instr.brd sc tdisp jdisp ≠ .fwait f := nofun
  have traps {e : Exn} (he : (brdOp sc tdisp jdisp st.c).trap = some e) : exec (.brd sc tdisp jdisp) s = st.traps s 3 e :=
    runOp_traps_outsideV (slot := .c) h hi nofun rfl he
  refine ⟨fun hout => traps ?_, fun target htarget => ?_⟩
  · simp only [brdOp, scalars_none hu, hout, Option.isNone_none, if_true]
    rfl
  have ha := brdOp_eq (jdisp := jdisp) hu htarget
  have hpasses := passesOf_eq st.c sc (st.c.q.xm &&& st.c.q.mask &&& st.c.sv sc) (st.c.q.xm &&& st.c.q.mask &&& ~~~(st.c.sv sc))
    (bundleAddr st.c.w target 0)
  refine ⟨fun hdiff => traps ?_, fun t f note hpass => ?_⟩
  · rw [hdiff] at hpasses
    rw [ha]
    simp only [brdPassesAt, hpasses]
    rfl
  rw [hpass] at hpasses
  have hps : brdPassesAt st.c sc target = { taken := t, fallen := f, trap := none, note := note } := hpasses
  rw [hps] at ha
  refine ⟨fun hone => ?_, fun hboth hpush => ?_, fun hboth hserial hroom => traps ?_⟩
  · simp only [hone, Bool.false_and, Bool.false_eq_true, if_false, planBranch_some] at ha
    refine (runOp_ready h (a := brdOp sc tdisp jdisp) hi (by rw [ha]; exact ⟨rfl, rfl, rfl⟩)).trans ?_
    rw [ha]
  · simp only [hboth, Bool.true_and, if_true] at ha
    refine (runOp_ready h (a := brdOp sc tdisp jdisp) hi ?_).trans (by rw [ha]; rfl)
    rw [ha]
    by_cases hs : brdSerial st.c = true
    · obtain ⟨hfault, hx, hmiss⟩ := hpush hs
      simp [Action.free, hs, hfault, hx, hmiss]
    · simp [Action.free, hs, Xlate.missed, Xlate.fault?]
  · simp only [hboth, Bool.true_and, show brdSerial st.c = true from hserial, if_true] at ha
    rw [ha]
    simp only [pushFault_some hroom, firstExn_none_cons, firstExn_some_cons]
    rfl

end Sys2Proof.Machine
end

section
/-!
PROOF. Resources of a warp (R46, R47, R293 to R300).
-/

namespace Sys2Proof.Machine

/-- The checks of an operation with one flag. -/
theorem flagBusy_none {c : Ctx} {f : Nat} (h : (getF c.w f).pend = false) : c.flagBusy f = none := by
  rw [Ctx.flagBusy, h, exnIf_false]

/-- RGROW while it may have a chunk: its effect goes by what its wait has been answered. -/
theorem rgrowOp_waiting {c : Ctx} {sd : BitVec 6} (h : chunksNow c.w < 3) : rgrowOp sd c = match c.w.grow with
    | some false => { trap := c.scalars [] (some sd)
                      fx := fun m => c.sendS sd 0 false 1 (updWarp m c.k fun w => { w with grow := none, watch64 := some 65 }) }
    | some true => { trap := c.scalars [] (some sd)
                     fx := fun m => later (.chunk true) c (updWarp (c.sendS sd 1 false 1 m) c.k fun w => { w with grow := none }) }
    | none => { trap := c.scalars [] (some sd), block := causeIf ((getCore c.m (coreOf c.k)).spare ≤ growAhead c) .grow
                fx := fun m => later (.chunk true) c
                  (updCore (c.sendS sd 1 false 1 m) (coreOf c.k) fun x => { x with spare := x.spare - 1 }) } := by
  simp only [rgrowOp, Nat.not_le.mpr h, if_false] <;> rfl

/-- RSHRINK's check fails exactly while an operation will write a register of the chunk. -/
theorem rshrinkOp_trap {c : Ctx} (h : 0 < chunksNow c.w) : (rshrinkOp c).trap =
    exnIf (decide (∃ o ∈ c.w.ops, ∃ r, pendingReg o = some r ∧ r / 16 = 3 + chunksNow c.w)) .regBusy := by
  simp only [rshrinkOp, Nat.ne_of_gt h, if_false]
  congr 1
  rw [Bool.eq_iff_iff, List.any_eq_true]
  simp only [decide_eq_true_eq]
  refine exists_congr fun o => and_congr_right fun _ => ?_
  cases pendingReg o <;> simp

/-- Settles O27: each operation is the shared mould with its own checks, and RGROW goes by the answer to its wait. -/
theorem warpResources : Obligations.WarpResources := by
  intro s st nt sd sa f
  dsimp only
  refine ⟨fun h hu hf => ?_, fun h => ?_, fun h hu hn => ?_, fun h hu hn hg hs => ?_, fun h hu hn hg hs => ?_, fun h hu hn hg => ?_,
    fun h hu hn hg => ?_, fun h hn hbusy => ?_, fun h hn => ?_, fun h hn hfree => ?_, fun h hu => ?_, fun h => ?_,
    fun m k w hw ho hg => ?_, fun m k w hw hheld => ?_, fun m k w v hw => ?_, fun h => ?_⟩
  · exact runOp_ready h (a := sprintOp nt sd sa f) nofun ⟨rfl, by simp [sprintOp, scalars_none hu, flagBusy_none hf], rfl⟩
  · exact plain_next h (a := actSprel) nofun rfl
  · exact scalar_next h (a := rgrowOp sd) nofun hu (by simp only [rgrowOp, hn, if_true]; rfl)
  · have ha := rgrowOp_waiting (sd := sd) hn
    rw [hg] at ha
    refine (runOp_ready h (a := rgrowOp sd) nofun ?_).trans (by rw [ha]; rfl)
    rw [ha]
    exact ⟨rfl, scalars_none hu, by simp [causeIf, hs]⟩
  · have ha := rgrowOp_waiting (sd := sd) hn
    rw [hg] at ha
    refine (runOp_waits (slot := .c) h.1 (a := rgrowOp sd) nofun h.2.1 h.2.2 (by rw [ha]) (by rw [ha]; exact scalars_none hu)
      (w := .grow) (by rw [ha]; simp [causeIf, hs])).trans (by rw [ha]; rfl)
  · exact scalar_next h (a := rgrowOp sd) nofun hu (by rw [rgrowOp_waiting hn, hg]; rfl)
  · exact scalar_next h (a := rgrowOp sd) nofun hu (by rw [rgrowOp_waiting hn, hg]; rfl)
  · exact runOp_traps_outsideV (slot := .c) h (a := rshrinkOp) nofun nofun (by unfold rshrinkOp; split <;> rfl)
      (by rw [rshrinkOp_trap hn, decide_eq_true hbusy]; rfl)
  · exact plain_next h (a := rshrinkOp) nofun (by simp only [rshrinkOp, hn, if_true])
  · have hfree' : ¬ ∃ o ∈ st.c.w.ops, ∃ r, pendingReg o = some r ∧ r / 16 = 3 + chunksNow st.c.w := by
      rintro ⟨o, ho, r, hr, heq⟩
      exact hfree o ho r hr heq
    have ht : (rshrinkOp st.c).trap = none := by rw [rshrinkOp_trap hn, decide_eq_false hfree']; rfl
    exact (runOp_ready h (a := rshrinkOp) nofun ⟨by unfold rshrinkOp; split <;> rfl, ht, by unfold rshrinkOp; split <;> rfl⟩).trans
      (by simp only [rshrinkOp, Nat.ne_of_gt hn, if_false])
  · have hz : (st.c.sv sa = 0#64) ↔ (st.c.sv sa).toNat = 0 := by simp [← BitVec.toNat_inj]
    simp only [hz]
    exact scalar_next h (a := actTimer sa) nofun hu rfl
  · exact plain_next h (a := actYield) nofun rfl
  · simp only [applyLate, hw, ho, hg, Option.isSome_none, Bool.or_self, Bool.false_eq_true, if_false]
  · have : ((openChain m k).isSome || w.gang.isSome) = true := by simpa using hheld
    simp only [applyLate, hw, this, if_true]
  · exact updWarp_some _ hw
  · exact plain_next h (a := actEndWarp) nofun rfl

end Sys2Proof.Machine
end

section
/-!
PROOF. Events of scheduling: selection and blocks (R15 to R17, R46), rendezvous and phases (R39, R107, R254), the release of RGROW,
timers, deadlines, leases and the watchdog (R47, R71, R294, R298, R367, R368).
-/

namespace Sys2Proof.Machine

/-! ### The best element of a list -/

theorem listBest_mem {α : Type} {before : α → α → Bool} {l : List α} {a : α} (h : listBest before l = some a) : a ∈ l := by
  induction l generalizing a with
  | nil => cases h
  | cons x xs ih =>
    simp only [listBest] at h
    split at h
    · cases h; exact List.mem_cons_self
    · next b hb =>
      split at h <;> cases h
      · exact List.mem_cons_of_mem _ (ih hb)
      · exact List.mem_cons_self

/-- The best by a number has the least. -/
theorem listBest_le {α : Type} {f : α → Nat} {l : List α} {a : α} (h : listBest (fun a b => f a < f b) l = some a) :
    ∀ b ∈ l, f a ≤ f b := by
  induction l generalizing a with
  | nil => cases h
  | cons x xs ih =>
    simp only [listBest] at h
    split at h
    · next hn =>
      cases h
      have : xs = [] := by
        cases xs with
        | nil => rfl
        | cons y ys =>
          simp only [listBest] at hn
          split at hn
          · cases hn
          · split at hn <;> cases hn
      simp [this]
    · next b hb =>
      have := ih hb
      split at h <;> cases h <;> rename_i hlt <;> simp only [decide_eq_true_eq] at hlt
      · exact List.forall_mem_cons.mpr ⟨by omega, this⟩
      · exact List.forall_mem_cons.mpr ⟨Nat.le_refl _, fun y hy => by have := this y hy; omega⟩

/-! ### Selection and blocks -/

theorem exec_warpSelect (core : Nat) (s : State) : exec (.warpSelect core) s = machNext s (selectWarp s.mach core) := rfl
theorem exec_blockEnd (k : Nat) (s : State) : exec (.blockEnd k) s = machNext s
    (if (getWarp? s.mach k).elim false fun w => stepsItself w && w.block.isSome then
      (blockAgain s.dev s.mach k).getD (unblock (setAside s.mach k) k) else s.mach) := rfl

theorem mem_coreWarps {m : Mach} {core k : Nat} {w : Warp} : (k, w) ∈ coreWarps m core ↔ (k, w) ∈ m.warps ∧ coreOf k = core := by
  simp [coreWarps]

theorem setAside_eq {m : Mach} {k : Nat} {w : Warp} (h : getWarp? m k = some w) (hb : ∀ b, w.block = some b → b.cause ≠ .grow) :
    setAside m k = m := by
  have : (w.block.elim false fun b => decide (b.cause = Cause.grow)) = false := by
    cases hw : w.block with
    | none => rfl
    | some b => simpa using hb b hw
  simp only [setAside, h, this, Bool.and_false, Bool.false_eq_true, if_false]

/-- A blocked warp that can step goes by what its bundle does again. -/
theorem execBlockEnd_blocked {s : State} {k : Nat} {w : Warp} (h : getWarp? s.mach k = some w) (hb : w.block.isSome)
    (hs : stepsItself w = true) :
    exec (.blockEnd k) s = machNext s ((blockAgain s.dev s.mach k).getD (unblock (setAside s.mach k) k)) := by
  simp only [exec_blockEnd, h, Option.elim_some, hs, hb, Bool.and_self, if_true]

/-- Settles O28: selection takes the best of those that can issue, and BLOCK_END goes by what the bundle does again. -/
theorem selectionAndBlocks : Obligations.SelectionAndBlocks := by
  refine fun s => ⟨fun core k hk hkeep => ?_, fun core hsel => ?_, fun core k hk => ?_, fun k w b hw hb hs hc ha => ?_,
    fun k w b hw hb hs hc hg ha => ?_, fun k w t hw hb hs ha => ?_, fun k hk => ?_⟩
  · simp only [exec_warpSelect, selectWarp, needsSelect, hk, Option.elim_some, hkeep, Bool.not_true, Bool.false_eq_true, if_false]
    rfl
  · have hneeds : needsSelect s.mach core = true := by
      rcases hsel with hn | ⟨k, hk, hkeep⟩
      · simp [needsSelect, hn]
      · simp [needsSelect, hk, hkeep]
    simp only [exec_warpSelect, selectWarp, hneeds, if_true]
  · obtain ⟨⟨k', w⟩, hbest, rfl⟩ := Option.map_eq_some_iff.mp hk
    have hmem := listBest_mem hbest
    obtain ⟨hcore, hcan⟩ := List.mem_filter.mp hmem
    obtain ⟨hw, hc⟩ := mem_coreWarps.mp hcore
    refine ⟨w, hw, hc, hcan, fun j v hv hj hjcan => ?_⟩
    exact listBest_le (f := fun a : Nat × Warp => a.2.ready) hbest (j, v)
      (List.mem_filter.mpr ⟨mem_coreWarps.mpr ⟨hv, hj⟩, hjcan⟩)
  · rw [execBlockEnd_blocked hw (by rw [hb]; rfl) hs, ha, Option.getD_none, setAside_eq hw fun b' hb' => by rw [hb] at hb'; cases hb'; exact hc]
    simp only [unblock, updWarp_some _ hw, hb]
  · rw [execBlockEnd_blocked hw (by rw [hb]; rfl) hs, ha, Option.getD_none]
    simp only [setAside, hw, hb, hg, hc, updWarp_some _ hw, Option.elim_some, Option.isNone_none, decide_true, Bool.and_self, if_true]
  · rw [execBlockEnd_blocked hw hb hs, ha, Option.getD_some]
  · have : ((getWarp? s.mach k).elim false fun w => stepsItself w && w.block.isSome) = false := by
      cases hw : getWarp? s.mach k with
      | none => rfl
      | some w => simp [hk w hw]
    simp only [exec_blockEnd, this, Bool.false_eq_true, if_false]
    rfl

/-! ### Rendezvous and phases -/

/-- Two arrivals that do not clash name the same number. -/
theorem n_eq_of_not_clash {a b : GangArrival} (h : clash b a = false) : b.n = a.n := by
  simp only [clash, Bool.or_eq_false_iff, bne_eq_false_iff_eq] at h
  exact h.1.1

theorem agreeing_n {a : GangArrival} {as : List GangArrival} (h : agreeing (a :: as)) : ∀ x ∈ a :: as, x.n = a.n := by
  refine List.forall_mem_cons.mpr ⟨rfl, fun x hx => n_eq_of_not_clash ?_⟩
  exact (List.pairwise_cons.mp h).1 x hx

/-- Arrivals that agree, and are fewer than they name, are gathered and leave the next to be looked at. -/
theorem gather_agreeing {n : Nat} (more rest : List GangArrival) (group : List GangArrival) (hag : agreeing (group ++ more))
    (hn : ∀ x ∈ more, x.n = n) (hlen : (group ++ more).length < n) : gather group (more ++ rest) = gather (group ++ more) rest := by
  induction more generalizing group with
  | nil => simp
  | cons x xs ih =>
    have hclash : group.any (clash x) = false := by
      rw [List.any_eq_false]
      intro b hb
      simp [(List.pairwise_append.mp hag).2.2 b hb x List.mem_cons_self]
    have hx : (group ++ [x]).length ≠ x.n := by
      rw [hn x List.mem_cons_self]
      simp only [List.length_append, List.length_cons] at hlen ⊢
      simp only [List.length_nil]
      omega
    rw [List.cons_append, gather]
    simp only [hclash, Bool.false_eq_true, if_false, hx]
    rw [ih (group ++ [x]) (by simpa using hag) (fun y hy => hn y (List.mem_cons_of_mem _ hy)) (by simpa using hlen)]
    simp

/-- Arrivals that agree and are as many as they name form their gang; the later ones stay. -/
theorem gather_full {a : GangArrival} {as rest : List GangArrival} (hag : agreeing (a :: as)) (hn : a.n = (a :: as).length) :
    gather [] (a :: as ++ rest) = some { group := a :: as, bad := false, rest := rest } := by
  obtain ⟨init, z, hz⟩ : ∃ init z, a :: as = init ++ [z] := ⟨_, _, (List.dropLast_append_getLast (List.cons_ne_nil a as)).symm⟩
  have hall := agreeing_n hag
  rw [hz] at hag hn hall ⊢
  have hpair := List.pairwise_append.mp hag
  have hclash : init.any (clash z) = false := by
    rw [List.any_eq_false]
    intro b hb
    simp [hpair.2.2 b hb z List.mem_cons_self]
  rw [List.append_assoc, gather_agreeing (n := a.n) init ([z] ++ rest) [] hpair.1 (fun x hx => hall x (by simp [hx]))
    (by simp only [hn, List.nil_append, List.length_append, List.length_cons]; omega), List.nil_append, List.cons_append, gather]
  simp [hclash, hall z (by simp), hn]

/-- An arrival that clashes with those before it fails with them. -/
theorem gather_clash {a x : GangArrival} {as rest : List GangArrival} (hag : agreeing (a :: as)) (hn : (a :: as).length < a.n)
    (hx : ∃ b ∈ a :: as, clash x b = true) :
    gather [] (a :: as ++ x :: rest) = some { group := a :: as ++ [x], bad := true, rest := rest } := by
  rw [gather_agreeing (n := a.n) (a :: as) (x :: rest) [] hag (agreeing_n hag) hn, List.nil_append, gather]
  have : (a :: as).any (clash x) = true := List.any_eq_true.mpr hx
  simp only [this, if_true]

/-- Arrivals that agree and are fewer than they name wait. -/
theorem gather_waits {a : GangArrival} {as : List GangArrival} (hag : agreeing (a :: as)) (hn : (a :: as).length < a.n) :
    gather [] (a :: as) = none := by
  have := gather_agreeing (n := a.n) (a :: as) [] [] hag (agreeing_n hag) hn
  rw [List.append_nil] at this
  rw [this]
  rfl

/-- A rendezvous that is complete, and whose arrivals all run, forms its gang or fails. -/
theorem exec_gangRendezvous {s : State} {team : Nat} {t : Team} {r : Rendezvous} (ht : getTeam? s.mach team = some t)
    (hr : gather [] t.rdv = some r) (hrun : ∀ a ∈ r.group, ∃ w, getWarp? s.mach a.warp = some w ∧ w.trapped = .running) :
    exec (.gangRendezvous team) s = machNext s (
      let next := updTeam s.mach team fun t => { t with rdv := r.rest }
      if r.bad then gangMismatch s.dev next r.group else formGang next team r.group) := by
  have hall : (r.group.all fun a => (getWarp? s.mach a.warp).elim false (·.trapped = .running)) = true := by
    rw [List.all_eq_true]
    intro a ha
    obtain ⟨w, hw, hw'⟩ := hrun a ha
    simp [hw, hw']
  show machNext s _ = machNext s _
  simp only [ht, hr, hall, Bool.not_true, Bool.false_eq_true, if_false]

theorem exec_gangRendezvous_waits {s : State} {team : Nat} {t : Team} (ht : getTeam? s.mach team = some t) (hr : gather [] t.rdv = none) :
    exec (.gangRendezvous team) s = .next s := by
  show machNext s _ = machNext s s.mach
  simp only [ht, hr]

/-- Where the rendezvous clauses of O29 hold: a rendezvous gathers its first arrivals, up to the one that completes or spoils it (R39). -/
theorem gangRendezvous_gathers {s : State} {team : Nat} {t : Team} (ht : getTeam? s.mach team = some t)
    (hrun : ∀ a ∈ t.rdv, ∃ w, getWarp? s.mach a.warp = some w ∧ w.trapped = .running) :
    (∀ group rest a, t.rdv = group ++ rest → agreeing group → group.head? = some a → a.n = group.length →
      exec (.gangRendezvous team) s = machNext s (formGang (updTeam s.mach team fun t => { t with rdv := rest }) team group)) ∧
    (∀ group x rest a, t.rdv = group ++ x :: rest → agreeing group → group.head? = some a → group.length < a.n →
      (∃ b ∈ group, clash x b = true) → exec (.gangRendezvous team) s =
        machNext s (gangMismatch s.dev (updTeam s.mach team fun t => { t with rdv := rest }) (group ++ [x]))) ∧
    (∀ a, t.rdv.head? = some a → agreeing t.rdv → t.rdv.length < a.n → exec (.gangRendezvous team) s = .next s) := by
  refine ⟨fun group rest a hr hag ha hn => ?_, fun group x rest a hr hag ha hn hx => ?_, fun a ha hag hn => ?_⟩
  · obtain ⟨as, rfl⟩ : ∃ as, group = a :: as := List.head?_eq_some_iff.mp ha
    refine (exec_gangRendezvous ht (by rw [hr]; exact gather_full hag hn) fun b hb => hrun b ?_).trans rfl
    rw [hr]
    exact List.mem_append_left _ hb
  · obtain ⟨as, rfl⟩ : ∃ as, group = a :: as := List.head?_eq_some_iff.mp ha
    refine (exec_gangRendezvous ht (by rw [hr]; exact gather_clash hag hn hx) fun b hb => hrun b ?_).trans rfl
    rw [hr]
    simp only [List.mem_append, List.mem_cons, List.not_mem_nil, or_false] at hb ⊢
    tauto
  · obtain ⟨as, has⟩ : ∃ as, t.rdv = a :: as := List.head?_eq_some_iff.mp ha
    rw [has] at hag hn
    exact exec_gangRendezvous_waits ht (by rw [has]; exact gather_waits hag hn)

/-- The state that an outcome answers, if it answers one. -/
def answered : Host.Outcome State Fault Refusal → Option State
  | .next t => some t
  | .fault _ | .refused _ => none

/-- A team without warps, whose barrier 0 is in a phase with the given arrivals. -/
def teamInPhase (phase : Nat) (arrived : List Arrival) : Team :=
  { node := 0, ctx := 0, index := 0, cluster := 0, warps := 0, cores := 0, lima := 0, limb := 0, baseA := 0, baseB := 0, ntiles := 0
    nqueues := 0, ended := [], tiles := [], queues := [], bars := [(0, { phase := phase, arrived := arrived })], lease := none, rdv := []
    flushing := false }

/-- A machine whose map of teams lists team 0 twice, with barrier 0 in phases 0 and 7. -/
def doubledTeam : State := { State.reset with mach := { State.reset.mach with
  teams := [(0, teamInPhase 0 [{ teamw := 0, warp := 0, flag := 0, order := 0 }]), (0, teamInPhase 7 [])] } }

/-- The phases of barrier 0 in the teams that an outcome lists. -/
def phasesAfter (o : Host.Outcome State Fault Refusal) : List Nat :=
  (answered o).elim [] fun t => t.mach.teams.map fun x => (getBar x.2 0).phase

/-- Refutes O29: its barrier clause counts each listed team's own phase on, and BARRIER_PHASE_COMPLETE sets every entry of the team's key to the
phase after the first's; a state whose map lists a team twice tells them apart. The rendezvous clauses hold (`gangRendezvous_gathers`). -/
theorem not_rendezvousAndPhases : ¬ Obligations.RendezvousAndPhases := by
  intro h
  have hbar := (h doubledTeam 0 (teamInPhase 0 [{ teamw := 0, warp := 0, flag := 0, order := 0 }]) rfl).2 0
  have heq := congrArg phasesAfter (hbar.1 (by decide) (by decide))
  exact absurd heq (by decide +kernel)

/-! ### RGROW, timers, deadlines, leases, the watchdog -/

theorem exec_deadline (ctx : Nat) (s : State) : exec (.deadline ctx) s = machNext s
    (if (getCtx? s.mach ctx).elim false fun c => c.gdead != 0 && c.gdead ≤ s.dev.gtc then raiseDeadline s.mach ctx else s.mach) := rfl

theorem raiseExt_hang (w : Warp) (code n : Nat) : raiseExt { w with hang := n } code = { raiseExt w code with hang := n } := by
  unfold raiseExt
  split <;> rfl

/-- Settles O30: each event looks at its own condition, and raises its event for its warp. -/
theorem growAndTimers : Obligations.GrowAndTimers := by
  refine fun s => ⟨fun core k hstuck hwatch hk => ?_, fun core k w hstuck hk => ?_, fun k w hw ht hv => ?_, fun ctx c hc hd hg => ?_,
    fun ctx c hc hd => ?_, fun team t l ht hl hover => ?_, fun k w c hw hc hs hwd hpumal => ?_⟩
  · have hnot : ((coreWarps s.mach core).any fun x => x.2.watch64.isSome || x.2.grow = some false) = false := by
      rw [List.any_eq_false]
      intro x hx
      obtain ⟨h1, h2⟩ := hwatch x hx
      simp [h1, h2]
    show machNext s _ = _
    simp only [hstuck, hnot, hk, Bool.not_false, Bool.and_self]
  · show machNext s _ = _
    simp only [hstuck, hk]
  · show machNext s (updWarp _ _ _) = _
    have hdue : (w.wtimer != 0 && decide (w.wtimer = w.vbeat)) = true := by
      rw [decide_eq_true hv, Bool.and_true]
      exact bne_iff_ne.mpr ht
    simp only [updWarp_some _ hw, hdue, if_true]
  · rw [exec_deadline, hc]
    simp [hd, hg]
  · rw [exec_deadline, hc]
    rcases hd with hd | hd
    · simp [hd]; rfl
    · simp [Nat.not_le.mpr hd]; rfl
  · show machNext s (expireLease _ _ _) = _
    have : (l.left = 0 || leaseOver s.dev.gtc l) = true := by simpa [leaseOver] using hover
    simp only [expireLease, ht, hl, Option.bind_some, this, if_true]
  · have hdue : (inSave s.mach w || !((ctxOf s.mach w).elim false fun c => decide (c.wdlim * 1000 ≤ w.hang))) = false := by
      simp [hs, hc, hwd]
    show machNext s _ = _
    simp only [hw, hdue, Bool.false_eq_true, if_false]
    rw [raiseExt_hang]

end Sys2Proof.Machine
end

section
/-!
PROOF. What a register operation of a gang member changes beyond its own warp (R40).
-/

namespace Sys2Proof.Machine

/-- A gang of the warps 16 and 20, whose member 1 has taken its beat; member 0 stands at the issue stage. -/
def gangBeforeRoundEnd : State :=
  let m := (placeBundle State.reset []).mach
  let w := freshWarp trialContext trialNode 1 512 0 0 0 0
  let g : Gang := { team := 512, members := [16, 20], skew := 1, beats := [0, 0], left := [], decided := [], used := [0, 0], bundles := []
                    read := [0, 0], grants := 0, asked := [0, 0], mres := []
                    round := [(1, { p := 1, n := 1, planes := 1, f := 1 }, false)] }
  { State.reset with
    mach := { m with warps := [(16, { w with gang := some 7, gidx := 0 }), (20, { w with gang := some 7, gidx := 1 })], gangs := [(7, g)] }
    cur := some { warp := 16, path := 0, plane := 0, gap := 0, sync := false, b := 0, limm := none } }

/-- ADD s0, s0, s0 stands at the issue stage of that gang's member 0 with nothing against it. -/
theorem gangBeforeRoundEnd_stage : ∃ st, opStage gangBeforeRoundEnd .c (.add 0 0 0) = some st ∧
    (!(st.c.pops.any fun p => p.value.isNone) && !pushFull st.c.m st.c.w st.o && !(st.c.s 0).mark && (portOf st.c.w 0).isNone &&
      st.c.pops.isEmpty) = true := by
  have h : ((opStage gangBeforeRoundEnd .c (.add 0 0 0)).any fun st => !(st.c.pops.any fun p => p.value.isNone) &&
      !pushFull st.c.m st.c.w st.o && !(st.c.s 0).mark && (portOf st.c.w 0).isNone && st.c.pops.isEmpty) = true := by decide +kernel
  exact (Option.any_eq_true _ _).mp h

/-- The end of the gang's round charges its cycles to the other member too. -/
theorem gangBeforeRoundEnd_charges : ((answered (exec (.add 0 0 0) gangBeforeRoundEnd)).any fun t =>
    getWarp? t.mach 20 != getWarp? gangBeforeRoundEnd.mach 20) = true := by decide +kernel

/-- Refutes O53: where the issue ends the beat of a gang whose other members have taken theirs, the round's cycles are charged to all of them
(R40), so another warp's counters change. -/
theorem not_registerFormsFrame : ¬ Obligations.RegisterFormsFrame := by
  intro h
  obtain ⟨st, hst, hfree⟩ := gangBeforeRoundEnd_stage
  obtain ⟨t, ht, hcharged⟩ := (Option.any_eq_true _ _).mp gangBeforeRoundEnd_charges
  simp only [Bool.and_eq_true, Bool.not_eq_true', Option.isNone_iff_eq_none, List.isEmpty_iff] at hfree
  obtain ⟨⟨⟨⟨hp, hq⟩, hmark⟩, hport⟩, hpops⟩ := hfree
  have hwarp : st.cur.warp = 16 := by
    have := (opStage_o hst).2.1
    injection this with hcur
    rw [← hcur]
  have hcalm : calm gangBeforeRoundEnd st := by
    rw [calm, hwarp]
    exact ⟨_, rfl, rfl, rfl, rfl, nofun⟩
  have husable : st.c.usable [0, 0] (some 0) := by
    have hnone : ∀ b, portOf st.c.w (0 : BitVec 6).toNat ≠ some b := fun b hb => by cases hport.symm.trans hb
    refine ⟨fun n hn => ?_, fun n hn b hb => ?_⟩
    · obtain rfl : n = 0 := by simpa using hn
      exact ⟨hmark, fun b hb => absurd hb (hnone b), by simp [hpops]⟩
    · cases hn
      exact absurd hb (hnone b)
  have hnext : exec (.add 0 0 0) gangBeforeRoundEnd = .next t := by
    cases ho : exec (.add 0 0 0) gangBeforeRoundEnd <;> rw [ho] at ht <;> cases ht
    rfl
  obtain ⟨-, -, -, hpairs, -⟩ := h gangBeforeRoundEnd t st hcalm
  obtain ⟨⟨-, -, -, -, -, hother, -⟩, -⟩ := hpairs _ List.mem_cons_self 0 0 0 ⟨hst, hp, hq⟩ husable hnext
  exact (bne_iff_ne.mp hcharged) (hother 20 (by rw [hwarp]; decide))

end Sys2Proof.Machine
end

section
/-!
O60: every step from every state answers a next state. An operation of a bundle runs with its warp at the issue stage; an event has no
precondition.
-/

namespace Sys2Proof.Machine

theorem completes_next (t : State) : Completes (.next t) := ⟨t, rfl⟩

theorem completes_ite {c : Prop} [Decidable c] {a b : Host.Outcome State Fault Refusal} (ha : Completes a) (hb : Completes b) :
    Completes (if c then a else b) := by
  split
  · exact ha
  · exact hb

theorem takeInput_completes {α : Type} (s : State) (pick : Input → Option α) (f : State → α → State) :
    Completes (takeInput s pick f) := by
  unfold takeInput
  split
  · split <;> exact completes_next _
  · exact completes_next _

theorem onMessage_completes (want : Frame → Nat → Bool) (act : State → Msg → State) (s : State) :
    Completes (onMessage want act s) := by
  unfold onMessage
  simp only
  split
  · exact completes_ite (completes_next _) (completes_next _)
  · exact completes_next _

theorem onKind_completes (kind : Nat) (act : State → Msg → State) (s : State) : Completes (onKind kind act s) :=
  onMessage_completes _ act s

/-! ### Operations of a bundle -/

/-- The issue stage holds a bundle of a warp that exists. -/
def AtWarp (s : State) : Prop := ∃ cur, s.cur = some cur ∧ (getWarp? s.mach cur.warp).isSome

theorem atWarp_of_warp {s : State} {b : Mach} {cur : Cur} (h : (getWarp? b cur.warp).isSome) :
    AtWarp { s with mach := b, cur := some cur } := ⟨cur, rfl, h⟩

theorem runOp_completes {s : State} (h : AtWarp s) {slot : Slot} {i : Instr} {a : Act} : Completes (runOp s slot i a) := by
  obtain ⟨cur, hcur, hw⟩ := h
  obtain ⟨w, hw⟩ := Option.isSome_iff_exists.mp hw
  unfold runOp opStage
  simp only [hcur, hw]
  exact completes_next _

theorem execUnassignedOpcode_completes {s : State} (h : AtWarp s) (slot : Slot) (op : BitVec 8) :
    Completes (execUnassignedOpcode slot op s) := by
  obtain ⟨cur, hcur, hw⟩ := h
  obtain ⟨w, hw⟩ := Option.isSome_iff_exists.mp hw
  unfold execUnassignedOpcode
  simp only [hcur, hw, Option.bind_some, Option.map_some]
  exact completes_next _

theorem encode_ne_none_of_encodeV {i : Instr} {v : BitVec 30} (h : encodeV i = some v) : encode i ≠ none := by
  unfold encode; simp only [h]; split <;> simp

theorem encode_ne_none_of_encodeM {i : Instr} {v : BitVec 30} (h : encodeM i = some v) : encode i ≠ none := by
  unfold encode; simp only [h]; split
  · simp
  · split <;> simp

theorem encode_ne_none_of_encodeX {i : Instr} {v : BitVec 28} (h : encodeX i = some v) : encode i ≠ none := by
  unfold encode; simp only [h]; split
  · simp
  · split
    · simp
    · split <;> simp

theorem encode_ne_none_of_encodeC {i : Instr} {v : BitVec 28} (h : encodeC i = some v) : encode i ≠ none := by
  unfold encode; simp only [h]; split
  · simp
  · split
    · simp
    · split
      · simp
      · split <;> simp

theorem encode_unassignedOpcode_ne_none (slot : Slot) (op : BitVec 8) : encode (.unassignedOpcode slot op) ≠ none := by
  cases slot with
  | v => exact encode_ne_none_of_encodeV rfl
  | m => exact encode_ne_none_of_encodeM rfl
  | x => exact encode_ne_none_of_encodeX rfl
  | c => exact encode_ne_none_of_encodeC rfl

/-! ### Events that look at the state before they act -/

theorem execNodeCreate_completes (post : Nat) (s : State) : Completes (execNodeCreate post s) := by
  unfold execNodeCreate
  split
  · exact completes_next _
  · simp only
    split <;> exact completes_next _

theorem execNodeDispatch_completes (node : Nat) (clusters : List Nat) (s : State) : Completes (execNodeDispatch node clusters s) := by
  unfold execNodeDispatch
  simp only
  split
  · exact completes_next _
  · split
    · exact completes_ite (completes_next _) (completes_next _)
    · exact completes_next _

theorem execTaskComplete_completes (node : Nat) (s : State) : Completes (execTaskComplete node s) := by
  unfold execTaskComplete
  split <;> exact completes_next _

theorem execPreemptionDecision_completes (node : Nat) (s : State) : Completes (execPreemptionDecision node s) := by
  unfold execPreemptionDecision
  simp only
  split
  · exact completes_next _
  · refine completes_ite ?_ (completes_next _)
    split
    · exact completes_next _
    · split <;> exact completes_next _

theorem execDrainRedecide_completes (node : Nat) (s : State) : Completes (execDrainRedecide node s) := by
  unfold execDrainRedecide
  simp only
  split
  · exact completes_next _
  · refine completes_ite ?_ (completes_next _)
    split <;> exact completes_next _

theorem execSaveDeadline_completes (node : Nat) (s : State) : Completes (execSaveDeadline node s) := by
  unfold execSaveDeadline
  split
  · exact completes_next _
  · split <;> exact completes_next _

theorem execTaskRestore_completes (node : Nat) (clusters : List Nat) (s : State) : Completes (execTaskRestore node clusters s) := by
  unfold execTaskRestore
  simp only
  split
  · exact completes_next _
  · split
    · exact completes_ite (completes_next _) (completes_next _)
    · exact completes_next _

theorem execFirstTouchService_completes (ctx : Nat) (va : DWord) (s : State) : Completes (execFirstTouchService ctx va s) := by
  unfold execFirstTouchService
  refine completes_ite (completes_next _) ?_
  split <;> exact completes_next _

theorem execPumalTrapService_completes (warp : Nat) (s : State) : Completes (execPumalTrapService warp s) := by
  unfold execPumalTrapService
  split
  · exact completes_next _
  · split
    · simp only
      split
      · exact completes_next _
      · exact completes_next _
      · split <;> exact completes_next _
      · exact completes_next _
    · exact completes_next _

theorem execCopyFault_completes (cluster id : Nat) (s : State) : Completes (execCopyFault cluster id s) := by
  unfold execCopyFault
  split
  · exact completes_next _
  · split <;> exact completes_next _

theorem execRemoteFail_completes (warp op : Nat) (s : State) : Completes (execRemoteFail warp op s) := by
  unfold execRemoteFail
  split <;> exact completes_next _

theorem execGbStep_completes (die : Nat) (s : State) : Completes (execGbStep die s) := by
  unfold execGbStep
  split
  · exact completes_next _
  · refine completes_ite (completes_next _) (completes_ite (completes_ite (completes_next _) (completes_next _)) ?_)
    exact completes_ite (completes_next _) (completes_next _)

theorem execBulkWrite_completes (s : State) : Completes (execBulkWrite s) := by
  unfold execBulkWrite
  split
  · exact completes_ite (completes_next _) (completes_next _)
  · exact completes_next _

theorem execWearDailyAppend_completes (s : State) : Completes (execWearDailyAppend s) :=
  completes_ite (completes_next _) (completes_next _)

theorem execSupplyLossWarning_completes (s : State) : Completes (execSupplyLossWarning s) :=
  completes_ite (completes_next _) (completes_next _)

theorem execShutdown_completes (s : State) : Completes (execShutdown s) :=
  completes_ite (completes_next _) (completes_next _)

theorem execSupplyReturn_completes (s : State) : Completes (execSupplyReturn s) :=
  completes_ite (completes_next _) (takeInput_completes s _ _)

/-! ### Every meaning, every move, every step -/

/-- The meaning of an instruction answers a next state; an operation of a bundle needs its warp. -/
theorem exec_completes (i : Instr) (s : State) (hop : encode i ≠ none → AtWarp s) : Completes (exec i s) := by
  cases i with
  | vadd | vsub | vmul | vmulhi | vmin | vmax | vminu | vmaxu | vand | vor | vxor | vandn | vshl | vshr | vsra | vclz | vpopc
    | vsel | vmov | vmovi | viota | vfadd | vfsub | vfmul | vfma | vfms | vfmin | vfmax | vfabs | vfneg | vfdiv | vfsqrt |
    vfexp2 | vflog2 | vfrnd | vcvt | vpkh | vupkh | vbpackM7 | vbpackM4 | vbpackM2 | vbunpk | vcmpEq | vcmpNe | vcmpLt |
    vcmpLe | vcmpLtu | vcmpLeu | vfcmpEq | vfcmpNe | vfcmpLt | vfcmpLe | vfcmpUn | vfkey | vrng | vshfl | vrotl | vredadd |
    vredfadd | vredmax | vscan | vfscan | vmatch | vplane =>
    exact runOp_completes (hop (encode_ne_none_of_encodeV rfl))
  | ldv | stv | ldg | stg | lds | ldsAcq | sts | stsRel | spld | spst | splds | spsts | tld | atomvAdd | atomvAnd | atomvOr |
    atomvXor | atomvMin | atomvMax | atomvMinu | atomvMaxu | atomsAdd | atomsAnd | atomsOr | atomsXor | atomsMin | atomsMax |
    atomsMinu | atomsMaxu | casv | cass | daccv | daccs | flush | fence | pref | vspill | vfill =>
    exact runOp_completes (hop (encode_ne_none_of_encodeM rfl))
  | cpy | cpyin | cpyout | cpyr | cpym | cpyat | cpyz | tdef | tfree | tstat | mres | mrel | chb | mstep | mstepG | che | cheG
    | mpop | mdep | gang | ungang | xsv | xvs | qbind | qunbind | qstat | barr | tpost | evset | limm =>
    exact runOp_completes (hop (encode_ne_none_of_encodeX rfl))
  | add | addi | sub | mul | mulhi | mulhu | div | divu | rem | remu | and | andi | or | ori | xor | xori | shl | shli | shr |
    shri | sra | srai | clz | ctz | popc | sel | movi | movhi | cmp | cmpi | br | brf | jmp | call | callr | ret | brd | join
    | bprep | bgo | penter | pexit | fwait | fclr | setx | crd | cwr | trap | eret | brk | trmark | sprint | sprel | rgrow |
    rshrink | timer | yield | endWarp | crdEnergyLo | cwrWtimer | cwrGdead =>
    exact runOp_completes (hop (encode_ne_none_of_encodeC rfl))
  | nop => exact runOp_completes (hop (by simp [encode]))
  | unassignedOpcode slot op => exact execUnassignedOpcode_completes (hop (encode_unassignedOpcode_ne_none slot op)) slot op
  | warpSelect | blockEnd | gangRendezvous | loadComplete | storeAck | atomicComplete | copyStart | cpyatLaunch | copyComplete
    | mrtGrant | matrixReadBeat | chainClose | mdepComplete | barrierPhaseComplete | translationWalk | trapDelivery |
    asyncFaultDelivery | preempt | contextSave | warpTimer | deadline | leaseExpired | watchdog | growRelease | growDeadlock |
    ualinkPortFail | debugCont | debugDump | debugStop | stallSample | unclamp | contextSwitchIn | sprintGrant | frameBoundary
    | gbHourlyFall | ptpHoldover | ptpDelayReq | taskKill | tlbiContext | tlbiRange | registerWrite | tlbiAll |
    flushEpisodeApply | clamp | ballastPreRamp | otherTraffic =>
    exact completes_next _
  | readHealthLog | readWearRecord | heatStoreUpdate | thermistorCorrection | energyEstimate | energyScale | deviceReset |
    coolantChange | monitorRead | patrolScrub | ptpSync | ptpFollowUp | ptpDelayResp | ptpAnnounce | hostSecretInstall |
    incomingRemoteAccess | registerUncorrectableError =>
    unfold exec
    exact takeInput_completes s _ _
  | openSession | closeSession | jread | ctxCreate | ctxDestroy | window | commit | read | post | evsetMessage | evclr | kill
    | query =>
    unfold exec
    exact onKind_completes _ _ s
  | unlistedMessageKind =>
    unfold exec
    exact onMessage_completes _ _ s
  | copyFault cluster id => exact execCopyFault_completes cluster id s
  | nodeCreate post => exact execNodeCreate_completes post s
  | nodeDispatch node clusters => exact execNodeDispatch_completes node clusters s
  | preemptionDecision node => exact execPreemptionDecision_completes node s
  | drainRedecide node => exact execDrainRedecide_completes node s
  | taskComplete node => exact execTaskComplete_completes node s
  | pumalTrapService warp => exact execPumalTrapService_completes warp s
  | firstTouchService ctx va => exact execFirstTouchService_completes ctx va s
  | saveDeadline node => exact execSaveDeadline_completes node s
  | taskRestore node clusters => exact execTaskRestore_completes node clusters s
  | remoteFail warp op => exact execRemoteFail_completes warp op s
  | gbStep die => exact execGbStep_completes die s
  | bulkWrite => exact execBulkWrite_completes s
  | supplyLossWarning => exact execSupplyLossWarning_completes s
  | supplyReturn => exact execSupplyReturn_completes s
  | wearDailyAppend => exact execWearDailyAppend_completes s
  | shutdown => exact execShutdown_completes s

theorem soleIssue_warp {d : Dev} {b : Mach} {k : Nat} {cur : Cur} {i : Instr} (h : soleIssue d b k = some (cur, i)) :
    cur.warp = k ∧ (getWarp? b k).isSome := by
  unfold soleIssue at h
  split at h
  · cases h
  · next w hw =>
    refine ⟨?_, by simp [hw]⟩
    split at h
    · cases h
    · split at h
      · simp only at h
        split at h
        · split at h
          · cases h
          · obtain ⟨o, -, h⟩ := Option.bind_eq_some_iff.mp h
            obtain ⟨j, -, h⟩ := Option.map_eq_some_iff.mp h
            cases h
            rfl
        · cases h
      · cases h

theorem stepWarp_completes (s : State) (k : Nat) : Completes (stepWarp s k) := by
  unfold stepWarp
  simp only
  refine completes_ite (completes_next _) ?_
  split
  · next cur i h =>
    obtain ⟨hk, hw⟩ := soleIssue_warp h
    exact exec_completes i _ fun _ => atWarp_of_warp (by rw [hk]; exact hw)
  · exact completes_next _

theorem stepCore_completes (s : State) (core : Nat) : Completes (stepCore s core) := by
  unfold stepCore
  simp only
  refine completes_ite (completes_next _) ?_
  split
  · exact stepWarp_completes _ _
  · exact completes_next _

theorem exec_completes_of_isEvent {i : Instr} (h : isEvent i = true) (s : State) : Completes (exec i s) :=
  exec_completes i s fun hop => absurd (Option.isNone_iff_eq_none.mp h) hop

theorem makeMove_completes (s : State) (v : Move) : Completes (makeMove s v) := by
  cases v with
  | event i =>
    unfold makeMove
    simp only
    split
    · next h => exact exec_completes_of_isEvent (Bool.and_eq_true_iff.mp h).1 s
    · exact completes_next _
  | elapse ns => exact completes_next _
  | sense amps load droops => exact completes_next _
  | strike e => exact completes_next _
  | issue core => exact completes_ite (stepCore_completes s core) (completes_next _)

theorem exec_completes_of_acts {s : State} {i : Instr} (h : acts s i = true) : Completes (exec i s) := by
  unfold acts at h
  split at h
  · next t ht => exact ⟨t, ht⟩
  · cases h
  · cases h

theorem ownStep_completes (s : State) : Completes (ownStep s) := by
  unfold ownStep
  refine completes_ite (completes_next _) ?_
  split
  · next i h => exact exec_completes_of_acts (List.find?_some h)
  · split
    · exact stepCore_completes _ _
    · exact completes_next _

/-- Settles O60: a move and the machine's own step both answer a next state. -/
theorem everyStepCompletes : Obligations.EveryStepCompletes := by
  intro s
  unfold step
  split
  · exact makeMove_completes _ _
  · exact ownStep_completes s

end Sys2Proof.Machine
end

section
/-!
O56: what a step runs. Of a core's turn, the one operation of the bundle that is due; of time, the clocks alone.
-/

namespace Sys2Proof.Machine

/-! ### Moves -/

theorem step_issue {s : State} {core : Nat} {rest : List Move} (ha : s.agenda = .issue core :: rest) (hon : s.dev.supply = .on) :
    step s = stepCore { s with agenda := rest } core := by
  unfold step
  rw [ha]
  exact if_pos hon

theorem step_event {s : State} {i : Instr} {rest : List Move} (ha : s.agenda = .event i :: rest) (hon : s.dev.supply = .on)
    (hi : encode i = none) : step s = exec i { s with agenda := rest } := by
  unfold step
  rw [ha]
  exact if_pos (by simp [isEvent, hi, hon])

theorem step_elapse {s : State} {ns : Nat} {rest : List Move} (ha : s.agenda = .elapse ns :: rest) :
    step s = .next (elapse { s with agenda := rest } ns) := by
  unfold step
  rw [ha]
  rfl

theorem stepCore_stopped {s : State} {core : Nat} (h : clockRuns s.mach core = false) : stepCore s core = .next s := by
  simp only [stepCore, h, Bool.not_false, if_true]

/-- A core's turn goes to the warp that it selects. -/
theorem step_issue_selected {s : State} {core k : Nat} {rest : List Move} (ha : s.agenda = .issue core :: rest)
    (hon : s.dev.supply = .on) (h : clockRuns s.mach core = true) (hk : (getCore (selectWarp s.mach core) core).selected = some k) :
    step s = stepWarp { s with agenda := rest, mach := selectWarp s.mach core } k := by
  rw [step_issue ha hon]
  simp only [stepCore, h, Bool.not_true, Bool.false_eq_true, if_false, hk]

theorem stepWarp_returns {s : State} {k : Nat} (h : returns (lookAhead s k) k = true) :
    stepWarp s k = .next { s with mach := leaveAfter s.dev (lookAhead s k) k, cur := none } := by
  simp only [stepWarp, h, if_true]

theorem stepWarp_sole {s : State} {k : Nat} {cur : Cur} {i : Instr} (h : returns (lookAhead s k) k = false)
    (hi : soleIssue s.dev (atBoundary s.dev.gtc (lookAhead s k) k) k = some (cur, i)) :
    stepWarp s k = exec i { s with mach := atBoundary s.dev.gtc (lookAhead s k) k, cur := some cur } := by
  simp only [stepWarp, h, Bool.false_eq_true, if_false, hi]

theorem stepWarp_whole {s : State} {k : Nat} (h : returns (lookAhead s k) k = false)
    (hi : soleIssue s.dev (atBoundary s.dev.gtc (lookAhead s k) k) k = none) :
    stepWarp s k = .next { s with mach := wholeBeat actionOf s.dev 8 (lookAhead s k) k, cur := none } := by
  simp only [stepWarp, h, Bool.false_eq_true, if_false, hi]

/-! ### The bundle that is due -/

theorem firstFault_eq_none {l : List SlotFault} (h : firstFault l = none) : l = [] := by
  cases l with
  | nil => rfl
  | cons a rest =>
    unfold firstFault at h
    split at h
    · cases h
    · split at h <;> cases h

theorem decodeBundle_ok {b : Bundle} {o : BundleOps} (h : decodeBundle b = .ok o) : staticFaults b = [] ∧ bundleOps b = o := by
  unfold decodeBundle at h
  split at h
  · cases h
  · next hf => exact ⟨firstFault_eq_none hf, Except.ok.inj h⟩

/-- A bundle that decodes, at a place that the region and the split leave to its stream, and sound in memory, is clean. -/
theorem cleanBundle_of_decodes {m : Mach} {k : Nat} {w : Warp} {p pl : Nat} {b : Bundle} {o : BundleOps}
    (hfetch : fetchFor m k w p pl = .got b) (hsound : fetchSound m k w p pl = true) (hdec : decodeBundle b = .ok o)
    (hstate : stateFaults w p pl (bundleAddr w (getPath w p).place pl) o (if pl = 0 then none else leadOps m k w p) = [])
    (hend : pastEnd w p = false) (hjoin : joinMissing w p o = false) : cleanBundle m k w p pl = some o := by
  obtain ⟨hstatic, hops⟩ := decodeBundle_ok hdec
  have hdecode : decodeFault m k w p pl b = none := by
    simp only [decodeFault, hend, Bool.false_eq_true, if_false, hstatic, hops, hstate, List.append_nil, firstFault]
  have hplace : misplaced w p o = none := by simp only [misplaced, hend, hjoin, Bool.false_eq_true, if_false]
  simp only [cleanBundle, hfetch, hsound, hops, hdecode, hplace, Option.isNone_none, Bool.and_true, if_true]

theorem soleIssue_of_clean {d : Dev} {b : Mach} {k : Nat} {w v : Warp} {p pl : Nat} {o : BundleOps} {i : Instr}
    (hw : getWarp? b k = some w) (hsteps : stepsItself w = true) (hturn : gangTurn b w = .go) (hentry : entryWaits w = false)
    (hret : w.ret = false) (hjoin : ∀ q ∈ pathsOf w, atJoin b k w q = false) (hdue : dueStreams b w = [(p, pl)])
    (hstop : stopDue b k w [(p, pl)] = none) (htrap : boundaryTrap actionOf d b k w [(p, pl)] = none)
    (hv : getWarp? (beatView b k w [(p, pl)]) k = some v)
    (htrap' : boundaryTrap actionOf d (beatView b k w [(p, pl)]) k v [(p, pl)] = none)
    (hclean : cleanBundle (beatView b k w [(p, pl)]) k v p pl = some o) (hsole : soleOp o = some i) :
    soleIssue d b k = some (stageOf k p pl o, i) := by
  have hjoins : (pathsOf w).any (atJoin b k w) = false := List.any_eq_false.mpr fun q hq => by simp [hjoin q hq]
  have hgo : (gangTurn b w != .go) = false := by simp [hturn]
  simp only [soleIssue, hw, hsteps, hgo, hentry, hret, hjoins, hdue, hstop, htrap, hv, htrap', hclean, hsole, Bool.not_true,
    Bool.or_false, Bool.false_eq_true, if_false, Option.isSome_none, Option.bind_some, Option.map_some]

/-! ### Time -/

/-- The clock and the memory of a machine: what the passing of time is stated about. -/
def clockMem (m : Mach) : Nat × Memory := (m.clock, m.mem)

/-- A fold of changes that keep the clock and the memory keeps them. -/
theorem foldl_clockMem {α : Type} {f : Mach → α → Mach} (h : ∀ m a, clockMem (f m a) = clockMem m) (l : List α) (m : Mach) :
    clockMem (l.foldl f m) = clockMem m := by
  induction l generalizing m with
  | nil => rfl
  | cons a l ih => exact (ih (f m a)).trans (h m a)

theorem updWarp_clockMem (m : Mach) (k : Nat) (f : Warp → Warp) : clockMem (updWarp m k f) = clockMem m := by
  simp only [clockMem, updWarp_clock, updWarp_mem]

theorem expireLease_clockMem (gtc : Nat) (m : Mach) (team : Nat) : clockMem (expireLease gtc m team) = clockMem m := by
  unfold expireLease
  split
  · rfl
  · split
    · exact updWarp_clockMem _ _ _
    · rfl

theorem noteRead_clockMem (x : Accessor) (m : Mach) (a n : Nat) : clockMem (noteRead x m a n) = clockMem m := by
  refine foldl_clockMem (fun m w => ?_) _ m
  split <;> rfl

theorem patrol_clockMem (gtc : Nat) (m : Mach) (a : Nat) : clockMem (patrol gtc m a) = clockMem m := by
  unfold patrol
  split
  · rfl
  · rfl
  · exact noteRead_clockMem _ m a 8

theorem patrolSweep_clockMem (m : Mach) (gtc now : Nat) : clockMem (patrolSweep m gtc now) = clockMem m :=
  foldl_clockMem (fun m _ => patrol_clockMem now m _) _ m

theorem frameBoundary_clockMem (d : Dev) (m : Mach) : clockMem (frameBoundary d m) = clockMem m :=
  foldl_clockMem (f := fun m cl => updCluster m cl (powered (chosenOnes d m cl) cl)) (fun _ _ => rfl) _ m

theorem countBusy_clockMem (m : Mach) (ns : Nat) : clockMem (countBusy m ns) = clockMem m := by
  refine foldl_clockMem (fun m x => ?_) _ m
  simp only
  split <;> rfl

theorem chargeEngines_clockMem (m : Mach) (ns : Nat) : clockMem (chargeEngines m ns) = clockMem m := by
  refine foldl_clockMem (fun m x => ?_) _ m
  refine (foldl_clockMem (fun m c => ?_) _ _).trans (foldl_clockMem (fun m c => ?_) _ m)
  · split <;> rfl
  · cases copyCounter m c <;> rfl

theorem noteSources_clockMem (p : Pcc) (m : Mach) : clockMem (noteSources p m) = clockMem m := by
  unfold noteSources
  split <;> rfl

theorem takeSamples_clock (d : Dev) (m : Mach) (ns : Nat) : (takeSamples d m ns).clock = m.clock := rfl

theorem takeSamples_mem {m : Mach} {ns : Nat} (d : Dev) (h : dueSamples m ns = []) : (takeSamples d m ns).mem = m.mem := by
  simp only [takeSamples, h, List.foldl_nil]

/-- While time passes the clock goes on by it, and only stall samples write memory. -/
theorem passMach_clockMem (d : Dev) (m : Mach) (ns : Nat) :
    clockMem (passMach d m ns) = (m.clock + ns, (takeSamples d m ns).mem) := by
  have hcounts (x : Mach) : clockMem (countBusy (chargeEngines x ns) ns) = clockMem x :=
    (countBusy_clockMem _ ns).trans (chargeEngines_clockMem x ns)
  obtain ⟨hclock, hmem⟩ := Prod.mk.inj (hcounts { takeSamples d m ns with
    warps := (takeSamples d m ns).warps.map fun (k, w) => (k, waitWarp (takeSamples d m ns) ns k w) })
  unfold passMach
  refine (noteSources_clockMem _ _).trans (Prod.ext ?_ hmem)
  exact congrArg (· + ns) hclock

theorem elapse_clockMem (s : State) (ns : Nat) :
    clockMem (elapse s ns).mach = (s.mach.clock + ns, (takeSamples s.dev s.mach ns).mem) := by
  have hlater (d : Dev) (m : Mach) (l : List Nat) (x : Mach) (hx : x = patrolSweep (l.foldl (expireLease d.gtc) m) s.dev.gtc d.gtc) :
      clockMem (if s.mach.clock / 16 < x.clock / 16 then frameBoundary d x else x) = clockMem m := by
    have hsweep : clockMem x = clockMem m := by
      rw [hx, patrolSweep_clockMem, foldl_clockMem fun m _ => expireLease_clockMem d.gtc m _]
    split
    · exact (frameBoundary_clockMem d x).trans hsweep
    · exact hsweep
  exact (hlater _ _ _ _ rfl).trans (passMach_clockMem s.dev s.mach ns)

theorem passDev_gtc (d : Dev) (leased : Bool) (clock ns : Nat) : (passDev d leased clock ns).gtc = (passGtc d ns).gtc := by
  unfold passDev
  split <;> rfl

/-- At the rate of one, and with no part of a nanosecond over, the GTC counts nanoseconds. -/
theorem passGtc_unslewed {d : Dev} {ns : Nat} (hslew : d.ptp.slew = 0) (hpart : d.ptp.part = 0) : (passGtc d ns).gtc = d.gtc + ns := by
  have hrate : (1000000000 + (0 : Int)).toNat = 1000000000 := rfl
  simp only [passGtc, hslew, hpart, hrate, Nat.zero_add, Nat.mul_div_cancel _ (by decide : 0 < 1000000000)]

/-- Settles O56, part by part: the clock that stands still, the core's turn, an event, and time. -/
theorem stepRunsDecoded : Obligations.StepRunsDecoded := by
  intro s rest hon
  refine ⟨fun core ha hclock => (step_issue ha hon).trans (stepCore_stopped hclock), fun core k ha hclock hsel => ?_,
    fun i ha hi => step_event ha hon hi, fun ns ha => ?_⟩
  · have hstep := step_issue_selected ha hon hclock hsel
    refine ⟨fun hret => hstep.trans (stepWarp_returns hret), ?_, fun hret hnone => hstep.trans (stepWarp_whole hret hnone)⟩
    intro w p pl v bundle o i hret hw hsteps hturn hentry hwret hjoin hdue hstop htrap view addr hv htrap' hfetch hsound
      hdec hstate hend hmiss hsole
    have hclean := cleanBundle_of_decodes hfetch hsound hdec hstate hend hmiss
    exact hstep.trans (stepWarp_sole hret
      (soleIssue_of_clean hw hsteps hturn hentry hwret hjoin hdue hstop htrap hv htrap' hclean hsole))
  · obtain ⟨hclock, hmem⟩ := Prod.mk.inj (elapse_clockMem { s with agenda := rest } ns)
    have hgtc : (elapse { s with agenda := rest } ns).dev.gtc = (passGtc s.dev ns).gtc := passDev_gtc _ _ _ _
    exact ⟨_, step_elapse ha, hclock, hgtc, fun hslew hpart => hgtc.trans (passGtc_unslewed hslew hpart), rfl,
      fun hdue => hmem.trans (takeSamples_mem _ hdue)⟩

end Sys2Proof.Machine
end

section
/-!
PROOF. VSEL and the FP32 operations (R72, R171, R177, R181): an operation of the V slot that traps, and FP_TRAP of the mould `vecOp`.
-/

namespace Sys2Proof.Machine

/-! ### Traps of the V slot -/

/-- An operation of the V slot whose check fails traps; with FP_TRAP the flags that it raises are set first (R72). -/
theorem runOp_traps_inV {s : State} {i : Instr} {st : Stage} (h : AtIssue s .v i st) {a : Act} {e : Exn}
    (ht : (a st.c).trap = some e) : runOp s .v i a = st.traps s 0 e (fpTrapBits a st.c e) := by
  obtain ⟨ho, hp, -⟩ := h
  have hc : st.o.c = .nop := by rw [(opStage_o ho).1]; rfl
  rw [runOp_stage ho]
  unfold stageMach stageExam examOps
  simp [hc, nopAct, not_starved hp, ht, Action.unfed, placeTrap, Stage.traps]

/-- The check of enabled flags names the lowest active lane that raises one. -/
theorem fpTrap_some {c : Ctx} {flags : Nat → Nat} {l : Nat} (h : c.trapsFirst flags l) :
    c.fpTrap flags = some { code := TrapName.fpTrap.code, lane := l } := by
  obtain ⟨⟨hl, hm, hf⟩, hj⟩ := h
  rw [Ctx.fpTrap, firstLane_some hl hm (by simpa using hf) fun j hjl hmj => by simpa using hj j hjl hmj]
  rfl

/-- The mould of V operations traps where an active lane raises an enabled flag and nothing else stands against it. -/
theorem vecOp_flagsTrap {s : State} {i : Instr} {st : Stage} {l : Nat} {rs : List (BitVec 7)}
    {reads : Ctx → List (BitVec 7 × DWord)} {pre : Ctx → Option Exn} {vd : BitVec 7} {nw : Bool} {f : Ctx → Nat → Flagged Word}
    (hx : exec i s = runOp s .v i (vecOp l rs reads pre vd nw f)) (h : AtIssue s .v i st)
    (hr : st.c.mask ≠ 0#64 → st.c.clean (reads st.c) ∧ st.c.bsUsable rs) (hp : st.c.mask ≠ 0#64 → pre st.c = none) :
    flagsTrap s st i fun k => (f st.c k).2 := by
  intro k hk
  have hm : st.c.mask ≠ 0#64 := mask_ne_zero hk.1.2.1
  have ht : (vecOp l rs reads pre vd nw f st.c).trap = some { code := TrapName.fpTrap.code, lane := k } := by
    simp [vecOp, hm, poisonReads_none (hr hm).1, bsChecks_none (hr hm).2, hp hm, fpTrap_some hk]
  rw [hx, runOp_traps_inV h ht]
  simp [fpTrapBits, vecOp, hm, TrapName.code]

/-! ### The forms -/

/-- What O2 says of one form: its result and flags where no raised flag traps, and FP_TRAP where one does. -/
def FloatForm (s : State) (st : Stage) (i : Instr) (l : Nat) (rs : List (BitVec 7)) (vd : BitVec 7) (nw : Bool)
    (g : Nat → Flagged Word) : Prop :=
  (AtIssue s .v i st → st.c.readable rs → (st.c.untrapped fun k => (g k).2) → exec i s = st.next s (st.c.vectorResult l vd nw g)) ∧
  (AtIssue s .v i st → st.c.readable rs → flagsTrap s st i fun k => (g k).2)

/-- The mould of operations that read their active lanes alone does what O2 says. -/
theorem vecOp_floatForm {s : State} {st : Stage} {i : Instr} {l : Nat} {rs : List (BitVec 7)} {vd : BitVec 7} {nw : Bool}
    {f : Ctx → Nat → Flagged Word} (hi : ∀ f, i ≠ .fwait f)
    (hx : exec i s = runOp s .v i (vecOp l rs (activeReads rs) (fun _ => none) vd nw f)) : FloatForm s st i l rs vd nw (f st.c) :=
  ⟨fun h hr hf => hx.trans (vecOp_next h hi hr (fun _ => rfl) hf), fun h hr => vecOp_flagsTrap hx h hr fun _ => rfl⟩

theorem floatLanes_form {e} (he : e ∈ floatLanes) (vd va vb : BitVec 7) (nw : Bool) (s : State) :
    encodeV (e.1 vd va vb nw) = some (packVR e.2.1 vd va vb nw) ∧ (∀ f, e.1 vd va vb nw ≠ .fwait f) ∧
    exec (e.1 vd va vb nw) s = runOp s .v (e.1 vd va vb nw) (lane2f e.2.2.1 vd va vb nw e.2.2.2) := by
  simp only [floatLanes, List.mem_cons, List.not_mem_nil, or_false] at he
  rcases he with rfl | rfl | rfl | rfl | rfl | rfl <;> exact ⟨rfl, nofun, rfl⟩

theorem floatUnary_form {e} (he : e ∈ floatUnary) (vd va : BitVec 7) (nw : Bool) (s : State) :
    encodeV (e.1 vd va nw) = some (packVR e.2.1 vd va 0#7 nw) ∧ (∀ f, e.1 vd va nw ≠ .fwait f) ∧
    exec (e.1 vd va nw) s = runOp s .v (e.1 vd va nw) (lane1f e.2.2.1 vd va nw fun _ => e.2.2.2) := by
  simp only [floatUnary, List.mem_cons, List.not_mem_nil, or_false] at he
  rcases he with rfl | rfl | rfl | rfl | rfl <;> exact ⟨rfl, nofun, rfl⟩

/-- VSEL takes b where the lane of vd is 0, as its table says, and a where it is not, as the model does. -/
theorem actVsel_eq (vd va vb : BitVec 7) (nw : Bool) :
    actVsel vd va vb nw = lane3f 2 vd va vb nw fun a b d => (if d = 0#32 then b else a, 0) := by
  simp only [actVsel, bne_iff_ne, ne_eq, ite_not]

theorem ternaryLanes_form {e} (he : e ∈ ternaryLanes) (vd va vb : BitVec 7) (nw : Bool) (s : State) :
    encodeV (e.1 vd va vb nw) = some (packVR e.2.1 vd va vb nw) ∧ (∀ f, e.1 vd va vb nw ≠ .fwait f) ∧
    exec (e.1 vd va vb nw) s = runOp s .v (e.1 vd va vb nw) (lane3f e.2.2.1 vd va vb nw e.2.2.2) := by
  simp only [ternaryLanes, List.mem_cons, List.not_mem_nil, or_false] at he
  rcases he with rfl | rfl | rfl
  · exact ⟨rfl, nofun, congrArg (runOp s .v (.vsel vd va vb nw)) (actVsel_eq vd va vb nw)⟩
  · exact ⟨rfl, nofun, rfl⟩
  · exact ⟨rfl, nofun, rfl⟩

/-- Settles O2: every form is the mould of lane operations with its own latency, sources and lane function. -/
theorem floatLaneResults : Obligations.FloatLaneResults := by
  refine ⟨fun e he s st vd va vb nw => ?_, fun e he s st vd va nw => ?_, fun e he s st vd va vb nw => ?_⟩
  · obtain ⟨henc, hi, hx⟩ := floatLanes_form he vd va vb nw s
    exact ⟨henc, vecOp_floatForm hi hx⟩
  · obtain ⟨henc, hi, hx⟩ := floatUnary_form he vd va nw s
    exact ⟨henc, vecOp_floatForm hi hx⟩
  · obtain ⟨henc, hi, hx⟩ := ternaryLanes_form he vd va vb nw s
    exact ⟨henc, vecOp_floatForm hi hx⟩

end Sys2Proof.Machine
end

section
/-!
PROOF. The flags and control registers of the C slot (R66 to R79, R261, R275, R284 to R289, R453).
-/

namespace Sys2Proof.Machine

/-! ### FWAIT and FCLR -/

theorem stage_fwait {s : State} {mask : BitVec 16} {st : Stage} (h : opStage s .c (.fwait mask) = some st) : st.o.c = .fwait mask := by
  rw [(opStage_o h).1]; rfl

/-- FWAIT meets its flags before every other check: one that is clear and not pending traps. -/
theorem runOp_fwait_unowned {s : State} {mask : BitVec 16} {st : Stage} {a : Act} (h : opStage s .c (.fwait mask) = some st)
    (hf : waitFlags st.c.w mask false = true) : runOp s .c (.fwait mask) a = st.traps s 3 { code := TrapName.flagUnowned.code } := by
  rw [runOp_stage h]
  unfold stageMach stageExam examOps
  simp [stage_fwait h, hf, Stage.traps, fpTrapBits, TrapName.code]

/-- Else one that is clear and pending blocks. -/
theorem runOp_fwait_waits {s : State} {mask : BitVec 16} {st : Stage} {a : Act} (h : opStage s .c (.fwait mask) = some st)
    (hf : waitFlags st.c.w mask false = false) (hp : waitFlags st.c.w mask true = true) :
    runOp s .c (.fwait mask) a = st.waits s .flag := by
  rw [runOp_stage h]
  unfold stageMach stageExam examOps
  simp [stage_fwait h, hf, hp, Stage.waits]

/-- Else FWAIT issues. -/
theorem runOp_fwait_ready {s : State} {mask : BitVec 16} {st : Stage} {a : Act} (h : AtIssue s .c (.fwait mask) st)
    (hf : waitFlags st.c.w mask false = false) (hp : waitFlags st.c.w mask true = false) (ha : (a st.c).free)
    (hafter : (a st.c).after = none) : runOp s .c (.fwait mask) a = st.next s (a st.c).fx (a st.c).last := by
  obtain ⟨ho, hpop, hq⟩ := h
  obtain ⟨hs, ht, hb⟩ := ha
  rw [runOp_stage ho]
  unfold stageMach stageExam examOps
  simp only [stage_fwait ho, hf, hp, reduceIte, reduceCtorEq, nopAct, not_starved hpop, unfed_false, placeTrap, hs, ht, hb, hpop, hq, causeIf,
    leastCause, Bool.false_eq_true]
  simp [Stage.next, Stage.issued, issueStream, effects, firstExn, hafter]

/-- A flag that FWAIT names is clear. -/
theorem waitFlags_iff (w : Warp) (mask : BitVec 16) (pend : Bool) :
    waitFlags w mask pend = true ↔ ∃ f, (f < 16 ∧ mask.getLsbD f = true) ∧ (getF w f).set = false ∧ (getF w f).pend = pend := by
  simp [waitFlags, and_assoc]

theorem waitFlags_false {w : Warp} {mask : BitVec 16} {pend : Bool}
    (h : ∀ f, f < 16 ∧ mask.getLsbD f = true → (getF w f).set = true ∨ (getF w f).pend ≠ pend) : waitFlags w mask pend = false := by
  rw [Bool.eq_false_iff, Ne, waitFlags_iff]
  rintro ⟨f, hn, hset, hpend⟩
  rcases h f hn with h | h
  · simp [h] at hset
  · exact h hpend

/-- Settles O22: FWAIT goes by the clear flags that it names, FCLR by the pending ones. -/
theorem flagWaits : Obligations.FlagWaits := by
  intro s st mask c named
  have hclr : ∀ f, Instr.fclr mask ≠ .fwait f := nofun
  refine ⟨fun h hset => ?_, fun h hown hclear => ?_, fun h hun => ?_, fun h hp => ?_, fun h hp => ?_⟩
  · have hnone (p : Bool) : waitFlags c.w mask p = false := waitFlags_false fun f hn => .inl (hset f hn)
    exact runOp_fwait_ready (a := actFwait mask) h (hnone false) (hnone true) ⟨rfl, rfl, rfl⟩ rfl
  · obtain ⟨f, hn, hset⟩ := hclear
    have hpend : (getF c.w f).pend = true := (hown f hn).resolve_left (by simp [hset])
    have hnone : waitFlags c.w mask false = false := waitFlags_false fun g hg => (hown g hg).imp_right fun h => by simp [h]
    exact runOp_fwait_waits h hnone ((waitFlags_iff ..).mpr ⟨f, hn, hset, hpend⟩)
  · exact runOp_fwait_unowned h ((waitFlags_iff ..).mpr hun)
  · have hany : (((List.range 16).filter fun f => mask.getLsbD f).any fun f => (getF c.w f).pend) = false := by
      simpa [List.any_eq_false] using fun f hf hm => hp f ⟨hf, hm⟩
    exact runOp_ready h (a := actFclr mask) hclr ⟨rfl, by simp only [actFclr, c, hany, exnIf_false], rfl⟩
  · have hany : (((List.range 16).filter fun f => mask.getLsbD f).any fun f => (getF c.w f).pend) = true := by
      obtain ⟨f, ⟨hf, hm⟩, hpend⟩ := hp
      exact List.any_eq_true.mpr ⟨f, by simp [hf, hm], hpend⟩
    exact runOp_traps (slot := .c) h (a := actFclr mask) hclr rfl (by simp only [actFclr, c, hany, exnIf_true]; rfl) (by simp [TrapName.code])
      (.inl (by simp [valueFree]))

/-! ### CRD -/

/-- What CRD does whose destination may be used. -/
theorem crd_next {s : State} {i : Instr} {st : Stage} {sd : BitVec 6} {n : Nat} (h : AtIssue s .c i st) (hi : ∀ f, i ≠ .fwait f)
    (hx : exec i s = runOp s .c i (crdOp sd n)) (hu : st.c.usable [] (some sd)) : exec i s = st.next s (crdOp sd n st.c).fx :=
  hx.trans (scalar_next h hi (a := crdOp sd n) hu rfl)

/-- A register that is neither a producer record nor c.energy.lo is read with no other effect. -/
theorem crdOp_plain {c : Ctx} {sd : BitVec 6} {n : Nat} (hrec : ¬ (0x20 ≤ n ∧ n < 0x30)) (hlo : n ≠ 0x13) :
    (crdOp sd n c).fx = c.sendS sd (BitVec.ofNat 64 (cregNat c n)) false 1 := by
  funext m
  have hb : (decide (0x20 ≤ n) && decide (n < 0x30)) = false := by simpa using hrec
  simp [crdOp, hb, hlo]

theorem cregNat_record (c : Ctx) {f : Nat} (hf : f < 16) : cregNat c (0x20 + f) = flagWord (getF c.w f) := by
  have hn : 0x20 ≤ 0x20 + f ∧ 0x20 + f < 0x30 := by omega
  simp [cregNat, hn.1, hn.2]

/-- The word of a producer record as the sum of its fields. -/
theorem flagWord_eq (r : FlagRec) : flagWord r = r.cidx + r.plane * 2 ^ 29 + bitNat r.pend * 2 ^ 31 + r.seq * 2 ^ 32 := by
  simp only [flagWord, packFields, listSum, List.map_cons, List.map_nil]
  omega

theorem packFields_pair (k a b : Nat) : packFields [(k, a), (0, b)] = b + a * 2 ^ k := by
  simp only [packFields, listSum, List.map_cons, List.map_nil]
  omega

/-- A producer record is read as its word; one that is not pending is observed. -/
theorem crdOp_record {c : Ctx} {sd : BitVec 6} {f : Nat} (hf : f < 16) (m : Mach) : (crdOp sd (0x20 + f) c).fx m =
    (let r := getF c.w f
    let m := c.sendS sd (BitVec.ofNat 64 (r.cidx + r.plane * 2 ^ 29 + bitNat r.pend * 2 ^ 31 + r.seq * 2 ^ 32)) false 1 m
    if r.pend then m else updWarp m c.k (observe c.w [f])) := by
  have hlo : 0x20 + f ≠ 0x13 := by omega
  have hn : 0x20 + f < 0x30 := by omega
  simp only [crdOp, cregNat_record c hf, flagWord_eq, Nat.add_sub_cancel_left, Nat.le_add_right, hn, hlo]
  cases (getF c.w f).pend <;> rfl

/-- No listed register is a producer record or c.energy.lo. -/
theorem controlRegisters_plain {c : Ctx} {e : BitVec 8 × Nat} (he : e ∈ controlRegisters c) :
    ¬ (0x20 ≤ e.1.toNat ∧ e.1.toNat < 0x30) ∧ e.1.toNat ≠ 0x13 := by
  have hnos : ∀ n ∈ [0x00#8, 0x01, 0x02, 0x03, 0x04, 0x05, 0x06, 0x07, 0x08, 0x09, 0x0a, 0x0b, 0x0c, 0x0d, 0x0e, 0x0f, 0x10, 0x11, 0x12, 0x14,
      0x15, 0x16, 0x17, 0x30], ¬ (0x20 ≤ n.toNat ∧ n.toNat < 0x30) ∧ n.toNat ≠ 0x13 := by decide +kernel
  exact hnos e.1 (List.mem_map_of_mem (f := Prod.fst) he)

/-- Each listed register holds what CRD reads. -/
theorem controlRegisters_value (c : Ctx) : ∀ e ∈ controlRegisters c, cregNat c e.1.toNat = e.2 := by
  simp only [controlRegisters, List.forall_mem_cons]
  exact ⟨rfl, rfl, rfl, rfl, rfl, rfl, rfl, rfl, rfl, rfl, rfl, rfl, rfl, rfl, rfl, packFields_pair .., packFields_pair .., packFields_pair ..,
    by simp [cregNat, leaseOver], rfl, rfl, rfl, rfl, rfl, nofun⟩

/-- Settles O23: CRD's effect for a plain register, a producer record and c.energy.lo. -/
theorem controlRegisterReads : Obligations.ControlRegisterReads := by
  intro s st sd hu c
  refine ⟨fun e he h => ?_, fun f hf h => ?_, fun h => ?_⟩
  · obtain ⟨hrec, hlo⟩ := controlRegisters_plain he
    rw [crd_next h nofun (n := e.1.toNat) rfl hu, crdOp_plain hrec hlo, controlRegisters_value _ e he]
  · have hn : (BitVec.ofNat 8 (0x20 + f)).toNat = 0x20 + f := by
      rw [BitVec.toNat_ofNat, Nat.mod_eq_of_lt (by omega)]
    have hx := crd_next h nofun (n := (BitVec.ofNat 8 (0x20 + f)).toNat) rfl hu
    rw [hn] at hx
    rw [hx]
    congr 1
    funext m
    exact crdOp_record hf m
  · rw [crd_next h nofun (n := 0x13) rfl hu]
    rfl

/-! ### SETX and CWR -/

/-- In supervisor mode every register but the read-only ones may be written. -/
theorem cwr_permitted {c : Ctx} {n : Nat} (hro : cregRO n = false) (hs : c.w.sup = true) :
    (cregRO n || (!c.w.sup && (cregRS n || n = 0x30))) = false := by
  simp [hro, hs]

/-- What CWR does whose checks hold. -/
theorem cwr_next {s : State} {i : Instr} {st : Stage} {sa : BitVec 6} {n : Nat} (h : AtIssue s .c i st) (hi : ∀ f, i ≠ .fwait f)
    (hx : exec i s = runOp s .c i (cwrOp n sa)) (hu : st.c.usable [sa] none)
    (hpriv : (cregRO n || (!st.c.w.sup && (cregRS n || n = 0x30))) = false) (hres : cregReserved st.c n (st.c.sv sa) = false)
    (hlim : n = 0x0a → pushTop st.c ≤ st.c.w.stklim) : exec i s = st.next s (cwrFx st.c n (st.c.sv sa)) := by
  have hl : (decide (n = 0x0a) && decide (st.c.w.stklim < pushTop st.c)) = false := by
    rw [Bool.and_eq_false_imp, decide_eq_true_eq, decide_eq_false_iff_not, not_lt]
    exact hlim
  exact hx.trans (runOp_ready h hi (a := cwrOp n sa) ⟨rfl, by simp [cwrOp, scalars_none hu, hpriv, hres, hl], rfl⟩)

/-- A write of a register that its mode may not write traps, whatever it would write. -/
theorem cwr_priv {s : State} {i : Instr} {st : Stage} {sa : BitVec 6} {n : Nat} (h : opStage s .c i = some st) (hi : ∀ f, i ≠ .fwait f)
    (hx : exec i s = runOp s .c i (cwrOp n sa)) (hu : st.c.usable [sa] none)
    (hpriv : (cregRO n || (!st.c.w.sup && (cregRS n || n = 0x30))) = true) : exec i s = st.traps s 3 { code := 0x2d } :=
  hx.trans (runOp_traps (slot := .c) h hi (a := cwrOp n sa) rfl (by simp [cwrOp, scalars_none hu, hpriv]; rfl) (by simp [TrapName.code])
    (.inl (by simp [valueFree])))

/-- A reserved bit that is not 0, or a field that may not change, traps. -/
theorem cwr_reserved {s : State} {i : Instr} {st : Stage} {sa : BitVec 6} {n : Nat} (h : AtIssue s .c i st) (hi : ∀ f, i ≠ .fwait f)
    (hx : exec i s = runOp s .c i (cwrOp n sa)) (hu : st.c.usable [sa] none)
    (hpriv : (cregRO n || (!st.c.w.sup && (cregRS n || n = 0x30))) = false) (hres : cregReserved st.c n (st.c.sv sa) = true) :
    exec i s = st.traps s 3 { code := 0x2e } :=
  hx.trans (runOp_traps_outsideV (slot := .c) h hi nofun (a := cwrOp n sa) rfl (by simp [cwrOp, scalars_none hu, hpriv, hres]; rfl))

/-- A doubleword has no bit from `k` on just where it is below 2^k. -/
theorem shiftRight_ne_zero (v : DWord) (k : Nat) : (v >>> k != 0) = decide (2 ^ k ≤ v.toNat) := by
  rw [BitVec.ofNat_eq_ofNat, Bool.eq_iff_iff, bne_iff_ne, decide_eq_true_eq, Ne, ← BitVec.toNat_inj, BitVec.toNat_ushiftRight,
    Nat.shiftRight_eq_div_pow, BitVec.toNat_zero, Nat.div_eq_zero_iff]
  have := Nat.two_pow_pos k
  omega

/-! ### The machine that the slots of a bundle act on -/

/-- A stage's machine once its bundle has been broadcast, its queue entries are popped and its sync point is noted (R33, R40, R99). -/
def Stage.entered (st : Stage) : Mach :=
  let m := takePops (noteIssue st.c.m st.c.w st.c.path st.c.plane st.word st.planes) st.c.w.team st.c.pops
  if st.o.sync && st.c.w.region.isSome && st.c.q.issued.isEmpty then addSync m st.c.k st.c.path false else m

/-- Effects that agree on that machine issue alike. -/
theorem stageNext_congr {s : State} {st : Stage} {fx fx' : Mach → Mach} (h : fx st.entered = fx' st.entered) : st.next s fx = st.next s fx' := by
  have he (f : Mach → Mach) : effects (noteIssue st.c.m st.c.w st.c.path st.c.plane st.word st.planes) st.c st.o.sync { fx := f } {} {} {} =
      f st.entered := rfl
  unfold Stage.next Stage.issued issueStream
  rw [he, he, h]

theorem noteIssue_same (m : Mach) (w : Warp) (path plane : Nat) (word : Bundle) (planes : List Nat) :
    (noteIssue m w path plane word planes).nodes = m.nodes ∧ (noteIssue m w path plane word planes).warps = m.warps := by
  unfold noteIssue
  split <;> exact ⟨rfl, rfl⟩

theorem takePops_same (m : Mach) (team : Nat) (ps : List Pop) :
    (takePops m team ps).nodes = m.nodes ∧ (takePops m team ps).warps = m.warps := by
  unfold takePops
  induction ps generalizing m with
  | nil => exact ⟨rfl, rfl⟩
  | cons p ps ih => exact ih _

theorem mem_of_mapGet? {α : Type} {m : Map α} {n : Nat} {a : α} (h : mapGet? m n = some a) : (n, a) ∈ m := by
  induction m with
  | nil => cases h
  | cons x m ih =>
    obtain ⟨k, b⟩ := x
    simp only [mapGet?] at h
    split at h
    · next hk =>
      obtain rfl : b = a := by simpa using h
      simp [hk]
    · exact List.mem_cons_of_mem _ (ih h)

/-- A value put in the place of one that a test does not tell from it. -/
theorem any_mapPut {α : Type} {m : Map α} {n : Nat} {a b : α} {p : α → Bool} (h : mapGet? m n = some b) (hp : p a = p b) :
    (mapPut m n a).any (fun x => p x.2) = m.any fun x => p x.2 := by
  have hin : p b = true → (m.any fun x => p x.2) = true := fun hb => List.any_eq_true.mpr ⟨_, mem_of_mapGet? h, hb⟩
  induction m with
  | nil => cases h
  | cons x m ih =>
    obtain ⟨k, v⟩ := x
    simp only [mapPut]
    split
    · rw [List.any_cons, hp]
      cases hb : p b with
      | false => rfl
      | true => rw [hin hb]; rfl
    · simp only [mapGet?] at h
      split
      · next hk =>
        obtain rfl : v = b := by simpa [hk] using h
        simp [hp]
      · next hk =>
        rw [if_neg hk] at h
        rw [List.any_cons, List.any_cons, ih h fun hb => List.any_eq_true.mpr ⟨_, mem_of_mapGet? h, hb⟩]

theorem any_updWarp {m : Mach} {k : Nat} {f : Warp → Warp} {p : Warp → Bool} (hp : ∀ w, p (f w) = p w) :
    (updWarp m k f).warps.any (fun x => p x.2) = m.warps.any fun x => p x.2 := by
  rcases updWarp_eq m k f with h | ⟨w, hw, h⟩
  · rw [h]
  · rw [h]
    exact any_mapPut hw (hp w)

/-- Up to there every node, and which nodes have warps, is as the bundle saw it. -/
theorem entered_same (st : Stage) : st.entered.nodes = st.c.m.nodes ∧
    ∀ n, (st.entered.warps.any fun x => x.2.node = n) = st.c.m.warps.any fun x => x.2.node = n := by
  obtain ⟨hn, hw⟩ := takePops_same (noteIssue st.c.m st.c.w st.c.path st.c.plane st.word st.planes) st.c.w.team st.c.pops
  obtain ⟨hn', hw'⟩ := noteIssue_same st.c.m st.c.w st.c.path st.c.plane st.word st.planes
  rw [hn'] at hn
  rw [hw'] at hw
  unfold Stage.entered
  dsimp only
  split
  · refine ⟨(updWarp_nodes _ _ _).trans hn, fun n => ?_⟩
    rw [addSync, any_updWarp (p := fun w => decide (w.node = n)) fun w => by split <;> rfl, bump_warps, hw]
  · exact ⟨hn, fun n => by rw [hw]⟩

theorem listBest_eq_none {α : Type} {before : α → α → Bool} {l : List α} (h : listBest before l = none) : l = [] := by
  cases l with
  | nil => rfl
  | cons a l =>
    simp only [listBest] at h
    split at h
    · cases h
    · split at h <;> cases h

/-- A context has a warp to take its deadline where a resident task of it has a warp. -/
theorem deadlineWarps_isEmpty (m : Mach) (ctx : Nat) : (deadlineWarps m ctx).isEmpty =
    !(m.nodes.any fun x => decide (x.2.ctx = ctx) && x.2.resident && m.warps.any fun y => decide (y.2.node = x.1)) := by
  have hfirst (h : Nat) : firstWarp m h = none ↔ (m.warps.any fun y => decide (y.2.node = h)) = false := by
    rw [firstWarp, Option.map_eq_none_iff]
    refine ⟨fun hn => ?_, fun hn => ?_⟩
    · simpa using listBest_eq_none hn
    · rw [List.filter_eq_nil_iff.mpr (by simpa using hn)]; rfl
  rw [Bool.eq_iff_iff, List.isEmpty_iff, deadlineWarps, List.filterMap_eq_nil_iff]
  simp only [hfirst, List.mem_filter, Bool.not_eq_true', List.any_eq_false]
  simp

theorem deadlineWarps_entered (st : Stage) (ctx : Nat) :
    (deadlineWarps st.entered ctx).isEmpty = (deadlineWarps st.c.m ctx).isEmpty := by
  obtain ⟨hn, hw⟩ := entered_same st
  simp only [deadlineWarps_isEmpty, hn, hw]

/-- CWR of c.gdead raises a deadline that has passed where a warp can take it. -/
theorem cwrFx_gdead (c : Ctx) (v : DWord) (m : Mach) : cwrFx c 0x0e v m =
    if v != 0 && decide (v.toNat ≤ c.d.gtc) && !(deadlineWarps m c.w.ctx).isEmpty then later (.gdead 0) c (raiseDeadline m c.w.ctx)
    else later (.gdead v.toNat) c m := rfl

/-- Settles O24: every form is CWR of its register, but for SETX; whether a deadline that has passed can be raised is as the bundle saw it. -/
theorem controlRegisterWrites : Obligations.ControlRegisterWrites := by
  intro s st sa hu c v
  refine ⟨fun h => ?_, fun h => ?_, fun h => ?_, fun h hv => ?_, fun h hv => ?_, fun h hs ht => ?_, fun h hs hv => ?_, fun h hs hv hd => ?_,
    fun h hs hv => ?_, fun h hs hv => ?_⟩
  · exact scalar_next h (a := actSetx sa) nofun hu rfl
  · exact cwr_next h nofun (n := 0x00) rfl hu (by simp [cregRO, cregRS]) rfl nofun
  · exact cwr_next h nofun (n := 0x0c) rfl hu (by simp [cregRO, cregRS]) rfl nofun
  · exact cwr_next h nofun (n := 0x15) rfl hu (by simp [cregRO, cregRS])
      ((shiftRight_ne_zero _ 7).trans (decide_eq_false (Nat.not_le.mpr hv))) nofun
  · exact cwr_next h nofun (n := 0x17) rfl hu (by simp [cregRO, cregRS])
      ((shiftRight_ne_zero _ 2).trans (decide_eq_false (Nat.not_le.mpr hv))) nofun
  · exact cwr_next h nofun (n := 0x0a) rfl hu (cwr_permitted rfl hs) rfl fun _ => ht
  · rw [cwr_next h nofun (n := 0x0e) rfl hu (cwr_permitted rfl hs) rfl nofun]
    congr 1
    funext m
    have hp : (v != 0 && decide (v.toNat ≤ c.d.gtc)) = false := by
      rcases hv with hv | hv
      · simp [hv]
      · simp [Nat.not_le.mpr hv]
    rw [cwrFx_gdead, hp, Bool.false_and]
    rfl
  · rw [cwr_next h nofun (n := 0x0e) rfl hu (cwr_permitted rfl hs) rfl nofun]
    refine stageNext_congr ?_
    have hp : (v != 0 && decide (v.toNat ≤ c.d.gtc)) = true := by simp [hv, hd]
    rw [cwrFx_gdead, hp, Bool.true_and, deadlineWarps_entered]
    cases (deadlineWarps c.m c.w.ctx).isEmpty <;> rfl
  · exact cwr_next h nofun (n := 0x16) rfl hu (cwr_permitted rfl hs) (by simpa [cregReserved] using hv) nofun
  · refine cwr_next h nofun (n := 0x30) rfl hu (cwr_permitted rfl hs) ?_ nofun
    rw [cregReserved, shiftRight_ne_zero]
    rcases hv with hv | hv
    · rw [show (getCore st.c.m (coreOf st.c.k)).written = true from hv]
      rfl
    · rw [decide_eq_false (Nat.not_le.mpr hv), Bool.and_false]

/-! ### The forms that trap -/

/-- A jump to an address that is not a multiple of 16 traps with that address. -/
theorem jumpTo_misaligned {s : State} {i : Instr} {st : Stage} {sa : BitVec 6} {after : Ctx → Mach → Mach} (h : AtIssue s .c i st)
    (hi : ∀ f, i ≠ .fwait f) (hx : exec i s = runOp s .c i (jumpTo sa after)) (hu : st.c.usable [sa] none)
    (ha : (st.c.sv sa).toNat % 16 ≠ 0) : exec i s = st.traps s 3 { code := 0x19, addr := (st.c.sv sa).toNat } :=
  hx.trans (runOp_traps_outsideV (slot := .c) h hi nofun (a := jumpTo sa after) rfl (by simp [jumpTo, scalars_none hu, ha]; rfl))

/-- Settles O25: where the checks ahead of it hold, each form's own check gives its trap. -/
theorem formsThatTrap : Obligations.FormsThatTrap := by
  intro s st sa c
  refine ⟨fun n hn h hu => ?_, fun n hn h hu hs => ?_, fun e he h hu hv => ?_, fun h hu hs hv => ?_, fun h hu hs hw hv => ?_,
    fun h hu hs hl => ?_, fun h hu hs => ?_, fun tb d h hs => ?_, fun tb inv h hu hs => ?_, fun h hr => ?_, fun h hu ha => ?_,
    fun h hu ha => ?_⟩
  · have hro : ∀ n ∈ [0x01#8, 0x02, 0x03, 0x04, 0x05, 0x06, 0x07, 0x08, 0x09, 0x0b, 0x0d, 0x0f, 0x10, 0x11, 0x12, 0x13, 0x14, 0x20, 0x21, 0x22,
        0x23, 0x24, 0x25, 0x26, 0x27, 0x28, 0x29, 0x2a, 0x2b, 0x2c, 0x2d, 0x2e, 0x2f], cregRO n.toNat = true := by decide +kernel
    exact cwr_priv h nofun (n := n.toNat) rfl hu (by rw [hro n hn, Bool.true_or])
  · have hrs : ∀ n ∈ [0x0a#8, 0x16, 0x30], (cregRS n.toNat || n.toNat = 0x30) = true := by decide +kernel
    exact cwr_priv h nofun (n := n.toNat) rfl hu (by rw [hrs n hn, show st.c.w.sup = false from hs, Bool.not_false, Bool.and_self, Bool.or_true])
  · simp only [List.mem_cons, List.not_mem_nil, or_false] at he
    rcases he with rfl | rfl
    · exact cwr_reserved h nofun (n := 0x15) rfl hu (by simp [cregRO, cregRS]) ((shiftRight_ne_zero _ 7).trans (decide_eq_true hv))
    · exact cwr_reserved h nofun (n := 0x17) rfl hu (by simp [cregRO, cregRS]) ((shiftRight_ne_zero _ 2).trans (decide_eq_true hv))
  · exact cwr_reserved h nofun (n := 0x16) rfl hu (cwr_permitted rfl hs) (by simpa [cregReserved] using hv)
  · exact cwr_reserved h nofun (n := 0x30) rfl hu (cwr_permitted rfl hs) (by rw [cregReserved, shiftRight_ne_zero, hw, decide_eq_true hv]; rfl)
  · exact runOp_traps_outsideV (slot := .c) h nofun nofun (a := cwrOp 0x0a sa) rfl
      (by simp [cwrOp, scalars_none hu, show st.c.w.sup = true from hs, hl, c, cregRO, cregReserved]; rfl)
  · exact cwr_priv h nofun (n := 0x0e) rfl hu (by simp [show st.c.w.sup = false from hs, cregRS])
  · exact runOp_traps (slot := .c) h nofun (a := actBprep tb d) rfl (by simp [actBprep, show st.c.w.sup = false from hs]; rfl)
      (by simp [TrapName.code]) (.inl (by simp [valueFree]))
  · exact runOp_traps (slot := .c) h nofun (a := actBgo tb inv sa) rfl
      (by simp [actBgo, scalars_none (c := st.c) hu, show st.c.w.sup = false from hs]; rfl) (by simp [TrapName.code]) (.inl (by simp [valueFree]))
  · exact runOp_traps (slot := .c) h nofun (a := eretOp) (by simp [eretOp, show st.c.w.trapped = .running from hr])
      (by simp [eretOp, show st.c.w.trapped = .running from hr]; rfl) (by simp [TrapName.code]) (.inl (by simp [valueFree]))
  · exact jumpTo_misaligned h nofun rfl hu ha
  · exact jumpTo_misaligned h nofun rfl hu ha

end Sys2Proof.Machine
end

section
/-!
PROOF. Tile definitions (R81, R82, R237 to R239).
-/

namespace Sys2Proof.Machine

/-- An operation whose first checks are a list of checks. -/
theorem checksTrap_of_checks {s : State} {slot : Slot} {i : Instr} {st : Stage} {a : Act} {checks : List (Bool × Nat)}
    (hx : exec i s = runOp s slot i a) (h : AtIssue s slot i st) (hi : ∀ f, i ≠ .fwait f) (hslot : slot ≠ .v)
    (hs : (a st.c).stop = none) (ht : ∀ e, firstExn (checks.map checkExn) = some e → (a st.c).trap = some e) :
    checksTrap s st i (slotNo slot) checks := by
  rintro before code after rfl hb
  rw [hx]
  exact runOp_traps_outsideV h hi hslot hs (ht _ (firstExn_checks hb))

theorem firstExn_append {xs ys : List (Option Exn)} {e : Exn} (h : firstExn xs = some e) : firstExn (xs ++ ys) = some e := by
  induction xs with
  | nil => cases h
  | cons x xs ih =>
    cases x with
    | none => exact ih h
    | some x => exact h

/-! ### The checks of tile definitions -/

/-- A doubleword describes no tile where one of these fields is wrong. -/
theorem tileDescBad_eq (v : DWord) : tileDescBad v = (decide (bits v 15 8 ≠ 0) || decide (bits v 6 2 ≠ 0) ||
    decide ((tileOf v).stride = 0) || decide (4 < (tileOf v).fmt) || decide ((tileOf v).grp ≠ (tileOf v).base / 2 ^ 14 % 2)) := by
  rw [Bool.eq_iff_iff]
  simp [tileDescBad, Nat.succ_le_iff]

/-- A tile number beyond those of its team. -/
def tileOutside (c : Ctx) (n : Nat) : Bool := c.team?.elim true fun team => team.ntiles ≤ n

theorem tileOutside_false {c : Ctx} {n : Nat} {team : Team} (ht : c.team? = some team) (hn : n < team.ntiles) : tileOutside c n = false := by
  simp [tileOutside, ht, hn]

/-- A tile that a step has still to read, or that a mover fills or drains: TDEF and TFREE may not change it. -/
def tileStuck (c : Ctx) (n : Nat) : Bool := tilePending c n || (c.tile? n).any fun x => x.state != .empty && x.state != .ready

theorem tileStuck_false {c : Ctx} {n : Nat} (hp : tilePending c n = false)
    (ht : ∀ x, c.tile? n = some x → x.state = .empty ∨ x.state = .ready) : tileStuck c n = false := by
  rw [tileStuck, hp, Bool.false_or]
  cases h : c.tile? n with
  | none => rfl
  | some x => rcases ht x h with hx | hx <;> simp [hx]

theorem tileStateFault_tdef (c : Ctx) (n : Nat) :
    (tileStateFault c n fun t => t.elim true fun t => t.state = .empty || t.state = .ready) = exnIf (tileStuck c n) .tileState := by
  unfold tileStateFault tileStuck
  rw [Bool.or_comm]
  cases c.tile? n with
  | none => rfl
  | some x =>
    simp only [Option.elim_some, Option.any_some, Bool.not_or]
    rfl

theorem tileStateFault_tfree (c : Ctx) (n : Nat) :
    (tileStateFault c n fun t => t.elim false fun t => t.state = .empty || t.state = .ready) =
      exnIf (tileStuck c n || (c.tile? n).isNone) .tileState := by
  unfold tileStateFault tileStuck
  rw [Bool.or_comm]
  cases c.tile? n with
  | none => simp
  | some x =>
    simp only [Option.elim_some, Option.any_some, Option.isNone_some, Bool.not_or, Bool.or_false]
    rfl

/-- The windows of the scratchpad hold a tile's rows. -/
def tileFits (c : Ctx) (t : Tile) : Bool :=
  c.team?.elim false fun team => spInBounds team (t.base * 32) (((t.rows - 1) * t.stride + t.rowb) * 32)

/-- TDEF's checks behind that of its scalar. -/
theorem tdefOp_trap {c : Ctx} {n : Nat} {sr : BitVec 6} (hu : c.usable [sr] none) : (tdefOp n sr c).trap =
    firstExn ([(tileDescBad (c.sv sr), 0x22), (tileOutside c n, 0x20), (tileStuck c n, 0x21)].map checkExn ++
      [if tileFits c (tileOf (c.sv sr)) then none else some { code := 0x1a, addr := (tileOf (c.sv sr)).base * 32 }]) := by
  simp only [tdefOp, scalars_none hu, firstExn_none_cons, tileStateFault_tdef]
  rfl

theorem tfreeOp_trap (c : Ctx) (n : Nat) : (tfreeOp n c).trap =
    firstExn ([(tileOutside c n, 0x20), (tileStuck c n || (c.tile? n).isNone, 0x21)].map checkExn) := by
  simp only [tfreeOp, tileStateFault_tfree]
  rfl

theorem tstatOp_trap {c : Ctx} {n : Nat} {sr : BitVec 6} (hu : c.usable [] (some sr)) : (tstatOp n sr c).trap =
    firstExn ([(tileOutside c n, 0x20)].map checkExn) := by
  simp only [tstatOp, scalars_none hu, firstExn_none_cons]
  rfl

/-- Settles O12: the checks of each form in their order, and its effect where none of them fails. -/
theorem tileDefinitions : Obligations.TileDefinitions := by
  intro s st tile sr c n v t may
  refine ⟨fun team ht hn => ⟨fun h hu hmay h15 h6 hstride hfmt hgrp hfits => ?_, fun h hmay hdef => ?_, fun h hu => ?_⟩, ?_⟩
  · have hdesc : tileDescBad v = false := by
      rw [tileDescBad_eq]
      simp [h15, h6, show (tileOf v).stride ≠ 0 from hstride, show (tileOf v).fmt ≤ 4 from hfmt,
        show (tileOf v).grp = (tileOf v).base / 2 ^ 14 % 2 from hgrp]
    have hin : tileFits c (tileOf v) = true := by
      rw [tileFits, ht]
      exact hfits
    have htrap : (tdefOp n sr c).trap = none := by
      rw [tdefOp_trap hu, hdesc, tileOutside_false ht hn, tileStuck_false hmay.1 hmay.2, hin]
      rfl
    exact runOp_ready h (a := tdefOp n sr) nofun ⟨rfl, htrap, rfl⟩
  · have htrap : (tfreeOp n c).trap = none := by
      rw [tfreeOp_trap, tileOutside_false ht hn, tileStuck_false hmay.1 hmay.2, Option.isNone_eq_false_iff.mpr hdef]
      rfl
    exact runOp_ready h (a := tfreeOp n) nofun ⟨rfl, htrap, rfl⟩
  · have htrap : (tstatOp n sr c).trap = none := by
      rw [tstatOp_trap hu, tileOutside_false ht hn]
      rfl
    exact runOp_ready h (a := tstatOp n sr) nofun ⟨rfl, htrap, rfl⟩
  intro outside fits undescribed stuck
  have hbad : tileDescBad v = undescribed := tileDescBad_eq v
  refine ⟨fun h hu => ⟨?_, fun hd ho hst hf => ?_⟩, fun h => ?_, fun h hu => ?_⟩
  · rw [← hbad]
    exact checksTrap_of_checks (slot := .x) (a := tdefOp n sr) rfl h nofun nofun rfl fun e he => by
      rw [tdefOp_trap hu]
      exact firstExn_append he
  · have htrap : (tdefOp n sr c).trap = some { code := 0x1a, addr := t.base * 32 } := by
      rw [tdefOp_trap hu, show tileDescBad (c.sv sr) = false from hbad.trans hd, show tileOutside c n = false from ho,
        show tileStuck c n = false from hst, show tileFits c (tileOf (c.sv sr)) = false from hf]
      rfl
    exact runOp_traps_outsideV (slot := .x) h nofun nofun (a := tdefOp n sr) rfl htrap
  · exact checksTrap_of_trap (slot := .x) (a := tfreeOp n) rfl h nofun nofun rfl (tfreeOp_trap c n)
  · exact checksTrap_of_trap (slot := .x) (a := tstatOp n sr) rfl h nofun nofun rfl (tstatOp_trap hu)

end Sys2Proof.Machine
end

section
/-!
PROOF. The state of a warp at its dispatch (R80, log 12).
-/

namespace Sys2Proof.Machine

/-- The scalars that hold `k` arguments from s(i + 1) on; an argument that is 0 is not listed. -/
def argScalars (i k : Nat) (args : List DWord) : Map SReg :=
  ((List.range' i k).zip args).filterMap fun (i, a) => if a = 0#64 then none else some (i + 1, { value := a, mark := false })

theorem argScalars_cons (i k : Nat) (a : DWord) (args : List DWord) : argScalars i (k + 1) (a :: args) =
    if a = 0#64 then argScalars (i + 1) k args else (i + 1, { value := a, mark := false }) :: argScalars (i + 1) k args := by
  simp only [argScalars, List.range'_succ, List.zip_cons_cons, List.filterMap_cons]
  split <;> simp_all

/-- No scalar outside their run is listed. -/
theorem argScalars_outside {i k n : Nat} {args : List DWord} (h : n ≤ i ∨ i + k < n) : mapGet? (argScalars i k args) n = none := by
  induction k generalizing i args with
  | zero => rfl
  | succ k ih =>
    cases args with
    | nil => simp [argScalars, mapGet?]
    | cons a args =>
      have hrest : mapGet? (argScalars (i + 1) k args) n = none := ih (by omega)
      rw [argScalars_cons]
      split
      · exact hrest
      · rw [mapGet?, if_neg (by omega), hrest]

/-- Each scalar of their run holds its argument, 0 where there is none. -/
theorem argScalars_inside {i k n : Nat} {args : List DWord} (h : i < n) (hk : n ≤ i + k) :
    mapGetD (argScalars i k args) n SReg.zero = { value := args.getD (n - 1 - i) 0#64, mark := false } := by
  induction k generalizing i args with
  | zero => omega
  | succ k ih =>
    cases args with
    | nil => simp [argScalars, mapGetD, mapGet?, SReg.zero]
    | cons a args =>
      rw [argScalars_cons]
      by_cases hn : n = i + 1
      · have hhead : n - 1 - i = 0 := by omega
        rw [hhead, List.getD_cons_zero]
        split
        · next ha => rw [mapGetD, argScalars_outside (by omega), ha]; rfl
        · rw [mapGetD, mapGet?, if_pos hn]; rfl
      · have htail : n - 1 - i = n - 1 - (i + 1) + 1 := by omega
        have hrest := ih (args := args) (i := i + 1) (by omega) (by omega)
        rw [htail, List.getD_cons_succ]
        split
        · exact hrest
        · rw [mapGetD, mapGet?, if_neg hn]; exact hrest

theorem mapGet?_append {α : Type} (l m : Map α) (n : Nat) : mapGet? (l ++ m) n = (mapGet? l n).or (mapGet? m n) := by
  induction l with
  | nil => rfl
  | cons x l ih =>
    obtain ⟨k, a⟩ := x
    simp only [List.cons_append, mapGet?]
    split
    · rfl
    · exact ih

theorem freshWarp_s (c : Context) (n : Node) (h team teamw lim top order : Nat) : (freshWarp c n h team teamw lim top order).s =
    argScalars 0 8 n.args ++ [(55, { value := BitVec.ofNat 64 top, mark := false })] := by
  rw [argScalars, ← List.range_eq_range']
  rfl

/-- Below the stack top's scalar and above it a fresh warp holds its arguments alone. -/
theorem freshWarp_getS {c : Context} {n : Node} {h team teamw lim top order i : Nat} (h0 : i ≠ 0) (h55 : i ≠ 55) :
    getS (freshWarp c n h team teamw lim top order) i = mapGetD (argScalars 0 8 n.args) i SReg.zero := by
  rw [getS, if_neg h0, freshWarp_s, mapGetD, mapGet?_append]
  simp only [mapGet?, if_neg h55, Option.or_none]
  rfl

/-- Settles O41: the scalars are the arguments and the stack top, and every other field is as `freshWarp` writes it. -/
theorem dispatchRegisters : Obligations.DispatchRegisters := by
  intro c n h team teamw lim top order w
  refine ⟨fun _ => rfl, rfl, rfl, rfl, fun i h1 h8 => ?_, fun i hi h55 => ?_, ?_, fun q => ?_, fun _ => rfl, ?_⟩
  · rw [freshWarp_getS (by omega) (by omega), argScalars_inside (by omega) (by omega)]
    rfl
  · rcases hi with rfl | h9
    · rfl
    · rw [freshWarp_getS (by omega) h55, mapGetD, argScalars_outside (by omega)]
      rfl
  · rw [getS, if_neg (by decide), freshWarp_s, mapGetD, mapGet?_append, argScalars_outside (by omega)]
    rfl
  · unfold portOf
    split <;> rfl
  · exact ⟨rfl, rfl, rfl, rfl, rfl, rfl, rfl, rfl, rfl, rfl, rfl, rfl, rfl, rfl, rfl, rfl, rfl, rfl, rfl⟩

end Sys2Proof.Machine
end

section
/-!
PROOF. The completion of a scalar load (R63, R113, R197, R205): its read, its delivery, its flag.
-/

namespace Sys2Proof.Machine

/-! ### A read that is not early -/

@[simp] theorem l1Fill_mem (x : Accessor) (m : Mach) (core key : Nat) : (l1Fill x m core key).mem = m.mem := by
  unfold l1Fill
  dsimp only
  split <;> simp

@[simp] theorem l1Fill_ctxs (x : Accessor) (m : Mach) (core key : Nat) : (l1Fill x m core key).ctxs = m.ctxs := by
  unfold l1Fill
  dsimp only
  split <;> simp

@[simp] theorem l1Fill_warps (x : Accessor) (m : Mach) (core key : Nat) : (l1Fill x m core key).warps = m.warps := by
  unfold l1Fill
  dsimp only
  split <;> simp

/-- A warp with other words that it has touched. -/
def Warp.withTouched (w : Warp) (ts : List Touch) : Warp := { w with touched := ts }

/-- A read from its home leaves memory, the contexts and its warp as they are, but for what the warp has touched. -/
theorem accessRead_home {gtc : Nat} {m : Mach} {k : Nat} {o : MemOp} {a : Access} {n : Nat} {w : Warp} (hw : getWarp? m k = some w)
    (hstack : stackHit w a.va = false) (hkey : remoteKey a.key = false) :
    ∃ m' ts, accessRead gtc m k o a n false = (m.tick, m', readBytes m a.key n) ∧ m'.mem = m.mem ∧ m'.ctxs = m.ctxs ∧
      getWarp? m' k = some (w.withTouched ts) := by
  have hcut : cutOff m a.key = false := by simp [cutOff, hkey]
  simp only [accessRead, hw, hstack, hcut, Bool.false_and, Bool.false_eq_true, if_false]
  have hsame : ∀ x : Mach, x.mem = m.mem → x.ctxs = m.ctxs → x.warps = m.warps → ∃ ts,
      (noteTouch x k o.id (wordsOf a.key n)).mem = m.mem ∧ (noteTouch x k o.id (wordsOf a.key n)).ctxs = m.ctxs ∧
      getWarp? (noteTouch x k o.id (wordsOf a.key n)) k = some (w.withTouched ts) := by
    intro x hmem hctxs hwarps
    have hx : getWarp? x k = some w := by rw [← hw, getWarp?, getWarp?, hwarps]
    exact ⟨_, (updWarp_mem _ _ _).trans hmem, (updWarp_ctxs _ _ _).trans hctxs, by rw [noteTouch, getWarp?_upd_self, hx]; rfl⟩
  obtain ⟨ts, hmem, hctxs, hwarp⟩ := hsame (if (o.kind.plain && l1Leaf m a.leaf) = true then
    l1Fill (opAccessor gtc m w o) m (coreOf k) a.key else noteRead (opAccessor gtc m w o) m a.key n)
    (by split <;> simp) (by split <;> simp) (by split <;> simp)
  exact ⟨_, ts, rfl, hmem, hctxs, hwarp⟩

/-! ### Watchpoints, fences and the flag -/

theorem threadHits_unwatched {gtc : Nat} {m : Mach} {k : Nat} {o : MemOp} {ss : List Seen} {w : Warp} (hw : getWarp? m k = some w)
    (hd : unwatched m w) : threadHits gtc m k o ss = m := by
  simp only [threadHits, hw, watchHits]
  split
  · rfl
  · next c hc => rw [hd c hc]; rfl

/-- The fences and sync points that complete change neither memory nor a register or flag of their warp. -/
theorem drainFences_frame (n : Nat) {m : Mach} {k : Nat} {w : Warp} (hw : getWarp? m k = some w) :
    (drainFences n m k).mem = m.mem ∧
    ∃ w', getWarp? (drainFences n m k) k = some w' ∧ w'.v = w.v ∧ w'.s = w.s ∧ w'.flags = w.flags := by
  induction n generalizing m w with
  | zero => exact ⟨rfl, w, hw, rfl, rfl, rfl⟩
  | succ n ih =>
    simp only [drainFences, hw]
    split
    · exact ⟨rfl, w, hw, rfl, rfl, rfl⟩
    · next o _ =>
      have step {m' : Mach} {w' : Warp} (hm : m'.mem = m.mem) (hw' : getWarp? m' k = some w') (hv : w'.v = w.v) (hs : w'.s = w.s)
          (hf : w'.flags = w.flags) : (drainFences n m' k).mem = m.mem ∧
          ∃ w', getWarp? (drainFences n m' k) k = some w' ∧ w'.v = w.v ∧ w'.s = w.s ∧ w'.flags = w.flags := by
        obtain ⟨hmem, w2, h2, hv2, hs2, hf2⟩ := ih hw'
        exact ⟨hmem.trans hm, w2, h2, hv2.trans hv, hs2.trans hs, hf2.trans hf⟩
      split
      · exact step rfl (getWarp?_set_self _ _ _) rfl rfl rfl
      · exact step rfl (getWarp?_set_self _ _ _) rfl rfl rfl
      · exact step rfl (getWarp?_set_self _ _ _) rfl rfl rfl
      · exact step rfl (getWarp?_set_self _ _ _) rfl rfl rfl

/-- A warp whose operation has been taken out of its order (R98, R100). -/
def withoutOp (o : MemOp) (at_ : Nat) (w : Warp) : Warp :=
  let w := { w with ops := w.ops.filter fun e => e.id != o.id, dones := raisePath w.dones o.path o.both at_ }
  match o.kind with
  | .loadS _ _ (some _) => raiseFloors w o true at_
  | _ => w

/-- That warp with the operation's flag complete. -/
def finishedWarp (o : MemOp) (at_ : Nat) (w : Warp) : Warp :=
  match o.flag with
  | some f => completeFlag (withoutOp o at_ w) f at_
  | none => withoutOp o at_ w

theorem withoutOp_frame (o : MemOp) (at_ : Nat) (w : Warp) :
    (withoutOp o at_ w).v = w.v ∧ (withoutOp o at_ w).s = w.s ∧ (withoutOp o at_ w).flags = w.flags := by
  unfold withoutOp
  dsimp only
  split <;> exact ⟨rfl, rfl, rfl⟩

theorem finishAt_eq {m : Mach} {k : Nat} {o : MemOp} {at_ : Nat} {w : Warp} (hw : getWarp? m k = some w) : finishAt m k o at_ =
    drainFences ((finishedWarp o at_ w).ops.length + 1) (setWarp m k (finishedWarp o at_ w)) k := by
  have hupd : updWarp m k (finishedWarp o at_) = setWarp m k (finishedWarp o at_ w) := updWarp_some _ hw
  have hself : getWarp? (updWarp m k (finishedWarp o at_)) k = some (finishedWarp o at_ w) := by rw [hupd, getWarp?_set_self]
  calc finishAt m k o at_ = match getWarp? (updWarp m k (finishedWarp o at_)) k with
        | some w => drainFences (w.ops.length + 1) (updWarp m k (finishedWarp o at_)) k
        | none => updWarp m k (finishedWarp o at_) := rfl
    _ = _ := by rw [hself, hupd]

/-- A completed flag is set and no longer pending, and every other flag stays. -/
theorem getF_completeFlag {w : Warp} {f : Nat} {at_ : Nat} (h : mapWf w.flags = true) :
    (getF (completeFlag w f at_) f).set = true ∧ (getF (completeFlag w f at_) f).pend = false ∧
    ∀ g, g ≠ f → getF (completeFlag w f at_) g = getF w g := by
  rw [completeFlag, getF_put_self f _ h]
  exact ⟨rfl, rfl, fun g hg => getF_put_other w _ hg⟩

theorem finishedWarp_frame (o : MemOp) (at_ : Nat) {w : Warp} (hf : mapWf w.flags = true) :
    (finishedWarp o at_ w).v = w.v ∧ (finishedWarp o at_ w).s = w.s ∧
    (∀ f, o.flag = some f → (getF (finishedWarp o at_ w) f).set = true ∧ (getF (finishedWarp o at_ w) f).pend = false) ∧
    ∀ f, o.flag ≠ some f → getF (finishedWarp o at_ w) f = getF w f := by
  obtain ⟨hv, hs, hflags⟩ := withoutOp_frame o at_ w
  have hget (g : Nat) : getF (withoutOp o at_ w) g = getF w g := by rw [getF, getF, hflags]
  unfold finishedWarp
  cases hflag : o.flag with
  | none => exact ⟨hv, hs, nofun, fun g _ => hget g⟩
  | some f =>
    obtain ⟨hset, hpend, hother⟩ := getF_completeFlag (w := withoutOp o at_ w) (f := f) (at_ := at_) (by rw [hflags]; exact hf)
    refine ⟨hv, hs, fun g hg => ?_, fun g hg => ?_⟩
    · obtain rfl : f = g := Option.some.inj hg
      exact ⟨hset, hpend⟩
    · exact (hother g fun h => hg (congrArg some h.symm)).trans (hget g)

/-- An operation that finishes sets its flag, and changes neither memory nor a register or another flag of its warp. -/
theorem finishAt_frame {m : Mach} {k : Nat} {o : MemOp} {at_ : Nat} {w : Warp} (hw : getWarp? m k = some w) (hf : mapWf w.flags = true) :
    (finishAt m k o at_).mem = m.mem ∧ ∃ w', getWarp? (finishAt m k o at_) k = some w' ∧ w'.v = w.v ∧ w'.s = w.s ∧
      (∀ f, o.flag = some f → (getF w' f).set = true ∧ (getF w' f).pend = false) ∧ (∀ f, o.flag ≠ some f → getF w' f = getF w f) := by
  obtain ⟨hv, hs, hown, hother⟩ := finishedWarp_frame o at_ hf
  obtain ⟨hmem, w', hw', hv', hs', hflags⟩ := drainFences_frame ((finishedWarp o at_ w).ops.length + 1)
    (getWarp?_set_self m k (finishedWarp o at_ w))
  have hget (g : Nat) : getF w' g = getF (finishedWarp o at_ w) g := by rw [getF, getF, hflags]
  rw [finishAt_eq hw]
  refine ⟨hmem, w', hw', hv'.trans hv, hs'.trans hs, fun f hfl => ?_, fun f hfl => ?_⟩
  · rw [hget]; exact hown f hfl
  · rw [hget]; exact hother f hfl

/-! ### The load -/

/-- The value and mark that a scalar load of `n` bytes delivers. -/
def loadedAt (m : Mach) (key n : Nat) : DWord × Bool := loaded 64 (readBytes m key n)

theorem loadedAt_eq (m : Mach) (key n : Nat) : ({ value := (loadedAt m key n).1, mark := (loadedAt m key n).2 } : SReg) =
    if (wordsOf key n).any (wordBad m) then { value := 0#64, mark := true } else { value := ofLe 64 (memBytes m key n), mark := false } := by
  unfold loadedAt loaded readBytes
  cases (wordsOf key n).any (wordBad m) <;> rfl

/-- A warp to which a scalar has been delivered. -/
def deliveredWarp (w : Warp) (reg : Nat) (v : DWord × Bool) (prod : Nat) : Warp := nameScalar (putS w reg v.1 v.2) reg v.2 prod

theorem nameScalar_frame (w : Warp) (n : Nat) (mark : Bool) (prod : Nat) :
    (nameScalar w n mark prod).s = w.s ∧ (nameScalar w n mark prod).v = w.v ∧ (nameScalar w n mark prod).flags = w.flags ∧
    (nameScalar w n mark prod).ctx = w.ctx := by
  unfold nameScalar
  split <;> exact ⟨rfl, rfl, rfl, rfl⟩

theorem putS_frame (w : Warp) (n : Nat) (v : DWord) (mark : Bool) :
    (putS w n v mark).v = w.v ∧ (putS w n v mark).flags = w.flags ∧ (putS w n v mark).ctx = w.ctx := by
  unfold putS
  split <;> exact ⟨rfl, rfl, rfl⟩

theorem deliveredWarp_frame (w : Warp) (reg : Nat) (v : DWord × Bool) (prod : Nat) : (deliveredWarp w reg v prod).v = w.v ∧
    (deliveredWarp w reg v prod).flags = w.flags ∧ (deliveredWarp w reg v prod).ctx = w.ctx := by
  obtain ⟨-, hv, hf, hc⟩ := nameScalar_frame (putS w reg v.1 v.2) reg v.2 prod
  obtain ⟨hv', hf', hc'⟩ := putS_frame w reg v.1 v.2
  exact ⟨hv.trans hv', hf.trans hf', hc.trans hc'⟩

theorem getS_deliveredWarp (w : Warp) (reg : Nat) (v : DWord × Bool) (prod r : Nat) :
    getS (deliveredWarp w reg v prod) r = getS (putS w reg v.1 v.2) r := by
  rw [deliveredWarp, getS, (nameScalar_frame ..).1, ← getS]

theorem getS_delivered_self {w : Warp} {reg : Nat} (v : DWord × Bool) (prod : Nat) (hr : reg ≠ 0) (hs : mapWf w.s = true) :
    getS (deliveredWarp w reg v prod) reg = { value := v.1, mark := v.2 } := by
  rw [getS_deliveredWarp, getS_put_self _ _ hr hs]

theorem getS_delivered_other (w : Warp) (v : DWord × Bool) (prod : Nat) {reg r : Nat} (h : r ≠ reg ∨ reg = 0) :
    getS (deliveredWarp w reg v prod) r = getS w r := by
  rw [getS_deliveredWarp]
  rcases h with h | rfl
  · exact getS_put_other w _ _ h
  · rfl

/-- An acquiring load of more than warp scope empties the core's L1 (R92, R101). -/
def afterAcquire (acq : Option Scope) (m : Mach) (k : Nat) : Mach :=
  match acq with
  | some .warp | none => m
  | some _ => dropL1 m (coreOf k)

theorem afterAcquire_frame (acq : Option Scope) (m : Mach) (k : Nat) : (afterAcquire acq m k).mem = m.mem ∧
    (afterAcquire acq m k).ctxs = m.ctxs ∧ (afterAcquire acq m k).warps = m.warps := by
  unfold afterAcquire
  split <;> exact ⟨rfl, rfl, rfl⟩

theorem performOp_loadS_eq {gtc : Nat} {m m' : Mach} {k reg n l t : Nat} {acq : Option Scope} {o : MemOp} {order : List Nat}
    {v : DWord × Bool} {early : Bool} (hkind : o.kind = .loadS reg n acq)
    (hread : readAll gtc (bump m) k o n early o.acc = (t, m', [(l, v)])) : performOp gtc m k o early order =
      finishAt (threadHits gtc (putScalar (afterAcquire acq m' k) k reg o.ticket v.1 v.2 (nameWord o.seq o.plane o.cidx)) k o (seenOf o n))
        k o t := by
  unfold performOp
  simp only [hkind, hread, List.head?_cons, Option.map_some, Option.getD_some]
  cases acq with
  | none => rfl
  | some sc => cases sc <;> rfl

/-- The completion of a scalar load reads, delivers and finishes; only what its warp has touched changes besides. -/
theorem performOp_loadS {gtc : Nat} {m : Mach} {k reg n : Nat} {acq : Option Scope} {o : MemOp} {a : Access} {w : Warp} {order : List Nat}
    (hkind : o.kind = .loadS reg n acq) (hacc : o.acc = [a]) (hticket : o.ticket = none) (hw : getWarp? m k = some w)
    (hwatch : unwatched m w) (hstack : stackHit w a.va = false) (hkey : remoteKey a.key = false) :
    ∃ m' ts at_ prod, m'.mem = m.mem ∧
      getWarp? m' k = some (deliveredWarp (w.withTouched ts) reg (loadedAt m a.key n) prod) ∧
      performOp gtc m k o false order = finishAt m' k o at_ := by
  obtain ⟨m1, ts, hread, hmem, hctxs, hwarp⟩ := accessRead_home (gtc := gtc) (o := o) (n := n) (m := bump m) hw hstack hkey
  have hall : readAll gtc (bump m) k o n false o.acc = (max (bump m).tick 0, m1, [(a.lane, loadedAt m a.key n)]) := by
    rw [hacc, readAll, hread]
    rfl
  obtain ⟨hmem2, hctxs2, hwarps2⟩ := afterAcquire_frame acq m1 k
  rw [performOp_loadS_eq hkind hall, hticket]
  generalize nameWord o.seq o.plane o.cidx = prod
  generalize afterAcquire acq m1 k = m2 at hmem2 hctxs2 hwarps2
  have hput : putScalar m2 k reg none (loadedAt m a.key n).1 (loadedAt m a.key n).2 prod =
      updWarp m2 k fun w => deliveredWarp w reg (loadedAt m a.key n) prod := rfl
  have hget : getWarp? (putScalar m2 k reg none (loadedAt m a.key n).1 (loadedAt m a.key n).2 prod) k =
      some (deliveredWarp (w.withTouched ts) reg (loadedAt m a.key n) prod) := by
    rw [hput, getWarp?_upd_self, getWarp?, hwarps2, ← getWarp?, hwarp]
    rfl
  have hunwatched : unwatched (putScalar m2 k reg none (loadedAt m a.key n).1 (loadedAt m a.key n).2 prod)
      (deliveredWarp (w.withTouched ts) reg (loadedAt m a.key n) prod) := by
    intro c hc
    refine hwatch c ?_
    rw [hput, ctxOf, getCtx?, updWarp_ctxs, hctxs2, hctxs, (deliveredWarp_frame ..).2.2] at hc
    exact hc
  rw [threadHits_unwatched hget hunwatched]
  refine ⟨_, ts, _, prod, ?_, hget, rfl⟩
  rw [hput, updWarp_mem, hmem2, hmem]
  rfl

/-- Settles O35: what the load delivers stands in its warp when the operation finishes, which touches flags and order alone. -/
theorem scalarLoadDelivers : Obligations.ScalarLoadDelivers := by
  intro s k id reg n acq o a w ho hkind hacc hticket _ hw hs hf hwatch hstack hkey
  obtain ⟨m1, ts, at_, prod, hmem, hdelivered, hperform⟩ := performOp_loadS (gtc := s.dev.gtc) (order := []) hkind hacc hticket hw hwatch
    hstack hkey
  obtain ⟨hv, hflags, -⟩ := deliveredWarp_frame (w.withTouched ts) reg (loadedAt s.mach a.key n) prod
  obtain ⟨hmem', w', hw', hv', hs', hown, hother⟩ := finishAt_frame (o := o) (at_ := at_) hdelivered (by rw [hflags]; exact hf)
  have hexec : exec (.loadComplete k id false) s = machNext s (finishAt m1 k o at_) := by
    rw [← hperform]
    simp only [exec, execLoadComplete, onMach, ho, hkind]
    rfl
  have hget (r : Nat) : getS w' r = getS (deliveredWarp (w.withTouched ts) reg (loadedAt s.mach a.key n) prod) r := by
    rw [getS, getS, hs']
  refine ⟨_, w', hexec, hw', hmem'.trans hmem, fun hreg => ?_, fun r hr => ?_, hv'.trans hv, hown, fun f hfl => ?_⟩
  · exact (hget reg).trans ((getS_delivered_self (w := w.withTouched ts) _ _ hreg hs).trans (loadedAt_eq ..))
  · exact (hget r).trans (getS_delivered_other _ _ _ hr)
  · rw [hother f hfl, getF, hflags]
    rfl

end Sys2Proof.Machine
end

section
/-!
PROOF. The scratchpad accesses and TLD (R81, R105, R200, R206 to R210).
-/

namespace Sys2Proof.Machine

/-! ### The checks of scratchpad elements -/

/-- The team's windows hold `n` bytes at an offset. -/
theorem inWindows_iff (c : Ctx) (o n : Nat) : (c.team?.elim false fun t => spInBounds t o n) = true ↔
    ∃ t, c.team? = some t ∧ spInBounds t o n = true := by
  cases c.team? <;> simp

theorem checkScratch_inScratch {c : Ctx} {n : Nat} {write : Bool} {es : List Elem} (h : c.inScratch n write (es.map (·.addr))) :
    checkScratch c n write es = none := by
  obtain ⟨t, ht, hes⟩ := h
  have hes : ∀ e ∈ es, e.addr % n = 0 ∧ spInBounds t e.addr n = true ∧ lockOn c true write e.addr n = none := fun e he =>
    hes e.addr (List.mem_map_of_mem he)
  rw [checkScratch, elemFault_none (t := .addrAlign) fun e he => by simp [(hes e he).1],
    elemFault_none (t := .spBounds) fun e he => by simp [ht, (hes e he).2.1], lockFault_none fun e he => (hes e he).2.2]
  rfl

section Scratch

variable {s : State} {i : Instr} {st : Stage} {a : Act} {n : Nat} {write : Bool} {es : List Elem} {fx : Mach → Mach}
  (h : AtIssue s .m i st) (hi : ∀ f, i ≠ .fwait f) (hx : exec i s = runOp s .m i a)
  (ha : a st.c = { trap := checkScratch st.c n write es, block := causeIf (fenceWait st.c write) .fence, fx := fx })
include h hi hx ha

/-- A scratchpad access whose checks hold and which nothing holds back acts. -/
theorem scratch_next (hin : st.c.inScratch n write (es.map (·.addr))) (hf : fenceWait st.c write = false) : exec i s = st.next s fx := by
  rw [hx, runOp_ready h hi (by rw [ha]; exact ⟨rfl, checkScratch_inScratch hin, by simp [hf, causeIf]⟩), ha]

/-- One that something unfinished is ordered before waits. -/
theorem scratch_waits (hin : st.c.inScratch n write (es.map (·.addr))) (hf : fenceWait st.c write = true) :
    exec i s = st.waits s .fence := by
  rw [hx, runOp_waits (slot := .m) h.1 hi h.2.1 h.2.2 (w := .fence) (by rw [ha]) (by rw [ha]; exact checkScratch_inScratch hin)
    (by rw [ha, hf]; rfl), ha]
  rfl

/-- One whose elements fail a check traps. -/
theorem scratch_stops : scratchStops s st i n write es := by
  have traps {e : Exn} (he : checkScratch st.c n write es = some e) : exec i s = st.traps s 1 e :=
    hx.trans (runOp_traps_outsideV (slot := .m) h hi nofun (by rw [ha]) (by rw [ha]; exact he))
  intro before e after hes
  subst hes
  refine ⟨fun hbad hb => traps ?_, fun halign => ⟨fun hbad hb => traps ?_, fun hin l hl hb => traps ?_⟩⟩
  · rw [checkScratch, elemFault_some (by simpa using hbad) fun x hx => by simpa using hb x hx]
    rfl
  · rw [checkScratch, elemFault_none (t := .addrAlign) fun x hx => by simpa using halign x hx,
      elemFault_some (bad := fun o => !(st.c.team?.elim false fun t => spInBounds t o n))
        (by rw [Bool.not_eq_true', Bool.eq_false_iff, Ne, inWindows_iff]; exact hbad)
        fun x hx => by rw [Bool.not_eq_false', inWindows_iff]; exact hb x hx]
    rfl
  · rw [checkScratch, elemFault_none (t := .addrAlign) fun x hx => by simpa using halign x hx,
      elemFault_none (bad := fun o => !(st.c.team?.elim false fun t => spInBounds t o n))
        fun x hx => by rw [Bool.not_eq_false', inWindows_iff]; exact hin x hx, lockFault_some hl hb]
    rfl

end Scratch

/-! ### What each access does where its operands' checks hold -/

theorem spldOp_checked {c : Ctx} {vt vx : BitVec 7} {sa : BitVec 6} (hm : c.mask ≠ 0#64) (hv : c.clean [(vx, c.mask)])
    (hu : c.usable [sa] none) : spldOp vt vx sa c =
      { trap := checkScratch c 4 false (spadElems sa vx c), block := causeIf (fenceWait c false) .fence
        fx := spadLanes c vt (spadElems sa vx c) } := by
  simp only [spldOp, hm, if_false, poisonV_none (rs := [vx]) hv, scalars_none hu, firstExn_none_cons, firstExn_one]

theorem spstOp_checked {c : Ctx} {vt vx : BitVec 7} {sa : BitVec 6} (hm : c.mask ≠ 0#64) (hv : c.clean [(vt, c.mask), (vx, c.mask)])
    (hu : c.usable [sa] none) : spstOp vt vx sa c =
      { trap := checkScratch c 4 true (spadElems sa vx c), block := causeIf (fenceWait c true) .fence
        fx := fun m => writeNoted (c.accessor m) m
          ((spadElems sa vx c).map fun e => (c.spad e.addr, leBytes 4 ((c.src vt).lanes.at e.lane))) } := by
  simp only [spstOp, hm, if_false, poisonV_none (rs := [vt, vx]) hv, scalars_none hu, firstExn_none_cons, firstExn_one]

theorem spldsOp_checked {c : Ctx} {t sa : BitVec 6} {n : Nat} {disp : BitVec 4} (hu : c.usable [sa] (some t)) : spldsOp t sa n disp c =
    { trap := checkScratch c n false [{ lane := 0, addr := spadDisp sa disp n c }], block := causeIf (fenceWait c false) .fence
      fx := (spldsOp t sa n disp c).fx } := by
  simp only [spldsOp, scalars_none hu, firstExn_none_cons, firstExn_one]

theorem spstsOp_checked {c : Ctx} {t sa : BitVec 6} {n : Nat} {disp : BitVec 4} (hu : c.usable [t, sa] none) : spstsOp t sa n disp c =
    { trap := checkScratch c n true [{ lane := 0, addr := spadDisp sa disp n c }], block := causeIf (fenceWait c true) .fence
      fx := (spstsOp t sa n disp c).fx } := by
  simp only [spstsOp, scalars_none hu, firstExn_none_cons, firstExn_one]

/-- An operation that a zero mask makes do nothing. -/
theorem idle_next {s : State} {i : Instr} {st : Stage} {a : Act} (h : AtIssue s .m i st) (hi : ∀ f, i ≠ .fwait f)
    (hx : exec i s = runOp s .m i a) (ha : a st.c = {}) : exec i s = st.next s id :=
  hx.trans (plain_next h hi (fx := id) (last := id) (after := none) ha)

/-! ### TLD -/

/-- The elements that TLD reads of a tile, from a byte of it. -/
def tldElems (c : Ctx) (t : Tile) (k : Nat) : List Elem := c.lanes fun l => tileOffset t (k + 4 * l)

/-- TLD of a defined tile. -/
theorem tldOp_tile {c : Ctx} {vt : BitVec 7} {tile : BitVec 6} {rg : BitVec 7} {t : Tile} (hm : c.mask ≠ 0#64)
    (ht : c.tile? tile.toNat = some t) : tldOp vt tile rg c =
      { trap := firstExn [exnIf (t.rows * (32 * t.rowb) < rg.toNat * 256 + 256) .tileRange,
          if t.state = .ready then lockFault c true false 4 (tldElems c t (rg.toNat * 256)) else none]
        block := leastCause [causeIf (t.state != .ready) .tile, causeIf (fenceWait c false) .fence]
        fx := spadLanes c vt (tldElems c t (rg.toNat * 256)) } := by
  have ht' : (c.team?.bind fun x => mapGet? x.tiles tile.toNat) = some t := ht
  simp only [tldOp, hm, if_false, ht']
  rfl

/-- TLD of a tile that is not defined traps, by whether its team has such a tile. -/
theorem tldOp_undefined {c : Ctx} {vt : BitVec 7} {tile : BitVec 6} {rg : BitVec 7} {tm : Team} (hm : c.mask ≠ 0#64)
    (htm : c.team? = some tm) (ht : c.tile? tile.toNat = none) :
    (tldOp vt tile rg c).stop = none ∧ (tldOp vt tile rg c).trap = some { code := if tm.ntiles ≤ tile.toNat then 0x20 else 0x21 } := by
  have ht' : (c.team?.bind fun x => mapGet? x.tiles tile.toNat) = none := ht
  rw [htm] at ht'
  simp only [tldOp, hm, if_false, htm, ht', Option.elim_some, decide_eq_true_eq]
  refine ⟨trivial, ?_⟩
  split <;> rfl

section Tld

variable {s : State} {st : Stage} {vt : BitVec 7} {tile : BitVec 6} {rg : BitVec 7} {t : Tile}
  (h : AtIssue s .m (.tld vt tile rg) st) (hm : st.c.mask ≠ 0#64) (ht : st.c.tile? tile.toNat = some t)
include h hm ht

theorem tld_beyond (hrow : t.rows * (32 * t.rowb) < rg.toNat * 256 + 256) :
    exec (.tld vt tile rg) s = st.traps s 1 { code := 0x20 } :=
  runOp_traps_outsideV (slot := .m) h nofun nofun (a := tldOp vt tile rg) (by rw [tldOp_tile hm ht])
    (by rw [tldOp_tile hm ht, decide_eq_true hrow]; rfl)

variable (hrow : rg.toNat * 256 + 256 ≤ t.rows * (32 * t.rowb))
include hrow

omit h in
/-- Inside its tile, TLD traps at a registered range, once the tile is ready. -/
theorem tldOp_trap : (tldOp vt tile rg st.c).trap =
    if t.state = .ready then lockFault st.c true false 4 (tldElems st.c t (rg.toNat * 256)) else none := by
  rw [tldOp_tile hm ht, decide_eq_false (Nat.not_lt.mpr hrow)]
  exact firstExn_one _

theorem tld_unready (hs : t.state ≠ .ready) (hf : fenceWait st.c false = false) : exec (.tld vt tile rg) s = st.waits s .tile := by
  have hstate : (t.state != .ready) = true := bne_iff_ne.mpr hs
  refine (runOp_waits (slot := .m) h.1 nofun h.2.1 h.2.2 (a := tldOp vt tile rg) (w := .tile) (by rw [tldOp_tile hm ht])
    (by rw [tldOp_trap hm ht hrow, if_neg hs]) (by rw [tldOp_tile hm ht, hstate, hf]; rfl)).trans ?_
  rw [tldOp_tile hm ht]
  rfl

theorem tld_locked (hs : t.state = .ready) {before after : List Elem} {e : Elem} {l : RangeLock}
    (hes : tldElems st.c t (rg.toNat * 256) = before ++ e :: after) (hl : lockOn st.c true false e.addr 4 = some l)
    (hb : ∀ x ∈ before, lockOn st.c true false x.addr 4 = none) :
    exec (.tld vt tile rg) s = st.traps s 1 { code := 0x1c, lane := e.lane, addr := e.addr, info := lockInfo l } :=
  runOp_traps_outsideV (slot := .m) h nofun nofun (a := tldOp vt tile rg) (by rw [tldOp_tile hm ht])
    (by rw [tldOp_trap hm ht hrow, if_pos hs, hes, lockFault_some hl hb]; rfl)

variable (hs : t.state = .ready)
  (hfree : ∀ l ∈ lanesOf st.c.mask, lockOn st.c true false (tileOffset t (rg.toNat * 256 + 4 * l)) 4 = none)
include hs hfree

omit h in
theorem tldOp_trap_free : (tldOp vt tile rg st.c).trap = none := by
  rw [tldOp_trap hm ht hrow, if_pos hs, lockFault_none]
  intro e he
  obtain ⟨l, hl, rfl⟩ := List.mem_map.mp he
  exact hfree l hl

theorem tld_next (hf : fenceWait st.c false = false) :
    exec (.tld vt tile rg) s = st.next s (spadLanes st.c vt (tldElems st.c t (rg.toNat * 256))) := by
  refine (runOp_ready h nofun (a := tldOp vt tile rg) ⟨by rw [tldOp_tile hm ht], tldOp_trap_free hm ht hrow hs hfree,
    by rw [tldOp_tile hm ht, hs, hf]; rfl⟩).trans ?_
  rw [tldOp_tile hm ht]

theorem tld_fenced (hf : fenceWait st.c false = true) : exec (.tld vt tile rg) s = st.waits s .fence := by
  refine (runOp_waits (slot := .m) h.1 nofun h.2.1 h.2.2 (a := tldOp vt tile rg) (w := .fence) (by rw [tldOp_tile hm ht])
    (tldOp_trap_free hm ht hrow hs hfree) (by rw [tldOp_tile hm ht, hs, hf]; rfl)).trans ?_
  rw [tldOp_tile hm ht]
  rfl

end Tld

/-- Settles O9: each access acts, waits and traps as its checked form says, and TLD by its tile. -/
theorem scratchAccesses : Obligations.ScratchAccesses := by
  intro s st vt vx t sa wd disp c at_ o
  have haddrs : (lanesOf c.mask).map at_ = (c.lanes at_).map (·.addr) := by simp [Ctx.lanes]
  refine ⟨fun h hf hr => ?_, fun h hf hr => ?_, fun h hf hu hin => ?_, fun h hf hu hin => ?_, ?_, fun tile rg h => ?_⟩
  · by_cases hm : c.mask = 0#64
    · simp only [hm, if_true]
      exact idle_next h nofun (a := spldOp vt vx sa) rfl (if_pos hm)
    · obtain ⟨hv, hu, hin⟩ := hr hm
      rw [haddrs] at hin
      simp only [hm, if_false]
      exact scratch_next h nofun (a := spldOp vt vx sa) rfl (spldOp_checked hm hv hu) hin hf
  · by_cases hm : c.mask = 0#64
    · simp only [hm, if_true]
      exact idle_next h nofun (a := spstOp vt vx sa) rfl (if_pos hm)
    · obtain ⟨hv, hu, hin⟩ := hr hm
      rw [haddrs] at hin
      rw [scratch_next h nofun (a := spstOp vt vx sa) rfl (spstOp_checked hm hv hu) hin hf]
      simp only [hm, if_false, spadElems, List.map_map]
      rfl
  · exact scratch_next h nofun (a := spldsOp t sa wd.bytes disp) rfl (spldsOp_checked hu) hin hf
  · exact scratch_next h nofun (a := spstsOp t sa wd.bytes disp) rfl (spstsOp_checked hu) hin hf
  · intro forms x hx
    simp only [forms, List.mem_cons, List.not_mem_nil, or_false] at hx
    rcases hx with rfl | rfl | rfl | rfl
    · intro h hm hv hu
      have ha := spldOp_checked (vt := vt) (hm rfl) hv hu
      exact ⟨scratch_stops h nofun (a := spldOp vt vx sa) rfl ha, scratch_waits h nofun (a := spldOp vt vx sa) rfl ha⟩
    · intro h hm hv hu
      have ha := spstOp_checked (hm rfl) hv hu
      exact ⟨scratch_stops h nofun (a := spstOp vt vx sa) rfl ha, scratch_waits h nofun (a := spstOp vt vx sa) rfl ha⟩
    · intro h _ _ hu
      have ha := spldsOp_checked (n := wd.bytes) (disp := disp) hu
      exact ⟨scratch_stops h nofun (a := spldsOp t sa wd.bytes disp) rfl ha, scratch_waits h nofun (a := spldsOp t sa wd.bytes disp) rfl ha⟩
    · intro h _ _ hu
      have ha := spstsOp_checked (n := wd.bytes) (disp := disp) hu
      exact ⟨scratch_stops h nofun (a := spstsOp t sa wd.bytes disp) rfl ha, scratch_waits h nofun (a := spstsOp t sa wd.bytes disp) rfl ha⟩
  · refine ⟨fun hm => idle_next h nofun (a := tldOp vt tile rg) rfl (if_pos hm), fun t hm ht hs hrow hfree hf => ?_,
      fun tm hm htm ht => ?_, fun t hm ht => ⟨tld_beyond h hm ht, fun hrow => ⟨tld_unready h hm ht hrow, fun hs =>
        ⟨fun before e after l hes hl hb => tld_locked h hm ht hrow hs hes hl hb, fun hfree hf => tld_fenced h hm ht hrow hs hfree hf⟩⟩⟩⟩
    · exact tld_next h hm ht hrow hs hfree hf
    · obtain ⟨hstop, htrap⟩ := tldOp_undefined (vt := vt) (rg := rg) hm htm ht
      exact runOp_traps_outsideV (slot := .m) h nofun nofun (a := tldOp vt tile rg) hstop htrap

end Sys2Proof.Machine
end

section
/-!
PROOF. Deferred atomics, FLUSH, FENCE and PREF (R101, R200, R216 to R223).
-/

namespace Sys2Proof.Machine

/-! ### Deferred atomics -/

theorem noLimits_eq (es : List Elem) : elemFault es .stackLimit (fun a => !(fun _ => true) a) = none := elemFault_none fun _ _ => rfl

/-- Elements that reach memory pass every check of an access without limits of its own. -/
theorem checkGlobal_unlimited {c : Ctx} {k : AccKind} {n : Nat} {write : Bool} {es : List Elem} {ps : List Placed}
    (h : c.reaches k n write es ps) : checkGlobal c k n write none es = { trap := none, miss := [], ps := ps } := by
  have hr := checkGlobal_reaches h (inside := fun _ => true) fun _ _ => rfl
  rwa [noLimits_eq] at hr

section Dacc

variable {s : State} {i : Instr} {st : Stage} {a : Act} {op : DaccOp} {n : Nat} {poison : Ctx → Option Exn} {srcs : List (BitVec 6)}
  {es : Ctx → List Elem} {value : Ctx → Nat → DWord}

/-- What a deferred atomic does where its operands' checks hold. -/
theorem daccOp_checked {c : Ctx} (hp : poison c = none) (hu : c.usable srcs none) : daccOp op n poison srcs es value c =
    (let r := checkGlobal c .deferred n true none (es c)
    { trap := firstExn [r.trap, if r.miss.isEmpty then exnIf (daccRoom c < (es c).length) .daccFull else none]
      block := if r.miss.isEmpty then none else some .xlate
      miss := r.miss
      fx := fun m => daccPush c op (r.ps.map fun p => (p, value c p.lane)) (fillTlbs c r.ps m) }) := by
  simp only [daccOp, hp, scalars_none hu, firstExn_none_cons]

variable (hx : exec i s = runOp s .m i a) (hi : ∀ f, i ≠ .fwait f) (ha : a st.c = daccOp op n poison srcs es value st.c)
include hx hi ha

/-- A deferred atomic whose checks hold and for which there is room appends its entries. -/
theorem dacc_next {ps : List Placed} (h : AtIssue s .m i st) (hp : poison st.c = none) (hu : st.c.usable srcs none)
    (hr : st.c.reaches .deferred n true (es st.c) ps) (hroom : (es st.c).length ≤ daccRoom st.c) :
    exec i s = st.next s fun m => daccPush st.c op (ps.map fun p => (p, value st.c p.lane)) (fillTlbs st.c ps m) := by
  have hact := ha.trans (daccOp_checked hp hu)
  rw [checkGlobal_unlimited hr] at hact
  rw [hx, runOp_ready h hi (by rw [hact]; exact ⟨rfl, by simp [Nat.not_lt.mpr hroom], rfl⟩), hact]

/-- A marked lane, then a scalar that may not be used, traps. -/
theorem dacc_operandTraps {vs : List (BitVec 7)} (h : opStage s .m i = some st) (hv : ∀ e, st.c.poisonV vs = some e → poison st.c = some e)
    (hp : st.c.clean (vs.map fun r => (r, st.c.mask)) → poison st.c = none) :
    poisonTraps s st i vs 1 ∧ (st.c.clean (vs.map fun r => (r, st.c.mask)) → scalarTraps s st i 1 srcs none) := by
  refine ⟨poisonTraps_of_trap (slot := .m) hx h hi (by rw [ha]; rfl) fun _ e he => ?_,
    fun hclean => scalarTraps_of_trap (slot := .m) hx h hi (by rw [ha]; rfl) fun e he => ?_⟩
  · simp [ha, daccOp, hv e he]
  · simp [ha, daccOp, hp hclean, he]

/-- Elements that fail a check stop it, and so does a full buffer behind them. -/
theorem dacc_stops (h : AtIssue s .m i st) (hp : poison st.c = none) (hu : st.c.usable srcs none) :
    elementStops s st i .deferred n true (fun _ => true) (es st.c) ∧
    ∀ ps, st.c.reaches .deferred n true (es st.c) ps → daccRoom st.c < (es st.c).length → exec i s = st.traps s 1 { code := 0x1f } := by
  have hact := ha.trans (daccOp_checked hp hu)
  refine ⟨elementStops_of_checked (r := checkGlobal st.c .deferred n true none (es st.c)) (by rw [noLimits_eq]) hx h hi (by rw [hact])
    (fun e he => ?_) fun ht hmiss => ?_, fun ps hr hroom => ?_⟩
  · rw [hact]
    simp [he]
  · have hne : (checkGlobal st.c .deferred n true none (es st.c)).miss.isEmpty = false := by simpa using hmiss
    rw [hact]
    simp [ht, hne]
  · rw [checkGlobal_unlimited hr] at hact
    exact hx.trans (runOp_traps_outsideV (slot := .m) h hi nofun (by rw [hact]) (by rw [hact, decide_eq_true hroom]; rfl))

end Dacc

/-! ### FLUSH and PREF -/

theorem flushBusy_iff (w : Warp) (fs : FlushScope) : flushBusy w fs = true ↔ ∃ o ∈ w.ops, o.kind = .flush fs := by simp [flushBusy]

/-- PREF's effect, in one piece. -/
theorem prefOp_eq (sa : BitVec 6) (disp : BitVec 4) (c : Ctx) : prefOp sa disp c = { fx := fun m =>
    if (portOf c.w sa.toNat).isSome then m
    else
      (let a := ((getS c.w sa.toNat).value + BitVec.ofInt 64 disp.toInt).toNat
      if canonical a && (tlbLookup c.m (coreOf c.k) c.w.ctx a).isNone then postMisses m c.k c.w [a / 65536] else m) } := by
  unfold prefOp
  split <;> rfl

/-- Settles O10: DACCV and DACCS are one mould with their own elements; FLUSH has its two checks; FENCE and PREF have none. -/
theorem deferredAndOrdering : Obligations.DeferredAndOrdering := by
  refine ⟨?_, ?_⟩
  · intro s st op vt vx sa sv ps c at_ n
    have hlen : (c.lanes at_).length = (lanesOf c.mask).length := List.length_map _
    have hpoison (hv : c.clean [(vt, c.mask), (vx, c.mask)]) : c.poisonV [vt, vx] = none := poisonV_none (rs := [vt, vx]) hv
    have hlane (hm : c.mask ≠ 0#64) : actDaccv op vt vx sa c = daccOp op 4 (fun c => c.poisonV [vt, vx]) [sa]
        (fun c => c.lanes (gatherAddr sa vx c)) (fun c l => ((c.src vt).lanes.at l).setWidth 64) c := if_neg hm
    have hxv : exec (.daccv op vt vx sa) s = runOp s .m (.daccv op vt vx sa) (actDaccv op vt vx sa) := rfl
    have hxs : exec (.daccs op sa sv) s = runOp s .m (.daccs op sa sv) (actDaccs op sa sv) := rfl
    have hiv : ∀ f, Instr.daccv op vt vx sa ≠ .fwait f := nofun
    have his : ∀ f, Instr.daccs op sa sv ≠ .fwait f := nofun
    refine ⟨fun h hr => ?_, fun h hu hr hroom => ?_, ?_⟩
    · by_cases hm : c.mask = 0#64
      · simp only [hm, if_true]
        exact idle_next h nofun (a := actDaccv op vt vx sa) rfl (if_pos hm)
      · obtain ⟨hv, hu, hreach, hroom⟩ := hr hm
        simp only [hm, if_false]
        exact dacc_next hxv hiv (hlane hm) h (hpoison hv) hu hreach (hlen.trans_le hroom)
    · exact dacc_next hxs his rfl h rfl hu hr hroom
    · intro forms x hx
      simp only [forms, List.mem_cons, List.not_mem_nil, or_false] at hx
      rcases hx with rfl | rfl
      · intro hm
        have ha := hlane (hm rfl)
        refine ⟨fun h => dacc_operandTraps hxv hiv ha h (fun e he => he) hpoison, fun h hv hu => ?_⟩
        obtain ⟨helem, hfull⟩ := dacc_stops hxv hiv ha h (hpoison hv) hu
        exact ⟨helem, hfull ps⟩
      · intro _
        refine ⟨fun h => dacc_operandTraps hxs his rfl h (fun e he => ?_) fun _ => rfl, fun h _ hu => ?_⟩
        · rw [poisonV_none (rs := []) nofun] at he
          cases he
        · obtain ⟨helem, hfull⟩ := dacc_stops hxs his rfl h rfl hu
          exact ⟨helem, hfull ps⟩
  · intro s st fs kind sc f sa disp c
    refine ⟨fun h hf hno => ?_, fun h hf => ?_, fun h hf hbusy => ?_, fun h => ?_, fun h => ?_⟩
    · have hfree : flushBusy c.w fs = false := by
        rw [Bool.eq_false_iff, Ne, flushBusy_iff]
        rintro ⟨o, ho, hk⟩
        exact hno o ho hk
      refine (runOp_ready h (a := flushOp fs f) nofun ⟨rfl, ?_, rfl⟩).trans ?_
      · simp only [flushOp, flagBusy_none (c := st.c) hf, show flushBusy st.c.w fs = false from hfree]
        rfl
      · cases fs <;> rfl
    · exact runOp_traps_outsideV (slot := .m) h nofun nofun (a := flushOp fs f) rfl (by
        rw [flushOp, Ctx.flagBusy, show (getF st.c.w f.toNat).pend = true from hf]; rfl)
    · exact runOp_traps_outsideV (slot := .m) h nofun nofun (a := flushOp fs f) rfl (by
        rw [flushOp, flagBusy_none hf, show flushBusy st.c.w fs = true from (flushBusy_iff c.w fs).mpr hbusy]; rfl)
    · exact plain_next h (a := fenceOp kind sc) nofun rfl
    · exact plain_next h (a := prefOp sa disp) nofun (prefOp_eq sa disp c)

end Sys2Proof.Machine
end

section
/-!
PROOF. Events that complete outstanding operations (R99, R100, R197).
-/

namespace Sys2Proof.Machine

/-! ### What each event does with the operation that is ready -/

theorem exec_loadComplete (s : State) (k id : Nat) (early : Bool) : exec (.loadComplete k id early) s = machNext s
    ((readyOp? s.mach k id).elim s.mach fun o =>
      if o.kind.reads && !o.kind.counted then performOp s.dev.gtc s.mach k o early [] else s.mach) := by
  change execLoadComplete k id early s = _
  cases h : readyOp? s.mach k id <;> simp only [execLoadComplete, onMach, h] <;> rfl

theorem exec_atomicComplete (s : State) (k id : Nat) (order : List Nat) : exec (.atomicComplete k id order) s = machNext s
    ((readyOp? s.mach k id).elim s.mach fun o =>
      if o.kind.reads && o.kind.counted then performOp s.dev.gtc s.mach k o false order else s.mach) := by
  change execAtomicComplete k id order s = _
  cases h : readyOp? s.mach k id <;> simp only [execAtomicComplete, onMach, h] <;> rfl

theorem exec_storeAck_waits {s : State} {k id : Nat} (h : readyOp? s.mach k id = none) : exec (.storeAck k id) s = .next s := by
  change execStoreAck k id s = _
  simp only [execStoreAck, onMach, h]

/-- An acknowledgement performs the store, spill or event set that is ready (R256, log 36). -/
theorem exec_storeAck_ready {s : State} {k id : Nat} {o : MemOp} (h : readyOp? s.mach k id = some o)
    (hkind : (∃ n rel, o.kind = .store n rel) ∨ o.kind = .spill ∨ ∃ ev, o.kind = .evset ev) (hf : o.failed = false)
    (hr : remoteStuck s.mach o = false) : exec (.storeAck k id) s = machNext s (performOp s.dev.gtc s.mach k o false []) := by
  change execStoreAck k id s = _
  rcases hkind with ⟨n, rel, hk⟩ | hk | ⟨ev, hk⟩ <;> simp [execStoreAck, onMach, machNext, h, hk, hf, hr]

/-- A refusal finds no operation that is ready: it is for the copy of that number in the warp's cluster, if there is one. -/
theorem exec_remoteFail_waits {s : State} {k id : Nat} (h : readyOp? s.mach k id = none) :
    exec (.remoteFail k id) s = .next ((copyAt? s.mach (clusterOf k) id).elim s (failRemoteCopy s (clusterOf k) id)) := by
  change execRemoteFail k id s = _
  simp only [execRemoteFail, h]

/-- Settles O33: each event performs the ready operation of its kind, and finds none where something keeps it back. -/
theorem completionEvents : Obligations.CompletionEvents := by
  intro s k id early order
  refine ⟨fun o ho => ⟨fun hreads hplain => ?_, exec_storeAck_ready ho, fun hreads hcounted => ?_⟩,
    fun hnone => ⟨?_, ?_, ?_, fun hcopy => ?_⟩⟩
  · simp [exec_loadComplete, ho, hreads, hplain]
  · simp [exec_atomicComplete, ho, hreads, hcounted]
  · rw [exec_loadComplete, hnone]
    rfl
  · exact exec_storeAck_waits hnone
  · rw [exec_atomicComplete, hnone]
    rfl
  · rw [exec_remoteFail_waits hnone, hcopy]
    rfl

end Sys2Proof.Machine
end

section
/-!
PROOF. Episodes of deferred operations and what each of them makes of its target (R103, R218 to R220).
-/

namespace Sys2Proof.Machine

theorem exec_flushEpisodeApply_team (s : State) (group : Nat) : exec (.flushEpisodeApply .team group) s = machNext s
    (if episodeDue s.mach .team group [] then applyTeam s.dev.gtc s.mach group else s.mach) := rfl

theorem exec_flushEpisodeApply_task (s : State) (group : Nat) : exec (.flushEpisodeApply .task group) s = machNext s
    (if episodeDue s.mach .task group [] then applyTask s.dev.gtc s.mach group else s.mach) := rfl

theorem exec_flushEpisodeApply_dev {s : State} {group : Nat} {e : Episode}
    (h : (s.mach.episodes.find? fun e => devGroup e.ctx e.fgrp = group) = some e) : exec (.flushEpisodeApply .dev group) s = machNext s
      (if episodeDue s.mach .dev group e.nodes then applyDev s.dev.gtc s.mach e group else s.mach) := by
  change execFlushEpisodeApply .dev group s = _
  simp only [execFlushEpisodeApply, h]
  rfl

/-! ### Signed minimum and maximum -/

section SignedOrder

variable {n : Nat} (a b : BitVec n)

theorem ite_slt_min : (if b.slt a then b else a) = if a.toInt ≤ b.toInt then a else b := by
  simp only [BitVec.slt_eq_decide, decide_eq_true_eq, ← Int.not_lt, ite_not]

theorem ite_slt_max : (if a.slt b then b else a) = if b.toInt ≤ a.toInt then a else b := by
  simp only [BitVec.slt_eq_decide, decide_eq_true_eq, ← Int.not_lt, ite_not]

theorem toInt_ite_slt_min : (if b.slt a then b else a).toInt = min a.toInt b.toInt := by
  rw [ite_slt_min, apply_ite BitVec.toInt, min_def]

theorem toInt_ite_slt_max : (if a.slt b then b else a).toInt = max a.toInt b.toInt := by
  rw [ite_slt_max, apply_ite BitVec.toInt, max_comm, max_def]

end SignedOrder

/-- Settles O38: an episode is applied where it is due; each deferred operation is its own arithmetic. -/
theorem flushEpisodes : Obligations.FlushEpisodes := by
  intro s group
  refine ⟨fun h => ?_, fun h => ?_, fun e he h => ?_, fun sc hsc h => ?_, fun old v => ?_⟩
  · rw [exec_flushEpisodeApply_team, if_pos h]
  · rw [exec_flushEpisodeApply_task, if_pos h]
  · rw [exec_flushEpisodeApply_dev he, if_pos h]
  · cases sc with
    | team => rw [exec_flushEpisodeApply_team, h]; rfl
    | task => rw [exec_flushEpisodeApply_task, h]; rfl
    | dev => exact absurd rfl hsc
  · intro a b
    refine ⟨rfl, rfl, ?_, ?_, ?_, ?_, rfl, rfl, rfl, rfl⟩
    · exact congrArg (BitVec.setWidth 64) (ite_slt_min a b)
    · exact congrArg (BitVec.setWidth 64) (ite_slt_max a b)
    · exact toInt_ite_slt_min old v
    · exact toInt_ite_slt_max old v

end Sys2Proof.Machine
end

section
/-!
PROOF. Remote failures, failed ports, accesses from outside, register errors and patrol reads (R114, R390 to R392, R407, R464).
-/

namespace Sys2Proof.Machine

/-! ### Operations that a failed port keeps back (R392) -/

theorem mem_remoteLines {o : MemOp} {a : Access} (ha : a ∈ o.acc) (hk : remoteKey a.key = true) : lineOf a.key ∈ remoteLines o :=
  List.mem_eraseDups.mpr (List.mem_map_of_mem (List.mem_filter.mpr ⟨ha, hk⟩))

theorem opOf?_id {m : Mach} {k id : Nat} {o : MemOp} (h : opOf? m k id = some o) : o.id = id := by
  obtain ⟨w, -, ho⟩ := Option.bind_eq_some_iff.mp h
  simpa using List.find?_some ho

theorem readyOp?_none_of_held {m : Mach} {k id : Nat} (h : ∀ o, opOf? m k id = some o → retryHeld m o = true) : readyOp? m k id = none := by
  rw [Option.eq_none_iff_forall_ne_some]
  intro o ho
  obtain ⟨w, hw, hfind⟩ := Option.bind_eq_some_iff.mp ho
  obtain ⟨hop, hready⟩ := Option.filter_eq_some_iff.mp hfind
  rw [h o (Option.bind_eq_some_iff.mpr ⟨w, hw, hop⟩)] at hready
  simp at hready

/-- An operation is held by an earlier one that moves from a port and is not performed yet: by the port, or by a line of theirs. -/
theorem retryHeld_of_earlier {m : Mach} {j port : Nat} {v : Warp} {p o : MemOp} {ls : List Nat} (hv : (j, v) ∈ m.warps) (hp : p ∈ v.ops)
    (hf : p.failed = false) (hlt : p.id < o.id) (hr : (p.id, port, ls) ∈ m.retry)
    (h : (mapGet? m.retry o.id).any (·.1 = port) = true ∨ ∃ l ∈ remoteLines o, l ∈ ls) : retryHeld m o = true := by
  have hleft : (p.id, port, ls) ∈ retriesLeft m :=
    List.mem_filter.mpr ⟨hr, List.any_eq_true.mpr ⟨_, hv, List.any_eq_true.mpr ⟨p, hp, by simp [hf]⟩⟩⟩
  have hsome : m.retry.isEmpty = false := by
    cases hm : m.retry with
    | nil => rw [hm] at hr; cases hr
    | cons => rfl
  have hshared : ((mapGet? m.retry o.id).any (·.1 = port) || (remoteLines o).any ls.contains) = true := by
    rcases h with h | ⟨l, hl, hin⟩
    · rw [h, Bool.true_or]
    · rw [List.any_eq_true.mpr ⟨l, hl, List.contains_iff_mem.mpr hin⟩, Bool.or_true]
  rw [retryHeld, hsome, List.any_eq_true.mpr ⟨_, hleft, by simp only [hlt, decide_true, hshared, Bool.and_self]⟩]
  rfl

/-! ### A port that fails (R392) -/

section Puts

variable {α : Type} {P : α → Prop} {xs : Map α}

/-- The entries of one map put into another in turn. -/
def putEach (xs : Map α) (r : Map α) : Map α := xs.foldl (fun r x => mapPut r x.1 x.2) r

theorem mem_mapPut {m : Map α} {n : Nat} {a : α} {x : Nat × α} (h : x ∈ mapPut m n a) : x = (n, a) ∨ x ∈ m := by
  induction m with
  | nil => exact .inl (List.mem_singleton.mp h)
  | cons y m ih =>
    obtain ⟨k, b⟩ := y
    simp only [mapPut] at h
    split at h
    · exact List.mem_cons.mp h
    · split at h
      · exact (List.mem_cons.mp h).imp_right (List.mem_cons_of_mem _)
      · rcases List.mem_cons.mp h with rfl | h
        · exact .inr List.mem_cons_self
        · exact (ih h).imp_right (List.mem_cons_of_mem _)

theorem putEach_all {r : Map α} (hxs : ∀ x ∈ xs, P x.2) (hr : ∀ x ∈ r, P x.2) : ∀ x ∈ putEach xs r, P x.2 := by
  induction xs generalizing r with
  | nil => exact hr
  | cons y xs ih =>
    refine ih (fun x hx => hxs x (List.mem_cons_of_mem _ hx)) fun x hx => ?_
    rcases mem_mapPut hx with rfl | hx
    · exact hxs y List.mem_cons_self
    · exact hr x hx

/-- A key that is put, or that was there with such a value, has a value of the kind that all the entries have. -/
theorem mapGet?_putEach {r : Map α} {n : Nat} (hxs : ∀ x ∈ xs, P x.2) (h : (∃ x ∈ xs, x.1 = n) ∨ ∃ a, mapGet? r n = some a ∧ P a) :
    ∃ a, mapGet? (putEach xs r) n = some a ∧ P a := by
  induction xs generalizing r with
  | nil => exact h.resolve_left (by simp)
  | cons y xs ih =>
    refine ih (fun x hx => hxs x (List.mem_cons_of_mem _ hx)) ?_
    by_cases hy : y.1 = n
    · exact .inr ⟨y.2, by rw [← hy, mapGet?_put_self], hxs y List.mem_cons_self⟩
    · refine h.imp (fun ⟨x, hx, hn⟩ => ⟨x, ?_, hn⟩) fun ⟨a, ha, hp⟩ => ⟨a, by rw [mapGet?_put_other _ _ (Ne.symm hy), ha], hp⟩
      exact (List.mem_cons.mp hx).resolve_left fun h => hy (h ▸ hn)

end Puts

/-- The entry of an operation with lines on a port: its number, the port and those lines. -/
def movedFrom (m : Mach) (port : Nat) (o : MemOp) : Option (Nat × Nat × List Nat) :=
  let ls := (remoteLines o).filter fun l => portFor m l = some port
  if ls.isEmpty || o.failed then none else some (o.id, port, ls)

theorem inFlightOn_eq (m : Mach) (port : Nat) :
    inFlightOn m port = putEach (((mapVals m.warps).flatMap (·.ops)).filterMap (movedFrom m port)) [] := by
  rw [putEach, List.foldl_filterMap, inFlightOn]
  congr 1
  funext r o
  unfold movedFrom
  dsimp only
  split <;> rfl

theorem movedFrom_port {m : Mach} {port : Nat} {o : MemOp} {x : Nat × Nat × List Nat} (h : movedFrom m port o = some x) : x.2.1 = port := by
  unfold movedFrom at h
  dsimp only at h
  split at h
  · cases h
  · cases h
    rfl

theorem movedFrom_some {m : Mach} {port l : Nat} {o : MemOp} (hf : o.failed = false) (hl : l ∈ remoteLines o) (hp : portFor m l = some port) :
    ∃ x, movedFrom m port o = some x ∧ x.1 = o.id := by
  have hmem : l ∈ (remoteLines o).filter fun l => portFor m l = some port := List.mem_filter.mpr ⟨hl, decide_eq_true hp⟩
  have hne : ((remoteLines o).filter fun l => portFor m l = some port).isEmpty = false := by
    rw [List.isEmpty_eq_false_iff]
    exact List.ne_nil_of_mem hmem
  exact ⟨_, by rw [movedFrom, hne, hf]; rfl, rfl⟩

theorem inFlightOn_port {m : Mach} {port : Nat} : ∀ x ∈ inFlightOn m port, x.2.1 = port := by
  rw [inFlightOn_eq]
  refine putEach_all (P := fun a : Nat × List Nat => a.1 = port) (fun x hx => ?_) fun x hx => absurd hx List.not_mem_nil
  obtain ⟨o, -, ho⟩ := List.mem_filterMap.mp hx
  exact movedFrom_port ho

/-- An operation with a line on a port is in flight there. -/
theorem mem_inFlightOn {m : Mach} {k port l : Nat} {w : Warp} {o : MemOp} (hw : getWarp? m k = some w) (ho : o ∈ w.ops) (hf : o.failed = false)
    (hl : l ∈ remoteLines o) (hp : portFor m l = some port) : ∃ x ∈ inFlightOn m port, x.1 = o.id := by
  obtain ⟨x, hx, hid⟩ := movedFrom_some hf hl hp
  have hin : o ∈ (mapVals m.warps).flatMap (·.ops) := List.mem_flatMap.mpr ⟨w, List.mem_map_of_mem (mem_of_mapGet? hw), ho⟩
  obtain ⟨a, ha, -⟩ := mapGet?_putEach (P := fun _ => True) (r := []) (fun _ _ => trivial)
    (.inl ⟨x, List.mem_filterMap.mpr ⟨o, hin, hx⟩, hid⟩)
  exact ⟨_, by rw [inFlightOn_eq]; exact mem_of_mapGet? ha, rfl⟩

theorem exec_ualinkPortFail (s : State) (port : Nat) : exec (.ualinkPortFail port) s = machNext s
    (if s.mach.ports.contains port then
      logHealth { s.mach with ports := s.mach.ports.erase port, retry := putEach (inFlightOn s.mach port) (retriesLeft s.mach) }
        { healthOf 2 1 port with gtc := s.dev.gtc }
    else s.mach) := rfl

/-! ### An operation or a copy that another package refuses (R392, R407) -/

theorem exec_remoteFail_ready {s : State} {k id : Nat} {o : MemOp} {w : Warp} (h : readyOp? s.mach k id = some o)
    (hw : getWarp? s.mach k = some w) : exec (.remoteFail k id) s = machNext s (failRemoteOp s.dev.gtc s.mach k w o) := by
  change execRemoteFail k id s = _
  simp only [execRemoteFail, h, hw]
  rfl

theorem failRemoteOp_reads {gtc : Nat} {m : Mach} {k : Nat} {w : Warp} {o : MemOp} (ha : (o.acc.any fun a => remoteKey a.key) = true)
    (hr : o.kind.reads = true) : failRemoteOp gtc m k w o = { performOp gtc { m with ports := [] } k o false [] with ports := m.ports } := by
  rw [failRemoteOp, ha, hr]
  rfl

theorem failRemoteOp_writes {gtc : Nat} {m : Mach} {k : Nat} {w : Warp} {o : MemOp} (hw : getWarp? m k = some w)
    (ha : (o.acc.any fun a => remoteKey a.key) = true) (hr : o.kind.reads = false) (hf : o.failed = false) :
    failRemoteOp gtc m k w o =
      setWarp (logHealth m (linkRecord gtc w.ctx (nameWord o.seq o.plane o.cidx) ((o.acc.head?.map (·.key)).getD 0))) k
        (failOp w o 1 { code := TrapName.remoteFail.code, addr := (o.acc.head?.map (·.va)).getD 0 }) := by
  rw [failRemoteOp, ha, hr, hf]
  exact updWarp_some _ hw

/-! ### Events that take an input (R114, R407, R464) -/

theorem takeInput_some {α : Type} {s : State} {pick : Input → Option α} {f : State → α → State} {x : Input} {rest : List Input} {a : α}
    (hs : s.inputs = x :: rest) (ha : pick x = some a) : takeInput s pick f = .next (f { s with inputs := rest } a) := by
  simp only [takeInput, hs, ha]

theorem exec_incomingRemoteAccess {s : State} {key : Nat} {q : RemoteReq} {rest : List Input} (hs : s.inputs = .remote key q :: rest) :
    exec .incomingRemoteAccess s = .next { s with
      inputs := rest
      mach := if keyLoaded s.mach key then remoteAccess s.dev.gtc key s.mach q
        else logHealth s.mach { linkRecord s.dev.gtc 0 0 (remotePa q) with keyid := key } } := by
  change execIncomingRemoteAccess s = _
  exact takeInput_some (a := (key, q)) hs (by rfl)

theorem exec_registerUncorrectableError {s : State} {t : ErrTarget} {rest : List Input} (hs : s.inputs = .error t :: rest) :
    exec .registerUncorrectableError s = .next { s with
      inputs := rest
      mach := logHealth (markError s.mach t) (eccRecord (accessorOf s.dev.gtc s.mach (errorCtx s.mach t) 0) 6 0 1) } := by
  change execRegisterUncorrectableError s = _
  exact takeInput_some hs rfl

theorem exec_patrolScrub {s : State} {l : ScrubLoc} {rest : List Input} (hs : s.inputs = .scrub l :: rest) :
    exec .patrolScrub s = .next { s with inputs := rest, mach := patrol s.dev.gtc s.mach (scrubKey l) } := by
  change execPatrolScrub s = _
  exact takeInput_some hs rfl

/-- A patrol read leaves the bytes of memory and the warps alone. -/
theorem patrol_frame (gtc : Nat) (m : Mach) (a : Nat) : (patrol gtc m a).mem = m.mem ∧ (patrol gtc m a).warps = m.warps := by
  unfold patrol
  split
  · exact ⟨rfl, rfl⟩
  · exact ⟨rfl, rfl⟩
  · exact ⟨noteRead_mem .., noteRead_warps ..⟩

/-- A patrol read poisons a word with an error of two bits. -/
theorem patrol_double {gtc : Nat} {m : Mach} {a : Nat} (h : mapGet? m.ecc a = some .double) :
    mapGet? (patrol gtc m a).ecc (wordOf a) = some .poison := by
  simp only [patrol, h]
  exact mapGet?_put_self m.ecc (wordOf a) .poison

/-- Settles O37: each event's equation, with what a failed port moves and what then waits. -/
theorem linkAndErrorEvents : Obligations.LinkAndErrorEvents := by
  intro s
  refine ⟨fun k id o w ho hw ha => ⟨fun hr => ?_, fun hr hf => ?_⟩, fun k id c hnone hc => ?_, fun port hport => ?_,
    fun k id o j v p ho hv hp hf hlt ⟨port, ls, hretry, h⟩ => ?_, fun port hport => ?_, fun key q rest hs => ⟨fun hkey => ?_, fun hkey => ?_⟩,
    fun t rest hs => exec_registerUncorrectableError hs, fun l rest hs => ?_⟩
  · rw [exec_remoteFail_ready ho hw, failRemoteOp_reads ha hr]
  · have hexec := exec_remoteFail_ready ho hw
    rw [failRemoteOp_writes hw ha hr hf] at hexec
    exact ⟨_, hexec, rfl, rfl, _, getWarp?_set_self .., rfl, rfl, rfl, rfl⟩
  · rw [exec_remoteFail_waits hnone, hc]
    rfl
  · have hexec := exec_ualinkPortFail s port
    rw [if_pos hport] at hexec
    refine ⟨_, hexec, rfl, rfl, rfl, fun k w o hw ho hf ⟨a, ha, hk, hpa⟩ => ?_⟩
    obtain ⟨x, hx, hp⟩ := mapGet?_putEach (r := retriesLeft s.mach) (P := fun a => a.1 = port) inFlightOn_port
      (.inl (mem_inFlightOn hw ho hf (mem_remoteLines ha hk) hpa))
    change (mapGet? (putEach _ _) o.id).any _ = true
    rw [hx]
    exact decide_eq_true hp
  · obtain rfl := opOf?_id ho
    refine readyOp?_none_of_held fun o' ho' => ?_
    obtain rfl : o = o' := Option.some.inj (ho.symm.trans ho')
    exact retryHeld_of_earlier hv hp hf hlt hretry h
  · rw [exec_ualinkPortFail, if_neg (Bool.eq_false_iff.mp hport)]
    rfl
  · rw [exec_incomingRemoteAccess hs, if_pos hkey]
  · have hexec := exec_incomingRemoteAccess hs
    rw [if_neg (Bool.eq_false_iff.mp hkey)] at hexec
    exact ⟨_, hexec, rfl, rfl, rfl⟩
  · obtain ⟨hmem, hwarps⟩ := patrol_frame s.dev.gtc s.mach (scrubKey l)
    exact ⟨_, exec_patrolScrub hs, hmem, hwarps, patrol_double⟩

end Sys2Proof.Machine
end

section
/-!
PROOF. The acknowledgement of a store (R94, R197): its bytes, its flag, and all that it leaves alone.
-/

namespace Sys2Proof.Machine

/-! ### What the end of an operation leaves alone in its warp -/

/-- A part of a warp that neither its memory order nor its flags show in. -/
def OrderFree {α : Type} (part : Warp → α) : Prop :=
  ∀ w ops dones floors flags, part { w with ops := ops, dones := dones, floors := floors, flags := flags } = part w

section Keeps

variable {α : Type} {part : Warp → α} (hpart : OrderFree part)

include hpart

theorem drainFences_keeps (n : Nat) {m : Mach} {k : Nat} {w : Warp} (hw : getWarp? m k = some w) :
    ∃ w', getWarp? (drainFences n m k) k = some w' ∧ part w' = part w := by
  induction n generalizing m w with
  | zero => exact ⟨w, hw, rfl⟩
  | succ n ih =>
    have step {m' : Mach} {w' : Warp} (hw' : getWarp? m' k = some w') (h : part w' = part w) :
        ∃ w', getWarp? (drainFences n m' k) k = some w' ∧ part w' = part w := by
      obtain ⟨w2, hw2, h2⟩ := ih hw'
      exact ⟨w2, hw2, h2.trans h⟩
    simp only [drainFences, hw]
    split
    · exact ⟨w, hw, rfl⟩
    · split <;> exact step (getWarp?_set_self _ _ _) (hpart w _ _ _ _)

theorem finishedWarp_keeps (o : MemOp) (at_ : Nat) (w : Warp) : part (finishedWarp o at_ w) = part w := by
  have hout : part (withoutOp o at_ w) = part w := by
    unfold withoutOp
    dsimp only
    split <;> exact hpart w _ _ _ _
  unfold finishedWarp
  split
  · exact (hpart (withoutOp o at_ w) _ _ _ _).trans hout
  · exact hout

theorem finishAt_keeps {m : Mach} {k : Nat} {w : Warp} (o : MemOp) (at_ : Nat) (hw : getWarp? m k = some w) :
    ∃ w', getWarp? (finishAt m k o at_) k = some w' ∧ part w' = part w := by
  rw [finishAt_eq hw]
  obtain ⟨w', hw', h⟩ := drainFences_keeps hpart ((finishedWarp o at_ w).ops.length + 1) (getWarp?_set_self m k (finishedWarp o at_ w))
  exact ⟨w', hw', h.trans (finishedWarp_keeps hpart o at_ w)⟩

end Keeps

/-! ### The store -/

theorem writeNoted_ctxs (x : Accessor) (m : Mach) (ws : List (Nat × List Byte)) : (writeNoted x m ws).ctxs = m.ctxs :=
  (writeNoted_before x ws (touchedWords ws) m).2.2.1

/-- The writes of an operation, each at its home. -/
def homeWrites (o : MemOp) : List (Nat × List Byte) := o.acc.map fun a => (a.key, a.data)

/-- A store of which no access meets the stack cache writes its bytes at their homes; its warp only notes what it has touched. -/
theorem writeAll_home (gtc : Nat) {m : Mach} {k : Nat} {o : MemOp} {w : Warp} (hw : getWarp? m k = some w)
    (hstack : ∀ a ∈ o.acc, stackHit w a.va = false) : (writeAll gtc m k o).mem = (writeWords m (homeWrites o)).mem ∧
      (writeAll gtc m k o).ctxs = m.ctxs ∧ ∃ ts, getWarp? (writeAll gtc m k o) k = some (w.withTouched ts) := by
  have hhits : o.acc.filter (fun a => stackHit w a.va) = [] := List.filter_eq_nil_iff.mpr fun a ha => by simp [hstack a ha]
  have hhomes : o.acc.filter (not ∘ fun a => stackHit w a.va) = o.acc := List.filter_eq_self.mpr fun a ha => by simp [hstack a ha]
  have hall : writeAll gtc m k o =
      noteTouch (writeNoted (opAccessor gtc m w o) m (homeWrites o)) k o.id (touchedWords (homeWrites o)) := by
    simp only [writeAll, hw, List.partition_eq_filter_filter, hhits, hhomes]
    rfl
  have hwarp : getWarp? (writeNoted (opAccessor gtc m w o) m (homeWrites o)) k = some w := by
    rw [getWarp?, writeNoted_warps, ← getWarp?, hw]
  rw [hall]
  exact ⟨(updWarp_mem _ _ _).trans (writeNoted_mem _ _ _), (updWarp_ctxs _ _ _).trans (writeNoted_ctxs _ _ _), _,
    by rw [noteTouch, getWarp?_upd_self, hwarp]; rfl⟩

/-- The completion of a store that no watchpoint sees is its writes and its end. -/
theorem performOp_store {gtc : Nat} {m : Mach} {k n : Nat} {rel : Option Scope} {o : MemOp} {w : Warp} {early : Bool} {order : List Nat}
    (hkind : o.kind = .store n rel) (hw : getWarp? m k = some w) (hwatch : unwatched m w) (hstack : ∀ a ∈ o.acc, stackHit w a.va = false) :
    performOp gtc m k o early order = finishOp (writeAll gtc (bump m) k o) k o := by
  obtain ⟨-, hctxs, ts, hw'⟩ := writeAll_home gtc (m := bump m) hw hstack
  have hunwatched : unwatched (writeAll gtc (bump m) k o) (w.withTouched ts) := by
    intro c hc
    rw [ctxOf, getCtx?, hctxs] at hc
    exact hwatch c hc
  simp only [performOp, hkind]
  rw [threadHits_unwatched hw' hunwatched]

/-- Settles O34: a store writes its words, and what ends it touches flags and order alone. -/
theorem storeReachesMemory : Obligations.StoreReachesMemory := by
  intro s k id n rel o w hwf ho hkind hf hstuck hw hflags hwatch hacc
  obtain ⟨hmem, -, ts, htouched⟩ := writeAll_home s.dev.gtc (m := bump s.mach) hw fun a ha => (hacc a ha).1
  have hexec := exec_storeAck_ready ho (.inl ⟨n, rel, hkind⟩) hf hstuck
  rw [performOp_store hkind hw hwatch fun a ha => (hacc a ha).1, finishOp] at hexec
  obtain ⟨hmem', w', hw', hv, hs, hown, hother⟩ := finishAt_frame (o := o) (at_ := (writeAll s.dev.gtc (bump s.mach) k o).tick) htouched hflags
  obtain ⟨w2, hw2, hkept⟩ := finishAt_keeps (part := fun w => (w.exs, w.p0)) (fun _ _ _ _ _ => rfl) o
    (writeAll s.dev.gtc (bump s.mach) k o).tick htouched
  obtain rfl : w' = w2 := Option.some.inj (hw'.symm.trans hw2)
  obtain ⟨hexs, hp0⟩ := Prod.ext_iff.mp hkept
  have hbytes := hmem'.trans hmem
  refine ⟨_, w', hexec, hw', fun x hx => ?_, fun a ha hkey => ?_, hown, hother, hv, hs, hexs, hp0, ?_⟩
  · rw [hbytes, writeWords_frame]
    · rfl
    · intro b hb
      obtain ⟨a, ha, rfl⟩ := List.mem_map.mp hb
      rw [(hacc a ha).2]
      exact hx a ha
  · rw [hbytes, homeWrites, ha, ← (hacc a (by rw [ha]; exact List.mem_singleton_self a)).2]
    exact writeBytes_read (m := bump s.mach) a.key a.data hkey hwf
  · rw [hbytes]
    exact writeWords_wf (m := bump s.mach) _ hwf

end Sys2Proof.Machine
end

section
/-!
PROOF. The seven copies at issue (R225 to R233).
-/

namespace Sys2Proof.Machine

/-! ### The checks of a copy -/

theorem firstExn_cons_none (e : Option Exn) (xs : List (Option Exn)) : firstExn (e :: none :: xs) = firstExn (e :: xs) := by
  cases e <;> rfl

theorem shut_none {c : Ctx} {srcs : List (BitVec 6)} {dst : Option (BitVec 6)} (h : c.usable srcs dst) : c.shut srcs = none := by
  have hs := scalars_none h
  rw [Ctx.scalars, poisonS_none fun n hn => (h.1 n hn).1, roles_none h] at hs
  simpa using hs

/-- The flag that a copy names is pending. -/
def copyBusy (c : Ctx) (f : Option (BitVec 4)) : Bool := f.elim false fun n => (getF c.w n.toNat).pend

/-- A copy drains a tile that is not ready. -/
def copyUnready (c : Ctx) (r : CopyReq) : Bool := r.d.ten && !r.fills && (c.tile? r.d.tile).elim false (·.state != .ready)

theorem copyUnready_false {c : Ctx} {r : CopyReq}
    (h : r.d.ten = true → r.fills = false → (c.tile? r.d.tile).elim false (·.state != .ready) = false) : copyUnready c r = false := by
  unfold copyUnready
  cases hten : r.d.ten with
  | false => rfl
  | true =>
    cases hfills : r.fills with
    | false => exact h hten hfills
    | true => rfl

/-- What a copy that waits does all the same: it notes the pages that DET_ORDER's lookup has found (log 70). -/
def noteLooked (c : Ctx) (r : CopyReq) (ord : Bool) (m : Mach) : Mach :=
  if (copyDet c r ord).2.2.isEmpty then m else updWarp m c.k fun w => { w with looked := w.looked ++ (copyDet c r ord).2.2 }

theorem copyBusy_false {c : Ctx} {f : Option (BitVec 4)} (h : ∀ n, f = some n → (getF c.w n.toNat).pend = false) : copyBusy c f = false := by
  cases f with
  | none => rfl
  | some n => exact h n rfl

theorem leastCause_tile (xlate lock : Bool) :
    leastCause [causeIf true .tile, causeIf xlate .xlate, causeIf lock .lock] = some .tile := by
  cases xlate <;> cases lock <;> rfl

theorem leastCause_xlate (lock : Bool) : leastCause [causeIf false .tile, causeIf true .xlate, causeIf lock .lock] = some .xlate := by
  cases lock <;> rfl

theorem flagBusy_copy (c : Ctx) (f : Option (BitVec 4)) : (f.map (·.toNat)).bind c.flagBusy = checkExn (copyBusy c f, 0x15) := by
  cases f <;> rfl

/-- A copy's checks of its flag and its descriptor. -/
def copyChecks (c : Ctx) (r : CopyReq) (f : Option (BitVec 4)) (sideReg : Nat) : List (Bool × Nat) :=
  [(copyBusy c f, 0x15), (copyDescBad c r sideReg, 0x23)]

/-- A copy's checks behind those: of its tile, its bounds and its order (log 26). -/
def copyFaults (c : Ctx) (r : CopyReq) (ord : Bool) : List (Option Exn) := [copyTileFault c r, copyBounds c r, (copyDet c r ord).1]

section Copy

variable {c : Ctx} {r : CopyReq} {op : CopyOp} {ord : Bool} {dst desc : BitVec 5} {src : Option (BitVec 5)} {f : Option (BitVec 4)}
  {srcs : List (BitVec 6)} (hr : r = copyRequest c op dst src desc)

include hr

theorem copyAct_fx : (copyAct op ord dst src desc f srcs c).fx = copyIssue c r ord f := by
  rw [hr]
  rfl

theorem copyAct_early : (copyAct op ord dst src desc f srcs c).early = noteLooked c r ord := by
  rw [hr]
  rfl

theorem copyAct_miss : (copyAct op ord dst src desc f srcs c).miss = (copyDet c r ord).2.1 := by
  rw [hr]
  rfl

theorem copyAct_block : (copyAct op ord dst src desc f srcs c).block = leastCause [causeIf (copyUnready c r) .tile,
    causeIf (!(copyDet c r ord).2.1.isEmpty) .xlate, causeIf (lockTableFull c.m (copyRanges c r)) .lock] := by
  rw [hr]
  rfl

theorem copyAct_trap (hu : c.usable srcs none) : (copyAct op ord dst src desc f srcs c).trap =
    firstExn ((copyChecks c r f (copySideReg r dst src)).map checkExn ++ copyFaults c r ord) := by
  simp only [copyAct, flagBusy_copy, poisonS_none fun n hn => (hu.1 n hn).1, roles_none hu, shut_none hu, firstExn_none_cons,
    firstExn_cons_none]
  rw [hr]
  rfl

theorem copyAct_trap_described (hu : c.usable srcs none) (hb : copyBusy c f = false) (hd : copyDescBad c r (copySideReg r dst src) = false) :
    (copyAct op ord dst src desc f srcs c).trap = firstExn (copyFaults c r ord) := by
  rw [copyAct_trap hr hu, copyChecks, hb, hd]
  rfl

end Copy

/-! ### A copy at issue -/

section CopyIssue

variable {s : State} {st : Stage} {i : Instr} {r : CopyReq} {op : CopyOp} {ord : Bool} {dst desc : BitVec 5} {src : Option (BitVec 5)}
  {f : Option (BitVec 4)} {srcs : List (BitVec 6)} (hr : r = copyRequest st.c op dst src desc)
  (hx : exec i s = runOp s .x i (copyAct op ord dst src desc f srcs)) (hi : ∀ g, i ≠ .fwait g) (h : AtIssue s .x i st)

include hr hx hi h

theorem copy_next (hu : st.c.usable srcs none) (hb : copyBusy st.c f = false) (hfit : copyFits st.c r ord (copySideReg r dst src)) :
    exec i s = st.next s (copyIssue st.c r ord f) := by
  obtain ⟨hdesc, htile, hbounds, hdet, hmiss, hlock, hready⟩ := hfit
  have htrap : (copyAct op ord dst src desc f srcs st.c).trap = none := by
    rw [copyAct_trap_described hr hu hb hdesc, copyFaults, htile, hbounds, hdet]
    rfl
  have hblock : (copyAct op ord dst src desc f srcs st.c).block = none := by
    rw [copyAct_block hr, copyUnready_false hready, hmiss, hlock]
    rfl
  rw [hx, ← copyAct_fx hr]
  exact runOp_ready h hi ⟨rfl, htrap, hblock⟩

/-- A copy whose checks hold waits for the first of its causes. -/
theorem copy_waits {w : Cause} (htrap : (copyAct op ord dst src desc f srcs st.c).trap = none)
    (hblock : leastCause [causeIf (copyUnready st.c r) .tile, causeIf (!(copyDet st.c r ord).2.1.isEmpty) .xlate,
      causeIf (lockTableFull st.c.m (copyRanges st.c r)) .lock] = some w) :
    exec i s = st.waits s w (copyDet st.c r ord).2.1 (noteLooked st.c r ord) := by
  rw [hx, ← copyAct_miss hr, ← copyAct_early hr]
  exact runOp_waits (slot := .x) h.1 hi h.2.1 h.2.2 rfl htrap ((copyAct_block hr).trans hblock)

theorem copy_stops (hu : st.c.usable srcs none) : copyStops s st i r ord f (copySideReg r dst src) := by
  have checks : checksTrap s st i (slotNo .x) (copyChecks st.c r f (copySideReg r dst src)) :=
    checksTrap_of_checks hx h hi nofun rfl fun e he => by
      rw [copyAct_trap hr hu]
      exact firstExn_append he
  refine ⟨checks, fun hb hd => ?_⟩
  have hfaults := copyAct_trap_described (ord := ord) hr hu hb hd
  have traps {e : Exn} (he : firstExn (copyFaults st.c r ord) = some e) : exec i s = st.traps s 2 e := by
    rw [hx]
    exact runOp_traps_outsideV h hi nofun rfl (hfaults.trans he)
  refine ⟨fun e he => traps ?_, fun htile => ⟨fun e he => traps ?_, fun hbounds => ⟨fun e he => traps ?_, fun hdet => ?_⟩⟩⟩
  · rw [copyFaults, he]
    rfl
  · rw [copyFaults, htile, he]
    rfl
  · rw [copyFaults, htile, hbounds, he]
    rfl
  have hnone : firstExn (copyFaults st.c r ord) = none := by
    rw [copyFaults, htile, hbounds, hdet]
    rfl
  have waits {w : Cause} := copy_waits (w := w) hr hx hi h (hfaults.trans hnone)
  refine ⟨fun hunready => waits ?_, fun hready hmiss => waits ?_, fun hready hmiss hlock => ?_⟩
  · rw [show copyUnready st.c r = true from hunready, leastCause_tile]
  · rw [show copyUnready st.c r = false from hready, List.isEmpty_eq_false_iff.mpr hmiss]
    exact leastCause_xlate _
  · rw [← hmiss]
    refine waits ?_
    rw [show copyUnready st.c r = false from hready, hmiss, hlock]
    rfl

end CopyIssue

/-- Each copy of two ranges is the mould with its own operation; CPYM and CPYAT read desc + 1 too. -/
theorem copies_exec {e} (he : e ∈ copies) (ord : Bool) (dst src desc : BitVec 5) (f : Option (BitVec 4)) (s : State) :
    (∀ g, e.1 ord dst src desc f ≠ .fwait g) ∧ exec (e.1 ord dst src desc f) s = runOp s .x (e.1 ord dst src desc f)
      (copyAct e.2.1 ord dst (some src) desc f
        ([dst.setWidth 6, src.setWidth 6, desc.setWidth 6] ++ if e.2.2 then [desc.setWidth 6 + 1] else [])) := by
  simp only [copies, List.mem_cons, List.not_mem_nil, or_false] at he
  rcases he with rfl | rfl | rfl | rfl | rfl | rfl <;> exact ⟨nofun, rfl⟩

/-- Settles O11: every copy is one mould, whose checks go in their order and whose effect is `copyIssue`. -/
theorem copyIssues : Obligations.CopyIssues := by
  refine ⟨fun s st ord dst src desc f => ⟨fun e he h hu => ?_, fun h hu => ?_⟩,
    fun s st ord dst src desc f hfree => ⟨fun e he h hu hfit => ?_, fun h hu hfit => ?_⟩⟩
  · obtain ⟨hi, hx⟩ := copies_exec he ord dst src desc f s
    exact copy_stops rfl hx hi h hu
  · exact copy_stops (op := .cpyz) (src := none) rfl rfl nofun h hu
  · obtain ⟨hi, hx⟩ := copies_exec he ord dst src desc f s
    exact copy_next rfl hx hi h hu (copyBusy_false hfree) hfit
  · exact copy_next (op := .cpyz) (src := none) rfl rfl nofun h hu (copyBusy_false hfree) hfit

end Sys2Proof.Machine
end

section
/-!
PROOF. The encoder and the decoder of each slot (R148 to R158): a packed word gives back its fields, so each row of a slot's map gives back
the operation whose word it is.
-/

namespace Sys2Proof.Machine

/-! ### The fields of a packed word (R148 to R151)

A slice of a word that is packed from parts is a slice of one of them. Their widths stay sums (`-Nat.reduceAdd`), as the library's lemmas
about slices of an append have them. -/

@[simp] theorem packVR_fields (op : BitVec 8) (vd va vb : BitVec 7) (nw : Bool) : let w := packVR op vd va vb nw
    w.extractLsb' 22 8 = op ∧ vVd w = vd ∧ vVa w = va ∧ vVb w = vb ∧ vNw w = nw := by
  simp [-Nat.reduceAdd, packVR, vVd, vVa, vVb, vNw, BitVec.extractLsb'_append_eq_ite, -BitVec.getLsbD_eq_getElem, BitVec.getLsbD_append]

@[simp] theorem packVI_fields (op : BitVec 8) (vd : BitVec 7) (imm : BitVec 14) (nw : Bool) : let w := packVI op vd imm nw
    w.extractLsb' 22 8 = op ∧ vVd w = vd ∧ w.extractLsb' 1 14 = imm ∧ vNw w = nw := by
  simp [-Nat.reduceAdd, packVI, vVd, vNw, BitVec.extractLsb'_append_eq_ite, -BitVec.getLsbD_eq_getElem, BitVec.getLsbD_append]

@[simp] theorem packVC_fields (op : BitVec 8) (vd va : BitVec 7) (rm : BitVec 3) (kind : BitVec 4) (nw : Bool) :
    let w := packVC op vd va rm kind nw
    w.extractLsb' 22 8 = op ∧ vVd w = vd ∧ vVa w = va ∧ vRm w = rm ∧ vKind w = kind ∧ vNw w = nw := by
  simp [-Nat.reduceAdd, packVC, vVd, vVa, vRm, vKind, vNw, BitVec.extractLsb'_append_eq_ite,
    -BitVec.getLsbD_eq_getElem, BitVec.getLsbD_append]

@[simp] theorem packVS_fields (op : BitVec 8) (sd : BitVec 6) (va vb : BitVec 7) : let w := packVS op sd va vb
    w.extractLsb' 22 8 = op ∧ vSd w = sd ∧ vSa w = va ∧ vSb w = vb ∧ w.extractLsb' 0 2 = 0#2 := by
  simp [-Nat.reduceAdd, packVS, vSd, vSa, vSb, BitVec.extractLsb'_append_eq_ite]

@[simp] theorem packMC_fields (op : BitVec 6) (vt : BitVec 7) (sa : BitVec 6) (wd : BitVec 2) (ofs : BitVec 5) (f : BitVec 4) :
    let w := packMC op vt sa wd ofs f
    w.extractLsb' 24 6 = op ∧ mVt w = vt ∧ mCSa w = sa ∧ mCW w = wd ∧ mOfs w = ofs ∧ mF w = f := by
  simp [-Nat.reduceAdd, packMC, mVt, mCSa, mCW, mOfs, mF, BitVec.extractLsb'_append_eq_ite]

@[simp] theorem packMG_fields (op : BitVec 6) (vt vx : BitVec 7) (sa : BitVec 6) (f : BitVec 4) : let w := packMG op vt vx sa f
    w.extractLsb' 24 6 = op ∧ mVt w = vt ∧ mVx w = vx ∧ mGSa w = sa ∧ mF w = f := by
  simp [-Nat.reduceAdd, packMG, mVt, mVx, mGSa, mF, BitVec.extractLsb'_append_eq_ite]

@[simp] theorem packMS_fields (op st sa : BitVec 6) (sc wd : BitVec 2) (disp f : BitVec 4) : let w := packMS op st sa sc wd disp f
    w.extractLsb' 24 6 = op ∧ mSt w = st ∧ mSSa w = sa ∧ mSSc w = sc ∧ mSW w = wd ∧ mDisp w = disp ∧ mF w = f := by
  simp [-Nat.reduceAdd, packMS, mSt, mSSa, mSSc, mSW, mDisp, mF, BitVec.extractLsb'_append_eq_ite]

@[simp] theorem packMA_fields (op st sa sv : BitVec 6) (sc : BitVec 2) (f : BitVec 4) : let w := packMA op st sa sv sc f
    w.extractLsb' 24 6 = op ∧ mSt w = st ∧ mSSa w = sa ∧ mSv w = sv ∧ mASc w = sc ∧ mF w = f := by
  simp [-Nat.reduceAdd, packMA, mSt, mSSa, mSv, mASc, mF, BitVec.extractLsb'_append_eq_ite]

@[simp] theorem packMT_fields (op : BitVec 6) (vt : BitVec 7) (tile : BitVec 6) (rg : BitVec 7) : let w := packMT op vt tile rg
    w.extractLsb' 24 6 = op ∧ mVt w = vt ∧ mTile w = tile ∧ mRg w = rg ∧ mF w = 0#4 := by
  simp [-Nat.reduceAdd, packMT, mVt, mTile, mRg, mF, BitVec.extractLsb'_append_eq_ite]

@[simp] theorem packMO_fields (op : BitVec 6) (kind sc : BitVec 2) (f : BitVec 4) : let w := packMO op kind sc f
    w.extractLsb' 24 6 = op ∧ mKind w = kind ∧ mOSc w = sc ∧ mO0 w = 0#16 ∧ mF w = f := by
  simp [-Nat.reduceAdd, packMO, mKind, mOSc, mO0, mF, BitVec.extractLsb'_append_eq_ite]

@[simp] theorem packXK_fields (op : BitVec 6) (ord : Bool) (dst src desc : BitVec 5) (f : Option (BitVec 4)) :
    let w := packXK op ord dst src desc f
    w.extractLsb' 22 6 = op ∧ xOrd w = ord ∧ xDet w = f.isNone ∧ xDst w = dst ∧ xSrc w = src ∧ xDesc w = desc ∧
    w.extractLsb' 1 4 = f.getD 0#4 ∧ w[0] = false := by
  cases f <;> simp [-Nat.reduceAdd, packXK, xOrd, xDet, xDst, xSrc, xDesc, BitVec.extractLsb'_append_eq_ite,
    ←BitVec.getLsbD_eq_getElem, BitVec.getLsbD_append]

@[simp] theorem packXT_fields (op tile s : BitVec 6) : let w := packXT op tile s
    w.extractLsb' 22 6 = op ∧ xA6 w = tile ∧ xB6 w = s ∧ w.extractLsb' 0 10 = 0#10 := by
  simp [-Nat.reduceAdd, packXT, xA6, xB6, BitVec.extractLsb'_append_eq_ite]

@[simp] theorem packXF_fields (op : BitVec 6) (f : BitVec 4) : let w := packXF op f
    w.extractLsb' 22 6 = op ∧ w.extractLsb' 4 18 = 0#18 ∧ xF w = f := by
  simp [-Nat.reduceAdd, packXF, xF, BitVec.extractLsb'_append_eq_ite]

@[simp] theorem packXH_fields (op : BitVec 6) (acc : BitVec 2) (anchor : Option (BitVec 10)) : let w := packXH op acc anchor
    w.extractLsb' 22 6 = op ∧ w[21] = anchor.isNone ∧ w.extractLsb' 11 10 = anchor.getD 0#10 ∧ w.extractLsb' 9 2 = acc ∧
    w.extractLsb' 0 9 = 0#9 := by
  cases anchor <;> simp [-Nat.reduceAdd, packXH, BitVec.extractLsb'_append_eq_ite, ←BitVec.getLsbD_eq_getElem, BitVec.getLsbD_append]

@[simp] theorem packXP_fields (op ta tb k : BitVec 6) : let w := packXP op ta tb k
    w.extractLsb' 22 6 = op ∧ xA6 w = ta ∧ xB6 w = tb ∧ w.extractLsb' 4 6 = k ∧ w.extractLsb' 0 4 = 0#4 := by
  simp [-Nat.reduceAdd, packXP, xA6, xB6, BitVec.extractLsb'_append_eq_ite]

@[simp] theorem packXE_fields (op : BitVec 6) (acc : BitVec 2) (f : BitVec 4) : let w := packXE op acc f
    w.extractLsb' 22 6 = op ∧ w.extractLsb' 20 2 = acc ∧ w.extractLsb' 4 16 = 0#16 ∧ xF w = f := by
  simp [-Nat.reduceAdd, packXE, xF, BitVec.extractLsb'_append_eq_ite]

@[simp] theorem packXD_fields (op tile : BitVec 6) (acc : BitVec 2) (f : BitVec 4) : let w := packXD op tile acc f
    w.extractLsb' 22 6 = op ∧ xA6 w = tile ∧ w.extractLsb' 14 2 = acc ∧ w.extractLsb' 4 10 = 0#10 ∧ xF w = f := by
  simp [-Nat.reduceAdd, packXD, xA6, xF, BitVec.extractLsb'_append_eq_ite]

@[simp] theorem packXV_fields (op : BitVec 6) (vd : BitVec 7) : let w := packXV op vd
    w.extractLsb' 22 6 = op ∧ xVd w = vd ∧ w.extractLsb' 0 15 = 0#15 := by
  simp [-Nat.reduceAdd, packXV, xVd, BitVec.extractLsb'_append_eq_ite]

@[simp] theorem packXG_fields (op : BitVec 6) (n : BitVec 2) (skew : BitVec 3) : let w := packXG op n skew
    w.extractLsb' 22 6 = op ∧ w.extractLsb' 20 2 = n ∧ w.extractLsb' 17 3 = skew ∧ w.extractLsb' 0 17 = 0#17 := by
  simp [-Nat.reduceAdd, packXG, BitVec.extractLsb'_append_eq_ite]

@[simp] theorem packXS_fields (op : BitVec 6) (vd : BitVec 7) (sa : BitVec 6) (lane : Option (BitVec 6)) : let w := packXS op vd sa lane
    w.extractLsb' 22 6 = op ∧ xVd w = vd ∧ w.extractLsb' 9 6 = sa ∧ w[8] = lane.isNone ∧ w.extractLsb' 2 6 = lane.getD 0#6 ∧
    w.extractLsb' 0 2 = 0#2 := by
  cases lane <;> simp [-Nat.reduceAdd, packXS, xVd, BitVec.extractLsb'_append_eq_ite, ←BitVec.getLsbD_eq_getElem, BitVec.getLsbD_append]

@[simp] theorem packXU_fields (op sd : BitVec 6) (va : BitVec 7) (lane : BitVec 6) : let w := packXU op sd va lane
    w.extractLsb' 22 6 = op ∧ xA6 w = sd ∧ w.extractLsb' 9 7 = va ∧ w.extractLsb' 3 6 = lane ∧ w.extractLsb' 0 3 = 0#3 := by
  simp [-Nat.reduceAdd, packXU, xA6, BitVec.extractLsb'_append_eq_ite]

@[simp] theorem packXQ_fields (op : BitVec 6) (q : BitVec 3) (queue : BitVec 5) (role : Bool) : let w := packXQ op q queue role
    w.extractLsb' 22 6 = op ∧ w.extractLsb' 19 3 = q ∧ w.extractLsb' 14 5 = queue ∧ w[13] = role ∧ w.extractLsb' 0 13 = 0#13 := by
  simp [-Nat.reduceAdd, packXQ, BitVec.extractLsb'_append_eq_ite, ←BitVec.getLsbD_eq_getElem, BitVec.getLsbD_append]

@[simp] theorem packXR_fields (op sd : BitVec 6) (queue : BitVec 5) : let w := packXR op sd queue
    w.extractLsb' 22 6 = op ∧ xA6 w = sd ∧ w.extractLsb' 11 5 = queue ∧ w.extractLsb' 0 11 = 0#11 := by
  simp [-Nat.reduceAdd, packXR, xA6, BitVec.extractLsb'_append_eq_ite]

@[simp] theorem packXB_fields (op : BitVec 6) (bar : BitVec 3) (wait : Bool) (f : BitVec 4) : let w := packXB op bar wait f
    w.extractLsb' 22 6 = op ∧ w.extractLsb' 19 3 = bar ∧ w[18] = wait ∧ w.extractLsb' 4 14 = 0#14 ∧ xF w = f := by
  simp [-Nat.reduceAdd, packXB, xF, BitVec.extractLsb'_append_eq_ite, ←BitVec.getLsbD_eq_getElem, BitVec.getLsbD_append]

@[simp] theorem packXN_fields (op sa : BitVec 6) (f : BitVec 4) : let w := packXN op sa f
    w.extractLsb' 22 6 = op ∧ xA6 w = sa ∧ w.extractLsb' 4 12 = 0#12 ∧ xF w = f := by
  simp [-Nat.reduceAdd, packXN, xA6, xF, BitVec.extractLsb'_append_eq_ite]

@[simp] theorem packXW_fields (op : BitVec 6) (ev : BitVec 8) : let w := packXW op ev
    w.extractLsb' 22 6 = op ∧ w.extractLsb' 14 8 = ev ∧ w.extractLsb' 0 14 = 0#14 := by
  simp [-Nat.reduceAdd, packXW, BitVec.extractLsb'_append_eq_ite]

@[simp] theorem packXL_fields (op : BitVec 6) (imm : BitVec 22) : let w := packXL op imm
    w.extractLsb' 22 6 = op ∧ w.extractLsb' 0 22 = imm := by
  simp [-Nat.reduceAdd, packXL, BitVec.extractLsb'_append_eq_ite]

@[simp] theorem packXZ_fields (op : BitVec 6) : let w := packXZ op
    w.extractLsb' 22 6 = op ∧ w.extractLsb' 0 22 = 0#22 := by
  simp [-Nat.reduceAdd, packXZ, BitVec.extractLsb'_append_eq_ite]

@[simp] theorem packCR_fields (op : BitVec 7) (sd sa sb : BitVec 6) (cc : BitVec 3) : let w := packCR op sd sa sb cc
    w.extractLsb' 21 7 = op ∧ cSd w = sd ∧ cSa w = sa ∧ cSb w = sb ∧ cCc w = cc := by
  simp [-Nat.reduceAdd, packCR, cSd, cSa, cSb, cCc, BitVec.extractLsb'_append_eq_ite]

@[simp] theorem packCI_fields (op : BitVec 7) (sd sa : BitVec 6) (imm : BitVec 9) : let w := packCI op sd sa imm
    w.extractLsb' 21 7 = op ∧ cSd w = sd ∧ cSa w = sa ∧ w.extractLsb' 0 9 = imm := by
  simp [-Nat.reduceAdd, packCI, cSd, cSa, BitVec.extractLsb'_append_eq_ite]

/-- An immediate of a shift, below its upper bits. -/
@[simp] theorem packCI_shift (op : BitVec 7) (sd sa : BitVec 6) (upper : BitVec 3) (imm : BitVec 6) :
    let w := packCI op sd sa (upper ++ imm)
    w.extractLsb' 6 3 = upper ∧ w.extractLsb' 0 6 = imm := by
  simp [-Nat.reduceAdd, packCI, BitVec.extractLsb'_append_eq_ite]

@[simp] theorem packCK_fields (op : BitVec 7) (sd sa : BitVec 6) (cc : BitVec 3) (imm : BitVec 6) : let w := packCK op sd sa cc imm
    w.extractLsb' 21 7 = op ∧ cSd w = sd ∧ cSa w = sa ∧ w.extractLsb' 6 3 = cc ∧ w.extractLsb' 0 6 = imm := by
  simp [-Nat.reduceAdd, packCK, cSd, cSa, BitVec.extractLsb'_append_eq_ite]

@[simp] theorem packCL_fields (op : BitVec 7) (sd : BitVec 6) (imm : BitVec 15) : let w := packCL op sd imm
    w.extractLsb' 21 7 = op ∧ cSd w = sd ∧ w.extractLsb' 0 15 = imm := by
  simp [-Nat.reduceAdd, packCL, cSd, BitVec.extractLsb'_append_eq_ite]

@[simp] theorem packCB_fields (op : BitVec 7) (inv : Bool) (x : BitVec 6) (disp : BitVec 14) : let w := packCB op inv x disp
    w.extractLsb' 21 7 = op ∧ w[20] = inv ∧ w.extractLsb' 14 6 = x ∧ w.extractLsb' 0 14 = disp := by
  simp [-Nat.reduceAdd, packCB, BitVec.extractLsb'_append_eq_ite, ←BitVec.getLsbD_eq_getElem, BitVec.getLsbD_append]

/-- A flag of BRF, below its upper bits. -/
@[simp] theorem packCB_flag (op : BitVec 7) (inv : Bool) (upper : BitVec 2) (f : BitVec 4) (disp : BitVec 14) :
    let w := packCB op inv (upper ++ f) disp
    w.extractLsb' 18 2 = upper ∧ w.extractLsb' 14 4 = f := by
  simp [-Nat.reduceAdd, packCB, BitVec.extractLsb'_append_eq_ite]

@[simp] theorem packCJ_fields (op : BitVec 7) (disp : BitVec 21) : let w := packCJ op disp
    w.extractLsb' 21 7 = op ∧ w.extractLsb' 0 21 = disp := by
  simp [-Nat.reduceAdd, packCJ, BitVec.extractLsb'_append_eq_ite]

@[simp] theorem packCD_fields (op : BitVec 7) (sc : BitVec 6) (t : BitVec 8) (j : BitVec 7) : let w := packCD op sc t j
    w.extractLsb' 21 7 = op ∧ cSd w = sc ∧ w.extractLsb' 7 8 = t ∧ w.extractLsb' 0 7 = j := by
  simp [-Nat.reduceAdd, packCD, cSd, BitVec.extractLsb'_append_eq_ite]

@[simp] theorem packCP_fields (op : BitVec 7) (tb : BitVec 2) (disp : BitVec 19) : let w := packCP op tb disp
    w.extractLsb' 21 7 = op ∧ w.extractLsb' 19 2 = tb ∧ w.extractLsb' 0 19 = disp := by
  simp [-Nat.reduceAdd, packCP, BitVec.extractLsb'_append_eq_ite]

@[simp] theorem packCG_fields (op : BitVec 7) (tb : BitVec 2) (inv : Bool) (sa : BitVec 6) : let w := packCG op tb inv sa
    w.extractLsb' 21 7 = op ∧ w.extractLsb' 19 2 = tb ∧ w[18] = inv ∧ w.extractLsb' 12 6 = sa ∧ w.extractLsb' 0 12 = 0#12 := by
  simp [-Nat.reduceAdd, packCG, BitVec.extractLsb'_append_eq_ite, ←BitVec.getLsbD_eq_getElem, BitVec.getLsbD_append]

@[simp] theorem packCE_fields (op : BitVec 7) (pl : BitVec 2) (len : BitVec 16) : let w := packCE op pl len
    w.extractLsb' 21 7 = op ∧ w.extractLsb' 19 2 = pl ∧ w.extractLsb' 3 16 = len ∧ w.extractLsb' 0 3 = 0#3 := by
  simp [-Nat.reduceAdd, packCE, BitVec.extractLsb'_append_eq_ite]

@[simp] theorem packCT_fields (op : BitVec 7) (imm : BitVec 16) : let w := packCT op imm
    w.extractLsb' 21 7 = op ∧ w.extractLsb' 16 5 = 0#5 ∧ w.extractLsb' 0 16 = imm := by
  simp [-Nat.reduceAdd, packCT, BitVec.extractLsb'_append_eq_ite]

@[simp] theorem packCX_fields (op : BitVec 7) (s : BitVec 6) (creg : BitVec 8) : let w := packCX op s creg
    w.extractLsb' 21 7 = op ∧ cSd w = s ∧ cCreg w = creg ∧ w.extractLsb' 0 7 = 0#7 := by
  simp [-Nat.reduceAdd, packCX, cSd, cCreg, BitVec.extractLsb'_append_eq_ite]

@[simp] theorem packCS_fields (op : BitVec 7) (sd sa : BitVec 6) (nt : Bool) (f : BitVec 4) : let w := packCS op sd sa nt f
    w.extractLsb' 21 7 = op ∧ cSd w = sd ∧ cSa w = sa ∧ w[8] = nt ∧ w.extractLsb' 4 4 = 0#4 ∧ w.extractLsb' 0 4 = f := by
  simp [-Nat.reduceAdd, packCS, cSd, cSa, BitVec.extractLsb'_append_eq_ite, ←BitVec.getLsbD_eq_getElem, BitVec.getLsbD_append]

/-! ### Coded fields (R123, R152) -/

@[simp] theorem widthOf_widthCode (wd : Width) : widthOf (widthCode wd) = wd := by cases wd <;> rfl
@[simp] theorem scopeOf_scopeCode (sc : Scope) : scopeOf (scopeCode sc) = sc := by cases sc <;> rfl
@[simp] theorem fenceOf_fenceCode (k : FenceKind) : fenceOf (fenceCode k) = some k := by cases k <;> rfl
@[simp] theorem flushOf_flushCode (sc : FlushScope) : flushOf (flushCode sc) = some sc := by cases sc <;> rfl
@[simp] theorem ccOf_ccCode (cc : Cc) : ccOf (ccCode cc) = some cc := by cases cc <;> rfl
@[simp] theorem rmOf_rmCode (rm : Rm) : rmOf (rmCode rm) = some rm := by cases rm <;> rfl
@[simp] theorem cvtOf_cvtCode (k : CvtKind) : cvtOf (cvtCode k) = some k := by cases k <;> rfl
@[simp] theorem daccOf_daccCode (op : DaccOp) : daccOf (daccCode op) = some op := by cases op <;> rfl
@[simp] theorem roleOf_roleBit (r : Role) : roleOf (roleBit r) = r := by cases r <;> rfl

@[simp] theorem halfCode_fields (fmt : HalfFmt) (high : Bool) : let k := halfCode fmt high
    halfFmtOf k = fmt ∧ k[1] = high ∧ k.extractLsb' 2 2 = 0#2 := by
  cases fmt <;> cases high <;> decide

/-! ### Fields that are well formed -/

theorem flaw_none {i : Instr} (h : i.wf = true) : i.flaw = none := Option.isNone_iff_eq_none.mp h

@[simp] theorem firstFlaw_cons_eq_none (f : Option Flaw) (fs : List (Option Flaw)) :
    firstFlaw (f :: fs) = none ↔ f = none ∧ firstFlaw fs = none := by
  cases f <;> simp [firstFlaw]

@[simp] theorem firstFlaw_nil : firstFlaw [] = none := rfl

@[simp] theorem reserved_eq_none (bad : Bool) : reserved bad = none ↔ bad = false := by cases bad <;> simp [reserved]
@[simp] theorem otherRow_eq_none (bad : Bool) : otherRow bad = none ↔ bad = false := by cases bad <;> simp [otherRow]

/-! ### Rows of a slot's map -/

theorem ok_row {a b : Instr} (h : a = b) : (.ok a : Decoded) = .ok b := congrArg _ h

/-- A row whose reserved fields are 0. -/
theorem need_row {p : Prop} [Decidable p] {a b : Instr} (hp : p) (h : a = b) : need p a = .ok b := by rw [need, if_pos hp, h]

/-- A row with reserved fields ahead of a coded one. -/
theorem need_seq_row {p : Prop} [Decidable p] {d : Decoded} {i : Instr} (hp : p) (h : d = .ok i) : (need p () *> d) = .ok i := by
  rw [need, if_pos hp, h]
  rfl

/-- A row with a coded field. -/
theorem withCode_row {α : Type} {c : Option α} {a : α} {bad : DecodeFault} {k : α → Decoded} {i : Instr} (hc : c = some a)
    (h : k a = .ok i) : withCode c bad k = .ok i := by rw [hc]; exact h

theorem withWv_row {w : BitVec 30} {wd : Width} {k : Width → Decoded} {i : Instr} (hw : mCW w = widthCode wd) (hd : wd ≠ .dword)
    (h : k wd = .ok i) : withWv w k = .ok i := by
  have hcode : widthCode wd ≠ 3#2 := by cases wd <;> simp_all [widthCode]
  rw [withWv, hw, if_neg hcode, widthOf_widthCode, h]

theorem withCopyFlag_row {op : BitVec 6} {ord : Bool} {dst src desc : BitVec 5} {f : Option (BitVec 4)}
    {k : Option (BitVec 4) → Decoded} {i : Instr} (h : k f = .ok i) : withCopyFlag (packXK op ord dst src desc f) k = .ok i := by
  cases f <;> simpa [withCopyFlag] using h

theorem decodeChb_packXH (op : BitVec 6) (acc : BitVec 2) (anchor : Option (BitVec 10)) :
    decodeChb (packXH op acc anchor) = .ok (.chb acc anchor) := by
  cases anchor <;> simp [decodeChb, need]

theorem decodeXsv_packXS (op : BitVec 6) (vd : BitVec 7) (sa : BitVec 6) (lane : Option (BitVec 6)) :
    decodeXsv (packXS op vd sa lane) = .ok (.xsv vd sa lane) := by
  cases lane <;> simp [decodeXsv, need]

/-- VCVT, whose narrowing kinds leave the rounding unused (R183). -/
theorem decodeVcvt_packVC {op : BitVec 8} {vd va : BitVec 7} {rm : Rm} {kind : CvtKind} {nw : Bool}
    (h : kind.narrows = true → rm = .rne) :
    decodeVcvt (packVC op vd va (rmCode rm) (cvtCode kind) nw) = .ok (.vcvt vd va rm kind nw) := by
  refine withCode_row (a := kind) (by simp) ?_
  cases hn : kind.narrows with
  | true => simp [h hn, need, rmCode]
  | false => simp [withRm, withCode]

/-! ### Unassigned opcodes (R158): the rows that a slot's map leaves to its last -/

theorem unassigned_wf {slot : Slot} {op : BitVec 8} (h : (Instr.unassignedOpcode slot op).wf = true) :
    assigned slot op = false ∧ op.toNat < slot.opcodeLimit := by
  have hflaw : (assigned slot op || decide (slot.opcodeLimit ≤ op.toNat)) = false := (otherRow_eq_none _).mp (flaw_none h)
  simpa using hflaw

/-- An opcode's lower bits keep it where it is below the slot's limit. -/
theorem setWidth_opcode {op : BitVec 8} {n : Nat} (h : op.toNat < 2 ^ n) : (op.setWidth n).setWidth 8 = op := by
  refine BitVec.eq_of_toNat_eq ?_
  rw [BitVec.toNat_setWidth, BitVec.toNat_setWidth, Nat.mod_eq_of_lt h, Nat.mod_eq_of_lt op.isLt]

theorem rawV_unassigned {op : BitVec 8} (h : assigned .v op = false) : rawV (op ++ 0#22) = .ok (.unassignedOpcode .v op) := by
  rw [rawV, BitVec.extractLsb'_append_eq_left]
  split
  on_goal -1 => rfl
  all_goals cases h

theorem rawM_unassigned {op : BitVec 6} (h : assigned .m (op.setWidth 8) = false) :
    rawM (op ++ 0#24) = .ok (.unassignedOpcode .m (op.setWidth 8)) := by
  rw [rawM, BitVec.extractLsb'_append_eq_left]
  split
  on_goal -1 => rfl
  all_goals cases h

theorem rawX_unassigned {op : BitVec 6} (h : assigned .x (op.setWidth 8) = false) :
    rawX (op ++ 0#22) = .ok (.unassignedOpcode .x (op.setWidth 8)) := by
  rw [rawX, BitVec.extractLsb'_append_eq_left]
  split
  on_goal -1 => rfl
  all_goals cases h

theorem rawC_unassigned {op : BitVec 7} (h : assigned .c (op.setWidth 8) = false) :
    rawC (op ++ 0#21) = .ok (.unassignedOpcode .c (op.setWidth 8)) := by
  rw [rawC, BitVec.extractLsb'_append_eq_left]
  split
  on_goal -1 => rfl
  all_goals cases h

/-! ### The slots: each row of the map gives back what its format packs -/

/-- The V slot (R154). -/
theorem rawV_encodeV {i : Instr} {w : BitVec 30} (hwf : i.wf = true) (h : encodeV i = some w) : rawV w = .ok i := by
  cases i with
  | vadd | vsub | vmul | vmulhi | vmin | vmax | vminu | vmaxu | vand | vor | vxor | vandn | vshl | vshr | vsra | vsel | vfadd | vfsub
  | vfmul | vfma | vfms | vfmin | vfmax | vfdiv | vbpackM7 | vbpackM4 | vbpackM2 | vrng | vshfl | vrotl =>
    cases h
    rw [rawV, (packVR_fields ..).1]
    exact ok_row (by simp)
  | vclz | vpopc | vmov | viota | vfabs | vfneg | vfsqrt | vfexp2 | vflog2 | vbunpk | vfkey | vredadd | vredfadd | vredmax | vscan
  | vfscan | vplane => cases h; rw [rawV, (packVR_fields ..).1]; exact need_row (by simp) (by simp)
  | vcmpEq | vcmpNe | vcmpLt | vcmpLe | vcmpLtu | vcmpLeu | vfcmpEq | vfcmpNe | vfcmpLt | vfcmpLe | vfcmpUn | vmatch =>
    cases h
    rw [rawV, (packVS_fields ..).1]
    exact need_row (by simp) (by simp)
  | vmovi => cases h; rw [rawV, (packVI_fields ..).1]; exact ok_row (by simp)
  | vfrnd _ _ rm | vpkh _ _ rm =>
    cases h
    rw [rawV, (packVC_fields ..).1]
    exact need_seq_row (by simp) (withCode_row (a := rm) (by simp) (ok_row (by simp)))
  | vupkh => cases h; rw [rawV, (packVC_fields ..).1]; exact need_row (by simp) (by simp)
  | vcvt =>
    obtain ⟨hn, -⟩ := (firstFlaw_cons_eq_none _ _).mp (flaw_none hwf)
    cases h
    rw [rawV, (packVC_fields ..).1]
    exact decodeVcvt_packVC (by simpa using hn)
  | unassignedOpcode slot op =>
    cases slot <;> cases h
    exact rawV_unassigned (unassigned_wf hwf).1
  | _ => cases h

/-- The M slot (R155). -/
theorem rawM_encodeM {i : Instr} {w : BitVec 30} (hwf : i.wf = true) (h : encodeM i = some w) : rawM w = .ok i := by
  cases i with
  | ldv _ _ wd | stv _ _ wd =>
    obtain ⟨hd, -⟩ := (firstFlaw_cons_eq_none _ _).mp (flaw_none hwf)
    cases h
    rw [rawM, (packMC_fields ..).1]
    exact withWv_row (wd := wd) (by simp) (by simpa using hd) (ok_row (by simp))
  | vspill | vfill => cases h; rw [rawM, (packMC_fields ..).1]; exact need_row (by simp) (by simp)
  | ldg | stg | atomvAdd | atomvAnd | atomvOr | atomvXor | atomvMin | atomvMax | atomvMinu | atomvMaxu | casv =>
    cases h
    rw [rawM, (packMG_fields ..).1]
    exact ok_row (by simp)
  | spld | spst => cases h; rw [rawM, (packMG_fields ..).1]; exact need_row (by simp) (by simp)
  | daccv op =>
    obtain ⟨hop, -⟩ := (firstFlaw_cons_eq_none _ _).mp (flaw_none hwf)
    cases h
    rw [rawM, (packMG_fields ..).1]
    exact withCode_row (a := op) (by simp) (need_row (by simpa using hop) (by simp))
  | ldsAcq | stsRel => cases h; rw [rawM, (packMS_fields ..).1]; exact ok_row (by simp)
  | lds | sts | splds | spsts | pref => cases h; rw [rawM, (packMS_fields ..).1]; exact need_row (by simp) (by simp)
  | atomsAdd | atomsAnd | atomsOr | atomsXor | atomsMin | atomsMax | atomsMinu | atomsMaxu | cass =>
    cases h
    rw [rawM, (packMA_fields ..).1]
    exact ok_row (by simp)
  | daccs op => cases h; rw [rawM, (packMA_fields ..).1]; exact need_seq_row (by simp) (withCode_row (a := op) (by simp) (ok_row (by simp)))
  | tld => cases h; rw [rawM, (packMT_fields ..).1]; exact need_row (by simp) (by simp)
  | flush code | fence code =>
    cases h
    rw [rawM, (packMO_fields ..).1]
    exact need_seq_row (by simp) (withCode_row (a := code) (by simp) (ok_row (by simp)))
  | unassignedOpcode slot op =>
    obtain ⟨ha, hlt⟩ := unassigned_wf hwf
    cases slot <;> cases h
    rw [← setWidth_opcode (n := 6) hlt] at ha
    rw [rawM_unassigned ha, setWidth_opcode hlt]
  | _ => cases h

/-- The X slot (R156). -/
theorem rawX_encodeX {i : Instr} {w : BitVec 28} (hwf : i.wf = true) (h : encodeX i = some w) : rawX w = .ok i := by
  cases i with
  | cpy | cpyin | cpyout | cpyr | cpym | cpyat => cases h; rw [rawX, (packXK_fields ..).1]; exact withCopyFlag_row (ok_row (by simp))
  | cpyz => cases h; rw [rawX, (packXK_fields ..).1]; exact need_seq_row (by simp) (withCopyFlag_row (ok_row (by simp)))
  | tdef | tfree | tstat => cases h; rw [rawX, (packXT_fields ..).1]; exact need_row (by simp) (by simp)
  | mres => cases h; rw [rawX, (packXF_fields ..).1]; exact need_row (by simp) (by simp)
  | mrel | ungang => cases h; rw [rawX, (packXZ_fields ..).1]; exact need_row (by simp) rfl
  | chb => cases h; rw [rawX, (packXH_fields ..).1]; exact decodeChb_packXH ..
  | mstep | mstepG => cases h; rw [rawX, (packXP_fields ..).1]; exact need_row (by simp) (by simp)
  | che | cheG => cases h; rw [rawX, (packXE_fields ..).1]; exact need_row (by simp) (by simp)
  | mpop => cases h; rw [rawX, (packXV_fields ..).1]; exact need_row (by simp) (by simp)
  | mdep => cases h; rw [rawX, (packXD_fields ..).1]; exact need_row (by simp) (by simp)
  | gang n skew =>
    have hn := (reserved_eq_none _).mp (flaw_none hwf)
    cases h
    rw [rawX, (packXG_fields ..).1]
    exact need_row (by simpa using hn) (by simp)
  | xsv => cases h; rw [rawX, (packXS_fields ..).1]; exact decodeXsv_packXS ..
  | xvs => cases h; rw [rawX, (packXU_fields ..).1]; exact need_row (by simp) (by simp)
  | qbind => cases h; rw [rawX, (packXQ_fields ..).1]; exact need_row (by simp) (by simp)
  | qunbind q =>
    cases h
    revert q
    decide
  | qstat => cases h; rw [rawX, (packXR_fields ..).1]; exact need_row (by simp) (by simp)
  | barr => cases h; rw [rawX, (packXB_fields ..).1]; exact need_row (by simp) (by simp)
  | tpost => cases h; rw [rawX, (packXN_fields ..).1]; exact need_row (by simp) (by simp)
  | evset => cases h; rw [rawX, (packXW_fields ..).1]; exact need_row (by simp) (by simp)
  | limm => cases h; rw [rawX, (packXL_fields ..).1]; exact ok_row (by simp)
  | unassignedOpcode slot op =>
    obtain ⟨ha, hlt⟩ := unassigned_wf hwf
    cases slot <;> cases h
    rw [← setWidth_opcode (n := 6) hlt] at ha
    rw [rawX_unassigned ha, setWidth_opcode hlt]
  | _ => cases h

/-- The C slot (R157). -/
theorem rawC_encodeC {i : Instr} {w : BitVec 28} (hwf : i.wf = true) (h : encodeC i = some w) : rawC w = .ok i := by
  cases i with
  | add | sub | mul | mulhi | mulhu | div | divu | rem | remu | and | or | xor | shl | shr | sra | clz | ctz | popc | sel | callr | setx
  | rgrow | timer => cases h; rw [rawC, (packCR_fields ..).1]; exact need_row (by simp) (by simp)
  | cmp cc => cases h; rw [rawC, (packCR_fields ..).1]; exact withCode_row (a := cc) (by simp) (ok_row (by simp))
  | addi | andi | ori | xori => cases h; rw [rawC, (packCI_fields ..).1]; exact ok_row (by simp)
  | shli | shri | srai => cases h; rw [rawC, (packCI_fields ..).1]; exact need_row (by simp) (by simp)
  | cmpi cc => cases h; rw [rawC, (packCK_fields ..).1]; exact withCode_row (a := cc) (by simp) (ok_row (by simp))
  | movi | movhi => cases h; rw [rawC, (packCL_fields ..).1]; exact ok_row (by simp)
  | br => cases h; rw [rawC, (packCB_fields ..).1]; exact ok_row (by simp)
  | brf => cases h; rw [rawC, (packCB_fields ..).1]; exact need_row (by simp) (by simp)
  | jmp | call => cases h; rw [rawC, (packCJ_fields ..).1]; exact ok_row (by simp)
  | ret | join | pexit | eret | sprel | rshrink | yield | endWarp => cases h; rw [rawC, (packCJ_fields ..).1]; exact need_row (by simp) rfl
  | brd => cases h; rw [rawC, (packCD_fields ..).1]; exact ok_row (by simp)
  | bprep => cases h; rw [rawC, (packCP_fields ..).1]; exact ok_row (by simp)
  | bgo => cases h; rw [rawC, (packCG_fields ..).1]; exact need_row (by simp) (by simp)
  | penter => cases h; rw [rawC, (packCE_fields ..).1]; exact need_row (by simp) (by simp)
  | fwait | fclr | trap | brk | trmark => cases h; rw [rawC, (packCT_fields ..).1]; exact need_row (by simp) (by simp)
  | crd sd creg =>
    obtain ⟨-, hreg⟩ : badCreg creg = none ∧ creg ≠ 0x13#8 := by
      simpa using (firstFlaw_cons_eq_none _ _).mp (flaw_none hwf)
    cases h
    rw [rawC, (packCX_fields ..).1]
    exact need_row (by simp) (by simp [crdOf, hreg])
  | cwr creg sa =>
    obtain ⟨-, htimer, hdead⟩ : badCreg creg = none ∧ creg ≠ 0x0c#8 ∧ creg ≠ 0x0e#8 := by
      simpa using (firstFlaw_cons_eq_none _ _).mp (flaw_none hwf)
    cases h
    rw [rawC, (packCX_fields ..).1]
    exact need_row (by simp) (by simp [cwrOf, htimer, hdead])
  | crdEnergyLo | cwrWtimer | cwrGdead => cases h; rw [rawC, (packCX_fields ..).1]; exact need_row (by simp) (by simp [crdOf, cwrOf])
  | sprint => cases h; rw [rawC, (packCS_fields ..).1]; exact need_row (by simp) (by simp)
  | unassignedOpcode slot op =>
    obtain ⟨ha, hlt⟩ := unassigned_wf hwf
    cases slot <;> cases h
    rw [← setWidth_opcode (n := 7) hlt] at ha
    rw [rawC_unassigned ha, setWidth_opcode hlt]
  | _ => cases h

end Sys2Proof.Machine
end

section
/-!
PROOF. Bundles (R145, R146): four slot words that are packed come back as they were, and the bundle of one operation decodes to it.
-/

namespace Sys2Proof.Machine

/-! ### The slots, checked -/

theorem checked_ok {i : Instr} (h : i.wf = true) : checked (.ok i) = .ok i := by rw [checked, flaw_none h]

theorem decodeV_encodeV {i : Instr} {w : BitVec 30} (hwf : i.wf = true) (h : encodeV i = some w) : decodeV w = .ok i := by
  rw [decodeV, rawV_encodeV hwf h, checked_ok hwf]

theorem decodeM_encodeM {i : Instr} {w : BitVec 30} (hwf : i.wf = true) (h : encodeM i = some w) : decodeM w = .ok i := by
  rw [decodeM, rawM_encodeM hwf h, checked_ok hwf]

theorem decodeX_encodeX {i : Instr} {w : BitVec 28} (hwf : i.wf = true) (h : encodeX i = some w) : decodeX w = .ok i := by
  rw [decodeX, rawX_encodeX hwf h, checked_ok hwf]

theorem decodeC_encodeC {i : Instr} {w : BitVec 28} (hwf : i.wf = true) (h : encodeC i = some w) : decodeC w = .ok i := by
  rw [decodeC, rawC_encodeC hwf h, checked_ok hwf]

/-! ### Bundles (R145, R146) -/

@[simp] theorem packBundle_fields (g : BitVec 4) (sync : Bool) (b : BitVec 6) (v m : BitVec 30) (x c : BitVec 28) :
    let w := packBundle g sync b v m x c
    bundleGap w = g ∧ bundleSync w = sync ∧ w[122] = false ∧ bundleB w = b ∧ bundleV w = v ∧ bundleM w = m ∧ bundleX w = x ∧
    bundleC w = c := by
  simp [-Nat.reduceAdd, packBundle, bundleGap, bundleSync, bundleB, bundleV, bundleM, bundleX, bundleC, BitVec.extractLsb'_append_eq_ite,
    ←BitVec.getLsbD_eq_getElem, BitVec.getLsbD_append]

/-- The words of a bundle's four slots. -/
structure SlotWords where
  v : BitVec 30
  m : BitVec 30
  x : BitVec 28
  c : BitVec 28

/-- Each slot's word is that of its operation, which is well formed; a NOP's is 0. -/
structure SlotWords.Hold (ws : SlotWords) (o : BundleOps) : Prop where
  wf : o.v.wf = true ∧ o.m.wf = true ∧ o.x.wf = true ∧ o.c.wf = true
  v : encodeV o.v = some ws.v ∨ o.v = .nop ∧ ws.v = 0#30
  m : encodeM o.m = some ws.m ∨ o.m = .nop ∧ ws.m = 0#30
  x : encodeX o.x = some ws.x ∨ o.x = .nop ∧ ws.x = 0#28
  c : encodeC o.c = some ws.c ∨ o.c = .nop ∧ ws.c = 0#28

/-- Each slot's word decodes to its operation. -/
theorem SlotWords.Hold.decodes {ws : SlotWords} {o : BundleOps} (h : ws.Hold o) :
    decodeV ws.v = .ok o.v ∧ decodeM ws.m = .ok o.m ∧ decodeX ws.x = .ok o.x ∧ decodeC ws.c = .ok o.c := by
  obtain ⟨⟨wfv, wfm, wfx, wfc⟩, hv, hm, hx, hc⟩ := h
  refine ⟨hv.elim (decodeV_encodeV wfv) ?_, hm.elim (decodeM_encodeM wfm) ?_, hx.elim (decodeX_encodeX wfx) ?_,
    hc.elim (decodeC_encodeC wfc) ?_⟩ <;>
  · rintro ⟨ho, hw⟩
    rw [ho, hw]
    rfl

/-- The bundle of those words. -/
def SlotWords.pack (ws : SlotWords) (o : BundleOps) : Bundle := packBundle o.gap o.sync o.b ws.v ws.m ws.x ws.c

theorem SlotWords.Hold.bundleOps_pack {ws : SlotWords} {o : BundleOps} (h : ws.Hold o) : bundleOps (ws.pack o) = o := by
  obtain ⟨hv, hm, hx, hc⟩ := h.decodes
  simp [bundleOps, pack, hv, hm, hx, hc, Decoded.instr]

/-! ### A bundle of one operation -/

/-- The operations of the bundle that `encode` makes: one in its slot, NOP elsewhere. -/
def oneOp (slot : Slot) (i : Instr) : BundleOps :=
  { gap := 0#4, sync := false, b := 0#6
    v := if slot = .v then i else .nop, m := if slot = .m then i else .nop
    x := if slot = .x then i else .nop, c := if slot = .c then i else .nop }

/-- An operation that has a bundle has a slot, whose word the bundle carries. -/
theorem encode_oneOp {i : Instr} {b : Bundle} (hwf : i.wf = true) (h : encode i = some b) :
    ∃ slot ws, SlotWords.Hold ws (oneOp slot i) ∧ b = ws.pack (oneOp slot i) := by
  have hnop : Instr.nop.wf = true := rfl
  have nov : encodeV .nop = some 0#30 ∨ Instr.nop = .nop ∧ 0#30 = 0#30 := .inr ⟨rfl, rfl⟩
  have nom : encodeM .nop = some 0#30 ∨ Instr.nop = .nop ∧ 0#30 = 0#30 := .inr ⟨rfl, rfl⟩
  have nox : encodeX .nop = some 0#28 ∨ Instr.nop = .nop ∧ 0#28 = 0#28 := .inr ⟨rfl, rfl⟩
  have noc : encodeC .nop = some 0#28 ∨ Instr.nop = .nop ∧ 0#28 = 0#28 := .inr ⟨rfl, rfl⟩
  unfold encode at h
  split at h
  · next hi =>
    cases h
    subst hi
    exact ⟨.v, ⟨0, 0, 0, 0⟩, ⟨⟨hwf, hnop, hnop, hnop⟩, nov, nom, nox, noc⟩, rfl⟩
  split at h
  · next w hw =>
    cases h
    exact ⟨.v, ⟨w, 0, 0, 0⟩, ⟨⟨hwf, hnop, hnop, hnop⟩, .inl hw, nom, nox, noc⟩, rfl⟩
  split at h
  · next w hw =>
    cases h
    exact ⟨.m, ⟨0, w, 0, 0⟩, ⟨⟨hnop, hwf, hnop, hnop⟩, nov, .inl hw, nox, noc⟩, rfl⟩
  split at h
  · next w hw =>
    cases h
    exact ⟨.x, ⟨0, 0, w, 0⟩, ⟨⟨hnop, hnop, hwf, hnop⟩, nov, nom, .inl hw, noc⟩, rfl⟩
  split at h
  · next w hw =>
    cases h
    exact ⟨.c, ⟨0, 0, 0, w⟩, ⟨⟨hnop, hnop, hnop, hwf⟩, nov, nom, nox, .inl hw⟩, rfl⟩
  · cases h

theorem slotFaults_ok {i : Instr} (slot : Slot) (h : ∀ s op, i ≠ .unassignedOpcode s op) : slotFaults slot (.ok i) = [] := by
  cases i with
  | unassignedOpcode s op => exact absurd rfl (h s op)
  | _ => rfl

theorem limmFaults_alone {i : Instr} (h : ∀ l, i ≠ .limm l) : limmFaults i .nop = [] := by
  cases i with
  | limm l => exact absurd rfl (h l)
  | _ => rfl

theorem brdFaults_alone {i : Instr} (h : ∀ s t j, i = .brd s t j → 3 ≤ t.toNat) : brdFaults .nop i = [] := by
  cases i with
  | brd s t j => exact if_neg (Nat.not_lt.mpr (h s t j rfl))
  | _ => rfl

/-- One operation among NOPs conflicts with nothing; only a LIMM, a near BRD and an unassigned opcode are faults of their own. -/
theorem staticFaults_oneOp {ws : SlotWords} {slot : Slot} {i : Instr} (h : ws.Hold (oneOp slot i)) (hl : ∀ l, i ≠ .limm l)
    (hb : ∀ s t j, i = .brd s t j → 3 ≤ t.toNat) (hu : ∀ s op, i ≠ .unassignedOpcode s op) :
    staticFaults (ws.pack (oneOp slot i)) = [] := by
  obtain ⟨hv, hm, hx, hc⟩ := h.decodes
  have hnop : Instr.nop.sdest = none ∧ Instr.nop.namedFlags = 0#16 ∧ Instr.nop.crossesDown = false := ⟨rfl, rfl, rfl⟩
  have hlimm (c : Instr) : limmFaults .nop c = [] := rfl
  have hbrd (x : Instr) : brdFaults x .nop = [] := rfl
  simp only [staticFaults, h.bundleOps_pack]
  simp only [SlotWords.pack, packBundle_fields, hv, hm, hx, hc]
  cases slot <;>
    simp [oneOp, slotFaults_ok _ hu, slotFaults_ok (i := .nop) _ nofun, limmFaults_alone hl, brdFaults_alone hb, hlimm, hbrd, crossFaults,
      sdestFaults, flagFaults, hnop]

/-- The bundle of one operation decodes to it. -/
theorem decodeBundle_oneOp {ws : SlotWords} {slot : Slot} {i : Instr} (h : ws.Hold (oneOp slot i)) (hl : ∀ l, i ≠ .limm l)
    (hb : ∀ s t j, i = .brd s t j → 3 ≤ t.toNat) (hu : ∀ s op, i ≠ .unassignedOpcode s op) :
    decodeBundle (ws.pack (oneOp slot i)) = .ok (oneOp slot i) := by
  rw [decodeBundle, staticFaults_oneOp h hl hb hu, h.bundleOps_pack]
  rfl

theorem single_oneOp (slot : Slot) (i : Instr) : (oneOp slot i).single = some i := by
  by_cases hi : i = .nop
  · subst hi
    cases slot <;> rfl
  · cases slot <;> simp [BundleOps.single, oneOp, hi]

/-! ### Bytes (R6) -/

theorem leBytes_succ {w : Nat} (n : Nat) (v : BitVec w) : leBytes (n + 1) v = v.setWidth 8 :: leBytes n (v >>> 8) := by
  simp [leBytes, List.range_succ_eq_map, ← BitVec.shiftRight_add, Nat.mul_add, Nat.add_comm]

theorem leNat_leBytes {w : Nat} (n : Nat) (v : BitVec w) : leNat (leBytes n v) = v.toNat % 256 ^ n := by
  induction n generalizing v with
  | zero => simp [leBytes, leNat, Nat.mod_one]
  | succ n ih =>
    rw [leBytes_succ, leNat, ih, Nat.pow_succ', Nat.mod_mul, BitVec.toNat_setWidth, BitVec.toNat_ushiftRight, Nat.shiftRight_eq_div_pow]

theorem bundleOfBytes_leBytes (b : Bundle) : bundleOfBytes (leBytes 16 b) = b := by
  rw [bundleOfBytes, ofLe, leNat_leBytes]
  exact BitVec.eq_of_toNat_eq (by simpa using b.isLt)

/-- Settles O54: each slot decodes by the rows of its map; the bundle of one operation has no fault, since its other slots are NOPs. -/
theorem encodeDecode : Obligations.EncodeDecode := by
  refine ⟨fun i w => decodeV_encodeV, fun i w => decodeM_encodeM, fun i w => decodeX_encodeX, fun i w => decodeC_encodeC,
    fun gap sync b v m x c wv wm wx wc wfv wfm wfx wfc hv hm hx hc => ?_, fun i b hwf he hl hb hu => ?_⟩
  · have h : SlotWords.Hold ⟨wv, wm, wx, wc⟩ { gap, sync, b, v, m, x, c } := ⟨⟨wfv, wfm, wfx, wfc⟩, hv, hm, hx, hc⟩
    exact ⟨h.bundleOps_pack, by simp⟩
  · obtain ⟨slot, ws, h, rfl⟩ := encode_oneOp hwf he
    exact ⟨⟨_, decodeBundle_oneOp h hl hb hu, single_oneOp slot i⟩, bundleOfBytes_leBytes _⟩

end Sys2Proof.Machine
end

section
/-!
PROOF. The scalar operations on an immediate (R153, R263, R267, R268), the words that the spec writes out (R145, R158, R249, R268, R453).
-/

namespace Sys2Proof.Machine

/-! ### Values of immediates and shifts -/

/-- An immediate as LIMM widens it is what the C slot takes (R153). -/
theorem immW_eq_wide {n : Nat} (c : Ctx) (i : BitVec n) : immW i c = BitVec.ofInt 64 (wide c i) := by
  rw [immW, Ctx.imm, wide]
  cases c.limm <;> rfl

theorem immU_eq_elim {n : Nat} (c : Ctx) (i : BitVec n) : c.immU i = c.limm.elim i.toNat fun l => (l ++ i).toNat := by
  rw [Ctx.immU]
  cases c.limm <;> rfl

/-- The condition codes are the relations of the operands' values (R268). -/
theorem ccHolds_eq_relates (cc : Cc) (a b : DWord) : ccHolds cc a b = relates cc a b := by
  rw [Bool.eq_iff_iff]
  cases cc <;> simp [ccHolds, relates, BitVec.toNat_inj, BitVec.slt, BitVec.sle, BitVec.ult, BitVec.ule]

theorem relationCode_eq (cc : Cc) : relationCode cc = ccCode cc := by cases cc <;> rfl

/-- A six-bit number as a doubleword keeps its value, which is below 64. -/
theorem toNat_shiftCount (i : BitVec 6) : (i.setWidth 64).toNat = i.toNat := by
  rw [BitVec.toNat_setWidth]
  omega

/-! ### The forms -/

theorem scalarImmediates_form {e} (he : e ∈ scalarImmediates) (sd sa : BitVec 6) (imm : BitVec 9) (s : State) :
    encodeC (e.1 sd sa imm) = some (packCI e.2.1 sd sa imm) ∧ (∀ f, e.1 sd sa imm ≠ .fwait f) ∧
    exec (e.1 sd sa imm) s = runOp s .c (e.1 sd sa imm) (aluI e.2.2 sd sa (immW imm)) := by
  simp only [scalarImmediates, List.mem_cons, List.not_mem_nil, or_false] at he
  rcases he with rfl | rfl | rfl | rfl <;> exact ⟨rfl, nofun, rfl⟩

/-- A shift's value function reads the immediate's six bits, which are below 64. -/
theorem scalarShifts_form {e} (he : e ∈ scalarShifts) (sd sa imm : BitVec 6) (s : State) :
    encodeC (e.1 sd sa imm) = some (packCI e.2.1 sd sa (0#3 ++ imm)) ∧ (∀ f, e.1 sd sa imm ≠ .fwait f) ∧
    (e.1 sd sa imm).takesLimm = false ∧ ∃ f : DWord → DWord → DWord, (∀ a, f a (imm.setWidth 64) = e.2.2 a imm.toNat) ∧
      exec (e.1 sd sa imm) s = runOp s .c (e.1 sd sa imm) (aluI f sd sa fun _ => imm.setWidth 64) := by
  have hlt : (imm.setWidth 64).toNat < 64 := by rw [toNat_shiftCount]; exact imm.isLt
  simp only [scalarShifts, List.mem_cons, List.not_mem_nil, or_false] at he
  rcases he with rfl | rfl | rfl
  · exact ⟨rfl, nofun, rfl, shl64, fun a => by rw [shl64, if_pos hlt, toNat_shiftCount], rfl⟩
  · exact ⟨rfl, nofun, rfl, shr64, fun a => by rw [shr64, if_pos hlt, toNat_shiftCount], rfl⟩
  · exact ⟨rfl, nofun, rfl, sra64, fun a => by rw [sra64, if_pos hlt, toNat_shiftCount], rfl⟩

theorem rawC_shift {e} (he : e ∈ scalarShifts) {w : BitVec 28} (hop : w.extractLsb' 21 7 = e.2.1) :
    rawC w = need (w.extractLsb' 6 3 = 0#3) (e.1 (cSd w) (cSa w) (w.extractLsb' 0 6)) := by
  simp only [scalarShifts, List.mem_cons, List.not_mem_nil, or_false] at he
  rcases he with rfl | rfl | rfl <;>
  · rw [rawC, hop]
    rfl

/-- A word of a shift whose upper immediate bits are not 0 does not decode. -/
theorem decodeC_shift_upper {e} (he : e ∈ scalarShifts) (sd sa imm : BitVec 6) {upper : BitVec 3} (h : upper ≠ 0#3) :
    decodeC (packCI e.2.1 sd sa (upper ++ imm)) = .error .fieldRsvd := by
  rw [decodeC, rawC_shift he (packCI_fields ..).1, need, if_neg (by simpa using h), checked]

/-- What an operation on an immediate does where its source may be used. -/
theorem aluI_next {s : State} {i : Instr} {st : Stage} {f : DWord → DWord → DWord} {sd sa : BitVec 6} {b : Ctx → DWord} {v : DWord}
    (hx : exec i s = runOp s .c i (aluI f sd sa b)) (h : AtIssue s .c i st) (hi : ∀ f, i ≠ .fwait f) (hu : st.c.usable [sa] (some sd))
    (hv : f (st.c.sv sa) (b st.c) = v) : exec i s = st.next s (st.c.sendS sd v false 1) := by
  rw [hx, ← hv]
  exact scalar_next h hi hu rfl

/-- Settles O18: each form is its ALU function on the widened immediate, or on the six bits of a shift. -/
theorem immediateResults : Obligations.ImmediateResults := by
  intro s st sd sa cc i9 i6 i15 c
  refine ⟨fun e he => ?_, fun e he => ?_, by rw [relationCode_eq]; rfl, fun h hu => ?_, rfl, rfl, fun h hu => ?_, fun h hu => ?_⟩
  · obtain ⟨henc, hi, hx⟩ := scalarImmediates_form he sd sa i9 s
    exact ⟨henc, fun h hu => aluI_next hx h hi hu (by rw [immW_eq_wide]),
      fun h => scalarTraps_of_trap (slot := .c) hx h hi rfl fun _ he => he⟩
  · obtain ⟨henc, hi, hlimm, f, hf, hx⟩ := scalarShifts_form he sd sa i6 s
    exact ⟨henc, fun upper h => decodeC_shift_upper he sd sa i6 h, fun l => by simp [limmFaults, hlimm],
      fun h hu => aluI_next hx h hi hu (hf _)⟩
  · refine aluI_next rfl h nofun hu ?_
    rw [immW_eq_wide, ccResult, ccHolds_eq_relates]
    rfl
  · rw [← immW_eq_wide]
    exact scalar_next h (a := actMovi sd i15) nofun hu rfl
  · rw [← immU_eq_elim]
    exact scalar_next h (a := actMovhi sd i15) nofun hu rfl

/-- Settles O55: each word is a closed term that the decoder evaluates. -/
theorem decodedWords : Obligations.DecodedWords := by
  unfold Obligations.DecodedWords
  decide +kernel

end Sys2Proof.Machine
end

section
/-!
PROOF. Deliveries at a warp's boundary and unassigned opcodes (R158, R348, R358, R360).
-/

namespace Sys2Proof.Machine

/-- A warp at its boundary with nothing ahead of a delivery. -/
structure TakesDelivery (d : Dev) (m : Mach) (k : Nat) (w : Warp) : Prop where
  warp : getWarp? (atBoundary d.gtc m k) k = some w
  steps : stepsItself w = true
  enters : entryWaits w = false
  stands : standsAtBoundary (atBoundary d.gtc m k) w = true
  free : stopDue (atBoundary d.gtc m k) k w (dueStreams (atBoundary d.gtc m k) w) = none

/-- What is due at that boundary. -/
def dueDelivery (d : Dev) (m : Mach) (k : Nat) (w : Warp) : Option (Delivery × Mach) :=
  boundaryTrap actionOf d (atBoundary d.gtc m k) k w (dueStreams (atBoundary d.gtc m k) w)

/-- What is due is delivered when it is of the wanted sort. -/
theorem deliverAt_due {d : Dev} {m t : Mach} {k : Nat} {w : Warp} {sort : Delivery} (want : Delivery → Bool) (h : TakesDelivery d m k w)
    (hd : dueDelivery d m k w = some (sort, t)) : deliverAt d m k want = if want sort then t else m := by
  obtain ⟨hw, hsteps, hentry, hstands, hstop⟩ := h
  rw [dueDelivery] at hd
  simp [deliverAt, hw, hsteps, hentry, hstands, hstop, hd]

theorem deliverAt_idle {d : Dev} {m : Mach} {k : Nat} {w : Warp} (want : Delivery → Bool) (h : TakesDelivery d m k w)
    (hd : dueDelivery d m k w = none) : deliverAt d m k want = m := by
  obtain ⟨hw, hsteps, hentry, hstands, hstop⟩ := h
  rw [dueDelivery] at hd
  simp [deliverAt, hw, hsteps, hentry, hstands, hstop, hd]

theorem exec_trapDelivery (k : Nat) (s : State) :
    exec (.trapDelivery k) s = machNext s (deliverAt s.dev s.mach k (· != .async)) := rfl
theorem exec_asyncFaultDelivery (k : Nat) (s : State) :
    exec (.asyncFaultDelivery k) s = machNext s (deliverAt s.dev s.mach k (· = .async)) := rfl

theorem exec_unassignedOpcode {s : State} {cur : Cur} {w : Warp} (hcur : s.cur = some cur) (hw : getWarp? s.mach cur.warp = some w)
    (slot : Slot) (op : BitVec 8) : exec (.unassignedOpcode slot op) s = machNext s (faultStream s.mach cur.warp
      (foundAt s.dev s.mach w cur.path cur.plane 0 (slotNo slot) { code := 0x01 } 0) []) := by
  change execUnassignedOpcode slot op s = _
  simp only [execUnassignedOpcode, hcur, Option.bind_some, hw, Option.map_some]
  rfl

/-- Settles O31: of the two events at a boundary the one of the due delivery's sort makes it, and the other does nothing. -/
theorem boundaryDeliveries : Obligations.BoundaryDeliveries := by
  intro s k w
  refine ⟨fun hw hsteps hentry hstands hstop => ?_, fun s cur w slot op hcur hw => ?_⟩
  · have h : TakesDelivery s.dev s.mach k w := ⟨hw, hsteps, hentry, hstands, hstop⟩
    refine ⟨fun sort t ht hsort => ?_, fun t ht => ?_, fun ht => ?_⟩
    · rw [exec_trapDelivery, exec_asyncFaultDelivery, deliverAt_due _ h ht, deliverAt_due _ h ht, if_pos (by simpa using hsort),
        if_neg (by simpa using hsort)]
      exact ⟨rfl, rfl⟩
    · rw [exec_trapDelivery, exec_asyncFaultDelivery, deliverAt_due _ h ht, deliverAt_due _ h ht]
      exact ⟨rfl, rfl⟩
    · rw [exec_trapDelivery, exec_asyncFaultDelivery, deliverAt_idle _ h ht, deliverAt_idle _ h ht]
      exact ⟨rfl, rfl⟩
  · rw [exec_unassignedOpcode hcur hw]
    cases slot <;> rfl

end Sys2Proof.Machine
end

section
/-!
SUPPORT. The mould of V operations with a vector result (R48, R53, R72, R114, R168, R171, R172): its outcome, and the poison of sources that
are read in the active lanes.
-/

namespace Sys2Proof.Machine

/-- What the mould does once its sources may be read and its own check passes: its result and flags where no raised flag traps, and FP_TRAP
where one does. -/
theorem vecOp_outcome {s : State} {i : Instr} {st : Stage} {l : Nat} {rs : List (BitVec 7)} {reads : Ctx → List (BitVec 7 × DWord)}
    {pre : Ctx → Option Exn} {vd : BitVec 7} {nw : Bool} {f : Ctx → Nat → Flagged Word}
    (hx : exec i s = runOp s .v i (vecOp l rs reads pre vd nw f)) (hi : ∀ f, i ≠ .fwait f) (h : AtIssue s .v i st)
    (hr : st.c.mask ≠ 0#64 → st.c.clean (reads st.c) ∧ st.c.bsUsable rs) (hp : st.c.mask ≠ 0#64 → pre st.c = none) :
    ((st.c.untrapped fun k => (f st.c k).2) → exec i s = st.next s (st.c.vectorResult l vd nw (f st.c))) ∧
    flagsTrap s st i fun k => (f st.c k).2 :=
  ⟨fun hf => hx.trans (vecOp_next h hi hr hp hf), vecOp_flagsTrap hx h hr hp⟩

/-- The mould without flags: each active lane's value, once its sources may be read. -/
theorem vecOp_flagless_next {s : State} {i : Instr} {st : Stage} {l : Nat} {rs : List (BitVec 7)} {reads : Ctx → List (BitVec 7 × DWord)}
    {vd : BitVec 7} {nw : Bool} {v : Ctx → Nat → Word} (g : Nat → Word)
    (hx : exec i s = runOp s .v i (vecOp l rs reads (fun _ => none) vd nw fun c k => (v c k, 0))) (hi : ∀ f, i ≠ .fwait f)
    (h : AtIssue s .v i st) (hr : st.c.mask ≠ 0#64 → st.c.clean (reads st.c) ∧ st.c.bsUsable rs) (hv : ∀ k, v st.c k = g k) :
    exec i s = st.next s (st.c.vectorResult l vd nw fun k => (g k, 0)) := by
  rw [← funext hv]
  exact (vecOp_outcome hx hi h hr fun _ => rfl).1 (untrapped_zero _ fun _ => rfl)

/-- Sources that are read in the active lanes alone have the poison check of vector operands. -/
theorem poisonReads_activeReads (c : Ctx) (rs : List (BitVec 7)) : c.poisonReads (activeReads rs c) = c.poisonV rs := by
  have hlane (l : Nat) : ((activeReads rs c).any fun r => maskBit r.2 l && maskBit (c.src r.1).marks l) =
      (maskBit c.mask l && rs.any fun r => maskBit (c.src r).marks l) := by
    rw [activeReads, List.any_map]
    cases hm : maskBit c.mask l <;> simp [hm, Function.comp_def]
  have hfind : (List.range 64).find? (fun l => (activeReads rs c).any fun r => maskBit r.2 l && maskBit (c.src r.1).marks l) =
      firstLane c.mask fun l => rs.any fun r => maskBit (c.src r).marks l := by
    simp only [hlane, firstLane, lanesOf, List.find?_filter, Bool.decide_and, Bool.decide_eq_true]
    rfl
  rw [Ctx.poisonReads, Ctx.poisonV, hfind]
  refine Option.map_congr fun l hl => ?_
  have hm : maskBit c.mask l = true := (List.mem_filter.mp (List.mem_of_find?_eq_some hl)).2
  have hread : ((activeReads rs c).filter fun r => maskBit r.2 l).map (·.1) = rs := by
    rw [activeReads, List.filter_map, List.filter_eq_self.mpr fun r _ => by exact hm]
    simp [Function.comp_def]
  rw [hread]

/-- The mould of V operations that read their active lanes alone checks their poison first. -/
theorem vecOp_poisonTraps {s : State} {i : Instr} {st : Stage} {l : Nat} {rs : List (BitVec 7)} {pre : Ctx → Option Exn}
    {vd : BitVec 7} {nw : Bool} {f : Ctx → Nat → Flagged Word} (hx : exec i s = runOp s .v i (vecOp l rs (activeReads rs) pre vd nw f))
    (h : opStage s .v i = some st) (hi : ∀ f, i ≠ .fwait f) : poisonTraps s st i rs := by
  refine poisonTraps_of_trap (slot := .v) (a := vecOp l rs (activeReads rs) pre vd nw f) hx h hi ?_ fun hm e he => ?_
  · unfold vecOp
    split <;> rfl
  · simp only [vecOp, hm, if_false, poisonReads_activeReads, he, firstExn_some_cons]

end Sys2Proof.Machine
end

section
/-!
PROOF. The integer lane operations of the V slot, VMOV and VFKEY (R54, R114, R154, R172, R175, R176, R178, R190).
-/

namespace Sys2Proof.Machine

/-! ### Well-formed registers (R54) -/

theorem badDest_eq_none (v : BitVec 7) : badDest v = none ↔ v.toNat ≤ 111 := by simp [badDest]
theorem badSource_eq_none (v : BitVec 7) : badSource v = none ↔ sourceCode v := by simp [badSource, sourceCode, or_iff_not_imp_left]

theorem wf_iff_of_unary {i : Instr} {vd va : BitVec 7} (h : i.flaw = firstFlaw [badDest vd, badSource va]) :
    i.wf = true ↔ vd.toNat ≤ 111 ∧ sourceCode va := by
  rw [Instr.wf, Option.isNone_iff_eq_none, h]
  simp [badDest_eq_none, badSource_eq_none]

theorem wf_iff_of_binary {i : Instr} {vd va vb : BitVec 7} (h : i.flaw = firstFlaw [badDest vd, badSource va, badSource vb]) :
    i.wf = true ↔ vd.toNat ≤ 111 ∧ sourceCode va ∧ sourceCode vb := by
  rw [Instr.wf, Option.isNone_iff_eq_none, h]
  simp [badDest_eq_none, badSource_eq_none]

/-! ### Values of a lane, as R175, R176 and R190 give them -/

theorem lane2_congr {l : Nat} {vd va vb : BitVec 7} {nw : Bool} {f g : Word → Word → Word} (h : ∀ a b, f a b = g a b) :
    lane2 l vd va vb nw f = lane2 l vd va vb nw g := by rw [funext₂ h]

theorem lane1_congr {l : Nat} {vd va : BitVec 7} {nw : Bool} {f g : Word → Word} (h : ∀ a, f a = g a) :
    lane1 l vd va nw f = lane1 l vd va nw g := by rw [funext h]

theorem ite_slt (a b x y : Word) : (if a.slt b then x else y) = if a.toInt < b.toInt then x else y := by
  simp only [BitVec.slt_iff_toInt_lt]

theorem ite_ult (a b x y : Word) : (if a.ult b then x else y) = if a.toNat < b.toNat then x else y := by
  simp only [BitVec.ult_iff_lt, BitVec.lt_def]

/-- An arithmetic shift by 31 leaves the sign in every bit. -/
theorem sshiftRight_31 (a : Word) : a.sshiftRight 31 = if a.getLsbD 31 then 0xffffffff#32 else 0#32 := by
  refine BitVec.eq_of_getLsbD_eq fun j hj => ?_
  have hsign : (a.sshiftRight 31).getLsbD j = a.getLsbD 31 := by
    rw [BitVec.getLsbD_sshiftRight, BitVec.msb_eq_getLsbD_last]
    split
    · next h => simp [show j = 0 by omega]
    · simp [hj]
  have hones : (0xffffffff#32).getLsbD j = true := (BitVec.getLsbD_allOnes (v := 32)).trans (by simpa using hj)
  rw [hsign]
  cases a.getLsbD 31 <;> simp [hones]

theorem shiftBy_sshiftRight (a b : Word) : shiftBy b (fun n => a.sshiftRight n) (if a.getLsbD 31 then 0xffffffff#32 else 0#32) =
    a.sshiftRight (min b.toNat 31) := by
  by_cases h : b.toNat < 32
  · rw [shiftBy, if_pos h, Nat.min_eq_left (by omega)]
  · rw [shiftBy, if_neg h, Nat.min_eq_right (by omega), sshiftRight_31]

theorem clzNat_toNat (a : Word) : clzNat 32 a.toNat = if a = 0#32 then 32 else 31 - a.toNat.log2 := by
  have hzero : a.toNat = 0 ↔ a = 0#32 := BitVec.toNat_inj (y := 0#32)
  simp only [clzNat, hzero]

theorem listSum_map_bitNat (p : Nat → Bool) (xs : List Nat) : listSum (xs.map fun i => bitNat (p i)) = xs.countP p := by
  induction xs with
  | nil => rfl
  | cons x xs ih =>
    rw [List.map_cons, listSum, ih, List.countP_cons, bitNat, Nat.add_comm]

/-- VPOPC's count, as R176 gives it. -/
theorem popNat_toNat (a : Word) : popNat 32 a.toNat = (List.range 32).countP fun i => a.getLsbD i :=
  listSum_map_bitNat (fun i => a.toNat.testBit i) (List.range 32)

theorem ofInt_fdiv (x : Int) : BitVec.ofInt 32 (x.fdiv (2 ^ 32)) = BitVec.ofInt 32 (x / 2 ^ 32) := by
  rw [Int.fdiv_eq_ediv_of_nonneg x (by decide)]

theorem fkey_eq (a : Word) : fkey a = if a.getLsbD 31 then ~~~a else a ||| 0x80000000#32 := by
  cases h : a.getLsbD 31 with
  | true => simp only [fkey, h, if_true]; exact BitVec.xor_allOnes (x := a)
  | false =>
    simp only [fkey, h, Bool.false_eq_true, if_false]
    refine BitVec.eq_of_getLsbD_eq fun j hj => ?_
    have htop : (0x80000000#32).getLsbD j = decide (31 = j) := by
      rw [show 0x80000000#32 = BitVec.twoPow 32 31 from rfl, BitVec.getLsbD_twoPow]; simp
    rw [BitVec.getLsbD_xor, BitVec.getLsbD_or, htop]
    by_cases hj31 : 31 = j
    · rw [← hj31, h]; rfl
    · simp [hj31]

/-! ### The forms -/

theorem integerLanes_form {e} (he : e ∈ integerLanes) (vd va vb : BitVec 7) (nw : Bool) :
    encodeV (e.1 vd va vb nw) = some (packVR e.2.1 vd va vb nw) ∧
    (e.1 vd va vb nw).flaw = firstFlaw [badDest vd, badSource va, badSource vb] ∧ (∀ f, e.1 vd va vb nw ≠ .fwait f) ∧
    ∀ s, exec (e.1 vd va vb nw) s = runOp s .v (e.1 vd va vb nw) (lane2 e.2.2.1 vd va vb nw e.2.2.2) := by
  simp only [integerLanes, List.mem_cons, List.not_mem_nil, or_false] at he
  rcases he with rfl | rfl | rfl | rfl | rfl | rfl | rfl | rfl | rfl | rfl | rfl | rfl | rfl | rfl | rfl <;>
    refine ⟨rfl, rfl, nofun, fun s => congrArg (runOp s .v _) (lane2_congr fun a b => ?_)⟩
  · rfl
  · rfl
  · rfl
  · exact ofInt_fdiv (a.toInt * b.toInt)
  · exact ite_slt a b a b
  · exact ite_slt a b b a
  · exact ite_ult a b a b
  · exact ite_ult a b b a
  · rfl
  · rfl
  · rfl
  · rfl
  · rfl
  · rfl
  · exact shiftBy_sshiftRight a b

theorem unaryLanes_form {e} (he : e ∈ unaryLanes) (vd va : BitVec 7) (nw : Bool) :
    encodeV (e.1 vd va nw) = some (packVR e.2.1 vd va 0#7 nw) ∧ (e.1 vd va nw).flaw = firstFlaw [badDest vd, badSource va] ∧
    (∀ f, e.1 vd va nw ≠ .fwait f) ∧ ∀ s, exec (e.1 vd va nw) s = runOp s .v (e.1 vd va nw) (lane1 e.2.2.1 vd va nw e.2.2.2) := by
  simp only [unaryLanes, List.mem_cons, List.not_mem_nil, or_false] at he
  rcases he with rfl | rfl | rfl | rfl <;>
    refine ⟨rfl, rfl, nofun, fun s => congrArg (runOp s .v _) (lane1_congr fun a => ?_)⟩
  · exact congrArg (BitVec.ofNat 32) (clzNat_toNat a)
  · exact congrArg (BitVec.ofNat 32) (popNat_toNat a)
  · rfl
  · exact fkey_eq a

/-- A lane operation without flags does what O1 says: its result where its sources may be read, and POISON ahead of all else. -/
theorem vecOp_integerForm {s : State} {st : Stage} {i : Instr} {l : Nat} {rs : List (BitVec 7)} {vd : BitVec 7} {nw : Bool}
    {v : Ctx → Nat → Word} (hi : ∀ f, i ≠ .fwait f)
    (hx : exec i s = runOp s .v i (vecOp l rs (activeReads rs) (fun _ => none) vd nw fun c k => (v c k, 0))) :
    (AtIssue s .v i st → st.c.readable rs → exec i s = st.next s (st.c.vectorResult l vd nw fun k => (v st.c k, 0))) ∧
    (opStage s .v i = some st → poisonTraps s st i rs) :=
  ⟨fun h hr => vecOp_flagless_next (v st.c) hx hi h hr fun _ => rfl, fun h => vecOp_poisonTraps hx h hi⟩

/-- Settles O1: every form is the mould of lane operations without flags, with its own latency and lane function. -/
theorem integerLaneResults : Obligations.IntegerLaneResults := by
  refine ⟨fun e he vd va vb nw => ?_, fun e he vd va nw => ?_⟩
  · obtain ⟨henc, hflaw, hi, hx⟩ := integerLanes_form he vd va vb nw
    exact ⟨henc, wf_iff_of_binary hflaw, fun s st => vecOp_integerForm (v := fun c k => e.2.2.2 (c.lane va k) (c.lane vb k)) hi (hx s)⟩
  · obtain ⟨henc, hflaw, hi, hx⟩ := unaryLanes_form he vd va nw
    exact ⟨henc, wf_iff_of_unary hflaw, fun s st => vecOp_integerForm (v := fun c k => e.2.2.2 (c.lane va k)) hi (hx s)⟩

end Sys2Proof.Machine
end

section
/-!
PROOF. The compares of the V slot and VMATCH (R72, R169, R189, R195), and the opcodes that their group leaves unassigned (R158).
-/

namespace Sys2Proof.Machine

/-! ### The mould of operations with a scalar result -/

/-- Where the sources and the scalar of a compare may be used, its check is that of the enabled flags. -/
theorem maskOp_trap {c : Ctx} {l : Nat} {sd : BitVec 6} {va vb : BitVec 7} {f : Ctx → Nat → Flagged Bool} (h : comparable c sd va vb) :
    (maskOp l sd [va, vb] f c).trap = c.fpTrap fun k => (f c k).2 := by
  obtain ⟨hclean, hbs, hsd⟩ := h
  have hb : (if c.mask = 0#64 then none else c.bsChecks [va, vb]) = none := by
    split
    · rfl
    · next hm => exact bsChecks_none (hbs hm)
  simp only [maskOp, poisonV_none (rs := [va, vb]) hclean, hb, roles_none hsd, firstExn_none_cons, firstExn_one]

/-- What R169 says of a compare whose sources and scalar may be used: its mask and flags where no raised flag traps, and FP_TRAP where one
does (R72). -/
theorem maskOp_outcome {s : State} {i : Instr} {st : Stage} {l : Nat} {sd : BitVec 6} {va vb : BitVec 7} {f : Ctx → Nat → Flagged Bool}
    (hx : exec i s = runOp s .v i (maskOp l sd [va, vb] f)) (hi : ∀ f, i ≠ .fwait f) (h : AtIssue s .v i st)
    (hc : comparable st.c sd va vb) :
    ((st.c.untrapped fun k => (f st.c k).2) → exec i s = st.next s (st.c.maskResult l sd (f st.c))) ∧
    flagsTrap s st i fun k => (f st.c k).2 := by
  refine ⟨fun hf => ?_, fun k hk => ?_⟩
  · obtain ⟨hclean, hbs, hsd⟩ := hc
    exact hx.trans (maskOp_next h hi hclean hbs hsd hf)
  · rw [hx, runOp_traps_inV h ((maskOp_trap hc).trans (fpTrap_some hk))]
    rfl

theorem maskOp_congr {l : Nat} {sd : BitVec 6} {rs : List (BitVec 7)} {f g : Ctx → Nat → Flagged Bool} (h : ∀ c k, f c k = g c k) :
    maskOp l sd rs f = maskOp l sd rs g := by rw [funext₂ h]

/-! ### The forms -/

theorem integerCompares_form {e} (he : e ∈ integerCompares) (sd : BitVec 6) (va vb : BitVec 7) :
    encodeV (e.1 sd va vb) = some (packVS e.2.1 sd va vb) ∧ (∀ f, e.1 sd va vb ≠ .fwait f) ∧
    ∀ s, exec (e.1 sd va vb) s = runOp s .v (e.1 sd va vb)
      (maskOp 3 sd [va, vb] fun c k => (e.2.2 (c.lane va k) (c.lane vb k), 0)) := by
  simp only [integerCompares, List.mem_cons, List.not_mem_nil, or_false] at he
  rcases he with rfl | rfl | rfl | rfl | rfl | rfl <;>
    refine ⟨rfl, nofun, fun s => congrArg (runOp s .v _) (maskOp_congr fun c k => ?_)⟩
  · rfl
  · exact congrArg (·, 0) (decide_not (p := c.lane va k = c.lane vb k)).symm
  · rfl
  · rfl
  · rfl
  · rfl

theorem floatCompares_form {e} (he : e ∈ floatCompares) (sd : BitVec 6) (va vb : BitVec 7) :
    encodeV (e.1 sd va vb) = some (packVS e.2.1 sd va vb) ∧ (∀ f, e.1 sd va vb ≠ .fwait f) ∧
    ∀ s, exec (e.1 sd va vb) s = runOp s .v (e.1 sd va vb) (fcmpOp e.2.2 sd va vb) := by
  simp only [floatCompares, List.mem_cons, List.not_mem_nil, or_false] at he
  rcases he with rfl | rfl | rfl | rfl | rfl <;> exact ⟨rfl, nofun, fun _ => rfl⟩

/-- VMATCH asks each active lane of vb (R195). -/
theorem actVmatch_eq (sd : BitVec 6) (va vb : BitVec 7) : actVmatch sd va vb = maskOp 4 sd [va, vb] fun c k =>
    ((List.range 64).any fun j => maskBit c.mask j && c.lane va k = c.lane vb j, 0) :=
  maskOp_congr fun _ _ => congrArg (·, 0) List.any_filter

/-! ### Unassigned opcodes -/

/-- The decoder takes an unassigned opcode of the V slot whatever stands behind it. -/
theorem rawV_unassigned_append {op : BitVec 8} (h : assigned .v op = false) (rest : BitVec 22) :
    rawV (op ++ rest) = .ok (.unassignedOpcode .v op) := by
  rw [rawV, BitVec.extractLsb'_append_eq_left]
  split
  on_goal -1 => rfl
  all_goals cases h

theorem decodeV_unassigned_append {op : BitVec 8} (h : assigned .v op = false) (rest : BitVec 22) :
    decodeV (op ++ rest) = .ok (.unassignedOpcode .v op) := by
  have hlimit : ¬ 256 ≤ op.toNat := by omega
  have hwf : (Instr.unassignedOpcode .v op).wf = true := by
    simp [Instr.wf, Instr.flaw, otherRow, h, Slot.opcodeLimit, hlimit]
  rw [decodeV, rawV_unassigned_append h rest, checked_ok hwf]

/-- Settles O4: every compare is the mould of operations with a scalar result, with its own lane function; the five opcodes are in no row of
the slot's map. -/
theorem compareResults : Obligations.CompareResults := by
  refine ⟨fun s st sd va vb => ⟨fun e he => ?_, fun e he => ?_, rfl, fun h hc => ?_⟩, fun op hop rest => ?_⟩
  · obtain ⟨henc, hi, hx⟩ := integerCompares_form he sd va vb
    exact ⟨henc, fun h hc => (maskOp_outcome (hx s) hi h hc).1 (untrapped_zero _ fun _ => rfl)⟩
  · obtain ⟨henc, hi, hx⟩ := floatCompares_form he sd va vb
    exact ⟨henc, fun h hc => maskOp_outcome (hx s) hi h hc⟩
  · have hx : exec (.vmatch sd va vb) s = runOp s .v (.vmatch sd va vb) _ := congrArg (runOp s .v _) (actVmatch_eq sd va vb)
    exact (maskOp_outcome hx nofun h hc).1 (untrapped_zero _ fun _ => rfl)
  · have hfree : ∀ op ∈ [0x46#8, 0x47#8, 0x4d#8, 0x4e#8, 0x4f#8], assigned .v op = false := by decide
    exact decodeV_unassigned_append (hfree op hop) rest

end Sys2Proof.Machine
end

section
/-!
PROOF. VRNG, lane movement, reductions and scans of the V slot (R72, R191 to R194).
-/

namespace Sys2Proof.Machine

/-! ### Lanes that are taken from another lane (R192, R193) -/

theorem shuffleFrom_eq (b : Lanes) (i : Nat) : shuffleFrom b i = (b.at i).toNat % 64 := by simp [shuffleFrom, bits]

theorem rotateFrom_eq (b : Lanes) (i : Nat) : rotateFrom b i = (i + 64 - (b.at 0).toNat % 64) % 64 := by simp [rotateFrom, bits]

/-- At issue every entry that the bundle pops is there, so bs selects its lanes. -/
theorem takenFrom_atIssue {s : State} {slot : Slot} {i : Instr} {st : Stage} (h : AtIssue s slot i st) (vb : BitVec 7)
    (f : Lanes → Nat → Nat) : st.c.takenFrom vb f = takenLanes st.c.mask (f (st.c.src vb).lanes) := by
  have hpop : (st.c.pops.any fun p => p.port = st.c.b && p.value.isNone) = false := by
    simp only [List.any_eq_false, Bool.and_eq_true, not_and] at *
    exact fun p hp _ => List.any_eq_false.mp h.2.1 p hp
  simp [Ctx.takenFrom, hpop]

/-- An operation that gives each active lane the value of va in a lane that vb selects. -/
theorem takenOp_next {s : State} {i : Instr} {st : Stage} {vd va vb : BitVec 7} {nw : Bool} {f : Lanes → Nat → Nat} {readB : Ctx → DWord}
    (source : Nat → Nat) (hx : exec i s = runOp s .v i (vecOp 3 [va, vb] (fun c => [(va, c.takenFrom vb f), (vb, readB c)]) (fun _ => none)
      vd nw fun c k => (c.lane va (f (c.src vb).lanes k), 0))) (hi : ∀ f, i ≠ .fwait f) (h : AtIssue s .v i st)
    (hr : st.c.mask ≠ 0#64 → st.c.bsUsable [va, vb] ∧ st.c.clean [(va, takenLanes st.c.mask source), (vb, readB st.c)])
    (hf : ∀ k, f (st.c.src vb).lanes k = source k) :
    exec i s = st.next s (st.c.vectorResult 3 vd nw fun k => (st.c.lane va (source k), 0)) := by
  refine vecOp_flagless_next _ hx hi h (fun hm => ?_) fun k => by rw [hf]
  obtain ⟨hbs, hclean⟩ := hr hm
  rw [takenFrom_atIssue h, funext hf]
  exact ⟨hclean, hbs⟩

/-! ### Sums of active lanes (R194) -/

theorem filter_lt_range (n m : Nat) : ((List.range m).filter fun j => j < n) = List.range (min n m) := by
  rw [← List.Ico.zero_bot, List.Ico.filter_lt, List.Ico.zero_bot, min_comm]

/-- The sum below a bound goes over the active lanes below it. -/
theorem sumBelow_eq_activeSum (c : Ctx) (va : BitVec 7) (n : Nat) : sumBelow c.mask (c.src va).lanes n = activeSum c va n := by
  have hbelow : ((lanesOf c.mask).filter fun j => j < n) = (List.range (min n 64)).filter fun j => maskBit c.mask j := by
    rw [← filter_lt_range, lanesOf, List.filter_filter, List.filter_filter]
    exact List.filter_congr fun j _ => Bool.and_comm ..
  rw [sumBelow, activeSum, hbelow, List.sum_eq_foldl, List.foldl_map]
  rfl

/-! ### The forms -/

theorem floatFolds_form {e} (he : e ∈ floatFolds) (vd va : BitVec 7) (nw : Bool) :
    (∀ f, e.1 vd va nw ≠ .fwait f) ∧ ∀ s, exec (e.1 vd va nw) s = runOp s .v (e.1 vd va nw) (reduce e.2.1 vd va nw e.2.2) := by
  simp only [floatFolds, List.mem_cons, List.not_mem_nil, or_false] at he
  rcases he with rfl | rfl | rfl <;> exact ⟨nofun, fun _ => rfl⟩

/-- Settles O5: VRNG is a lane operation on two sources, VSHFL and VROTL take lanes that vb selects, and the others fold the active lanes
of va. -/
theorem laneMovementResults : Obligations.LaneMovementResults := by
  intro s st vd va vb nw c
  refine ⟨fun h hr => ?_, fun h hr => ?_, fun h hr => ?_, fun h hr => ?_, fun h hr => ?_, fun e he h hr => ?_⟩
  · exact vecOp_flagless_next _ (v := fun c k => rng (c.lane va k) (c.lane vb k)) rfl nofun h hr fun _ => rfl
  · exact takenOp_next _ (f := shuffleFrom) (readB := fun c => c.mask) rfl nofun h hr (shuffleFrom_eq _)
  · exact takenOp_next _ (f := rotateFrom) (readB := fun _ => 1#64) rfl nofun h hr (rotateFrom_eq _)
  · exact vecOp_flagless_next _ (v := fun c _ => sumBelow c.mask (c.src va).lanes 64) rfl nofun h hr fun _ => sumBelow_eq_activeSum c va 64
  · exact vecOp_flagless_next _ (v := fun c k => sumBelow c.mask (c.src va).lanes (k + 1)) rfl nofun h hr
      fun k => sumBelow_eq_activeSum c va (k + 1)
  · obtain ⟨hi, hx⟩ := floatFolds_form he vd va nw
    exact vecOp_outcome (hx s) hi h hr fun _ => rfl

end Sys2Proof.Machine
end

section
/-!
PROOF. Constants, rounding, conversions and block images of the V slot (R72, R133, R172, R179, R180, R182 to R188).
-/

namespace Sys2Proof.Machine

/-! ### Flags of the active lanes (R72): those of the other lanes are not seen -/

theorem allFlags_congr {mask : DWord} {f g : Nat → Nat} (h : ∀ k, maskBit mask k = true → f k = g k) : allFlags mask f = allFlags mask g :=
  List.foldl_ext _ _ _ fun a k hk => congrArg (a ||| ·) (h k (List.mem_filter.mp hk).2)

theorem untrapped_congr {c : Ctx} {f g : Nat → Nat} (h : ∀ k, maskBit c.mask k = true → f k = g k) (hf : c.untrapped f) : c.untrapped g :=
  fun k hk hm => h k hm ▸ hf k hk hm

theorem trapsFirst_congr {c : Ctx} {f g : Nat → Nat} (h : ∀ k, maskBit c.mask k = true → f k = g k) {l : Nat} (hf : c.trapsFirst f l) :
    c.trapsFirst g l := by
  obtain ⟨⟨hl, hm, hflag⟩, hlow⟩ := hf
  exact ⟨⟨hl, hm, h l hm ▸ hflag⟩, fun j hj hmj => h j hmj ▸ hlow j hj hmj⟩

theorem flagsTrap_congr {s : State} {st : Stage} {i : Instr} {f g : Nat → Nat} (h : ∀ k, maskBit st.c.mask k = true → f k = g k)
    (hf : flagsTrap s st i f) : flagsTrap s st i g := fun l hl => by
  rw [hf l (trapsFirst_congr (fun k hk => (h k hk).symm) hl), allFlags_congr h]

/-! ### Block packs (R186, R187) -/

/-- The mask has four quarters. -/
theorem quarterActive_beyond (mask : DWord) {q : Nat} (h : 4 ≤ q) : quarterActive mask q = false := by
  simp only [quarterActive, List.any_eq_false, Bool.not_eq_true]
  exact fun j _ => BitVec.getLsbD_of_ge mask (16 * q + j) (by omega)

theorem quarterActive_of_lane {mask : DWord} {l : Nat} (h : maskBit mask l = true) : quarterActive mask (l / 16) = true :=
  List.any_eq_true.mpr ⟨l % 16, List.mem_range.mpr (Nat.mod_lt l (by decide)), by rwa [Nat.div_add_mod]⟩

/-- A lane of a packed register: of its quarter's image, which is empty where no lane of the quarter is active. -/
def packedLane (f : BFmt) (mask : DWord) (a b : Lanes) (i : Nat) : Flagged Word :=
  if quarterActive mask (i / 16) then (imageLane (packQuarter f mask a b (i / 16)).1 (i % 16), (packQuarter f mask a b (i / 16)).2)
  else (imageLane [] (i % 16), 0)

theorem packedLane_flags {f : BFmt} {mask : DWord} {a b : Lanes} {i : Nat} (h : maskBit mask i = true) :
    (packedLane f mask a b i).2 = (packQuarter f mask a b (i / 16)).2 := by
  rw [packedLane, if_pos (quarterActive_of_lane h)]

/-- VBPACK sends the packed lanes. -/
theorem bpackOp_eq (f : BFmt) (vd va vb : BitVec 7) (nw : Bool) : bpackOp f vd va vb nw =
    vecOp 6 [va, vb] (fun c => [(va, c.mask), (vb, maskOf fun l => l % 16 = 0 && quarterActive c.mask (l / 16))]) (fun _ => none) vd nw
      fun c => packedLane f c.mask (c.src va).lanes (c.src vb).lanes := by
  refine congrArg (vecOp 6 _ _ _ vd nw) (funext₂ fun c i => ?_)
  by_cases hq : i / 16 < 4
  · simp only [quarterOf, List.getD_eq_getElem?_getD, List.getElem?_map, List.getElem?_range hq, Option.map_some, Option.getD_some, packedLane]
    split <;> rfl
  · have hlen : ((List.range 4).map fun q => if quarterActive c.mask q then
        packQuarter f c.mask (c.src va).lanes (c.src vb).lanes q else ([], 0)).length ≤ i / 16 := by simpa using hq
    simp only [quarterOf, List.getD_eq_default _ _ hlen, packedLane, quarterActive_beyond c.mask (Nat.le_of_not_lt hq)]
    rfl

theorem bpack_form {e : (BitVec 7 → BitVec 7 → BitVec 7 → Bool → Instr) × BFmt}
    (he : e ∈ [(Instr.vbpackM7, BFmt.m7), (.vbpackM4, .m4), (.vbpackM2, .m2)]) (vd va vb : BitVec 7) (nw : Bool) :
    (∀ f, e.1 vd va vb nw ≠ .fwait f) ∧ ∀ s, exec (e.1 vd va vb nw) s = runOp s .v (e.1 vd va vb nw) (bpackOp e.2 vd va vb nw) := by
  simp only [List.mem_cons, List.not_mem_nil, or_false] at he
  rcases he with rfl | rfl | rfl <;> exact ⟨nofun, fun _ => rfl⟩

/-! ### VBUNPK's own check (R133, R188) -/

theorem badBlock_none {c : Ctx} {va : BitVec 7}
    (h : ∀ l < 64, ¬ (maskBit c.mask l = true ∧ quarterHead (c.src va).lanes (l / 16) = .bad)) : badBlock va c = none := by
  rw [badBlock, firstLane_none fun l hl hm => by simpa [hm] using h l hl, Option.map_none]

/-- A block image that cannot be read traps with BLOCK_FORMAT, whose record names the lowest active lane of its quarter. -/
theorem vbunpk_blockFormat {s : State} {st : Stage} {vd va : BitVec 7} {nw : Bool} {l : Nat} (h : AtIssue s .v (.vbunpk vd va nw) st)
    (hr : st.c.mask ≠ 0#64 → st.c.clean (unpackReads va st.c) ∧ st.c.bsUsable [va]) (hl : l < 64)
    (hbad : maskBit st.c.mask l = true ∧ quarterHead (st.c.src va).lanes (l / 16) = .bad)
    (hlow : ∀ j < l, ¬ (maskBit st.c.mask j = true ∧ quarterHead (st.c.src va).lanes (j / 16) = .bad)) :
    exec (.vbunpk vd va nw) s = st.traps s 0 { code := 0x32, lane := l } := by
  have hm : st.c.mask ≠ 0#64 := mask_ne_zero hbad.1
  have hcheck : badBlock va st.c = some { code := TrapName.blockFormat.code, lane := l } := by
    rw [badBlock, firstLane_some hl hbad.1 (by simpa using hbad.2) fun j hj hmj => by simpa [hmj] using hlow j hj]
    rfl
  have ht : (actVbunpk vd va nw st.c).trap = some { code := TrapName.blockFormat.code, lane := l } := by
    simp only [actVbunpk, vecOp, hm, if_false, poisonReads_none (hr hm).1, bsChecks_none (hr hm).2, hcheck, firstExn_none_cons,
      firstExn_some_cons]
  exact runOp_traps_inV h ht

/-- Settles O3: every form is the mould of operations with a vector result, with its own reads, check and lane function. -/
theorem conversionResults : Obligations.ConversionResults := by
  intro s st vd va vb nw c
  refine ⟨fun imm h => ?_, fun h => ?_, fun rm h hr => ?_, fun rm kind h hr => ?_, fun rm fmt high h hr => ?_, fun fmt high h hr => ?_,
    fun e he => ?_, fun h hr => ?_⟩
  · exact vecOp_flagless_next _ (v := fun _ _ => imm.signExtend 32) rfl nofun h (fun _ => ⟨nofun, nofun⟩) fun _ => rfl
  · exact vecOp_flagless_next _ (v := fun _ k => BitVec.ofNat 32 k) rfl nofun h (fun _ => ⟨nofun, nofun⟩) fun _ => rfl
  · exact vecOp_outcome (f := fun c k => frnd (rmMode rm c.w.round) (c.lane va k)) rfl nofun h hr fun _ => rfl
  · exact vecOp_outcome (f := fun c k => cvtLane kind (rmMode rm c.w.round) (c.lane va k)) rfl nofun h hr fun _ => rfl
  · exact vecOp_outcome (f := fun c k => packHalf fmt high (rmMode rm c.w.round) (c.lane va k) (c.lane vd k)) rfl nofun h hr fun _ => rfl
  · exact vecOp_outcome (f := fun c k => unpackHalf fmt high (c.lane va k)) rfl nofun h hr fun _ => rfl
  · intro q h hr
    obtain ⟨hi, hx⟩ := bpack_form he vd va vb nw
    have hx := (hx s).trans (congrArg (runOp s .v _) (bpackOp_eq e.2 vd va vb nw))
    obtain ⟨hnext, htrap⟩ := vecOp_outcome hx hi h (fun hm => (hr hm).symm) fun _ => rfl
    exact ⟨fun hf => hnext (untrapped_congr (fun k hk => (packedLane_flags hk).symm) hf), flagsTrap_congr (fun k hk => packedLane_flags hk) htrap⟩
  · refine ⟨fun l hl hbad hlow => vbunpk_blockFormat h hr hl hbad hlow, fun hgood => ?_⟩
    exact vecOp_outcome (f := fun c => unpackLane (c.src va).lanes) rfl nofun h hr fun _ => badBlock_none hgood

end Sys2Proof.Machine
end

section
/-!
PROOF. Issue of the scalar loads, stores, atomics and compare-and-swaps, and where they stop (R44, R66, R114, R200, R205, R212, R214).
-/

namespace Sys2Proof.Machine

/-! ### The mould of the scalar operations -/

/-- What the second part of O8 says of one form: its traps at its scalars, its flag and its element. -/
def ScalarStops (s : State) (st : Stage) (f : BitVec 4) (i : Instr) (k : AccKind) (n : Nat) (write : Bool) (es : List Elem)
    (srcs : List (BitVec 6)) (dst : Option (BitVec 6)) : Prop :=
  (opStage s .m i = some st → scalarTraps s st i 1 srcs dst) ∧
  (AtIssue s .m i st → st.c.usable srcs dst →
    ((getF st.c.w f.toNat).pend = true → exec i s = st.traps s 1 { code := 0x15 }) ∧
    ((getF st.c.w f.toNat).pend = false → elementStops s st i k n write (fun _ => true) es))

section Scalar

variable {s : State} {i : Instr} {st : Stage} {kind : MemKind} {k : AccKind} {n : Nat} {srcs : List (BitVec 6)}
  {dst : Option (BitVec 6)} {f : BitVec 4} {addr : Ctx → Nat} {data : Ctx → Access → Access}

/-- What the mould does where its scalars may be used and its flag is free: the checks of its element decide, then it joins the order. -/
theorem scalarMem_checked {c : Ctx} (hu : c.usable srcs dst) (hf : (getF c.w f.toNat).pend = false) :
    scalarMem kind k n srcs dst f addr data c =
      let r := checkGlobal c k n kind.writes none [{ lane := 0, addr := addr c }]
      { trap := r.trap, block := if r.miss.isEmpty then none else some .xlate, miss := r.miss
        fx := c.scalarIssue kind dst f r.ps fun p => data c (bareAccess p) } := by
  simp only [scalarMem, scalars_none hu, flagBusy_none hf, firstExn_none_cons, firstExn_one]
  rfl

variable (hx : exec i s = runOp s .m i (scalarMem kind k n srcs dst f addr data)) (hi : ∀ f, i ≠ .fwait f)
include hx hi

/-- A scalar operation whose checks hold joins the memory order. -/
theorem scalarMem_next {ps : List Placed} {access : Placed → Access} (hf : (getF st.c.w f.toNat).pend = false) (h : AtIssue s .m i st)
    (hu : st.c.usable srcs dst) (hr : st.c.reaches k n kind.writes [{ lane := 0, addr := addr st.c }] ps)
    (hacc : ∀ p, data st.c (bareAccess p) = access p) : exec i s = st.next s (st.c.scalarIssue kind dst f ps access) := by
  have hchecked := checkGlobal_reaches (inside := fun _ => true) hr fun _ _ => rfl
  have ha := scalarMem_checked (kind := kind) (k := k) (n := n) (addr := addr) (data := data) hu hf
  rw [← no_limits st.c] at hchecked
  rw [hchecked, funext hacc] at ha
  rw [hx, runOp_ready h hi (by rw [ha]; exact ⟨rfl, rfl, rfl⟩), ha]

/-- A scalar operation traps at its operands, then at a pending flag, then stops at its element. -/
theorem scalarMem_stops : ScalarStops s st f i k n kind.writes [{ lane := 0, addr := addr st.c }] srcs dst := by
  refine ⟨fun h => scalarTraps_of_trap (slot := .m) hx h hi rfl fun e he => ?_, fun h hu => ⟨fun hf => ?_, fun hf => ?_⟩⟩
  · simp only [scalarMem, he, firstExn_some_cons]
  · refine hx.trans (runOp_traps_outsideV (slot := .m) h hi nofun rfl ?_)
    simp only [scalarMem, scalars_none hu, Ctx.flagBusy, hf, exnIf_true, firstExn_none_cons, firstExn_some_cons]
    rfl
  · have ha := scalarMem_checked (kind := kind) (k := k) (n := n) (addr := addr) (data := data) hu hf
    rw [show (none : Option Exn) = _ from no_limits st.c [{ lane := 0, addr := addr st.c }]] at ha
    refine elementStops_of_checked rfl hx h hi rfl (fun e he => by rw [ha]; exact he) fun ht hmiss => ?_
    rw [ha]
    exact ⟨ht, by simpa using hmiss, rfl⟩

end Scalar

/-- An immediate scalar atomic is the mould. -/
theorem scalarAtomics_exec {e} (he : e ∈ scalarAtomics) (t sa sv : BitVec 6) (sc : Scope) (f : BitVec 4) (s : State) :
    (∀ g, e.1 t sa sv sc f ≠ .fwait g) ∧
    exec (e.1 t sa sv sc f) s = runOp s .m (e.1 t sa sv sc f) (scalarMem (.atomS t.toNat e.2) .atomic 8 [sa, sv] (some t) f
      (fun c => (c.sv sa).toNat) fun c a => { a with data := leBytes 8 (c.sv sv) }) := by
  simp only [scalarAtomics, List.mem_cons, List.not_mem_nil, or_false] at he
  rcases he with rfl | rfl | rfl | rfl | rfl | rfl | rfl | rfl <;> exact ⟨nofun, rfl⟩

theorem cass_exec (t sa sv : BitVec 6) (sc : Scope) (f : BitVec 4) (s : State) : exec (.cass t sa sv sc f) s =
    runOp s .m (.cass t sa sv sc f) (scalarMem (.casS t.toNat) .atomic 8 [t, sa, sv] (some t) f (fun c => (c.sv sa).toNat) fun c a =>
      { a with data := leBytes 8 (c.sv sv), expd := leBytes 8 (c.sv t) }) := rfl

/-- Settles O8: every form is the mould with its own kind, width, scalars and address. -/
theorem scalarMemoryIssues : Obligations.ScalarMemoryIssues := by
  refine ⟨fun s st t sa sv sc wd disp f ps hf => ⟨fun h hu hr => ?_, fun h hu hr => ?_, fun h hu hr => ?_, fun h hu hr => ?_,
    fun e he h hu hr => ?_, fun h hu hr => ?_⟩, fun s st t sa sv sc wd disp f => ?_⟩
  · exact scalarMem_next (i := .lds t sa wd disp f) rfl nofun hf h hu hr fun _ => rfl
  · exact scalarMem_next (i := .ldsAcq t sa sc wd disp f) rfl nofun hf h hu hr fun _ => rfl
  · exact scalarMem_next (i := .sts t sa wd disp f) rfl nofun hf h hu hr fun _ => rfl
  · exact scalarMem_next (i := .stsRel t sa sc wd disp f) rfl nofun hf h hu hr fun _ => rfl
  · obtain ⟨hi, hx⟩ := scalarAtomics_exec he t sa sv sc f s
    exact scalarMem_next hx hi hf h hu hr fun _ => rfl
  · exact scalarMem_next (cass_exec t sa sv sc f s) nofun hf h hu hr fun _ => rfl
  · intro c es at_ forms x hx
    rcases List.mem_append.mp hx with hx | hx
    · simp only [List.mem_cons, List.not_mem_nil, or_false] at hx
      rcases hx with rfl | rfl | rfl | rfl | rfl
      · exact scalarMem_stops (i := .lds t sa wd disp f) rfl nofun
      · exact scalarMem_stops (i := .ldsAcq t sa sc wd disp f) rfl nofun
      · exact scalarMem_stops (i := .sts t sa wd disp f) rfl nofun
      · exact scalarMem_stops (i := .stsRel t sa sc wd disp f) rfl nofun
      · exact scalarMem_stops (cass_exec t sa sv sc f s) nofun
    · obtain ⟨e, he, rfl⟩ := List.mem_map.mp hx
      obtain ⟨hi, hx⟩ := scalarAtomics_exec he t sa sv sc f s
      exact scalarMem_stops hx hi

end Sys2Proof.Machine
end

section
/-!
PROOF. The atomics: opf, and what the completion of an atomic replaces, delivers and leaves alone (R113, R211 to R214).
-/

namespace Sys2Proof.Machine

/-! ### opf (R213) -/

section Opf

variable {w : Nat} (old v : BitVec w)

theorem atomFn_add : atomFn .add w old v = BitVec.ofNat w (old.toNat + v.toNat) := rfl
theorem toInt_atomFn_min : (atomFn .min w old v).toInt = min old.toInt v.toInt := toInt_ite_slt_min old v
theorem toInt_atomFn_max : (atomFn .max w old v).toInt = max old.toInt v.toInt := toInt_ite_slt_max old v

theorem toNat_atomFn_minu : (atomFn .minu w old v).toNat = min old.toNat v.toNat := by
  simp only [atomFn, BitVec.ult_iff_lt, BitVec.lt_def]
  split <;> omega

theorem toNat_atomFn_maxu : (atomFn .maxu w old v).toNat = max old.toNat v.toNat := by
  simp only [atomFn, BitVec.ult_iff_lt, BitVec.lt_def]
  split <;> omega

end Opf

/-! ### Bytes of a doubleword -/

@[simp] theorem length_leBytes {w : Nat} (n : Nat) (v : BitVec w) : (leBytes n v).length = n := by simp [leBytes]

theorem ofLe_leBytes (v : DWord) : ofLe 64 (leBytes 8 v) = v := by
  rw [ofLe, leNat_leBytes]
  exact BitVec.eq_of_toNat_eq (by simpa using v.isLt)

/-! ### One read-modify-write -/

/-- The machine in which an atomic's read has been noted, before anything is written. -/
def rmwNoted (gtc : Nat) (m : Mach) (k : Nat) (o : MemOp) (a : Access) (n : Nat) (w : Warp) : Mach :=
  noteTouch (noteRead (opAccessor gtc m w o) m a.key n) k o.id (wordsOf a.key n)

section Rmw

variable {gtc : Nat} {m : Mach} {k : Nat} {o : MemOp} {a : Access} {n : Nat} {w : Warp} {f : DWord → Option DWord}

@[simp] theorem rmwNoted_mem : (rmwNoted gtc m k o a n w).mem = m.mem := by simp [rmwNoted, noteTouch]
@[simp] theorem rmwNoted_ctxs : (rmwNoted gtc m k o a n w).ctxs = m.ctxs := by simp [rmwNoted, noteTouch]

theorem rmwNoted_warp (hw : getWarp? m k = some w) : ∃ ts, getWarp? (rmwNoted gtc m k o a n w) k = some (w.withTouched ts) := by
  have hsame : getWarp? (noteRead (opAccessor gtc m w o) m a.key n) k = some w := by rw [getWarp?, noteRead_warps, ← getWarp?, hw]
  exact ⟨_, by rw [rmwNoted, noteTouch, getWarp?_upd_self, hsame]; rfl⟩

/-- A poisoned word is not updated, and delivers poison (R113). -/
theorem rmw_poisoned (hw : getWarp? m k = some w) (hkey : remoteKey a.key = false) (hbad : (wordsOf a.key n).any (wordBad m) = true) :
    rmw gtc m k o a n f = (rmwNoted gtc m k o a n w, 0#64, true) := by
  simp only [rmw, hw, cutOff, hkey, Bool.false_and, Bool.false_eq_true, if_false, readBytes, hbad, if_true]
  rfl

/-- A word that is not poisoned is read and replaced at one instant (R211, R212). -/
theorem rmw_replaces {v : DWord} (hw : getWarp? m k = some w) (hkey : remoteKey a.key = false)
    (hgood : (wordsOf a.key n).any (wordBad m) = false) (hf : f (ofLe 64 (memBytes m a.key n)) = some v) : rmw gtc m k o a n f =
      (writeBytes (rmwNoted gtc m k o a n w) a.key (leBytes n v), ofLe 64 (memBytes m a.key n), false) := by
  simp only [rmw, hw, cutOff, hkey, Bool.false_and, Bool.false_eq_true, if_false, readBytes, hgood, hf]
  rfl

/-- Whatever it finds, a read-modify-write leaves the contexts, and its warp but for what that has touched. -/
theorem rmw_keeps (hw : getWarp? m k = some w) : (rmw gtc m k o a n f).1.ctxs = m.ctxs ∧
    ∃ ts, getWarp? (rmw gtc m k o a n f).1 k = some (w.withTouched ts) := by
  have hctxs := rmwNoted_ctxs (gtc := gtc) (m := m) (k := k) (o := o) (a := a) (n := n) (w := w)
  have hwarp := rmwNoted_warp (gtc := gtc) (o := o) (a := a) (n := n) hw
  simp only [rmw, hw]
  split
  · exact ⟨rfl, w.touched, hw⟩
  · split
    · exact ⟨hctxs, hwarp⟩
    · split
      · exact ⟨hctxs, hwarp⟩
      · exact ⟨hctxs, hwarp⟩

end Rmw

/-- The read-modify-writes of all accesses leave the contexts, and their warp but for what it has touched. -/
theorem rmwAll_keeps {gtc k n : Nat} {o : MemOp} (as : List Access) {m : Mach} {w : Warp} (hw : getWarp? m k = some w) :
    (rmwAll gtc m k n o as).1.ctxs = m.ctxs ∧ ∃ ts, getWarp? (rmwAll gtc m k n o as).1 k = some (w.withTouched ts) := by
  induction as generalizing m w with
  | nil => exact ⟨rfl, w.touched, hw⟩
  | cons a as ih =>
    obtain ⟨hctxs, ts, hts⟩ := rmw_keeps (gtc := gtc) (o := o) (a := a) (n := n) (f := rmwNew o.kind a) hw
    obtain ⟨hctxs', hwarp⟩ := ih hts
    exact ⟨hctxs'.trans hctxs, hwarp⟩

/-! ### The delivery of a result -/

/-- Two states of a warp have the same arithmetic flags and the same context. -/
def SameFlags (w w' : Warp) : Prop := w'.exs = w.exs ∧ w'.ctx = w.ctx

theorem putLanes_sameFlags (w : Warp) (reg prod : Nat) (l : List (Nat × DWord × Bool)) : SameFlags w (putLanes w reg prod l) := by
  constructor <;> simp [putLanes, nameLanes]

theorem deliveredWarp_sameFlags (w : Warp) (reg : Nat) (v : DWord × Bool) (prod : Nat) : SameFlags w (deliveredWarp w reg v prod) := by
  refine ⟨?_, (deliveredWarp_frame w reg v prod).2.2⟩
  unfold deliveredWarp nameScalar
  split <;> simp

/-- A scalar that is delivered to its warp or to an entry of a queue leaves the arithmetic flags. -/
theorem putScalar_sameFlags {m : Mach} {k : Nat} {w : Warp} (hw : getWarp? m k = some w) (reg : Nat) (t : Option (Nat × Nat))
    (v : DWord × Bool) (prod : Nat) : (putScalar m k reg t v.1 v.2 prod).ctxs = m.ctxs ∧
      ∃ w', getWarp? (putScalar m k reg t v.1 v.2 prod) k = some w' ∧ SameFlags w w' := by
  cases t with
  | none =>
    have hput : putScalar m k reg none v.1 v.2 prod = updWarp m k fun w => deliveredWarp w reg v prod := rfl
    rw [hput]
    exact ⟨updWarp_ctxs _ _ _, _, by rw [getWarp?_upd_self, hw]; rfl, deliveredWarp_sameFlags w reg v prod⟩
  | some t =>
    have hput : putScalar m k reg (some t) v.1 v.2 prod = placeQueue m w.team t v.1 v.2 prod := by simp only [putScalar, hw]
    rw [hput]
    exact ⟨updTeam_ctxs _ _ _, w, hw, rfl, rfl⟩

/-! ### The end of an operation that no watchpoint sees -/

theorem unwatched_of_same {m m' : Mach} {w w' : Warp} (hm : m'.ctxs = m.ctxs) (hw : w'.ctx = w.ctx) (h : unwatched m w) : unwatched m' w' := by
  intro c hc
  rw [ctxOf, getCtx?, hm, hw] at hc
  exact h c hc

theorem finishAt_mem {m : Mach} {k : Nat} {w : Warp} (o : MemOp) (at_ : Nat) (hw : getWarp? m k = some w) : (finishAt m k o at_).mem = m.mem := by
  rw [finishAt_eq hw]
  exact (drainFences_frame _ (getWarp?_set_self m k _)).1

/-- What ends an operation leaves memory and every part of its warp that neither its order nor its flags show in. -/
theorem finishHits_keeps {α : Type} {part : Warp → α} (hpart : OrderFree part) {gtc : Nat} {m : Mach} {k : Nat} {w : Warp} (o : MemOp)
    (ss : List Seen) (hw : getWarp? m k = some w) (hwatch : unwatched m w) : (finishOp (threadHits gtc m k o ss) k o).mem = m.mem ∧
      ∃ w', getWarp? (finishOp (threadHits gtc m k o ss) k o) k = some w' ∧ part w' = part w := by
  rw [threadHits_unwatched hw hwatch, finishOp]
  exact ⟨finishAt_mem o _ hw, finishAt_keeps hpart o _ hw⟩

/-! ### The completion of an atomic -/

section Complete

variable {gtc : Nat} {m : Mach} {k reg : Nat} {o : MemOp} {early : Bool} {order : List Nat} {w : Warp}

/-- The operation is an atomic or a compare-and-swap. -/
def IsAtomic (kind : MemKind) : Prop := (∃ r op, kind = .atomV r op ∨ kind = .atomS r op) ∨ ∃ r, kind = .casV r ∨ kind = .casS r

theorem IsAtomic.counted {kind : MemKind} (h : IsAtomic kind) : (kind.reads && kind.counted) = true := by
  rcases h with ⟨r, op, rfl | rfl⟩ | ⟨r, rfl | rfl⟩ <;> rfl

theorem performOp_laneAtomic (h : (∃ op, o.kind = .atomV reg op) ∨ o.kind = .casV reg) : performOp gtc m k o early order =
    let r := rmwAll gtc (bump m) k 4 o (inOrder o.acc order)
    finishOp (threadHits gtc (updWarp r.1 k fun w => putLanes w reg (nameWord o.seq o.plane o.cidx) r.2) k o
      (seenOf o 4 (rmwWrote o r.2))) k o := by
  rcases h with ⟨op, h⟩ | h <;> simp only [performOp, h]

theorem performOp_scalarAtomic (h : (∃ op, o.kind = .atomS reg op) ∨ o.kind = .casS reg) : performOp gtc m k o early order =
    let r := rmwAll gtc (bump m) k 8 o o.acc
    let v := (r.2.head?.map fun x => x.2).getD (0#64, false)
    finishOp (threadHits gtc (putScalar r.1 k reg o.ticket v.1 v.2 (nameWord o.seq o.plane o.cidx)) k o
      (seenOf o 8 (rmwWrote o r.2))) k o := by
  rcases h with ⟨op, h⟩ | h <;> simp only [performOp, h]

/-- A machine in which an operation of warp `w` has delivered its result, with its arithmetic flags as they were, and has then finished. -/
def Delivers (gtc : Nat) (m : Mach) (k : Nat) (o : MemOp) (w : Warp) (t : Mach) : Prop :=
  ∃ m' ss w', t = finishOp (threadHits gtc m' k o ss) k o ∧ m'.ctxs = m.ctxs ∧ getWarp? m' k = some w' ∧ SameFlags w w'

theorem laneAtomic_delivers (h : (∃ op, o.kind = .atomV reg op) ∨ o.kind = .casV reg) (hw : getWarp? m k = some w) :
    Delivers gtc m k o w (performOp gtc m k o early order) := by
  obtain ⟨hctxs, ts, hts⟩ := rmwAll_keeps (gtc := gtc) (n := 4) (o := o) (inOrder o.acc order) (m := bump m) hw
  exact ⟨_, _, _, performOp_laneAtomic h, (updWarp_ctxs _ _ _).trans hctxs, by rw [getWarp?_upd_self, hts]; rfl,
    putLanes_sameFlags (w.withTouched ts) ..⟩

theorem scalarAtomic_delivers (h : (∃ op, o.kind = .atomS reg op) ∨ o.kind = .casS reg) (hw : getWarp? m k = some w) :
    Delivers gtc m k o w (performOp gtc m k o early order) := by
  obtain ⟨hctxs, ts, hts⟩ := rmwAll_keeps (gtc := gtc) (n := 8) (o := o) o.acc (m := bump m) hw
  obtain ⟨hctxs', w', hw', hsame⟩ := putScalar_sameFlags hts reg o.ticket _ _
  exact ⟨_, _, w', performOp_scalarAtomic h, hctxs'.trans hctxs, hw', hsame⟩

theorem atomic_delivers (h : IsAtomic o.kind) (hw : getWarp? m k = some w) : Delivers gtc m k o w (performOp gtc m k o early order) := by
  rcases h with ⟨r, op, h | h⟩ | ⟨r, h | h⟩
  · exact laneAtomic_delivers (.inl ⟨op, h⟩) hw
  · exact scalarAtomic_delivers (.inl ⟨op, h⟩) hw
  · exact laneAtomic_delivers (.inr h) hw
  · exact scalarAtomic_delivers (.inr h) hw

/-- An atomic that completes raises no arithmetic flag (R213). -/
theorem performOp_atomic_exs (h : IsAtomic o.kind) (hw : getWarp? m k = some w) (hwatch : unwatched m w) :
    ∃ w', getWarp? (performOp gtc m k o early order) k = some w' ∧ w'.exs = w.exs := by
  obtain ⟨m', ss, w1, hperform, hctxs, hw1, hexs, hctx⟩ := atomic_delivers (gtc := gtc) (early := early) (order := order) h hw
  obtain ⟨-, w2, hw2, hkept⟩ := finishHits_keeps (gtc := gtc) (part := Warp.exs) (fun _ _ _ _ _ => rfl) o ss hw1
    (unwatched_of_same hctxs hctx hwatch)
  exact ⟨w2, hperform ▸ hw2, hkept.trans hexs⟩

/-- A 64-bit atomic with one access leaves memory as its read-modify-write does, and delivers what that found to its register. -/
theorem performOp_atomS {op : AtomOp} {a : Access} (hkind : o.kind = .atomS reg op) (hacc : o.acc = [a]) (hticket : o.ticket = none)
    (hw : getWarp? m k = some w) (hs : mapWf w.s = true) (hwatch : unwatched m w) :
    let r := rmw gtc (bump m) k o a 8 (rmwNew (.atomS reg op) a)
    (performOp gtc m k o early order).mem = r.1.mem ∧ ∃ w', getWarp? (performOp gtc m k o early order) k = some w' ∧
      (reg ≠ 0 → getS w' reg = { value := r.2.1, mark := r.2.2 }) := by
  intro r
  obtain ⟨hctxs, ts, hts⟩ : r.1.ctxs = m.ctxs ∧ ∃ ts, getWarp? r.1 k = some (w.withTouched ts) := rmw_keeps (m := bump m) hw
  have hall : rmwAll gtc (bump m) k 8 o o.acc = (r.1, [(a.lane, r.2)]) := by rw [hacc, rmwAll, hkind]; rfl
  obtain ⟨hmem, w', hw', hkept⟩ := finishHits_keeps (gtc := gtc) (part := Warp.s) (fun _ _ _ _ _ => rfl) o
    (seenOf o 8 (rmwWrote o [(a.lane, r.2)])) (m := updWarp r.1 k fun w => deliveredWarp w reg r.2 (nameWord o.seq o.plane o.cidx))
    (by rw [getWarp?_upd_self, hts]; rfl)
    (unwatched_of_same ((updWarp_ctxs _ _ _).trans hctxs) (deliveredWarp_sameFlags (w.withTouched ts) ..).2 hwatch)
  rw [performOp_scalarAtomic (.inl ⟨op, hkind⟩), hall, hticket]
  refine ⟨hmem.trans (updWarp_mem _ _ _), w', hw', fun hreg => ?_⟩
  rw [getS, hkept, ← getS]
  exact getS_delivered_self (w := w.withTouched ts) r.2 _ hreg hs

end Complete

theorem exec_atomicComplete_ready {s : State} {k id : Nat} {o : MemOp} (order : List Nat) (ho : readyOp? s.mach k id = some o)
    (h : IsAtomic o.kind) : exec (.atomicComplete k id order) s = machNext s (performOp s.dev.gtc s.mach k o false order) := by
  rw [exec_atomicComplete, ho, Option.elim_some, if_pos h.counted]

/-- Settles O36: opf by its cases; every atomic ends by a delivery that leaves the arithmetic flags; the 64-bit one is one
read-modify-write. -/
theorem atomicReplacesOnce : Obligations.AtomicReplacesOnce := by
  refine ⟨fun w _ old v => ⟨atomFn_add old v, rfl, rfl, rfl, toInt_atomFn_min old v, toInt_atomFn_max old v, toNat_atomFn_minu old v,
    toNat_atomFn_maxu old v⟩, fun s k id o w order ho h hw hwatch => ?_, ?_⟩
  · obtain ⟨w', hw', hexs⟩ := performOp_atomic_exs (gtc := s.dev.gtc) (early := false) (order := order) h hw hwatch
    exact ⟨_, w', exec_atomicComplete_ready order ho h, hw', hexs⟩
  · intro s k id reg op o a w order hwf ho hkind hacc hticket hw hs hwatch hkey old
    obtain ⟨hmem, w', hw', hget⟩ := performOp_atomS (gtc := s.dev.gtc) (early := false) (order := order) hkind hacc hticket hw hs hwatch
    refine ⟨_, w', exec_atomicComplete_ready order ho (.inl ⟨reg, op, .inr hkind⟩), hw', ?_⟩
    cases hbad : (wordsOf a.key 8).any (wordBad s.mach) with
    | true =>
      rw [rmw_poisoned (m := bump s.mach) hw hkey hbad] at hmem hget
      have hmem := hmem.trans rmwNoted_mem
      exact ⟨fun x _ => by rw [hmem]; rfl, nofun, fun _ => ⟨hmem, hget⟩⟩
    | false =>
      rw [rmw_replaces (m := bump s.mach) (v := atomFn op 64 old (ofLe 64 a.data)) hw hkey hbad rfl] at hmem hget
      refine ⟨fun x hx => ?_, fun _ => ⟨fun hown => ?_, hget⟩, nofun⟩
      · rw [hmem, writeBytes_frame _ _ (by rwa [length_leBytes]), rmwNoted_mem]
        rfl
      · have hread := writeBytes_read (m := rmwNoted s.dev.gtc (bump s.mach) k o a 8 w) a.key (leBytes 8 (atomFn op 64 old (ofLe 64 a.data)))
          hown (by rw [rmwNoted_mem]; exact hwf)
        rw [length_leBytes] at hread
        rw [hmem, hread, ofLe_leBytes]

end Sys2Proof.Machine
end

section
/-!
PROOF. BARR, TPOST, EVSET and LIMM (R254 to R257).
-/

namespace Sys2Proof.Machine

/-! ### BARR -/

theorem barrOp_trap (bar : BitVec 3) (wait : Bool) (f : BitVec 4) (c : Ctx) : (barrOp bar wait f c).trap =
    firstExn ([((getF c.w f.toNat).pend, 0x15), (barListed c.m c.w bar.toNat && !arrivedBefore c bar.toNat, 0x2b)].map checkExn) := rfl

theorem barrOp_block (bar : BitVec 3) (wait : Bool) (f : BitVec 4) (c : Ctx) : (barrOp bar wait f c).block =
    causeIf (wait && (!arrivedBefore c bar.toNat || barListed c.m c.w bar.toNat)) .barrier := rfl

/-- BARR may arrive: its flag is free, and an arrival that stands in the phase is its own bundle's. -/
theorem barrOp_trap_none {bar : BitVec 3} {f : BitVec 4} {c : Ctx} (wait : Bool) (hfree : (getF c.w f.toNat).pend = false)
    (hown : barListed c.m c.w bar.toNat = true → arrivedBefore c bar.toNat = true) : (barrOp bar wait f c).trap = none := by
  have hstate : (barListed c.m c.w bar.toNat && !arrivedBefore c bar.toNat) = false := by
    cases hl : barListed c.m c.w bar.toNat with
    | false => rfl
    | true => rw [hown hl]; rfl
  rw [barrOp_trap, hfree, hstate]
  rfl

/-- A BARR that waits blocks where it has not arrived before or its arrival still stands in the phase. -/
theorem barrOp_waits {bar : BitVec 3} {f : BitVec 4} {c : Ctx}
    (h : arrivedBefore c bar.toNat = false ∨ barListed c.m c.w bar.toNat = true) : (barrOp bar true f c).block = some .barrier := by
  rw [barrOp_block]
  rcases h with h | h <;> simp [h, causeIf]

/-! ### TPOST -/

/-- The check that the record of a TPOST is aligned to 64 bytes. -/
def postAligned (a : Nat) : Option Exn := if a % 64 = 0 then none else some { code := 0x19, addr := a }

theorem tpostOp_trap {sa : BitVec 6} {c : Ctx} (f : BitVec 4) (hu : c.usable [sa] none) : (tpostOp sa f c).trap =
    firstExn ([((getF c.w f.toNat).pend, 0x15)].map checkExn ++ [postAligned (c.sv sa).toNat]) := by
  simp only [tpostOp, poisonS_none fun n hn => (hu.1 n hn).1, roles_none hu, shut_none hu, firstExn_none_cons, firstExn_cons_none]
  rfl

/-- Once its flag is free, TPOST has the check of its address alone. -/
theorem tpostOp_trap_free {sa : BitVec 6} {f : BitVec 4} {c : Ctx} (hu : c.usable [sa] none) (hfree : (getF c.w f.toNat).pend = false) :
    (tpostOp sa f c).trap = postAligned (c.sv sa).toNat := by
  rw [tpostOp_trap f hu, hfree]
  exact firstExn_one _

/-- Settles O16: BARR's checks and block go by whether its bundle has arrived and its arrival still stands; TPOST has its flag's check and
its address's; EVSET and LIMM have none. -/
theorem barrierPostEvent : Obligations.BarrierPostEvent := by
  intro s st bar f sa ev imm c n free arrive
  refine ⟨fun h hf hown => ?_, fun h hf hb hl => ?_, fun h hf hstands => ?_, fun wait h => ?_, fun h hu => ⟨?_, fun hf ha => ?_⟩,
    fun h hu hf ha => ?_, fun h => ?_, fun h => ?_⟩
  · exact runOp_ready h (a := barrOp bar false f) nofun ⟨rfl, barrOp_trap_none false hf hown, rfl⟩
  · have hblock : (barrOp bar true f c).block = none := by
      rw [barrOp_block, show arrivedBefore c bar.toNat = true from hb, show barListed c.m c.w bar.toNat = false from hl]
      rfl
    exact runOp_ready h (a := barrOp bar true f) nofun ⟨rfl, barrOp_trap_none true hf fun _ => hb, hblock⟩
  · have hown : barListed c.m c.w n = true → arrivedBefore c n = true := by
      rcases hstands with ⟨-, hl⟩ | ⟨hb, -⟩
      · simp [hl]
      · exact fun _ => hb
    exact runOp_waits (slot := .x) h.1 (a := barrOp bar true f) nofun h.2.1 h.2.2 rfl (barrOp_trap_none true hf hown)
      (barrOp_waits (hstands.imp And.left And.right))
  · exact checksTrap_of_trap (slot := .x) (a := barrOp bar wait f) rfl h nofun nofun rfl (barrOp_trap bar wait f c)
  · exact checksTrap_of_checks (slot := .x) (a := tpostOp sa f) rfl h nofun nofun rfl fun e he => by
      rw [tpostOp_trap f hu]
      exact firstExn_append he
  · have htrap : (tpostOp sa f c).trap = some { code := 0x19, addr := (c.sv sa).toNat } := by
      rw [tpostOp_trap_free hu hf, postAligned, if_neg ha]
    exact runOp_traps_outsideV (slot := .x) h (a := tpostOp sa f) nofun nofun rfl htrap
  · have htrap : (tpostOp sa f c).trap = none := by rw [tpostOp_trap_free hu hf, postAligned, if_pos ha]
    exact runOp_ready h (a := tpostOp sa f) nofun ⟨rfl, htrap, rfl⟩
  · exact plain_next h (a := actEvset ev) nofun rfl
  · exact plain_next h (a := actLimm imm) nofun rfl

end Sys2Proof.Machine
end

section
/-!
SUPPORT. The mould of the matrix instructions that need the engine (R227, R240): its checks, its wait for the engine, its effect.
-/

namespace Sys2Proof.Machine

/-! ### Checks in order -/

/-- Checks that stand in a list of their own are made where that list stands. -/
theorem firstExn_flatten (xs ys : List (Option Exn)) : firstExn (xs ++ [firstExn ys]) = firstExn (xs ++ ys) := by
  induction xs with
  | nil => exact firstExn_one _
  | cons x xs ih =>
    cases x with
    | none => exact ih
    | some e => rfl

theorem firstExn_passed {checks : List (Bool × Nat)} (h : ∀ x ∈ checks, x.1 = false) : firstExn (checks.map checkExn) = none := by
  induction checks with
  | nil => rfl
  | cons x xs ih =>
    rw [List.map_cons, checkExn, h x List.mem_cons_self]
    exact ih fun y hy => h y (List.mem_cons_of_mem _ hy)

/-- Two checks in a row for one fault are one check. -/
theorem firstExn_or (a b : Bool) (t : TrapName) (xs : List (Option Exn)) :
    firstExn (exnIf a t :: exnIf b t :: xs) = firstExn (exnIf (a || b) t :: xs) := by
  cases a <;> cases b <;> rfl

theorem tileOutside_of_range {c : Ctx} {n : Nat} (h : tileRange c n = none) : tileOutside c n = false := by
  cases ho : tileOutside c n with
  | false => rfl
  | true => exact absurd ((if_pos ho).symm.trans h) nofun

/-! ### The mould -/

/-- The warp's request stands and is not granted. -/
def engineAsked (c : Ctx) : Bool := c.request?.isSome && !c.holds

theorem engineAsked_held {c : Ctx} (h : c.engineHeld) : engineAsked c = false := by rw [engineAsked, h.2, Bool.not_true, Bool.and_false]

/-- The checks of the mould: the form's flag, the handler, and while no request stands the engine and the form's own checks (R227, R240). -/
def engineChecks (c : Ctx) (busy : Bool) (checks : List (Bool × Nat)) : List (Bool × Nat) :=
  [(busy, 0x15), (c.inHandler, 0x24)] ++ if engineAsked c then [] else (!c.holds, 0x24) :: checks

/-- The form `i` is the mould: whether the flag that it names is pending, its own checks, its own cause to wait. -/
structure EngineForm (i : Instr) (a : Act) (busy : Ctx → Bool) (checks : Ctx → List (Bool × Nat)) (block : Ctx → Option Cause) : Prop where
  ne_fwait : ∀ f, i ≠ .fwait f
  meaning (s : State) : exec i s = runOp s .x i a
  mould (c : Ctx) : a c = matrixOp (checkExn (busy c, 0x15)) (firstExn ((checks c).map checkExn)) (block c) (a c).fx c

theorem matrixOp_trap (c : Ctx) (busy : Bool) (checks : List (Bool × Nat)) (block : Option Cause) (fx : Mach → Mach) :
    (matrixOp (checkExn (busy, 0x15)) (firstExn (checks.map checkExn)) block fx c).trap =
      firstExn ((engineChecks c busy checks).map checkExn) := by
  have hown : firstExn [exnIf (!c.holds) .meState, firstExn (checks.map checkExn)] =
      firstExn (((!c.holds, 0x24) :: checks).map checkExn) := firstExn_flatten [_] _
  unfold matrixOp engineChecks engineAsked
  cases c.request?.isSome && !c.holds with
  | true => exact firstExn_flatten [_, _] []
  | false =>
    simp only [Bool.false_eq_true, if_false, hown, List.map_append]
    exact firstExn_flatten [_, _] _

theorem matrixOp_congr {first checks checks' : Option Exn} {block block' : Option Cause} {fx : Mach → Mach} {c : Ctx}
    (hchecks : checks = checks') (hblock : block = block') : matrixOp first checks block fx c = matrixOp first checks' block' fx c := by
  rw [hchecks, hblock]

namespace EngineForm

variable {s : State} {st : Stage} {i : Instr} {a : Act} {busy : Ctx → Bool} {checks : Ctx → List (Bool × Nat)} {block : Ctx → Option Cause}
  (hform : EngineForm i a busy checks block)

include hform

theorem stop_none (c : Ctx) : (a c).stop = none := by rw [hform.mould]; rfl
theorem miss_nil (c : Ctx) : (a c).miss = [] := by rw [hform.mould]; rfl
theorem early_id (c : Ctx) : (a c).early = id := by rw [hform.mould]; rfl

theorem trap_eq (c : Ctx) : (a c).trap = firstExn ((engineChecks c (busy c) (checks c)).map checkExn) := by
  rw [hform.mould, matrixOp_trap]

theorem block_asked {c : Ctx} (h : engineAsked c = true) : (a c).block = some .reserve := by
  rw [hform.mould]
  exact if_pos h

theorem block_held {c : Ctx} (h : c.engineHeld) : (a c).block = block c := by
  rw [hform.mould]
  exact if_neg (ne_true_of_eq_false (engineAsked_held h))

/-- Every check passes for a warp that holds the engine, where the form's own do. -/
theorem trap_none {c : Ctx} (h : c.engineHeld) (hb : busy c = false) (hchecks : ∀ x ∈ checks c, x.1 = false) : (a c).trap = none := by
  rw [hform.trap_eq]
  refine firstExn_passed ?_
  rw [engineChecks, engineAsked_held h, hb, h.1, h.2]
  simpa using hchecks

theorem waits {w : Cause} (h : AtIssue s .x i st) (htrap : (a st.c).trap = none) (hblock : (a st.c).block = some w) :
    exec i s = st.waits s w := by
  rw [hform.meaning, runOp_waits h.1 hform.ne_fwait h.2.1 h.2.2 (hform.stop_none _) htrap hblock, hform.miss_nil, hform.early_id, ite_self]

theorem next (h : AtIssue s .x i st) (hheld : st.c.engineHeld) (hb : busy st.c = false) (hchecks : ∀ x ∈ checks st.c, x.1 = false)
    (hblock : block st.c = none) : exec i s = st.next s (a st.c).fx := by
  have hlast : (a st.c).last = id := by rw [hform.mould]; rfl
  have hafter : (a st.c).after = none := by rw [hform.mould]; rfl
  rw [hform.meaning, runOp_ready h hform.ne_fwait
    ⟨hform.stop_none _, hform.trap_none hheld hb hchecks, (hform.block_held hheld).trans hblock⟩, hlast, hafter]

/-- A form traps by its checks in their order; a warp whose request stands waits once its flag and the handler are checked. -/
theorem stops (h : AtIssue s .x i st) : checksTrap s st i 2 (engineChecks st.c (busy st.c) (checks st.c)) ∧
    (engineAsked st.c = true → busy st.c = false → st.c.inHandler = false → exec i s = st.waits s .reserve) := by
  refine ⟨checksTrap_of_trap (slot := .x) (hform.meaning s) h hform.ne_fwait nofun (hform.stop_none _) (hform.trap_eq _),
    fun hasked hb hin => hform.waits h ?_ (hform.block_asked hasked)⟩
  rw [hform.trap_eq, engineChecks, hasked, hb, hin]
  rfl

end EngineForm

end Sys2Proof.Machine
end

section
/-!
PROOF. The matrix instructions at issue (R240 to R246, R248): what each form puts into the mould, and MRES and MREL, which ask for the
engine and give it back.
-/

namespace Sys2Proof.Machine

/-! ### The forms -/

/-- The own check of CHB. -/
def chbChecks (c : Ctx) : List (Bool × Nat) := [((openChain c.m c.k).isSome, 0x24)]

theorem chb_form (acc : BitVec 2) (anchor : Option (BitVec 10)) : EngineForm (.chb acc anchor) (chbOp acc anchor) (fun _ => false)
    chbChecks fun _ => none :=
  ⟨nofun, fun _ => rfl, fun _ => matrixOp_congr (firstExn_one _).symm rfl⟩

/-- What two tiles of a step have to each other, where both are defined. -/
def stepPair (c : Ctx) (ta tb : BitVec 6) (p : Tile → Tile → Bool) : Bool :=
  (c.tile? (c.tileOf ta.toNat)).any fun a => (c.tile? tb.toNat).any fun b => p a b

/-- The elements that a step adds to its chain (R242). -/
def stepElements (c : Ctx) (ta k : BitVec 6) : Nat := (k.toNat + 1) * (c.tile? (c.tileOf ta.toNat)).elim 8 fun t => unitElements t.fmt

/-- The own checks of MSTEP and MSTEP.g, in their order (R227, R242, log 26). -/
def stepChecks (ta tb k : BitVec 6) (gang : Bool) (c : Ctx) : List (Bool × Nat) :=
  [(tileOutside c (c.tileOf ta.toNat) || tileOutside c tb.toNat, 0x20),
   ((c.tile? (c.tileOf ta.toNat)).isNone || (c.tile? tb.toNat).isNone, 0x21),
   (c.w.gang.isSome != gang || (openChain c.m c.k).isNone, 0x24), (stepPair c ta tb fun a b => mstepOperandBad a b (k.toNat + 1), 0x25),
   (stepPair c ta tb mstepBankBad, 0x26), ((openChain c.m c.k).any fun x => 16777216 < x.kelems + stepElements c ta k, 0x27)]

/-- Both tiles of a step are ready. -/
def stepReady (c : Ctx) (ta tb : BitVec 6) : Bool := stepPair c ta tb fun a b => a.state = .ready && b.state = .ready

/-- A step waits for its tiles, then for the step queue (R242). -/
def stepBlock (ta tb : BitVec 6) (c : Ctx) : Option Cause := leastCause
  [causeIf (!stepReady c ta tb) .tile, causeIf (4 ≤ listSum (c.mx.chains.map fun x => x.steps.length)) .stepq]

theorem mstepOp_mould (gang : Bool) (ta tb k : BitVec 6) (c : Ctx) : mstepOp gang ta tb k c = matrixOp none
    (firstExn ((stepChecks ta tb k gang c).map checkExn)) (stepBlock ta tb c) (mstepOp gang ta tb k c).fx c := by
  refine matrixOp_congr ?_ ?_
  · have hrange := firstExn_or (tileOutside c (c.tileOf ta.toNat)) (tileOutside c tb.toNat) .tileRange
    unfold stepChecks stepPair stepElements
    cases c.tile? (c.tileOf ta.toNat) <;> cases c.tile? tb.toNat <;> cases openChain c.m c.k <;> exact hrange _
  · unfold stepBlock stepReady stepPair
    cases c.tile? (c.tileOf ta.toNat) <;> cases c.tile? tb.toNat <;> rfl

theorem mstep_form {e} (he : e ∈ [(Instr.mstep, false), (.mstepG, true)]) (ta tb k : BitVec 6) :
    EngineForm (e.1 ta tb k) (mstepOp e.2 ta tb k) (fun _ => false) (stepChecks ta tb k e.2) (stepBlock ta tb) := by
  simp only [List.mem_cons, List.not_mem_nil, or_false] at he
  rcases he with rfl | rfl <;> exact ⟨nofun, fun _ => rfl, mstepOp_mould _ ta tb k⟩

/-- The own check of CHE and CHE.g. -/
def cheChecks (acc : BitVec 2) (gang : Bool) (c : Ctx) : List (Bool × Nat) :=
  [(c.w.gang.isSome != gang || !(openChain c.m c.k).any (·.slot = c.slotOf acc.toNat), 0x24)]

theorem cheOp_mould (gang : Bool) (acc : BitVec 2) (f : BitVec 4) (c : Ctx) : cheOp gang acc f c = matrixOp
    (checkExn ((getF c.w f.toNat).pend, 0x15)) (firstExn ((cheChecks acc gang c).map checkExn)) none (cheOp gang acc f c).fx c := by
  refine matrixOp_congr ?_ rfl
  rw [cheChecks, List.map_singleton, firstExn_one]
  cases openChain c.m c.k <;> rfl

theorem che_form {e} (he : e ∈ [(Instr.che, false), (.cheG, true)]) (acc : BitVec 2) (f : BitVec 4) :
    EngineForm (e.1 acc f) (cheOp e.2 acc f) (fun c => (getF c.w f.toNat).pend) (cheChecks acc e.2) fun _ => none := by
  simp only [List.mem_cons, List.not_mem_nil, or_false] at he
  rcases he with rfl | rfl <;> exact ⟨nofun, fun _ => rfl, cheOp_mould _ acc f⟩

/-- The slot that MPOP reads. -/
def popSlot (c : Ctx) : AccSlot := getSlot c.mx ((mapGet? c.mx.popOf c.k).getD 0)

/-- The own check of MPOP. -/
def popChecks (c : Ctx) : List (Bool × Nat) :=
  [((mapGet? c.mx.popOf c.k).isNone || !(popSlot c).ready || 16 ≤ (popSlot c).pops, 0x24)]

theorem mpop_form (vd : BitVec 7) : EngineForm (.mpop vd) (mpopOp vd) (fun _ => false)
    popChecks fun _ => none :=
  ⟨nofun, fun _ => rfl, fun _ => matrixOp_congr (firstExn_one _).symm rfl⟩

/-- The own checks of MDEP, in their order. -/
def depositChecks (ta : BitVec 6) (acc : BitVec 2) (c : Ctx) : List (Bool × Nat) :=
  [(tileOutside c (c.tileOf ta.toNat), 0x20), (!(c.tile? (c.tileOf ta.toNat)).any (·.state = .empty), 0x21),
   (!(getSlot c.mx (c.slotOf acc.toNat)).begun || !(getSlot c.mx (c.slotOf acc.toNat)).closed, 0x24),
   ((c.tile? (c.tileOf ta.toNat)).any fun t => t.fmt != 0 || t.rows != 32 || t.rowb < 4, 0x25)]

theorem mdep_form (ta : BitVec 6) (acc : BitVec 2) (f : BitVec 4) : EngineForm (.mdep ta acc f) (mdepOp ta acc f)
    (fun c => (getF c.w f.toNat).pend) (depositChecks ta acc) fun _ => none := by
  refine ⟨nofun, fun _ => rfl, fun c => ?_⟩
  refine matrixOp_congr ?_ rfl
  unfold depositChecks
  cases c.tile? (c.tileOf ta.toNat) <;> rfl

/-! ### Checks that pass -/

theorem chbChecks_passed {c : Ctx} (h : openChain c.m c.k = none) : ∀ x ∈ chbChecks c, x.1 = false := by
  simp [chbChecks, h]

theorem stepChecks_passed {c : Ctx} {ta tb k : BitVec 6} {gang : Bool} {a b : Tile} {chain : Chain} (hgang : c.w.gang.isSome = gang)
    (hra : tileRange c (c.tileOf ta.toNat) = none) (hrb : tileRange c tb.toNat = none) (ha : c.tile? (c.tileOf ta.toNat) = some a)
    (hb : c.tile? tb.toNat = some b) (hchain : openChain c.m c.k = some chain) (hop : mstepOperandBad a b (k.toNat + 1) = false)
    (hbank : mstepBankBad a b = false) (hlimit : chain.kelems + stepElements c ta k ≤ 16777216) :
    ∀ x ∈ stepChecks ta tb k gang c, x.1 = false := by
  simp [stepChecks, stepPair, tileOutside_of_range hra, tileOutside_of_range hrb, ha, hb, hchain, hgang, hop, hbank, hlimit]

theorem stepBlock_unready {c : Ctx} {ta tb : BitVec 6} (h : stepReady c ta tb = false) : stepBlock ta tb c = some .tile := by
  rw [stepBlock, h]
  cases decide (4 ≤ listSum (c.mx.chains.map fun x => x.steps.length)) <;> rfl

theorem stepBlock_full {c : Ctx} {ta tb : BitVec 6} (h : stepReady c ta tb = true)
    (hfull : 4 ≤ listSum (c.mx.chains.map fun x => x.steps.length)) : stepBlock ta tb c = some .stepq := by
  rw [stepBlock, h, decide_eq_true hfull]
  rfl

theorem stepBlock_none {c : Ctx} {ta tb : BitVec 6} (h : stepReady c ta tb = true)
    (hroom : listSum (c.mx.chains.map fun x => x.steps.length) < 4) : stepBlock ta tb c = none := by
  rw [stepBlock, h, decide_eq_false (Nat.not_le.mpr hroom)]
  rfl

theorem cheChecks_passed {c : Ctx} {acc : BitVec 2} {gang : Bool} {chain : Chain} (hgang : c.w.gang.isSome = gang)
    (hchain : openChain c.m c.k = some chain) (hslot : chain.slot = c.slotOf acc.toNat) : ∀ x ∈ cheChecks acc gang c, x.1 = false := by
  simp [cheChecks, hgang, hchain, hslot]

theorem popChecks_passed {c : Ctx} {n : Nat} (hpop : mapGet? c.mx.popOf c.k = some n) (hready : (getSlot c.mx n).ready = true)
    (hpops : (getSlot c.mx n).pops < 16) : ∀ x ∈ popChecks c, x.1 = false := by
  simp [popChecks, popSlot, hpop, hready, hpops]

theorem depositChecks_passed {c : Ctx} {ta : BitVec 6} {acc : BitVec 2} {a : Tile} (hrange : tileRange c (c.tileOf ta.toNat) = none)
    (ha : c.tile? (c.tileOf ta.toNat) = some a) (hempty : a.state = .empty) (hfmt : a.fmt = 0) (hrows : a.rows = 32) (hrowb : 4 ≤ a.rowb)
    (hbegun : (getSlot c.mx (c.slotOf acc.toNat)).begun = true) (hclosed : (getSlot c.mx (c.slotOf acc.toNat)).closed = true) :
    ∀ x ∈ depositChecks ta acc c, x.1 = false := by
  simp [depositChecks, tileOutside_of_range hrange, ha, hempty, hfmt, hrows, hrowb, hbegun, hclosed]

/-! ### MRES and MREL -/

/-- The warp asks for the engine although it has it or has asked for it. -/
def mresTwice (c : Ctx) : Bool := c.lead && (c.holds || c.request?.isSome)

theorem mresTwice_false {c : Ctx} (h : c.lead = true → c.holds = false ∧ c.request? = none) : mresTwice c = false := by
  unfold mresTwice
  cases hl : c.lead with
  | false => rfl
  | true => simp [h hl]

theorem mresOp_trap (f : BitVec 4) (c : Ctx) : (mresOp f c).trap =
    firstExn ([((getF c.w f.toNat).pend, 0x15), (c.inHandler || mresTwice c, 0x24)].map checkExn) := rfl

theorem mresOp_trap_none {f : BitVec 4} {c : Ctx} (hfree : (getF c.w f.toNat).pend = false) (hin : c.inHandler = false)
    (h : c.lead = true → c.holds = false ∧ c.request? = none) : (mresOp f c).trap = none := by
  rw [mresOp_trap, hfree, hin, mresTwice_false h]
  rfl

theorem mresOp_block (f : BitVec 4) (c : Ctx) : (mresOp f c).block = causeIf (c.lead && decide (16 ≤ c.mx.mrt.length)) .reserve := rfl

theorem mresOp_block_none {c : Ctx} (f : BitVec 4) (h : c.lead = true → c.mx.mrt.length < 16) : (mresOp f c).block = none := by
  rw [mresOp_block]
  cases hl : c.lead with
  | false => rfl
  | true => rw [decide_eq_false (Nat.not_le.mpr (h hl))]; rfl

/-- A member of a gang has executed its MRES once more: its flag is set at once where its gang's request is answered, and waits where not. -/
def mresAsked (c : Ctx) (f : Nat) (m : Mach) : Mach :=
  match c.w.gang.bind fun g => (mapGet? m.gangs g).map fun x => (g, x) with
  | some (g, x) =>
    let asked := x.asked.set c.w.gidx (x.asked.getD c.w.gidx 0 + 1)
    if x.asked.getD c.w.gidx 0 < x.grants then
      updWarp { m with gangs := mapPut m.gangs g { x with asked := asked } } c.k fun w => completeFlag w f
    else { m with gangs := mapPut m.gangs g { x with asked := asked, mres := x.mres ++ [c.w.gidx] } }
  | none => m

theorem askGang_eq_mresAsked (c : Ctx) (f : Nat) (m : Mach) : (c.w.gang.elim m fun g => askGang m g c.k c.w.gidx f) = mresAsked c f m := by
  unfold mresAsked askGang
  cases c.w.gang with
  | none => rfl
  | some g =>
    simp only [Option.elim_some, Option.bind_some]
    cases mapGet? m.gangs g <;> rfl

/-- The lead's request enters the table of its cluster's engine. -/
def postRequest (c : Ctx) (f : Nat) (m : Mach) : Mach :=
  if c.lead then
    updMatrix (bump m) (clusterOf c.k) fun mx => { mx with mrt := mx.mrt ++
      [{ warp := c.k, gang := c.w.gang, flag := f, tokens := (getNode? c.m c.w.node).elim 0 (·.eff), order := m.tick }] }
  else m

theorem mresOp_fx (f : BitVec 4) (c : Ctx) : (mresOp f c).fx = fun m => postRequest c f.toNat (mresAsked c f.toNat
    (updWarp (c.arm f.toNat (c.countCommand m)) c.k fun w => { w with mres := nameWord w.seq c.plane c.cidx })) := by
  funext m
  rw [← askGang_eq_mresAsked]
  rfl

/-- MREL of a warp without the engine, or beside a chain that is open. -/
def mrelBad (c : Ctx) : Bool := c.lead && ((!c.holds && c.request?.isNone) || chainOpen c)

theorem mrelBad_false {c : Ctx} (h : c.lead = true → (c.holds = true ∨ c.request?.isSome) ∧ chainOpen c = false) : mrelBad c = false := by
  unfold mrelBad
  cases hl : c.lead with
  | false => rfl
  | true =>
    obtain ⟨howned, hclosed⟩ := h hl
    rcases howned with hh | hq
    · simp [hh, hclosed]
    · simp [Option.isNone_eq_false_iff.mpr hq, hclosed]

theorem mrelOp_trap (c : Ctx) : (mrelOp c).trap = exnIf (c.inHandler || mrelBad c) .meState := rfl

/-- Settles O13: all forms but two are one mould, whose checks and waits are proved once; MRES and MREL have their own. -/
theorem matrixIssues : Obligations.MatrixIssues := by
  intro s st f acc anchor ta tb k vd c cl free
  refine ⟨fun h hf hin hlead => ?_, fun h hin hlead => ?_, fun h hheld hopen => ?_,
    fun e he a b chain h hheld hgang hra hrb ha hb hsa hsb hchain hop hbank hlimit hroom => ?_,
    fun e he chain h hf hheld hgang hchain hslot => ?_, fun n h hheld hpop hready hpops => ?_,
    fun a h hf hheld hrange ha hempty hfmt hrows hrowb hbegun hclosed => ?_, ?_⟩
  · have hfirst : c.lead = true → c.holds = false ∧ c.request? = none := fun hl => ⟨(hlead hl).1, (hlead hl).2.1⟩
    have hroom : c.lead = true → c.mx.mrt.length < 16 := fun hl => (hlead hl).2.2
    have hnext := runOp_ready h (a := mresOp f) nofun ⟨rfl, mresOp_trap_none hf hin hfirst, mresOp_block_none f hroom⟩
    rw [mresOp_fx] at hnext
    exact hnext
  · have htrap : (mrelOp c).trap = none := by rw [mrelOp_trap, hin, mrelBad_false hlead]; rfl
    exact runOp_ready h (a := mrelOp) nofun ⟨rfl, htrap, rfl⟩
  · exact (chb_form acc anchor).next h hheld rfl (chbChecks_passed hopen) rfl
  · have hadd : stepElements c ta k = (k.toNat + 1) * unitElements a.fmt := by rw [stepElements, ha]; rfl
    rw [← hadd] at hlimit ⊢
    have hready : stepReady c ta tb = true := by simp [stepReady, stepPair, ha, hb, hsa, hsb]
    exact (mstep_form he ta tb k).next h hheld rfl (stepChecks_passed hgang hra hrb ha hb hchain hop hbank hlimit)
      (stepBlock_none hready hroom)
  · exact (che_form he acc f).next h hheld hf (cheChecks_passed hgang hchain hslot) rfl
  · have hchecks := popChecks_passed hpop hready hpops
    obtain rfl : n = (mapGet? c.mx.popOf c.k).getD 0 := by rw [hpop]; rfl
    exact (mpop_form vd).next h hheld rfl hchecks rfl
  · exact (mdep_form ta acc f).next h hheld hf (depositChecks_passed hrange ha hempty hfmt hrows hrowb hbegun hclosed) rfl
  intro busy asked outside undefined pair chain add slot pop dep stepChecks cheChecks forms
  refine ⟨fun x hx h => ?_, fun e he h hheld hchecks => ⟨fun hunready => ?_, fun hready hfull => ?_⟩,
    fun h => ⟨?_, fun hf hin hl ho hq hfull => ?_⟩, fun h => ?_⟩
  · simp only [forms, List.mem_cons, List.not_mem_nil, or_false] at hx
    rcases hx with rfl | rfl | rfl | rfl | rfl | rfl | rfl
    · exact (chb_form acc anchor).stops h
    · exact (mstep_form (e := (.mstep, false)) (by simp) ta tb k).stops h
    · exact (mstep_form (e := (.mstepG, true)) (by simp) ta tb k).stops h
    · exact (che_form (e := (.che, false)) (by simp) acc f).stops h
    · exact (che_form (e := (.cheG, true)) (by simp) acc f).stops h
    · exact (mpop_form vd).stops h
    · exact (mdep_form ta acc f).stops h
  · have hform := mstep_form he ta tb k
    exact hform.waits h (hform.trap_none hheld rfl hchecks) ((hform.block_held hheld).trans (stepBlock_unready hunready))
  · have hform := mstep_form he ta tb k
    exact hform.waits h (hform.trap_none hheld rfl hchecks) ((hform.block_held hheld).trans (stepBlock_full hready hfull))
  · exact checksTrap_of_trap (slot := .x) (a := mresOp f) rfl h nofun nofun rfl (mresOp_trap f c)
  · have hblock : (mresOp f c).block = some .reserve := by rw [mresOp_block, hl, decide_eq_true hfull]; rfl
    exact runOp_waits (slot := .x) h.1 (a := mresOp f) nofun h.2.1 h.2.2 rfl (mresOp_trap_none hf hin fun _ => ⟨ho, hq⟩) hblock
  · exact checksTrap_of_trap (slot := .x) (a := mrelOp) rfl h nofun nofun rfl (by rw [mrelOp_trap]; exact (firstExn_one _).symm)

end Sys2Proof.Machine
end

section
/-!
PROOF. Events of the engines: copies (R228 to R237, R360, R361) and the matrix engine (R240 to R248).
-/

namespace Sys2Proof.Machine

/-! ### Copies -/

section CopyEvents

variable {s : State} {cl id : Nat} {c : Copy} (hc : copyAt? s.mach cl id = some c)

include hc

theorem exec_copyStart (words : Nat) : exec (.copyStart cl id words) s = machNext s
    (if mayRun s.dev.gtc s.mach c then (advanceCopy s.dev.gtc s.mach cl id words c).1 else s.mach) := by
  show machNext s _ = machNext s _
  simp only [hc]

theorem exec_cpyatLaunch {t : Nat} (ht : c.launch = some t) : exec (.cpyatLaunch cl id) s = machNext s
    (if t ≤ s.dev.gtc then putCopy s.mach cl id { c with launch := none, started := c.started || mayRun s.dev.gtc s.mach c } else s.mach) := by
  show machNext s _ = machNext s _
  simp only [hc, ht, Option.elim_some, decide_eq_true_eq]

theorem exec_copyComplete {m : Mach} {c' : Copy} (hrun : mayRun s.dev.gtc s.mach c = true)
    (hend : advanceCopy s.dev.gtc s.mach cl id (unitBound c) c = (m, c', none, true)) :
    exec (.copyComplete cl id) s = machNext s (finishCopy m cl id c') := by
  show machNext s _ = machNext s _
  simp only [hc, hrun, hend, Bool.not_true, Bool.false_eq_true, if_false]

/-- A copy without a fault performs its units where it may run. -/
theorem exec_copyFault (hrun : mayRun s.dev.gtc s.mach c = true) (hfault : c.fault = none) :
    exec (.copyFault cl id) s = .next (faultCopy s cl id c) := by
  show execCopyFault cl id s = _
  simp only [execCopyFault, hc, hfault, hrun, if_true]

end CopyEvents

/-- A copy that stops at a fault while its issuer is live keeps the fault's record, which is due to the issuer. -/
theorem faultCopy_live {s : State} {cl id : Nat} {c c' : Copy} {m : Mach} {e : Exn} {ps : List Piece} {last : Bool} {k : Nat} {w : Warp}
    (hstop : advanceCopy s.dev.gtc s.mach cl id (unitBound c) c = (m, c', some (.fault e ps), last))
    (hlocal : e.code ≠ TrapName.remoteFail.code) (hlive : issuer? m c' = some (k, w)) :
    faultCopy s cl id c = { s with mach := updWarp (putCopy m cl id { c' with fault := some (copyRecord s.dev m c' e) }) k fun w =>
      { w with due := w.due ++ [copyRecord s.dev m c' e] } } := by
  simp only [faultCopy, hstop, hlocal, if_false, hlive]

/-! ### The grant of the matrix engine -/

/-- Nothing goes before the best element, where `before` is a strict order whose ties are transitive. -/
theorem listBest_first {α : Type} {before : α → α → Bool} (hasymm : ∀ a b, before a b = true → before b a = false)
    (htrans : ∀ a b c, before a b = false → before b c = false → before a c = false) {l : List α} {a : α}
    (h : listBest before l = some a) : ∀ b ∈ l, before b a = false := by
  have hirrefl (a : α) : before a a = false := by
    cases haa : before a a with
    | false => rfl
    | true => exact haa ▸ hasymm a a haa
  induction l generalizing a with
  | nil => cases h
  | cons x xs ih =>
    simp only [listBest] at h
    split at h
    · next hnone =>
      cases h
      simp [listBest_eq_none hnone, hirrefl]
    · next b hb =>
      split at h <;> cases h
      · next hbx => exact List.forall_mem_cons.mpr ⟨hasymm _ _ hbx, ih hb⟩
      · next hbx => exact List.forall_mem_cons.mpr ⟨hirrefl _, fun y hy => htrans _ _ _ (ih hb y hy) (by simpa using hbx)⟩

theorem mresBefore_eq_false {q r : MresReq} : mresBefore q r = false ↔ q.tokens ≤ r.tokens ∧ (q.tokens = r.tokens → r.order ≤ q.order) := by
  simp [mresBefore]

/-- The first request of the table has the most tokens, and is the oldest of those that have as many (R240). -/
theorem listBest_mresBefore {l : List MresReq} {r : MresReq} (h : listBest mresBefore l = some r) :
    ∀ q ∈ l, q.tokens ≤ r.tokens ∧ (q.tokens = r.tokens → r.order ≤ q.order) := by
  refine fun q hq => mresBefore_eq_false.mp (listBest_first (fun a b hab => ?_) (fun a b c hab hbc => ?_) h q hq)
  · rw [mresBefore_eq_false]
    simp only [mresBefore, Bool.or_eq_true, Bool.and_eq_true, decide_eq_true_eq] at hab
    omega
  · rw [mresBefore_eq_false] at *
    omega

theorem exec_mrtGrant_idle {s : State} {cl : Nat} (h : (getMatrix s.mach cl).owners ≠ [] ∨ (getMatrix s.mach cl).mrt = []) :
    exec (.mrtGrant cl) s = .next s := by
  show machNext s _ = machNext s s.mach
  rcases h with h | h
  · simp only [List.isEmpty_eq_false_iff.mpr h]
  · simp only [h, listBest]
    cases (getMatrix s.mach cl).owners.isEmpty <;> rfl

theorem exec_mrtGrant_free {s : State} {cl : Nat} {r : MresReq} (ho : (getMatrix s.mach cl).owners = [])
    (hr : listBest mresBefore (getMatrix s.mach cl).mrt = some r) : exec (.mrtGrant cl) s = machNext s (grantMatrix s.mach cl r) := by
  show machNext s _ = machNext s _
  simp only [ho, hr, List.isEmpty_nil]

/-! ### Chains and deposits -/

theorem exec_chainClose (cl : Nat) (s : State) : exec (.chainClose cl) s = machNext s
    ((closing (getMatrix s.mach cl)).foldl (fun m c => c.che.elim m (closeChain m cl c)) s.mach) := rfl

/-- A chain whose steps are done closes alone, unless it is a gang's. -/
theorem closing_single {mx : Matrix} {c : Chain} (h : (mx.chains.find? fun c => chainDone c && !c.group) = some c) : closing mx = [c] := by
  simp only [closing, h]

/-- No chain closes while none is done: an owner's gang chain is none or is not done. -/
theorem closing_none {mx : Matrix} (hnone : ∀ c ∈ mx.chains, chainDone c = false) (howned : mx.owners ≠ []) : closing mx = [] := by
  have hsingle : (mx.chains.find? fun c => chainDone c && !c.group) = none := by
    rw [List.find?_eq_none]
    intro c hc
    simp [hnone c hc]
  have hgang : (gangChains mx).all (fun g => g.elim false chainDone) = false := by
    obtain ⟨k, hk⟩ := List.exists_mem_of_ne_nil _ howned
    rw [List.all_eq_false]
    refine ⟨_, List.mem_map_of_mem hk, ?_⟩
    cases hfind : mx.chains.find? fun c => c.warp = k && c.group with
    | none => simp
    | some c => simp [hnone c (List.mem_of_find?_eq_some hfind)]
  simp only [closing, hsingle, hgang, Bool.and_false, Bool.false_eq_true, if_false]

theorem exec_mdepComplete {s : State} {cl id : Nat} {d : Mdep} (hd : ((getMatrix s.mach cl).mdeps.find? fun x => x.id = id) = some d) :
    exec (.mdepComplete cl id) s = machNext s
      (if (getSlot (getMatrix s.mach cl) d.slot).ready then deposit s.mach cl d else s.mach) := by
  show machNext s _ = machNext s _
  simp only [hd]

/-- Settles O39: each event goes by the one condition that its lemma names; the grant's is that no request goes before the chosen one. -/
theorem engineEvents : Obligations.EngineEvents := by
  refine ⟨fun s cl id c hc => ⟨fun words hrun => ?_, fun words hrun => ?_, fun t ht hle => ?_, fun t ht hlt => ?_, fun m c' hrun hend => ?_,
    fun m c' e ps last k w hrun hfault hstop hlocal hlive => ?_⟩, ?_⟩
  · rw [exec_copyStart hc, if_pos hrun]
  · rw [exec_copyStart hc, hrun]
    rfl
  · rw [exec_cpyatLaunch hc ht, if_pos hle]
  · rw [exec_cpyatLaunch hc ht, if_neg (Nat.not_le.mpr hlt)]
    rfl
  · exact exec_copyComplete hc hrun hend
  · rw [exec_copyFault hc hrun hfault, faultCopy_live hstop hlocal hlive]
    rfl
  intro s cl mx
  refine ⟨exec_mrtGrant_idle, fun howners hasked => ?_, rfl, fun c h hfind hche => ?_, fun hnone howned => ?_,
    fun id d hd => ⟨fun hready => ?_, fun hready => ?_⟩⟩
  · cases hbest : listBest mresBefore mx.mrt with
    | none => exact absurd (listBest_eq_none hbest) hasked
    | some r => exact ⟨r, listBest_mem hbest, listBest_mresBefore hbest, exec_mrtGrant_free howners hbest⟩
  · rw [exec_chainClose, closing_single hfind, List.foldl_cons, List.foldl_nil, hche]
    rfl
  · rw [exec_chainClose, closing_none hnone howned]
    rfl
  · rw [exec_mdepComplete hd, if_pos hready]
  · rw [exec_mdepComplete hd, if_neg (by simpa using hready)]
    rfl

end Sys2Proof.Machine
end

section
/-!
PROOF. The scalar operations on registers (R44, R114, R262, R264 to R266, R268).
-/

namespace Sys2Proof.Machine

/-! ### Values, as R262 and R264 give them -/

/-- An arithmetic shift by all bits but one leaves the sign in every bit. -/
theorem sshiftRight_last {w n : Nat} (a : BitVec w) (hn : w = n + 1) : a.sshiftRight n = if a.msb then BitVec.allOnes w else 0#w := by
  refine BitVec.eq_of_getLsbD_eq fun j hj => ?_
  have hsign : (a.sshiftRight n).getLsbD j = a.msb := by
    rw [BitVec.getLsbD_sshiftRight, BitVec.msb_eq_getLsbD_last]
    split
    · next h => simp [show j = 0 by omega, hn]
    · simp [hj]
  rw [hsign]
  cases a.msb <;> simp [hj]

theorem sra64_eq_sshiftRight (a b : DWord) : sra64 a b = a.sshiftRight (min b.toNat 63) := by
  by_cases h : b.toNat < 64
  · rw [sra64, if_pos h, Nat.min_eq_left (by omega)]
  · rw [sra64, if_neg h, Nat.min_eq_right (by omega), sshiftRight_last a rfl]
    rfl

theorem rem64_eq_tmod (a b : DWord) : rem64 a b = if b = 0#64 then a else BitVec.ofInt 64 (a.toInt.tmod b.toInt) := by
  rw [rem64, Int.tmod_def]
  rfl

theorem sel_swap (x a b : DWord) : (if x != 0 then a else b) = if x = 0#64 then b else a := by
  by_cases h : x = 0#64 <;> simp [h]

/-! ### The forms -/

theorem alu2_congr {f g : DWord → DWord → DWord} (sd sa sb : BitVec 6) (h : ∀ a b, f a b = g a b) :
    alu2 f sd sa sb = alu2 g sd sa sb := by
  rw [funext₂ h]

theorem scalarPairs_form {e} (he : e ∈ scalarPairs) (sd sa sb : BitVec 6) (s : State) :
    encodeC (e.1 sd sa sb) = some (packCR e.2.1 sd sa sb 0#3) ∧ (∀ f, e.1 sd sa sb ≠ .fwait f) ∧
    exec (e.1 sd sa sb) s = runOp s .c (e.1 sd sa sb) (alu2 e.2.2 sd sa sb) := by
  simp only [scalarPairs, List.mem_cons, List.not_mem_nil, or_false] at he
  rcases he with rfl | rfl | rfl | rfl | rfl | rfl | rfl | rfl | rfl | rfl | rfl | rfl | rfl | rfl | rfl <;>
    refine ⟨rfl, nofun, congrArg (runOp s .c _) (alu2_congr sd sa sb fun a b => ?_)⟩
  · rfl
  · rfl
  · rfl
  · rfl
  · rfl
  · rfl
  · rfl
  · rfl
  · rfl
  · rfl
  · exact sra64_eq_sshiftRight a b
  · rfl
  · rfl
  · exact rem64_eq_tmod a b
  · rfl

/-- s0 as a destination discards. -/
theorem sendS_zero (c : Ctx) (v : DWord) (mark : Bool) (l : Nat) (m : Mach) : c.sendS 0#6 v mark l m = m := rfl

/-! ### Reserved condition codes (R268) -/

theorem withCc_reserved {x : BitVec 3} (hx : x ∈ [6#3, 7#3]) (k : Cc → Decoded) : withCc x k = .error .fieldRsvd := by
  simp only [List.mem_cons, List.not_mem_nil, or_false] at hx
  rcases hx with rfl | rfl <;> rfl

theorem decodeC_cmp_reserved {x : BitVec 3} (hx : x ∈ [6#3, 7#3]) (sd sa sb : BitVec 6) :
    decodeC (packCR 0x27 sd sa sb x) = .error .fieldRsvd := by
  obtain ⟨hop, -, -, -, hcc⟩ := packCR_fields 0x27 sd sa sb x
  have hraw : rawC (packCR 0x27 sd sa sb x) = .error .fieldRsvd := by
    rw [rawC, hop]
    simp only [hcc]
    exact withCc_reserved hx _
  rw [decodeC, hraw, checked]

theorem decodeC_cmpi_reserved {x : BitVec 3} (hx : x ∈ [6#3, 7#3]) (sd sa imm : BitVec 6) :
    decodeC (packCK 0x28 sd sa x imm) = .error .fieldRsvd := by
  obtain ⟨hop, -, -, hcc, -⟩ := packCK_fields 0x28 sd sa x imm
  have hraw : rawC (packCK 0x28 sd sa x imm) = .error .fieldRsvd := by
    rw [rawC, hop]
    simp only [hcc]
    exact withCc_reserved hx _
  rw [decodeC, hraw, checked]

/-- Settles O17: each form is the mould of its operand count with the value function of R262, R265, R266 or R268. -/
theorem scalarResults : Obligations.ScalarResults := by
  intro s st sd sa sb cc c
  refine ⟨fun e he => ?_, by rw [relationCode_eq]; rfl, fun h hu => ?_, rfl, fun h hu => ?_, rfl, rfl, rfl,
    fun h hu => scalar_next h (a := actClz sd sa) nofun hu rfl, fun h hu => scalar_next h (a := actCtz sd sa) nofun hu rfl,
    fun h hu => scalar_next h (a := actPopc sd sa) nofun hu rfl, sendS_zero c,
    fun x hx => ⟨decodeC_cmp_reserved hx sd sa sb, decodeC_cmpi_reserved hx sd sa⟩⟩
  · obtain ⟨henc, hi, hx⟩ := scalarPairs_form he sd sa sb s
    exact ⟨henc, fun h hu => hx.trans (scalar_next h hi hu rfl), fun h => scalarTraps_of_trap (slot := .c) hx h hi rfl fun _ he => he⟩
  · rw [← ccHolds_eq_relates]
    exact scalar_next h (a := actCmp cc sd sa sb) nofun hu rfl
  · rw [← sel_swap]
    exact scalar_next h (a := actSel sd sa sb) nofun hu rfl

end Sys2Proof.Machine
end

section
/-!
PROOF. The branches, jumps and calls of the C slot (R41, R100, R270 to R276).
-/

namespace Sys2Proof.Machine

/-! ### Targets (R270, R271) -/

theorem imm_eq_wide {n : Nat} (c : Ctx) (i : BitVec n) : c.imm i = wide c i := by
  rw [Ctx.imm, wide]
  cases c.limm <;> rfl

/-- Outside a region every displacement is inside. -/
theorem inRegion_of_none {c : Ctx} (n : Int) (h : c.w.region = none) : inRegion c n := by
  intro r hr
  simp [h] at hr

theorem branchPlace_inside {c : Ctx} {n : Int} (h : inRegion c n) : branchPlace c n = some (placeFrom c n) := by
  cases hr : c.w.region with
  | none => simp [branchPlace, placeFrom, placePlus, hr]
  | some r =>
    obtain ⟨hlow, hhigh⟩ := h r hr
    simp [branchPlace, placeFrom, placePlus, hr, Int.not_lt.mpr hlow, hhigh]

theorem branchPlace_outside {c : Ctx} {n : Int} (h : ¬ inRegion c n) : branchPlace c n = none := by
  simp only [inRegion, not_forall] at h
  obtain ⟨r, hr, hout⟩ := h
  have : (c.q.place.off : Int) + n < 0 ∨ (r.len : Int) ≤ (c.q.place.off : Int) + n := by omega
  simp only [branchPlace, hr, Bool.or_eq_true, decide_eq_true_eq, this, if_true]

/-! ### Decisions in a gang (R41) -/

/-- A control decision either has its note or differs from the lead's. -/
theorem decide_eq (c : Ctx) (taken : Bool) (target : Nat) :
    match gangNote c taken target with
    | some note => c.decide taken target = (none, note)
    | none => (c.decide taken target).1 = some { code := TrapName.gangDiverge.code } := by
  unfold gangNote Ctx.decide Ctx.runningGang?
  cases (if c.w.trapped = .running then c.gang? else none) with
  | none => rfl
  | some p =>
    obtain ⟨g, x⟩ := p
    dsimp only
    by_cases hlead : c.w.gidx = 0
    · simp only [hlead, if_true]
    · simp only [hlead, if_false]
      by_cases hsame : x.decided[x.used.getD c.w.gidx 0]? = some (taken, target)
      · rw [if_pos hsame]
        simp only [hsame, bne_self_eq_false, exnIf_false]
      · rw [if_neg hsame]
        simp only [bne_iff_ne.mpr hsame, exnIf_true]

/-- An operation whose last check is its control decision, and whose effect follows the decision's note, does what R41 says. -/
theorem decides_of_action {s : State} {i : Instr} {st : Stage} {a : Act} {taken : Bool} {target : Nat} {fx : Mach → Mach}
    (h : AtIssue s .c i st) (hi : ∀ f, i ≠ .fwait f) (hx : exec i s = runOp s .c i a)
    (ha : a st.c = { trap := (st.c.decide taken target).1, fx := fun m => fx ((st.c.decide taken target).2 m) }) :
    decides s st i taken target fx := by
  have hd := decide_eq st.c taken target
  refine ⟨fun note hnote => ?_, fun hnote => ?_⟩
  · simp only [hnote] at hd
    rw [hd] at ha
    rw [hx, runOp_ready h hi (by rw [ha]; exact ⟨rfl, rfl, rfl⟩), ha]
  · simp only [hnote] at hd
    rw [hd] at ha
    exact hx.trans (runOp_traps_outsideV (slot := .c) h hi nofun (by rw [ha]) (by rw [ha]; rfl))

/-! ### Conditional branches (R271 to R273) -/

theorem usable_nil (c : Ctx) : c.usable [] none := ⟨nofun, nofun⟩

/-- What a branch does whose scalars may be used and whose target is in reach. -/
theorem branch_inside {c : Ctx} {srcs : List (BitVec 6)} {taken : Ctx → Bool} {disp : Ctx → Int} (hu : c.usable srcs none)
    (hin : inRegion c (disp c)) : branch srcs taken disp c =
      { trap := (c.decide (taken c) 0).1
        fx := fun m => plan c 2 (if taken c then .goto (placeFrom c (disp c)) else .fall) ((c.decide (taken c) 0).2 m) } := by
  simp only [branch, scalars_none hu, branchPlace_inside hin, planBranch_some, Option.isNone_some, Bool.false_eq_true, if_false,
    firstExn_none_cons, firstExn_one]

theorem branch_outside {c : Ctx} {srcs : List (BitVec 6)} (taken : Ctx → Bool) {disp : Ctx → Int} (hu : c.usable srcs none)
    (hout : ¬ inRegion c (disp c)) : (branch srcs taken disp c).trap = some { code := 0x0d } := by
  simp only [branch, scalars_none hu, branchPlace_outside hout]
  rfl

theorem brTaken_eq (inv : Bool) (v : DWord) : ((v != 0) == inv) = decide (inv = true ↔ v ≠ 0#64) := by
  rw [Bool.eq_iff_iff]
  cases inv <;> simp

/-- BRF is a branch that observes its flag where it finds it set. -/
theorem actBrf_eq (inv : Bool) (f : BitVec 4) (disp : BitVec 14) (c : Ctx) : actBrf inv f disp c =
    let a := branch [] (fun c => (getF c.w f.toNat).set != inv) (fun c => c.imm disp) c
    { a with fx := fun m => if (getF c.w f.toNat).set then updWarp (a.fx m) c.k (observe c.w [f.toNat]) else a.fx m } := by
  unfold actBrf
  dsimp only
  split <;> rfl

/-! ### Transfers to a register's address (R275) -/

theorem jumpTo_aligned {c : Ctx} {sa : BitVec 6} (after : Ctx → Mach → Mach) (hu : c.usable [sa] none) (ha : (c.sv sa).toNat % 16 = 0) :
    jumpTo sa after c =
      { trap := (c.decide true (c.sv sa).toNat).1
        fx := fun m => after c (plan c 2 (.goto { addr := (c.sv sa).toNat, off := 0 }) ((c.decide true (c.sv sa).toNat).2 m)) } := by
  simp only [jumpTo, scalars_none hu, ha, if_true, firstExn_none_cons, firstExn_one]

/-- Settles O19: each form is a branch, a plan without a check, or a transfer to a register, with the decision of R41 where it has one. -/
theorem branchPlans : Obligations.BranchPlans := by
  intro s st inv sa f d14 d21 c way
  refine ⟨fun h hu => ⟨fun hin => ?_, fun hout => ?_⟩, fun h => ⟨fun hin => ?_, fun hout => ?_⟩, fun h hr => ?_, fun h hr => ?_,
    fun h hu ha => ?_, fun h hu ha => ?_⟩
  · refine decides_of_action h nofun rfl (a := actBr inv sa d14) ?_
    rw [actBr, branch_inside hu (by rwa [imm_eq_wide]), brTaken_eq, imm_eq_wide]
  · exact runOp_traps_outsideV (slot := .c) h (a := actBr inv sa d14) nofun nofun rfl
      (branch_outside _ hu (by rwa [imm_eq_wide]))
  · refine decides_of_action h nofun rfl (a := actBrf inv f d14) ?_
    rw [actBrf_eq, branch_inside (usable_nil _) (by rwa [imm_eq_wide]), imm_eq_wide]
  · refine runOp_traps_outsideV (slot := .c) h (a := actBrf inv f d14) nofun nofun ?_ ?_
    · rw [actBrf_eq]; rfl
    · rw [actBrf_eq]
      dsimp only
      rw [branch_outside _ (usable_nil _) (by rwa [imm_eq_wide])]
  · refine plain_next h (a := actJmp d21) nofun ?_
    rw [actJmp, imm_eq_wide, branchPlace_inside (inRegion_of_none _ hr)]
    rfl
  · refine plain_next h (a := actCall d21) nofun ?_
    rw [actCall, imm_eq_wide, branchPlace_inside (inRegion_of_none _ hr)]
    rfl
  · exact decides_of_action h nofun rfl (a := actCallr sa) (jumpTo_aligned link hu ha)
  · exact decides_of_action h nofun rfl (a := actRet) (jumpTo_aligned (fun _ m => m) hu ha)

end Sys2Proof.Machine
end

section
/-!
PROOF. TRAP, ERET, BRK, TRMARK and NOP (R290 to R292, R357, R424).
-/

namespace Sys2Proof.Machine

/-- A stop of the C slot comes before every check, block and effect of its bundle (R424). -/
theorem runOp_stops {s : State} {i : Instr} {st : Stage} {a : Act} {x : Stop} (h : opStage s .c i = some st) (hi : ∀ f, i ≠ .fwait f)
    (hs : (a st.c).stop = some x) :
    runOp s .c i a = .next { s with mach := stopWarp s.dev s.mach st.c.k st.c.path st.c.plane x } := by
  obtain ⟨ho, -, -, hk, hpath, hplane, -⟩ := opStage_o h
  have hc := fun f => stageOps_c (cur := st.cur) (slot := .c) hi f
  rw [← ho] at hc
  rw [runOp_stage h, hk, hpath, hplane]
  unfold stageMach stageExam examOps
  simp [unfed_stop, hs]

/-- ERET in a handler whose frame may be read waits for its stores, then leaves. -/
theorem eretOp_readable {c : Ctx} {frame : Nat} {x : Hit} (hin : c.w.trapped = .handler frame)
    (hread : frameHit c.m c.k c.w .read = .ok x) :
    eretOp c = { block := causeIf (awaited c.w != 0) .fence, last := fun m => leaveAfter c.d m c.k } := by
  simp only [eretOp, hin, hread]

theorem eretOp_unreadable {c : Ctx} {frame : Nat} {e : XFault} (hin : c.w.trapped = .handler frame)
    (hread : frameHit c.m c.k c.w .read = .error e) :
    eretOp c = { trap := some { code := e.code, addr := frame, info := xinfo .read e.level } } := by
  simp only [eretOp, hin, hread]

/-- The way out of a trap for a warp that is there. -/
theorem leaveAfter_some {d : Dev} {m : Mach} {k : Nat} {w : Warp} (hw : getWarp? m k = some w) : leaveAfter d m k =
    if awaited w ≠ 0 then setWarp m k { w with ret := true }
    else match frameHit m k w .read with
      | .ok h => leaveTrap d m k h.key false
      | .error e => takeTrap m k { recordAt d m w 0 0 1 4 { code := e.code, addr := frameOf m w, info := xinfo .read e.level } with
          nested := true } [] false := by
  by_cases hstores : awaited w = 0
  · rw [if_neg (not_not.mpr hstores)]
    cases hframe : frameHit m k w .read <;> simp only [leaveAfter, hw, hstores, bne_self_eq_false, Bool.false_eq_true, if_false, hframe]
  · rw [if_pos hstores]
    simp only [leaveAfter, hw, bne_iff_ne.mpr hstores, if_true]

/-- Whether BRK stops: its context asks for it, the warp has not just stopped here, and it is no gang member but the lead. -/
theorem brkOp_stop (imm : BitVec 16) (c : Ctx) : (brkOp imm c).stop =
    if (ctxOf c.m c.w).elim false (dbgCtl · 4) = true ∧ c.q.skipbp = false ∧ (c.w.gang = none ∨ c.w.gidx = 0) then
      some { code := 1, value := imm.toNat } else none := by
  simp only [brkOp, Bool.and_eq_true, Bool.not_eq_true', Bool.or_eq_true, Option.isNone_iff_eq_none, decide_eq_true_eq, and_assoc]

theorem trmarkOp_off {imm : BitVec 16} {c : Ctx} (h : (ctxOf c.m c.w).elim false (dbgCtl · 6) = false) : trmarkOp imm c = {} := by
  simp only [trmarkOp, h, Bool.false_eq_true, if_false]
  rfl

theorem trmarkOp_on {imm : BitVec 16} {c : Ctx} (h : (ctxOf c.m c.w).elim false (dbgCtl · 6) = true) : trmarkOp imm c =
    { fx := fun m => traceWrite m c.w.ctx (traceOf c.w 1 0 c.path (nameWord c.w.seq c.plane c.cidx) imm.toNat c.d.gtc) } := by
  simp only [trmarkOp, h, if_true]

/-- Settles O26: ERET goes by its frame and its stores, BRK by whether it stops. -/
theorem trapAndDebugOps : Obligations.TrapAndDebugOps := by
  intro s st imm c
  refine ⟨fun h => plain_next h (a := actTrap imm) nofun rfl, fun frame x h hin hread hnone => ?_, fun frame x h hin hread hsome => ?_,
    fun m k w hw => leaveAfter_some hw, fun frame e h hin hread _ => ?_, fun h hno => ?_, fun x h hctx hask hskip hlead => ?_,
    fun h hoff => plain_next h (a := actTrmark imm) nofun (trmarkOp_off hoff),
    fun h hon => plain_next h (a := actTrmark imm) nofun (trmarkOp_on hon), fun h => plain_next h (a := actNop) nofun rfl⟩
  · refine plain_next h (a := actEret) nofun ?_
    rw [actEret, eretOp_readable hin hread, hnone]
    rfl
  · have ha : actEret st.c = { block := some .fence, last := fun m => leaveAfter st.c.d m st.c.k } := by
      rw [actEret, eretOp_readable hin hread, bne_iff_ne.mpr hsome]
      rfl
    refine (runOp_waits (slot := .c) h.1 (a := actEret) (w := .fence) nofun h.2.1 h.2.2 (by rw [ha]) (by rw [ha]) (by rw [ha])).trans ?_
    rw [ha]
    rfl
  · refine runOp_traps_outsideV (slot := .c) h (a := actEret) nofun nofun ?_ ?_ <;> rw [actEret, eretOp_unreadable hin hread]
  · have hstop : (brkOp imm c).stop = none := by
      rw [brkOp_stop, if_neg]
      rintro ⟨hask, hskip, hlead⟩
      rcases hno with hno | hno | ⟨hgang, hidx⟩
      · simp [hno] at hask
      · simp [hno] at hskip
      · simp [hidx, Option.isSome_iff_ne_none.mp hgang] at hlead
    exact runOp_ready h (a := actBrk imm) nofun ⟨hstop, rfl, rfl⟩
  · have hasks : (ctxOf c.m c.w).elim false (dbgCtl · 4) = true := by rw [hctx]; exact hask
    have hstop : (brkOp imm c).stop = some { code := 1, value := imm.toNat } := by rw [brkOp_stop, if_pos ⟨hasks, hskip, hlead⟩]
    exact runOp_stops h.1 (a := actBrk imm) nofun hstop

end Sys2Proof.Machine
end

section
/-!
PROOF. Writes of the control block, clamps, the heat store, sprint grants and ballast (R295, R402, R430 to R438, R449).
-/

namespace Sys2Proof.Machine

/-! ### Control-block registers (R402, R430) -/

/-- The register that a number in a record names. -/
def numberedReg : Nat → CtlReg
  | 1 => .pccCfg
  | 2 => .pccLim
  | 3 => .timeCtl
  | 4 => .tlbiCtl
  | 5 => .tlbiRng
  | n => .hlthGb (n - 6)

theorem numberedReg_regNumber (reg : CtlReg) : numberedReg (regNumber reg) = reg := by
  cases reg with
  | hlthGb die =>
    rw [regNumber, Nat.add_comm]
    rfl
  | _ => rfl

theorem regNumber_injective : Function.Injective regNumber := Function.LeftInverse.injective numberedReg_regNumber

theorem exec_registerWrite_valid {reg : CtlReg} {v : DWord} (h : writeOk reg v = true) (s : State) :
    exec (.registerWrite reg v) s = .next { s with dev := writeReg s.dev reg v } := by
  change execRegisterWrite reg v s = _
  simp only [execRegisterWrite, h, if_true]

theorem exec_registerWrite_invalid {reg : CtlReg} {v : DWord} (h : writeOk reg v = false)
    (hscope : ¬ (reg = .tlbiCtl ∧ bits v 62 61 = 3)) (s : State) : exec (.registerWrite reg v) s =
      machNext s (logHealth s.mach { healthOf 3 0 (regNumber reg) with gtc := s.dev.gtc }) := by
  change execRegisterWrite reg v s = _
  simp only [execRegisterWrite, h, Bool.false_eq_true, if_false, Bool.and_eq_true, decide_eq_true_eq, hscope, machNext]

/-- SCOPE 11 is no valid request. -/
theorem writeOk_scope11 {v : DWord} (h : bits v 62 61 = 3) : writeOk .tlbiCtl v = false := by
  simp [writeOk, h]

theorem exec_registerWrite_scope11 {v : DWord} (h : bits v 62 61 = 3) (s : State) :
    exec (.registerWrite .tlbiCtl v) s = .next { s with dev := { s.dev with traps := (0x2e, v) :: s.dev.traps } } := by
  change execRegisterWrite .tlbiCtl v s = _
  simp only [execRegisterWrite, writeOk_scope11 h, Bool.false_eq_true, if_false, h, decide_true, Bool.and_self, if_true]
  rfl

/-! ### Clamps (R433, R434) -/

theorem mem_clampTargets {m : Mach} {p : Pcc} {src : ClampSource} {c : Nat} : c ∈ clampTargets m p src ↔
    sourceHolds p src = true ∧ c < 512 ∧ sourceCovers c src = true ∧ (getCluster m c).present = true := by
  unfold clampTargets clusterNumbers
  split <;> simp [*]

theorem clampTargets_nodup (m : Mach) (p : Pcc) (src : ClampSource) : (clampTargets m p src).Nodup := by
  unfold clampTargets clusterNumbers
  split
  · exact List.nodup_range.filter _
  · exact List.nodup_nil

/-- One update of each of some clusters. -/
def updClusters (m : Mach) (cs : List Nat) (f : Cluster → Cluster) : Mach := cs.foldl (fun m c => updCluster m c f) m

theorem updClusters_same (m : Mach) (cs : List Nat) (f : Cluster → Cluster) :
    (updClusters m cs f).warps = m.warps ∧ (updClusters m cs f).mem = m.mem := by
  unfold updClusters
  induction cs generalizing m with
  | nil => exact ⟨rfl, rfl⟩
  | cons c cs ih => exact ih (updCluster m c f)

theorem getCluster_updClusters_other (m : Mach) {cs : List Nat} {c : Nat} (f : Cluster → Cluster) (h : c ∉ cs) :
    getCluster (updClusters m cs f) c = getCluster m c := by
  unfold updClusters
  induction cs generalizing m with
  | nil => rfl
  | cons d cs ih =>
    obtain ⟨hd, hcs⟩ := List.ne_and_not_mem_of_not_mem_cons h
    exact (ih (updCluster m d f) hcs).trans (getCluster_upd_other m f hd)

theorem getCluster_updClusters_mem {m : Mach} {cs : List Nat} {c : Nat} (f : Cluster → Cluster) (hwf : mapWf m.clusters = true)
    (hcs : cs.Nodup) (h : c ∈ cs) : getCluster (updClusters m cs f) c = f (getCluster m c) := by
  induction cs generalizing m with
  | nil => cases h
  | cons d cs ih =>
    obtain ⟨hd, hcs⟩ := List.nodup_cons.mp hcs
    rcases List.mem_cons.mp h with rfl | h
    · exact (getCluster_updClusters_other _ f hd).trans (getCluster_upd_self c f hwf)
    · have hne : c ≠ d := fun he => hd (he ▸ h)
      exact (ih (mapWf_setD d _ _ hwf) hcs h).trans (congrArg f (getCluster_upd_other m f hne))

theorem exec_clamp (src : ClampSource) (s : State) : ∃ t, exec (.clamp src) s = .next t ∧
    t.mach = updClusters s.mach (clampTargets s.mach s.dev.pcc src) (clampCluster s.mach.clock) := ⟨_, rfl, rfl⟩

theorem justClamped_iff (clock : Nat) (x : Cluster) :
    justClamped clock x = true ↔ ∃ at_, x.clampAt = some at_ ∧ clock < at_ + 1000 := by
  cases hx : x.clampAt <;> simp [justClamped, hx]

theorem clampCluster_sourceAt (clock : Nat) (x : Cluster) : (clampCluster clock x).sourceAt = some clock := by
  unfold clampCluster
  dsimp only
  split <;> rfl

theorem clampCluster_clp (clock : Nat) (x : Cluster) : (clampCluster clock x).clp =
    if justClamped clock x then x.clp else min 4 (2 * x.clp) := by
  have hjust : justClamped clock { x with sourceAt := some clock } = justClamped clock x := rfl
  simp only [clampCluster, hjust]
  split <;> rfl

/-- What UNCLAMP makes of its cluster, by whether a source of it holds. -/
def unclampCluster (clock : Nat) (held : Bool) (x : Cluster) : Cluster :=
  if !x.hold4 && 1 < x.clp && !held && x.sourceAt.elim true (fun t => t + 20000 ≤ clock) then
    { x with clp := x.clp / 2, sourceAt := if x.clp / 2 = 1 then none else some clock }
  else x

theorem exec_unclamp (c : Nat) (s : State) : exec (.unclamp c) s =
    machNext s (updCluster s.mach c (unclampCluster s.mach.clock (clampHeld s.dev.pcc c))) := rfl

theorem unclampCluster_kept {clock : Nat} {held : Bool} {x : Cluster}
    (h : x.hold4 = true ∨ x.clp ≤ 1 ∨ held = true ∨ ∃ at_, x.sourceAt = some at_ ∧ clock < at_ + 20000) :
    unclampCluster clock held x = x := by
  refine if_neg ?_
  rcases h with h | h | h | ⟨at_, h, hlt⟩
  · simp [h]
  · simp [Nat.not_lt.mpr h]
  · simp [h]
  · simp [h, Nat.not_le.mpr hlt]

theorem unclampCluster_halves {clock : Nat} {x : Cluster} (hfree : x.hold4 = false) (hclp : 1 < x.clp)
    (hquiet : ∀ at_, x.sourceAt = some at_ → at_ + 20000 ≤ clock) : (unclampCluster clock false x).clp = x.clp / 2 := by
  have hpast : (x.sourceAt.elim true fun t => decide (t + 20000 ≤ clock)) = true := by
    cases hx : x.sourceAt with
    | none => rfl
    | some at_ => simpa using hquiet at_ hx
  simp [unclampCluster, hfree, hclp, hpast]

/-! ### The heat store (R435 to R437) -/

theorem exec_heatStoreUpdate {s : State} {w : Nat} {rest : List Input} (hs : s.inputs = .power w :: rest) :
    ∃ t, exec .heatStoreUpdate s = .next t ∧ t.inputs = rest ∧ t.mach = s.mach ∧ t.dev.pcc = heatStep s.dev.pcc w := by
  change ∃ t, execHeatStoreUpdate s = _ ∧ _
  unfold execHeatStoreUpdate
  exact ⟨_, takeInput_some hs rfl, rfl, rfl, rfl⟩

theorem heatStep_rises {p : Pcc} {w : Nat} (h : min p.susw p.qc < w) :
    ((heatStep p w).e : Int) = min 1600000000000 ((p.e : Int) + (w - min p.susw p.qc : Int) * 1000) := by
  simp only [heatStep, h, if_true, refreeze, putStore, storeMax]
  omega

theorem heatStep_falls {p : Pcc} {w : Nat} (h : w ≤ min p.susw p.qc) (he : p.e ≤ 1600000000000) :
    ((heatStep p w).e : Int) = max 0 ((p.e : Int) - (p.qc - w : Int) * 1000) := by
  simp only [heatStep, Nat.not_lt.mpr h, if_false, refreeze, putStore, storeMax]
  omega

theorem exec_thermistorCorrection {s : State} {eth lid : Nat} {rest : List Input} (hs : s.inputs = .thermistor eth lid :: rest) :
    ∃ t, exec .thermistorCorrection s = .next t ∧ t.inputs = rest ∧ t.dev.pcc = putStore s.dev.pcc (corrected s.dev.pcc.e eth) ∧
      t.mach = if 100000000000 < max (s.dev.pcc.e - eth) (eth - s.dev.pcc.e) then
        logHealth s.mach { healthOf 3 1 (max (s.dev.pcc.e - eth) (eth - s.dev.pcc.e)) with gtc := s.dev.gtc } else s.mach := by
  change ∃ t, execThermistorCorrection s = _ ∧ _
  unfold execThermistorCorrection
  exact ⟨_, takeInput_some hs rfl, rfl, rfl, rfl⟩

/-- A correction of a store inside its capacity keeps it there. -/
theorem putStore_corrected {p : Pcc} {eth : Nat} (he : p.e ≤ 1600000000000) (heth : eth ≤ 1600000000000) :
    ((putStore p (corrected p.e eth)).e : Int) = p.e + max (-25000000000) (min 25000000000 ((eth : Int) - p.e)) := by
  simp only [putStore, corrected, storeMax]
  split <;> omega

/-- The distance of two energies, or of two times. -/
theorem max_sub_eq_natAbs (a b : Nat) : max (a - b) (b - a) = ((a : Int) - b).natAbs := by omega

/-! ### Sprint grants (R293, R438) -/

theorem listSum_map_mul (k : Nat) (l : List Nat) : listSum (l.map (k * ·)) = k * listSum l := by
  induction l with
  | nil => rfl
  | cons a l ih => rw [List.map_cons, listSum, listSum, ih, Nat.mul_add]

theorem committedEnergy_eq (m : Mach) :
    committedEnergy m = 4 * listSum ((mapVals m.teams).filterMap fun t => t.lease.map (·.left)) := by
  rw [committedEnergy, ← listSum_map_mul, List.map_filterMap]
  simp only [Option.map_map]
  rfl

theorem grantOf_refused {p : Pcc} {m : Mach} {r : SprintReq}
    (h : ((getTeam? m r.team).bind (·.lease)).isSome ∨ p.rfz = true) : grantOf p m r = 0 := by
  refine if_pos ?_
  rcases h with h | h <;> simp [h]

theorem grantOf_granted {p : Pcc} {m : Mach} {r : SprintReq} (hfree : (getTeam? m r.team).bind (·.lease) = none) (hrfz : p.rfz = false) :
    (grantOf p m r : Int) = max 0 (min (r.want : Int) (((1023 - p.melt) * 1562500000 - committedEnergy m : Int) / 4)) := by
  simp only [grantOf, hfree, hrfz, Option.isSome_none, Bool.or_false, decide_eq_true_eq]
  split <;> omega

theorem exec_sprintGrant_first {s : State} {r : SprintReq} {rest : List SprintReq} (hs : s.mach.sprints = r :: rest) :
    exec .sprintGrant s = machNext s (decideSprint s.dev.gtc s.mach r (grantOf s.dev.pcc s.mach r)) := by
  change execSprintGrant s = _
  simp only [execSprintGrant, onMach, hs, machNext]

theorem exec_sprintGrant_none {s : State} (hs : s.mach.sprints = []) : exec .sprintGrant s = .next s := by
  change execSprintGrant s = _
  simp only [execSprintGrant, onMach, hs]

/-! ### Ballast (R449) -/

/-- The µs in which ballast rises to its full power. -/
def riseTime (p : Pcc) : Nat := (1000 * p.bstep + p.ramp - 1) / p.ramp

theorem full_le_rise {p : Pcc} (h : 0 < p.ramp) : 1000 * p.bstep ≤ p.ramp * riseTime p := by
  have hdiv := Nat.div_add_mod (1000 * p.bstep + p.ramp - 1) p.ramp
  have hmod := Nat.mod_lt (1000 * p.bstep + p.ramp - 1) h
  unfold riseTime
  omega

section Launch

variable {p : Pcc} {launch noted : Nat} (hnoted : noted + riseTime p + p.sso ≤ launch)
include hnoted

/-- The ballast of a launch that was noted in time starts to rise so that it is full SSO before the launch. -/
theorem launchBallast_eq (t : Nat) : launchBallast p t (launch, noted) =
    min (1000 * p.bstep) (p.ramp * (min t launch - (launch - p.sso - riseTime p))) - p.ramp * (t - launch) := by
  have hstart : max noted (launch - p.sso - riseTime p) = launch - p.sso - riseTime p := by omega
  rw [← hstart]
  rfl

theorem launchBallast_risen {t : Nat} (hramp : 0 < p.ramp) (ht : launch - p.sso ≤ t) :
    launchBallast p t (launch, noted) = 1000 * p.bstep - p.ramp * (t - launch) := by
  have hlong : riseTime p ≤ min t launch - (launch - p.sso - riseTime p) := by omega
  rw [launchBallast_eq hnoted, Nat.min_eq_left ((full_le_rise hramp).trans (Nat.mul_le_mul_left _ hlong))]

theorem launchBallast_before {t : Nat} (ht : t + p.sso + riseTime p ≤ launch) : launchBallast p t (launch, noted) = 0 := by
  have hstart : min t launch - (launch - p.sso - riseTime p) = 0 := by omega
  rw [launchBallast_eq hnoted, hstart, Nat.mul_zero, Nat.min_zero, Nat.zero_sub]

theorem launchBallast_succ_le (t : Nat) : launchBallast p (t + 1) (launch, noted) ≤ launchBallast p t (launch, noted) + p.ramp := by
  have hbeat : min (t + 1) launch - (launch - p.sso - riseTime p) ≤ min t launch - (launch - p.sso - riseTime p) + 1 := by omega
  have hrise := Nat.mul_le_mul_left p.ramp hbeat
  have hfall : p.ramp * (t - launch) ≤ p.ramp * (t + 1 - launch) := Nat.mul_le_mul_left _ (by omega)
  rw [Nat.mul_succ] at hrise
  rw [launchBallast_eq hnoted, launchBallast_eq hnoted]
  omega

end Launch

/-- A list that grows where a check holds is itself with what joins it there. -/
theorem ite_append {α : Type} {b : Bool} {P : Prop} [Decidable P] (h : b = true ↔ P) (l new : List α) :
    (if b then l ++ new else l) = l ++ if P then new else [] := by
  by_cases hP : P
  · rw [if_pos (h.mpr hP), if_pos hP]
  · rw [if_neg (mt h.mp hP), if_neg hP, List.append_nil]

/-- The launches that ballast is for once BALLAST_PRE_RAMP has met a launch: those that are not past, and the new one where it counts. -/
theorem exec_ballastPreRamp (launch : DWord) (s : State) : ∃ t, exec (.ballastPreRamp launch) s = .next t ∧ t.mach = s.mach ∧
    t.dev.pcc.ballast = (let p := s.dev.pcc
      let b := p.ballast.filter fun x => s.dev.gtc ≤ x.1
      b ++ if p.balen = true ∧ p.bstep ≠ 0 ∧ (pendingLaunches s.mach).contains launch.toNat = true ∧ s.dev.gtc ≤ launch.toNat ∧
        (∀ x ∈ b, 10000 < ((x.1 : Int) - launch.toNat).natAbs) then [(launch.toNat, s.dev.gtc)] else []) := by
  refine ⟨_, rfl, rfl, ite_append ?_ _ _⟩
  simp only [Bool.and_eq_true, bne_iff_ne, decide_eq_true_eq, List.all_eq_true, max_sub_eq_natAbs, and_assoc]

theorem passBallast_falls {p : Pcc} (now ns : Nat) (h : p.balen = true) : p.shaped ≤ (passBallast p now ns).shaped + p.ramp * ns := by
  simp only [passBallast, h, if_true]
  omega

theorem senseLoad_holds {p : Pcc} (gtc : Nat) (amps : Nat × Nat) (load : Nat) (droops : List Nat) (h : p.balen = true) :
    1000 * p.load + p.shaped ≤ 1000 * load + (senseLoad p gtc amps load droops).shaped := by
  simp only [senseLoad, h, if_true]
  omega

/-- Settles O45: each event's outcome, and the arithmetic of its readings, is a lemma of its own. -/
theorem powerControl : Obligations.PowerControl := by
  intro s p gtc clock
  refine ⟨fun reg v h => exec_registerWrite_valid h s, fun reg v h hscope => exec_registerWrite_invalid h hscope s,
    fun v h => exec_registerWrite_scope11 h s, fun a b h => regNumber_injective h, fun src => ?_, fun c hc hpresent => ?_, fun c => ?_,
    fun w rest hs => ?_, fun eth lid rest hs he heth => ?_, fun r rest hs => exec_sprintGrant_first hs,
    fun r => ⟨grantOf_refused, fun hfree hrfz => ?_⟩,
    exec_sprintGrant_none, fun launch => exec_ballastPreRamp launch s, fun t launch noted hramp hnoted => ?_,
    fun ns => passBallast_falls (p := p) gtc ns,
    fun amps load droops h => ⟨senseLoad_holds gtc amps load droops h, rfl, rfl, rfl⟩⟩
  · obtain ⟨t, hx, hmach⟩ := exec_clamp src s
    obtain ⟨hwarps, hmem⟩ := updClusters_same s.mach (clampTargets s.mach p src) (clampCluster clock)
    refine ⟨t, hx, hmach ▸ hwarps, hmach ▸ hmem, fun c => ⟨fun hout _ => ?_, fun hin hwf => ?_⟩⟩
    · rw [hmach]
      exact getCluster_updClusters_other s.mach _ hout
    · rw [hmach, getCluster_updClusters_mem _ hwf (clampTargets_nodup ..) hin, clampCluster_clp]
      refine ⟨clampCluster_sourceAt .., ?_⟩
      simp only [← justClamped_iff]
      rfl
  · simp only [mem_clampTargets, hc, hpresent]
    refine ⟨fun die => ?_, fun cl => ?_, ?_, ?_⟩
    · simp [sourceHolds, sourceCovers, ofDie, and_comm, p]
    · simp [sourceHolds, sourceCovers, and_comm, p]
    · simp [sourceHolds, sourceCovers, p]
    · simp [sourceHolds, sourceCovers, p]
  · refine ⟨fun hkept => ⟨_, exec_unclamp c s, fun hwf => ?_⟩,
      fun hfree hclp hheld hquiet => ⟨_, exec_unclamp c s, fun hwf => ?_⟩⟩
    · exact (getCluster_upd_self c _ hwf).trans (unclampCluster_kept hkept)
    · rw [getCluster_upd_self c _ hwf, show clampHeld s.dev.pcc c = false from hheld]
      exact unclampCluster_halves hfree hclp hquiet
  · obtain ⟨t, hx, hrest, hmach, hpcc⟩ := exec_heatStoreUpdate hs
    refine ⟨t, hx, hrest, hmach, ?_⟩
    rw [hpcc]
    exact ⟨heatStep_rises, heatStep_falls, rfl, rfl⟩
  · obtain ⟨t, hx, hrest, hpcc, hmach⟩ := exec_thermistorCorrection hs
    refine ⟨t, hx, hrest, ?_, ?_⟩
    · rw [hpcc]
      exact putStore_corrected he heth
    · rw [hmach, Nat.max_comm, max_sub_eq_natAbs]
      split <;> rfl
  · rw [grantOf_granted hfree hrfz, committedEnergy_eq, Nat.cast_mul]
    rfl
  · refine ⟨fun ht hle => ?_, launchBallast_before hnoted, fun ht => ?_, launchBallast_succ_le hnoted t⟩
    · rw [launchBallast_risen hnoted hramp ht, Nat.sub_eq_zero_of_le hle, Nat.mul_zero, Nat.sub_zero]
    · exact launchBallast_risen hnoted hramp (by omega)

end Sys2Proof.Machine
end

section
/-!
PROOF. Events of tasks: posts, dispatch, completion and kill (R363, R382 to R389, R404, R420).
-/

namespace Sys2Proof.Machine

/-! ### Posts (R382, R383, R404) -/

section Posts

variable {s : State} {post : Nat} {p : PostReq} (hp : (readyPosts s.mach)[post]? = some p)

include hp

theorem exec_nodeCreate_faults {k : Nat} {o : MemOp} {e : Exn} (hfault : postFaults (postWalks s.dev.gtc s.mach p) p = some (k, o, e)) :
    exec (.nodeCreate post) s = machNext s (updWarp (postWalks s.dev.gtc s.mach p) k fun w => failOp w o 2 e) := by
  show execNodeCreate post s = _
  simp only [execNodeCreate, hp, hfault]
  rfl

/-- A post that meets no fault is decided, and closed with what was decided. -/
theorem exec_nodeCreate_decides {m : Mach} {status h : Nat} (hnone : postFaults (postWalks s.dev.gtc s.mach p) p = none)
    (hdecided : decidePost s.dev.gtc (postWalks s.dev.gtc s.mach p) p = (m, status, h)) :
    exec (.nodeCreate post) s =
      .next { s with dev := (closePost s.dev m p status h).1, mach := (closePost s.dev m p status h).2 } := by
  show execNodeCreate post s = _
  simp only [execNodeCreate, hp, hnone, hdecided]

end Posts

section Decisions

variable {gtc : Nat} {m m1 m2 : Mach} {p : PostReq} {c : Context} {key : Nat} {bs : List Byte} (hc : getCtx? m p.ctx = some c)
  (hpage : ensurePage m p.ctx (p.va + 0x38) .write = some (m1, key)) (hread : recordBytes gtc m1 p.ctx p.va = (m2, some bs))

include hc hpage hread

/-- A record that passes its checks becomes a node, whose handle the status doubleword gets with status 1. -/
theorem decidePost_creates (hpasses : refuseNode m2 c bs (nodeOfRecord bs p.ctx p.jseq) = none) :
    decidePost gtc m p =
      (let r := insertNode m2 c (nodeOfRecord bs p.ctx p.jseq) p.die
      (writeBytes r.1 key (leBytes 8 (BitVec.ofNat 64 (r.2 * 2 ^ 32 + 1))), 1, r.2)) := by
  simp only [decidePost, hc, hpage, hread, hpasses]

theorem decidePost_refuses {status : Nat} (hrefused : refuseNode m2 c bs (nodeOfRecord bs p.ctx p.jseq) = some status) :
    decidePost gtc m p = (writeBytes m2 key (leBytes 8 (BitVec.ofNat 64 (0 * 2 ^ 32 + status))), status, 0) := by
  simp only [decidePost, hc, hpage, hread, hrefused]

end Decisions

/-! ### Dispatch, completion and kill (R363, R385 to R389) -/

section Nodes

variable {s : State} {h : Nat} {n : Node} (hn : getNode? s.mach h = some n)

include hn

theorem exec_nodeDispatch_placed {cls : List Nat} {c : Context} {ps : List TeamPlace} {m : Mach} (hready : n.stage = .ready)
    (hunsaved : n.saved = none) (hc : getCtx? s.mach n.ctx = some c) (hfit : fitOn s.mach n cls = some ps)
    (hcls : clustersOk s.mach n cls = true) (hturn : turnOf s.mach n = true)
    (hplaced : dispatchNode s.dev.gtc s.mach c h n ps = some m) :
    exec (.nodeDispatch h cls) s = .next { s with mach := m, dev := setEntry s.dev n.jseq 2 0 h } := by
  show execNodeDispatch h cls s = _
  simp [execNodeDispatch, hn, hc, hfit, hready, hunsaved, hcls, hturn, hplaced]

/-- A node that is not ready, whose turn has not come or that does not fit stays as it is. -/
theorem exec_nodeDispatch_stays {cls : List Nat}
    (hnot : n.stage ≠ .ready ∨ turnOf s.mach n = false ∨ clustersOk s.mach n cls = false ∨ fitOn s.mach n cls = none) :
    exec (.nodeDispatch h cls) s = .next s := by
  show execNodeDispatch h cls s = _
  simp only [execNodeDispatch, hn]
  split
  · next hfit =>
    refine if_neg fun hall => ?_
    simp only [Bool.and_eq_true, decide_eq_true_eq] at hall
    obtain ⟨⟨⟨hready, -⟩, hcls⟩, hturn⟩ := hall
    simp [hready, hcls, hturn, hfit] at hnot
  · rfl

theorem exec_taskComplete : exec (.taskComplete h) s =
    .next (if taskOver s.mach h n then completeNode s h (n.status.getD 0) else s) := by
  show execTaskComplete h s = _
  simp only [execTaskComplete, hn]

/-- A dispatched task is cleared before it completes with the status of its kill; a node that never was has nothing to clear. -/
theorem exec_taskKill (status : BitVec 15) : exec (.taskKill h status) s =
    .next (completeNode (if n.dispatched then { s with mach := clearTask s.dev s.mach h } else s) h status.toNat) := by
  show Host.Outcome.next (killTask s h status.toNat) = _
  simp only [killTask, hn]
  split <;> rfl

end Nodes

theorem exec_taskComplete_unknown {s : State} {h : Nat} (hn : getNode? s.mach h = none) : exec (.taskComplete h) s = .next s := by
  show execTaskComplete h s = _
  simp only [execTaskComplete, hn]

theorem exec_taskKill_unknown {s : State} {h : Nat} (hn : getNode? s.mach h = none) (status : BitVec 15) :
    exec (.taskKill h status) s = .next s := by
  show Host.Outcome.next (killTask s h status.toNat) = _
  simp only [killTask, hn]

/-- Settles O40: a post goes by its decision, and each event on a node by the condition that its lemma names. -/
theorem taskLifecycle : Obligations.TaskLifecycle := by
  intro s
  refine ⟨fun post p c m1 key m2 bs hp hnone hc hpage hread => ⟨fun hpasses => ?_, fun st hrefused => ?_⟩,
    fun post p k o e hp hfault => exec_nodeCreate_faults hp hfault,
    fun h n hn => ⟨fun cls c ps m hready hunsaved hc hfit hcls hturn hplaced =>
        exec_nodeDispatch_placed hn hready hunsaved hc hfit hcls hturn hplaced,
      fun cls hnot => exec_nodeDispatch_stays hn hnot, fun hover => ?_, fun hnot => ?_, fun status hdispatched => ?_,
      fun status hnever => ?_⟩,
    fun h hn => ⟨exec_taskComplete_unknown hn, exec_taskKill_unknown hn⟩⟩
  · exact exec_nodeCreate_decides hp hnone (decidePost_creates hc hpage hread hpasses)
  · exact exec_nodeCreate_decides hp hnone (decidePost_refuses hc hpage hread hrefused)
  · rw [exec_taskComplete hn, if_pos hover]
  · rw [exec_taskComplete hn, hnot]
    rfl
  · rw [exec_taskKill hn, if_pos hdispatched]
  · rw [exec_taskKill hn, hnever]
    rfl

end Sys2Proof.Machine
end

section
/-!
PROOF. What Pumal does for running tasks (R350, R351, R394, R401, R402).
-/

namespace Sys2Proof.Machine

/-! ### Walks and first touches (R394, R401) -/

theorem exec_translationWalk (x : Miss) (s : State) : exec (.translationWalk x.die x.ctx x.page) s = machNext s
    (if s.mach.misses.contains x then finishWalk s.dev.gtc s.mach x.ctx x.page else s.mach) := rfl

section Touches

variable {s : State} {ctx : Nat} {va : DWord} {ks : List (Nat × Warp)}
  (hks : (s.mach.warps.filter fun x => waitsTouch ctx (va.toNat / 65536) x.2) = ks)

include hks

theorem exec_firstTouchService_idle (hnone : ks = []) : exec (.firstTouchService ctx va) s = .next s := by
  show execFirstTouchService ctx va s = _
  simp only [execFirstTouchService, hks, hnone, List.isEmpty_nil, if_true]

theorem exec_firstTouchService_served {m : Mach} (hsome : ks ≠ []) (hserved : serveTouch s.mach ctx va.toNat = some m) :
    exec (.firstTouchService ctx va) s = machNext s ((ks.map (·.1)).foldl (resumeFrozen s.dev) m) := by
  show execFirstTouchService ctx va s = _
  simp only [execFirstTouchService, hks, List.isEmpty_eq_false_iff.mpr hsome, Bool.false_eq_true, if_false, hserved]
  rfl

theorem exec_firstTouchService_refused (hsome : ks ≠ []) (hrefused : serveTouch s.mach ctx va.toNat = none) :
    exec (.firstTouchService ctx va) s = .next ((ks.map fun x => x.2.node).eraseDups.foldl (fun s h => killTask s h 0x140) s) := by
  show execFirstTouchService ctx va s = _
  simp only [execFirstTouchService, hks, List.isEmpty_eq_false_iff.mpr hsome, Bool.false_eq_true, if_false, hrefused]

end Touches

/-! ### Traps delivered to Pumal (R351, R352) -/

section Frozen

variable {s : State} {k : Nat} {w : Warp} {frame : Nat} {inHandler : Bool} {held : Option TrapRec} {r : TrapRec}
  (hw : getWarp? s.mach k = some w) (hfrozen : w.trapped = .pumal frame inHandler held) (hr : w.record = some r)

include hw hfrozen hr

theorem exec_pumalTrapService_leaves (hact : pumalAct r inHandler = .leave) : exec (.pumalTrapService k) s = .next s := by
  show execPumalTrapService k s = _
  simp only [execPumalTrapService, hw, hfrozen, hr, hact]

theorem exec_pumalTrapService_kills (hact : pumalAct r inHandler = .kill) :
    exec (.pumalTrapService k) s = .next (killTask s w.node (0x100 + r.code)) := by
  show execPumalTrapService k s = _
  simp only [execPumalTrapService, hw, hfrozen, hr, hact]

theorem exec_pumalTrapService_resumes (hact : pumalAct r inHandler = .resume) :
    exec (.pumalTrapService k) s = machNext s (resumeFrozen s.dev s.mach k) := by
  show execPumalTrapService k s = _
  simp only [execPumalTrapService, hw, hfrozen, hr, hact]
  rfl

theorem exec_pumalTrapService_serves {va : Nat} {m : Mach} (hact : pumalAct r inHandler = .touch va)
    (hserved : serveTouch s.mach w.ctx va = some m) : exec (.pumalTrapService k) s = machNext s (resumeFrozen s.dev m k) := by
  show execPumalTrapService k s = _
  simp only [execPumalTrapService, hw, hfrozen, hr, hact, hserved]
  rfl

end Frozen

theorem exec_pumalTrapService_unfrozen {s : State} {k : Nat} {w : Warp} (hw : getWarp? s.mach k = some w)
    (hnot : w.trapped = .running ∨ ∃ frame, w.trapped = .handler frame) : exec (.pumalTrapService k) s = .next s := by
  show execPumalTrapService k s = _
  rcases hnot with h | ⟨frame, h⟩ <;> simp only [execPumalTrapService, hw, h]

theorem pumalAct_leave {r : TrapRec} (hcode : r.code = 0x60) (inHandler : Bool) : pumalAct r inHandler = .leave := if_pos hcode

theorem pumalAct_kill {r : TrapRec} {inHandler : Bool} (hcode : r.code ≠ 0x60)
    (h : inHandler = true ∨ r.code ∉ [0x40, 0x61, 0x63]) : pumalAct r inHandler = .kill := by
  simp only [List.mem_cons, List.not_mem_nil, or_false, not_or] at h
  rcases h with h | ⟨htouch, htimer, hgrant⟩
  · simp [pumalAct, hcode, h]
  · simp [pumalAct, hcode, htouch, htimer, hgrant]

theorem pumalAct_resume {r : TrapRec} (hcode : r.code = 0x61 ∨ r.code = 0x63) : pumalAct r false = .resume := by
  rcases hcode with hcode | hcode <;> simp [pumalAct, hcode]

theorem pumalAct_touch {r : TrapRec} (hcode : r.code = 0x40) : pumalAct r false = .touch r.addr := by
  simp [pumalAct, hcode]

/-! ### Removing translations (R402) -/

theorem foldl_updCore_only (f : Core → Core) (l : List Nat) (m : Mach) :
    ∃ cores, l.foldl (fun m c => updCore m c f) m = { m with cores := cores } := by
  induction l generalizing m with
  | nil => exact ⟨m.cores, rfl⟩
  | cons c l ih => exact ih (updCore m c f)

theorem foldl_updCluster_only (f : Cluster → Cluster) (l : List Nat) (m : Mach) :
    ∃ clusters, l.foldl (fun m c => updCluster m c f) m = { m with clusters := clusters } := by
  induction l generalizing m with
  | nil => exact ⟨m.clusters, rfl⟩
  | cons c l ih => exact ih (updCluster m c f)

/-- What a request changes: the TLBs of the cores and of the clusters, and those of the dies, which lose the covered entries. -/
theorem dropTlbs_only (m : Mach) (q : TlbScope) : ∃ cores clusters, dropTlbs m q =
    { m with cores := cores, clusters := clusters, tlb0 := m.tlb0.filter fun e => !q.hits e, tlb1 := m.tlb1.filter fun e => !q.hits e } := by
  unfold dropTlbs
  dsimp only
  obtain ⟨cores, hcores⟩ := foldl_updCore_only (fun x => { x with tlb := x.tlb.filter fun e => !q.hits e }) (mapKeys m.cores) m
  rw [hcores]
  obtain ⟨clusters, hclusters⟩ := foldl_updCluster_only (fun x => { x with tlb := x.tlb.filter fun e => !q.hits e })
    (mapKeys m.clusters) { m with cores := cores }
  rw [hclusters]
  exact ⟨cores, clusters, rfl⟩

theorem mem_kept_iff {l : List TlbEntry} {q : TlbScope} {e : TlbEntry} : e ∈ l.filter (fun e => !q.hits e) ↔ e ∈ l ∧ q.hits e = false := by
  rw [List.mem_filter, Bool.not_eq_true']

/-- GO falls where nothing uses a covered translation any more, and the device stays as it is where something does. -/
theorem tlbi_dev (s : State) (q : TlbScope) : (tlbi s q).dev =
    if tlbBusy (tlbi s q).mach q then s.dev else { s.dev with tlbiCtl := s.dev.tlbiCtl &&& ~~~(2#64 ^ 63) } := by
  show ({ s.dev with tlbiCtl := if tlbBusy (dropTlbs s.mach q) q then _ else _ } : Dev) = if tlbBusy (dropTlbs s.mach q) q then _ else _
  split <;> rfl

theorem getLsbD_and_not_go (v : DWord) : (v &&& ~~~(2#64 ^ 63)).getLsbD 63 = false := by
  have hgo : (~~~(2#64 ^ 63)).getLsbD 63 = false := by decide +kernel
  rw [BitVec.getLsbD_and, hgo, Bool.and_false]

theorem exec_tlbiContext (ctx : Nat) (s : State) : exec (.tlbiContext ctx) s = .next (tlbi s { ctx := some ctx, range := none }) := rfl

theorem exec_tlbiRange (ctx base pages : Nat) (s : State) :
    exec (.tlbiRange ctx base pages) s = .next (tlbi s { ctx := some ctx, range := some (base, pages) }) := rfl

theorem exec_tlbiAll (s : State) : exec .tlbiAll s = .next (tlbi s { ctx := none, range := none }) := rfl

/-- Settles O43: each service goes by the one condition that its lemma names, and the three requests are one operation on the TLBs. -/
theorem pumalServices : Obligations.PumalServices := by
  intro s
  refine ⟨fun x hx => ?_, fun x hx => ?_, fun ctx va => ⟨fun m hsome hserved => exec_firstTouchService_served rfl hsome hserved,
      exec_firstTouchService_refused rfl, exec_firstTouchService_idle rfl⟩,
    fun k w frame inHandler held r hw hfrozen hr => ⟨fun hcode => ?_, fun hcode h => ?_, fun hin hcode => ?_, fun hin hcode m hserved => ?_⟩,
    fun k w hw hnot => exec_pumalTrapService_unfrozen hw hnot, fun q i hi hq => ?_⟩
  · rw [exec_translationWalk, if_pos hx]
  · rw [exec_translationWalk, hx]
    rfl
  · exact exec_pumalTrapService_leaves hw hfrozen hr (pumalAct_leave hcode inHandler)
  · exact exec_pumalTrapService_kills hw hfrozen hr (pumalAct_kill hcode h)
  · subst hin
    exact exec_pumalTrapService_resumes hw hfrozen hr (pumalAct_resume hcode)
  · subst hin
    exact exec_pumalTrapService_serves hw hfrozen hr (pumalAct_touch hcode) hserved
  · have hexec : exec i s = .next (tlbi s q) := by
      obtain ⟨ctx, range⟩ := q
      simp only [List.mem_cons, List.not_mem_nil, or_false] at hi
      rcases hi with rfl | rfl | rfl <;> obtain ⟨hctx, hrange⟩ := hq
      · obtain ⟨id, rfl⟩ := Option.isSome_iff_exists.mp hctx
        cases hrange
        exact exec_tlbiContext id s
      · obtain ⟨id, rfl⟩ := Option.isSome_iff_exists.mp hctx
        obtain ⟨⟨base, pages⟩, rfl⟩ := Option.isSome_iff_exists.mp hrange
        exact exec_tlbiRange id base pages s
      · cases hctx
        cases hrange
        exact exec_tlbiAll s
    obtain ⟨cores, clusters, honly⟩ := dropTlbs_only s.mach q
    have hmach : (tlbi s q).mach = _ := honly
    refine ⟨_, hexec, by rw [hmach], by rw [hmach], fun e => ?_, fun e => ?_, fun hidle => ?_, fun hbusy => ?_⟩
    · rw [hmach]
      exact mem_kept_iff
    · rw [hmach]
      exact mem_kept_iff
    · rw [tlbi_dev, hidle]
      exact getLsbD_and_not_go _
    · rw [tlbi_dev, if_pos hbusy]

end Sys2Proof.Machine
end

section
/-!
PROOF. A pre-emption decision about a task that the map of nodes lists twice (R362).
-/

namespace Sys2Proof.Machine

/-- A ready node that outranks a running task of no tokens and that has more teams than the package has clusters. -/
def unplaceable : Node := { trialNode with stage := .ready, tok := 1, clus := 513 }

/-- A machine whose map of nodes lists handle 1 twice: a running task with nothing left of its estimate, and a node whose estimate is 1. -/
def doubledTask : State := { State.reset with mach := { State.reset.mach with
  ctxs := [(1, trialContext)]
  nodes := [(1, trialNode), (1, { trialNode with stage := .waiting, est := 1 }), (2, unplaceable)] } }

/-- The stages of the nodes that a state lists. -/
def stagesIn (s : State) : List NodeStage := s.mach.nodes.map (·.2.stage)

/-- The drain's end goes by each entry's own estimate. -/
theorem doubledTask_drains : (answered (exec (.preemptionDecision 2) doubledTask)).map stagesIn =
    some [.draining 0, .draining 2, .ready] := by decide +kernel

/-- Refutes O42: its policy clause puts every entry of the task's handle to drain by the first entry's estimate, and PREEMPTION_DECISION counts each
entry's own. The two differ in a state whose map lists a handle twice, which one in canonical form (`mapWf`) does not; of the clauses only the
last asks for that form. -/
theorem not_savesAndRestores : ¬ Obligations.SavesAndRestores := by
  intro h
  obtain ⟨hdecides, -⟩ := h doubledTask 1 trialNode trialContext rfl rfl
  have hunplaced : placeable doubledTask.mach unplaceable = false := by decide +kernel
  have hturn : turnOf doubledTask.mach unplaceable = true := by decide +kernel
  obtain ⟨hacts, -⟩ := hdecides 2 unplaceable rfl rfl hunplaced hturn
  obtain ⟨t, hx, hpolicy⟩ := hacts (by decide) (by decide +kernel)
  have hdrain : t = _ := (if_pos (by decide +kernel)).mp hpolicy
  have hstages := doubledTask_drains
  rw [hx, hdrain] at hstages
  exact absurd hstages (by decide +kernel)

end Sys2Proof.Machine
end

section
/-!
PROOF. A trap whose frame is not mapped, where the map of error marks lists the word of a table entry twice (R112, R350, R401).
-/

namespace Sys2Proof.Machine

/-- A running warp whose frame lies at address 0 of a context with its tables at address 0. -/
def framelessWarp : Warp := freshWarp trialContext trialNode 1 512 0 0 0 0

/-- A machine with that warp and no byte of memory written, whose map of error marks lists word 0 twice: with a single error, then with a
double one. -/
def doubledMark : Mach := { State.reset.mach with
  ctxs := [(1, trialContext)], warps := [(16, framelessWarp)], ecc := [(0, .single), (0, .double)] }

/-- The table entry is not valid; the single error in its word can be corrected. -/
theorem doubledMark_frameHit : frameHit doubledMark 16 framelessWarp .write = .error { code := 0x40, level := 3 } := by decide +kernel

/-- The walk corrects the first mark, and the access that follows it meets the second. -/
theorem doubledMark_records : ((getWarp? (takeTrap doubledMark 16 (recordOfWords []) [] false) 16).bind (·.record)).map (·.code) = some 0x47 := by
  decide +kernel

/-- Refutes O51: where the frame cannot be written, the fault recorded is the one found after the walk for the frame has corrected the single
errors that it read (R112), and the statement gives the one found before. The two differ where the map of error marks lists a word twice, which
a map in canonical form (`mapWf`) does not; the statement does not ask for that form. -/
theorem not_trapEntry : ¬ Obligations.TrapEntry := by
  intro h
  have huntraced : ∀ c, ctxOf doubledMark framelessWarp = some c → dbgCtl c 7 = false := fun c hc => by
    cases hc
    rfl
  obtain ⟨-, hunwritten, -⟩ := h doubledMark 16 framelessWarp (recordOfWords []) [] false rfl huntraced
  obtain ⟨-, w, x, hw, -, -, hx, hcode, -⟩ := hunwritten rfl _ doubledMark_frameHit
  have hrecords := doubledMark_records
  rw [hw, Option.bind_some, hx, Option.map_some, hcode] at hrecords
  exact absurd hrecords (by decide)

end Sys2Proof.Machine
end

section
/-!
PROOF. Leaving a trap whose frame holds a stream that had issued in the trapping beat (R355, R357).
-/

namespace Sys2Proof.Machine

/-- The machine of a placed program, where the page of the warp's trap frame is mapped and every code goes to the handler. -/
def frameMapped : Mach :=
  let m := updCtx (placeBundle State.reset []).mach 1 fun c => { c with root := 0x40200000, route := ~~~0#128 }
  let m := updNode m 1 fun n => { n with tframe := 0x400000040000 }
  (mapPage m 1 0x400000040000).getD m

/-- A warp in a region of two planes, whose plane 0 has issued its bundle of offset 0 in this beat. -/
def midOffset : Warp :=
  let w := freshWarp trialContext trialNode 1 512 0 0 0 0
  { w with region := some { base := trialVa, p := 2, len := 2 }, pmlo := 1#64, p0 := { w.p0 with issued := [0] } }

/-- That warp in its handler, after a trap of its plane 1 at the same offset. -/
def trappedMidOffset : Mach :=
  takeTrap (setWarp frameMapped 16 midOffset) 16 { recordOfWords [] with code := TrapName.userTrap.code, plane := 1 } [] false

/-- The frame that the trap wrote, at key 0. -/
def midOffsetFrame : List Byte := openBytes trappedMidOffset 0 0x8000

theorem trappedMidOffset_inHandler : ((getWarp? trappedMidOffset 16).any fun w =>
    w.trapped = .handler 0x400000040000 && w.record.any (·.cls != 2) && w.shadow.isSome && w.flight.isEmpty && w.due.isEmpty &&
    w.ext.isEmpty && mapWf w.s) = true := by decide +kernel

theorem midOffsetFrame_streams : (framePending midOffsetFrame = [] ∧ (wordAt midOffsetFrame 0).getLsbD 63 = false) ∧
    ((frameStreams midOffsetFrame).filter fun x => x.2.1 = 0) = [(0, 0, 0), (1, 0, 1)] := by decide +kernel

/-- Plane 0's block names the offset of its next bundle, and the path stands again at the offset that plane 1 has still to issue. -/
theorem trappedMidOffset_resumes : ((getWarp? (leaveTrap State.reset.dev trappedMidOffset 16 0 false) 16).all fun w =>
    w.p0.place.off = 0 && bits (wordAt midOffsetFrame 0x100) 15 0 = 1) = true := by decide +kernel

/-- Refutes O52: its last clause takes a path's place from the first of the path's stream blocks. Where that stream is DONE its block names the
bundle after the one it has issued (R355), and the path takes its place from a stream that is still to issue. -/
theorem not_trapReturn : ¬ Obligations.TrapReturn := by
  intro h
  obtain ⟨w, hw, hin⟩ := (Option.any_eq_true _ _).mp trappedMidOffset_inHandler
  simp only [Bool.and_eq_true, decide_eq_true_eq, List.isEmpty_iff] at hin
  obtain ⟨⟨⟨⟨⟨⟨htrapped, hrecord⟩, hshadow⟩, hflight⟩, hdue⟩, hext⟩, hs⟩ := hin
  obtain ⟨r, hr, hcls⟩ := (Option.any_eq_true _ _).mp hrecord
  obtain ⟨sh, hsh⟩ := Option.isSome_iff_exists.mp hshadow
  obtain ⟨⟨hpend, hskip⟩, hstreams⟩ := midOffsetFrame_streams
  obtain ⟨w', hw', -, -, -, -, -, -, -, -, -, -, -, -, -, -, -, hpath⟩ :=
    h State.reset.dev trappedMidOffset 16 0 _ w r sh hw htrapped hr (bne_iff_ne.mp hcls) hsh hflight hdue hext hs hpend hskip
  obtain ⟨-, -, -, -, -, -, hoff⟩ := hpath 0 0 _ hstreams
  have hresumes := trappedMidOffset_resumes
  rw [hw', Option.all_some, Bool.and_eq_true, decide_eq_true_eq, decide_eq_true_eq] at hresumes
  obtain ⟨hplace, hblock⟩ := hresumes
  exact absurd (hplace.symm.trans (hoff.trans hblock)) (by decide)

end Sys2Proof.Machine
end

section
/-!
SUPPORT. The host's side of the device: what a frame that goes out and a host slot that changes leave alone (R372 to R376).
-/

namespace Sys2Proof.Machine

/-! ### Frames that go out (R376) -/

/-- A frame that is sent changes what has gone out alone. -/
theorem sendFrame_only (d : Dev) (slot session typ : Nat) (item : List Byte) :
    ∃ n out, sendFrame d slot session typ item = { d with outNo := n, out := out } := by
  unfold sendFrame
  split
  · exact ⟨d.outNo, d.out, rfl⟩
  · exact ⟨_, _, rfl⟩

theorem answer_only (q : Msg) (jseq state result : Nat) (extra : List Byte) (d : Dev) :
    ∃ n out, answer q jseq state result extra d = { d with outNo := n, out := out } := sendFrame_only d _ _ _ _

theorem refuse_only (q : Msg) (r : Refused) (d : Dev) : ∃ n out, refuse q r d = { d with outNo := n, out := out } := by
  cases r <;> exact answer_only ..

end Sys2Proof.Machine
end

section
/-!
PROOF. Finished entries of the journal (R377, R378). A step does one of three things to the ring: it leaves the head where it is and finished
entries as they are; it accepts one message, and then leaves both; or it boots.
-/

namespace Sys2Proof.Machine

/-! ### The two relations -/

/-- The ring has the same head and the boot is the same, and every finished entry is still there. -/
def KeepsJournal (d d' : Dev) : Prop :=
  d'.jhead = d.jhead ∧ d'.boots = d.boots ∧ ∀ e ∈ d.journal, e.finished → e ∈ d'.journal

/-- What a step may do to the ring: a finished entry stays, or a new one has taken its position, or the device has booted. -/
def RingRule (d d' : Dev) : Prop :=
  ∀ e ∈ d.journal, e.finished → 1 ≤ e.jseq →
    e ∈ d'.journal ∨ (d'.jhead = d.jhead + 1 ∧ e.jseq + journalSize = d'.jhead) ∨ d'.boots = d.boots + 1

theorem KeepsJournal.of_eq {d d' : Dev} (hjournal : d'.journal = d.journal) (hhead : d'.jhead = d.jhead) (hboots : d'.boots = d.boots) :
    KeepsJournal d d' := ⟨hhead, hboots, fun _ he _ => hjournal ▸ he⟩

@[refl] theorem KeepsJournal.refl (d : Dev) : KeepsJournal d d := .of_eq rfl rfl rfl

theorem KeepsJournal.trans {d d' d'' : Dev} (h : KeepsJournal d d') (h' : KeepsJournal d' d'') : KeepsJournal d d'' := by
  obtain ⟨hhead, hboots, hstay⟩ := h
  obtain ⟨hhead', hboots', hstay'⟩ := h'
  exact ⟨hhead'.trans hhead, hboots'.trans hboots, fun e he hf => hstay' e (hstay e he hf) hf⟩

theorem KeepsJournal.ringRule {d d' : Dev} (h : KeepsJournal d d') : RingRule d d' := fun e he hf _ => .inl (h.2.2 e he hf)

theorem ringRule_of_boots {d d' : Dev} (h : d'.boots = d.boots + 1) : RingRule d d' := fun _ _ _ _ => .inr (.inr h)

theorem RingRule.after {d d' d'' : Dev} (h : RingRule d' d'') (hk : KeepsJournal d d') : RingRule d d'' := by
  obtain ⟨hhead, hboots, hstay⟩ := hk
  intro e he hf hpos
  rw [← hhead, ← hboots]
  exact h e (hstay e he hf) hf hpos

theorem RingRule.then_keeps {d d' d'' : Dev} (h : RingRule d d') (hk : KeepsJournal d' d'') : RingRule d d'' := by
  obtain ⟨hhead, hboots, hstay⟩ := hk
  intro e he hf hpos
  rw [hhead, hboots]
  exact (h e he hf hpos).imp_left fun he' => hstay e he' hf

/-- A run of changes that each keep the journal keeps it. -/
theorem foldl_keepsJournal {α β : Type} (dev : β → Dev) (f : β → α → β) (h : ∀ b a, KeepsJournal (dev b) (dev (f b a))) (l : List α) (b : β) :
    KeepsJournal (dev b) (dev (l.foldl f b)) := by
  induction l generalizing b with
  | nil => exact .refl _
  | cons a l ih => exact (h b a).trans (ih (f b a))

/-! ### Changes of entries (R377, R378) -/

theorem setEntry_keepsJournal (d : Dev) (jseq state result handle : Nat) : KeepsJournal d (setEntry d jseq state result handle) :=
  ⟨rfl, rfl, fun _ he hf => setEntry_finished jseq state result handle he hf⟩

/-- A new entry takes its position: what stood `journalSize` entries before it goes. -/
theorem journalAdd_ringRule (d : Dev) (q : Msg) : RingRule d (journalAdd d q) := by
  intro e he hf hpos
  by_cases hold : e.jseq = d.jhead + 1 - journalSize
  · exact .inr (.inl ⟨rfl, show e.jseq + journalSize = d.jhead + 1 by omega⟩)
  · refine .inl (List.mem_append_left _ (List.mem_filter.mpr ⟨he, ?_⟩))
    simpa using hold

/-- A POST that is created gets its handle where its entry is still open. -/
theorem closePost_keepsJournal (d : Dev) (m : Mach) (p : PostReq) (status h : Nat) : KeepsJournal d (closePost d m p status h).1 := by
  unfold closePost
  dsimp only
  split
  · refine ⟨rfl, rfl, fun e he hf => List.mem_map.mpr ⟨e, he, ?_⟩⟩
    have hopen : ¬ e.state < 3 := Nat.not_lt.mpr hf
    simp [hopen]
  · exact setEntry_keepsJournal ..

/-! ### Changes beside the ring -/

theorem updHostSlot_keepsJournal (d : Dev) (n : Nat) (f : HostSlot → HostSlot) : KeepsJournal d (updHostSlot d n f) := .of_eq rfl rfl rfl

theorem sendFrame_keepsJournal (d : Dev) (slot session typ : Nat) (item : List Byte) :
    KeepsJournal d (sendFrame d slot session typ item) := by
  obtain ⟨n, out, h⟩ := sendFrame_only d slot session typ item
  rw [h]
  exact .of_eq rfl rfl rfl

theorem answer_keepsJournal (q : Msg) (jseq state result : Nat) (extra : List Byte) (d : Dev) :
    KeepsJournal d (answer q jseq state result extra d) := sendFrame_keepsJournal ..

theorem refuse_keepsJournal (q : Msg) (r : Refused) (d : Dev) : KeepsJournal d (refuse q r d) := by
  cases r <;> exact answer_keepsJournal ..

theorem updPcc_keepsJournal (d : Dev) (f : Pcc → Pcc) : KeepsJournal d (updPcc d f) := .of_eq rfl rfl rfl
theorem updPtp_keepsJournal (d : Dev) (f : Ptp → Ptp) : KeepsJournal d (updPtp d f) := .of_eq rfl rfl rfl
theorem updWear_keepsJournal (d : Dev) (f : Wear → Wear) : KeepsJournal d (updWear d f) := .of_eq rfl rfl rfl
theorem updToday_keepsJournal (d : Dev) (f : WearEntry → WearEntry) : KeepsJournal d (updToday d f) := .of_eq rfl rfl rfl

theorem tlbi_keepsJournal (s : State) (q : TlbScope) : KeepsJournal s.dev (tlbi s q).dev := by
  rw [tlbi_dev]
  split
  · exact .refl _
  · exact .of_eq rfl rfl rfl

theorem acceptFrame_keepsJournal (d : Dev) (f : Frame) : KeepsJournal d (acceptFrame d f) := by
  unfold acceptFrame
  split
  · exact .refl d
  · exact updHostSlot_keepsJournal ..

theorem sendMgmt_keepsJournal (d : Dev) (f : Frame) (items : List (List Byte)) : KeepsJournal d (sendMgmt d f items) := by
  unfold sendMgmt
  split
  · exact .refl d
  · exact .of_eq rfl rfl rfl

theorem chargeLive_keepsJournal (d : Dev) (m : Mach) (ctx : Option Nat) (parts : Nat) : KeepsJournal d (chargeLive d m ctx parts).1 := by
  unfold chargeLive
  split <;> exact .of_eq rfl rfl rfl

theorem chargeNode_keepsJournal (d : Dev) (m : Mach) (node parts : Nat) : KeepsJournal d (chargeNode d m node parts).1 := by
  unfold chargeNode
  split
  · exact .of_eq rfl rfl rfl
  · exact chargeLive_keepsJournal ..

theorem chargeSave_keepsJournal (d : Dev) (m : Mach) (node parts : Nat) : KeepsJournal d (chargeSave d m node parts).1 :=
  chargeLive_keepsJournal ..

theorem chargeSystem_keepsJournal (d : Dev) (parts : Nat) : KeepsJournal d (chargeSystem d parts) := .of_eq rfl rfl rfl

/-- A run of charges, each to the accounts of the device and of the machine. -/
theorem charges_keepsJournal {α : Type} {d : Dev} {f : Dev × Mach → α → Dev × Mach} (hf : ∀ x a, KeepsJournal x.1 (f x a).1)
    {x : Dev × Mach} (hx : KeepsJournal d x.1) (l : List α) : KeepsJournal d (l.foldl f x).1 :=
  hx.trans (foldl_keepsJournal Prod.fst f hf l x)

theorem writeReg_keepsJournal (d : Dev) (r : CtlReg) (v : DWord) : KeepsJournal d (writeReg d r v) := by
  cases r <;> exact .of_eq rfl rfl rfl

theorem noteMargin_keepsJournal (d : Dev) (m : Mach) (die : Nat) : KeepsJournal d (noteMargin d m die) := by
  unfold noteMargin
  split <;> exact .of_eq rfl rfl rfl

/-! ### Tasks that end, contexts that go (R363, R386, R375) -/

section Tasks

variable {d : Dev} {s : State} (hd : KeepsJournal d s.dev)

include hd

theorem settleEnergy_keepsJournal (h : Nat) : KeepsJournal d (settleEnergy s h).dev := by
  unfold settleEnergy
  split
  · exact hd
  · exact (hd.trans (d' := s.dev) (d'' := updPcc s.dev _) (.of_eq rfl rfl rfl)).trans (chargeNode_keepsJournal ..)

theorem freeNode_keepsJournal (h : Nat) (n : Node) (status : Nat) (ws : List Nat) : KeepsJournal d (freeNode s h n status ws).dev := by
  have hset : KeepsJournal d (oweNode (setEntry s.dev n.jseq (postState status) (if status = 0 then 0 else status) h) h n) :=
    hd.trans ((setEntry_keepsJournal s.dev ..).trans (.of_eq rfl rfl rfl))
  unfold freeNode
  dsimp only
  split
  · exact hset
  · exact hset.trans (.of_eq rfl rfl rfl)

theorem completeNode_keepsJournal (h status : Nat) : KeepsJournal d (completeNode s h status).dev := by
  have hsettled := settleEnergy_keepsJournal hd h
  unfold completeNode
  dsimp only
  split
  · exact hsettled
  · split
    · exact hsettled
    · split <;> exact freeNode_keepsJournal (by exact hsettled) ..

theorem killTask_keepsJournal (h status : Nat) : KeepsJournal d (killTask s h status).dev := by
  unfold killTask
  split
  · exact hd
  · split <;> exact completeNode_keepsJournal (by exact hd) ..

theorem killTasks_keepsJournal (status : Nat) (l : List Nat) : KeepsJournal d (l.foldl (fun s h => killTask s h status) s).dev :=
  hd.trans (foldl_keepsJournal State.dev (fun s h => killTask s h status) (fun _ h => killTask_keepsJournal (.refl _) h status) l s)

theorem finishEntry_keepsJournal (jseq state result : Nat) : KeepsJournal d (finishEntry s jseq state result).dev :=
  hd.trans ((setEntry_keepsJournal s.dev jseq 2 0 0).trans (setEntry_keepsJournal (setEntry s.dev jseq 2 0 0) jseq state result 0))

theorem finishEntries_keepsJournal (state result : Nat) (l : List PostReq) :
    KeepsJournal d (l.foldl (fun s p => finishEntry s p.jseq state result) s).dev :=
  hd.trans (foldl_keepsJournal State.dev (fun s p => finishEntry s p.jseq state result)
    (fun _ p => finishEntry_keepsJournal (.refl _) p.jseq state result) l s)

theorem destroyContext_keepsJournal (id : Nat) : KeepsJournal d (destroyContext s id).dev := by
  unfold destroyContext
  split
  · exact hd
  · dsimp only
    refine KeepsJournal.trans (d' := State.dev (List.foldl _ _ _)) ?_ (.of_eq rfl rfl rfl)
    exact killTasks_keepsJournal (finishEntries_keepsJournal hd 4 0x200 _) 0x200 _

theorem actOn_keepsJournal (h : Nat) (by' : Option (Nat × Nat)) (x : Decision) : KeepsJournal d (actOn s h by' x).dev := by
  cases x with
  | drain | checkpoint | wait => exact hd
  | kill => exact killTask_keepsJournal (by exact hd) h 0x200

theorem abandonSave_keepsJournal (h : Nat) (n : Node) : KeepsJournal d (abandonSave s h n).dev :=
  completeNode_keepsJournal (by exact hd) h 0x300

theorem orphanFault_keepsJournal (cluster id : Nat) (c : Copy) (r : TrapRec) : KeepsJournal d (orphanFault s cluster id c r).dev := by
  unfold orphanFault
  dsimp only
  split
  · exact hd
  · split
    · exact killTask_keepsJournal (by exact hd) ..
    · exact hd

theorem faultCopy_keepsJournal (cluster id : Nat) (c : Copy) : KeepsJournal d (faultCopy s cluster id c).dev := by
  unfold faultCopy
  dsimp only
  split
  · split
    · exact hd
    · exact orphanFault_keepsJournal (by exact hd) ..
  · exact hd
  · exact hd

theorem failRemoteCopy_keepsJournal (cluster id : Nat) (c : Copy) : KeepsJournal d (failRemoteCopy s cluster id c).dev := by
  unfold failRemoteCopy
  split
  · exact faultCopy_keepsJournal (s := { s with mach := { s.mach with ports := [] } }) hd cluster id c
  · exact hd

end Tasks

/-! ### Boots and the loss of the supply (R381, R440 to R444) -/

theorem lastGasp_keepsJournal (d : Dev) (k : Marker) : KeepsJournal d (lastGasp d k) :=
  (foldl_keepsJournal id (fun d (x : Nat × HostSlot) => sendFrame d x.1 x.2.session 3 (markerBytes k))
    (fun d x => sendFrame_keepsJournal d x.1 x.2.session 3 (markerBytes k)) _ d).trans (.of_eq rfl rfl rfl)

theorem resumeJournal_keepsJournal (d : Dev) (kept : List Nat) : KeepsJournal d (resumeJournal d kept) := by
  refine foldl_keepsJournal id _ (fun d e => ?_) d.journal d
  dsimp only [id]
  split
  · exact setEntry_keepsJournal ..
  · exact .refl d

theorem coldBoot_boots (s : State) (b : BootInput) : (coldBoot s b).dev.boots = s.dev.boots + 1 := rfl

theorem resumeJournal_boots (d : Dev) (kept : List Nat) : (resumeJournal d kept).boots = d.boots :=
  (resumeJournal_keepsJournal d kept).2.1

theorem resumeBoot_boots (s : State) (b : BootInput) : (resumeBoot s b).dev.boots = s.dev.boots + 1 := by
  unfold resumeBoot
  simp only [updWear, resumeJournal_boots]
  rfl

/-- An entry of the wear record changes that record, and takes the errors counted since the last. -/
theorem appendWear_only (s : State) (day : Nat) :
    ∃ w e, w.entries = (s.dev.wear.entries ++ [e]).drop (s.dev.wear.entries.length - 4095) ∧
      appendWear s day = { s with dev := { s.dev with wear := w }, mach := { s.mach with errs := (0, 0) } } := by
  unfold appendWear
  dsimp only
  generalize s.dev.wear.entries.length - 4095 = n
  exact ⟨_, _, rfl, rfl⟩

theorem KeepsJournal.set_supply {d d' : Dev} (h : KeepsJournal d d') (x : Supply) : KeepsJournal d { d' with supply := x } :=
  h.trans (.of_eq rfl rfl rfl)

theorem appendWear_keepsJournal {d : Dev} {s : State} (hd : KeepsJournal d s.dev) (day : Nat) : KeepsJournal d (appendWear s day).dev := by
  obtain ⟨w, e, -, h⟩ := appendWear_only s day
  rw [h]
  exact hd.trans (.of_eq rfl rfl rfl)

/-! ### Messages (R374 to R376) -/

theorem receive_keepsJournal (s : State) (f : Frame) (rest : List Input) : KeepsJournal s.dev (receive s f rest).dev := by
  unfold receive
  split
  · exact (acceptFrame_keepsJournal s.dev f).trans (.of_eq rfl rfl rfl)
  · exact .refl _

theorem plainMessage_keepsJournal {clear : List (Nat × Nat)} {needsCtx sessionless : Bool} {check : State → Msg → Option Refused}
    {act : State → Msg → State} (hact : ∀ s q, KeepsJournal s.dev (act s q).dev) (s : State) (q : Msg) :
    KeepsJournal s.dev (plainMessage clear needsCtx sessionless check act s q).dev := by
  unfold plainMessage
  split
  · exact .refl _
  · dsimp only
    split
    · exact refuse_keepsJournal ..
    · exact hact s q

/-- A journalled message is refused, or accepted with one new entry, after which its effect keeps the ring. -/
theorem journalled_ringRule {clear : List (Nat × Nat)} {needsCtx : Bool} {check : State → Msg → Option Refused}
    {act : State → Msg → Nat → State} (hact : ∀ s q j, KeepsJournal s.dev (act s q j).dev) (s : State) (q : Msg) :
    RingRule s.dev (journalled clear needsCtx check act s q).dev := by
  unfold journalled
  dsimp only
  split
  · exact (refuse_keepsJournal ..).ringRule
  · exact ((journalAdd_ringRule s.dev q).then_keeps (answer_keepsJournal ..)).then_keeps (hact _ q _)

theorem sendBulk_keepsJournal (q : Msg) (fuel off : Nat) (bs : List Byte) (d : Dev) : KeepsJournal d (sendBulk q fuel off bs d) := by
  induction fuel generalizing off bs d with
  | zero => exact .refl d
  | succ fuel ih =>
    unfold sendBulk
    split
    · exact .refl d
    · exact (sendFrame_keepsJournal ..).trans (ih ..)

theorem openMessage_keepsJournal (s : State) (q : Msg) : KeepsJournal s.dev (openMessage s q).dev :=
  plainMessage_keepsJournal (fun _ q => (answer_keepsJournal q ..).trans (.of_eq rfl rfl rfl)) s q

theorem closeMessage_keepsJournal (s : State) (q : Msg) : KeepsJournal s.dev (closeMessage s q).dev :=
  plainMessage_keepsJournal (fun _ q => (answer_keepsJournal q ..).trans (updHostSlot_keepsJournal ..)) s q

theorem jreadMessage_keepsJournal (s : State) (q : Msg) : KeepsJournal s.dev (jreadMessage s q).dev :=
  plainMessage_keepsJournal (fun _ q => answer_keepsJournal q ..) s q

theorem readMessage_keepsJournal (s : State) (q : Msg) : KeepsJournal s.dev (readMessage s q).dev := by
  refine plainMessage_keepsJournal (fun s q => ?_) s q
  dsimp only
  split
  · exact (sendBulk_keepsJournal ..).trans (answer_keepsJournal ..)
  · exact refuse_keepsJournal ..

theorem queryMessage_keepsJournal (s : State) (q : Msg) : KeepsJournal s.dev (queryMessage s q).dev :=
  plainMessage_keepsJournal (fun _ q => answer_keepsJournal q ..) s q

theorem ctxCreateMessage_ringRule (s : State) (q : Msg) : RingRule s.dev (ctxCreateMessage s q).dev :=
  journalled_ringRule (fun s _ _ => by exact finishEntry_keepsJournal (.refl s.dev) ..) s q

theorem ctxDestroyMessage_ringRule (s : State) (q : Msg) : RingRule s.dev (ctxDestroyMessage s q).dev :=
  journalled_ringRule (fun s q _ => finishEntry_keepsJournal (destroyContext_keepsJournal (.refl s.dev) q.ctx) ..) s q

theorem windowMessage_ringRule (s : State) (q : Msg) : RingRule s.dev (windowMessage s q).dev := by
  refine journalled_ringRule (fun s q j => ?_) s q
  exact finishEntry_keepsJournal (by exact updHostSlot_keepsJournal s.dev ..) ..

theorem commitMessage_ringRule (s : State) (q : Msg) : RingRule s.dev (commitMessage s q).dev := by
  refine journalled_ringRule (fun s q j => ?_) s q
  dsimp only
  split
  · exact .refl _
  · exact finishEntry_keepsJournal (by exact updHostSlot_keepsJournal s.dev ..) ..

theorem postMessage_ringRule (s : State) (q : Msg) : RingRule s.dev (postMessage s q).dev :=
  journalled_ringRule (fun s _ _ => by exact .refl s.dev) s q

theorem evsetMsg_ringRule (s : State) (q : Msg) : RingRule s.dev (evsetMsg s q).dev :=
  journalled_ringRule (fun s _ _ => by exact finishEntry_keepsJournal (.refl s.dev) ..) s q

theorem evclrMsg_ringRule (s : State) (q : Msg) : RingRule s.dev (evclrMsg s q).dev :=
  journalled_ringRule (fun s _ _ => by exact finishEntry_keepsJournal (.refl s.dev) ..) s q

theorem killMessage_ringRule (s : State) (q : Msg) : RingRule s.dev (killMessage s q).dev :=
  journalled_ringRule (fun s _ _ => finishEntry_keepsJournal (killTask_keepsJournal (.refl s.dev) ..) ..) s q

/-! ### Outcomes -/

/-- Where an outcome is a next state, its device follows the rule of the ring. -/
def FollowsRing (d : Dev) (o : Host.Outcome State Fault Refusal) : Prop := ∀ t, o = .next t → RingRule d t.dev

theorem followsRing_next {d : Dev} {t : State} (h : RingRule d t.dev) : FollowsRing d (.next t) := by
  rintro _ ⟨⟩
  exact h

theorem followsRing_keeps {d : Dev} {t : State} (h : KeepsJournal d t.dev) : FollowsRing d (.next t) := followsRing_next h.ringRule

theorem followsRing_same {d : Dev} {t : State} (h : t.dev = d) : FollowsRing d (.next t) := followsRing_keeps (h ▸ .refl _)

theorem followsRing_ite {d : Dev} {c : Prop} [Decidable c] {a b : Host.Outcome State Fault Refusal} (ha : FollowsRing d a)
    (hb : FollowsRing d b) : FollowsRing d (if c then a else b) := by
  split
  · exact ha
  · exact hb

theorem onDev_followsRing (s : State) {f : Dev → Dev} (hf : ∀ d, KeepsJournal d (f d)) : FollowsRing s.dev (onDev s f) :=
  followsRing_keeps (hf s.dev)

theorem takeInput_followsRing {α : Type} {s : State} {pick : Input → Option α} {f : State → α → State}
    (hf : ∀ rest a, RingRule s.dev (f { s with inputs := rest } a).dev) : FollowsRing s.dev (takeInput s pick f) := by
  obtain h | ⟨_, rest, a, -, -, h⟩ := takeInput_cases s pick f
  · exact h ▸ followsRing_same rfl
  · exact h ▸ followsRing_next (hf rest a)

theorem onMessage_followsRing {want : Frame → Nat → Bool} {act : State → Msg → State} (hact : ∀ s q, RingRule s.dev (act s q).dev)
    (s : State) : FollowsRing s.dev (onMessage want act s) := by
  unfold onMessage
  extract_lets s1
  have hs1 : KeepsJournal s.dev s1.dev := by
    dsimp only [s1]
    split
    · split
      · exact receive_keepsJournal ..
      · exact .refl _
    · exact .refl _
  split
  · next f k more _ =>
    refine followsRing_ite (followsRing_next ?_) (followsRing_keeps hs1)
    dsimp only
    have hs2 : KeepsJournal s.dev { s1.dev with mailbox := more } := hs1.trans (.of_eq rfl rfl rfl)
    split
    · exact (hact { s1 with dev := { s1.dev with mailbox := more } } _).after hs2
    · exact hs2.ringRule
  · exact followsRing_keeps hs1

theorem onKind_followsRing {kind : Nat} {act : State → Msg → State} (hact : ∀ s q, RingRule s.dev (act s q).dev) (s : State) :
    FollowsRing s.dev (onKind kind act s) := onMessage_followsRing hact s

theorem runOp_followsRing {s : State} {slot : Slot} {i : Instr} {a : Act} : FollowsRing s.dev (runOp s slot i a) := by
  unfold runOp
  split
  · rintro _ ⟨⟩
  · exact followsRing_same rfl

theorem execUnassignedOpcode_followsRing (s : State) (slot : Slot) (op : BitVec 8) : FollowsRing s.dev (execUnassignedOpcode slot op s) := by
  unfold execUnassignedOpcode
  dsimp only
  split
  · rintro _ ⟨⟩
  · exact followsRing_same rfl

/-! ### Events -/

section Events

variable (s : State)

theorem execNodeCreate_followsRing (post : Nat) : FollowsRing s.dev (execNodeCreate post s) := by
  unfold execNodeCreate
  split
  · exact followsRing_same rfl
  · dsimp only
    split
    · exact followsRing_same rfl
    · exact followsRing_keeps (closePost_keepsJournal s.dev ..)

theorem execNodeDispatch_followsRing (node : Nat) (clusters : List Nat) : FollowsRing s.dev (execNodeDispatch node clusters s) := by
  unfold execNodeDispatch
  dsimp only
  split
  · exact followsRing_same rfl
  · split
    · refine followsRing_ite (followsRing_keeps ?_) (followsRing_same rfl)
      cases dispatchNode s.dev.gtc s.mach _ node _ _ with
      | none => exact .refl _
      | some m => exact setEntry_keepsJournal ..
    · exact followsRing_same rfl

theorem execTaskComplete_followsRing (node : Nat) : FollowsRing s.dev (execTaskComplete node s) := by
  unfold execTaskComplete
  split
  · exact followsRing_same rfl
  · refine followsRing_keeps ?_
    split
    · exact completeNode_keepsJournal (.refl _) ..
    · exact .refl _

theorem execPreemptionDecision_followsRing (node : Nat) : FollowsRing s.dev (execPreemptionDecision node s) := by
  unfold execPreemptionDecision
  dsimp only
  split
  · exact followsRing_same rfl
  · refine followsRing_ite ?_ (followsRing_same rfl)
    split
    · exact followsRing_same rfl
    · split
      · exact followsRing_keeps (actOn_keepsJournal (.refl _) ..)
      · exact followsRing_same rfl

theorem execDrainRedecide_followsRing (node : Nat) : FollowsRing s.dev (execDrainRedecide node s) := by
  unfold execDrainRedecide
  dsimp only
  split
  · exact followsRing_same rfl
  · refine followsRing_ite ?_ (followsRing_same rfl)
    split
    · exact followsRing_keeps (actOn_keepsJournal (.refl _) ..)
    · exact followsRing_same rfl

theorem execSaveDeadline_followsRing (node : Nat) : FollowsRing s.dev (execSaveDeadline node s) := by
  unfold execSaveDeadline
  split
  · exact followsRing_same rfl
  · split
    · refine followsRing_keeps ?_
      split
      · exact abandonSave_keepsJournal (.refl _) ..
      · exact .refl _
    · exact followsRing_same rfl

theorem execTaskRestore_followsRing (node : Nat) (clusters : List Nat) : FollowsRing s.dev (execTaskRestore node clusters s) := by
  unfold execTaskRestore
  dsimp only
  split
  · exact followsRing_same rfl
  · next n _ =>
    split
    · next v c ps _ _ _ =>
      obtain ⟨m, ok⟩ := sealOk s.dev.gtc s.mach c n v
      refine followsRing_ite (followsRing_keeps ?_) (followsRing_same rfl)
      dsimp only
      split
      · exact .refl _
      · exact abandonSave_keepsJournal (s := { s with mach := m }) (.refl _) node n
    · exact followsRing_same rfl

theorem execFirstTouchService_followsRing (ctx : Nat) (va : DWord) : FollowsRing s.dev (execFirstTouchService ctx va s) := by
  unfold execFirstTouchService
  refine followsRing_ite (followsRing_same rfl) ?_
  split
  · exact followsRing_same rfl
  · exact followsRing_keeps (killTasks_keepsJournal (.refl _) 0x140 _)

theorem execPumalTrapService_followsRing (warp : Nat) : FollowsRing s.dev (execPumalTrapService warp s) := by
  have killed (h status : Nat) : FollowsRing s.dev (.next (killTask s h status)) := followsRing_keeps (killTask_keepsJournal (.refl _) h status)
  unfold execPumalTrapService
  split
  · exact followsRing_same rfl
  · split
    · dsimp only
      split
      · exact followsRing_same rfl
      · exact followsRing_same rfl
      · split
        · exact followsRing_same rfl
        · exact killed _ _
      · exact killed _ _
    · exact followsRing_same rfl

theorem execCopyFault_followsRing (cluster id : Nat) : FollowsRing s.dev (execCopyFault cluster id s) := by
  unfold execCopyFault
  split
  · exact followsRing_same rfl
  · split
    · exact followsRing_keeps (orphanFault_keepsJournal (.refl _) ..)
    · refine followsRing_keeps ?_
      split
      · exact faultCopy_keepsJournal (.refl _) ..
      · exact .refl _

theorem execRemoteFail_followsRing (warp op : Nat) : FollowsRing s.dev (execRemoteFail warp op s) := by
  unfold execRemoteFail
  split
  · exact followsRing_same rfl
  · refine followsRing_keeps ?_
    cases copyAt? s.mach (clusterOf warp) op with
    | none => exact .refl _
    | some c => exact failRemoteCopy_keepsJournal (.refl _) ..

theorem execRegisterWrite_followsRing (reg : CtlReg) (v : DWord) : FollowsRing s.dev (execRegisterWrite reg v s) := by
  refine followsRing_keeps ?_
  split
  · exact writeReg_keepsJournal ..
  · split <;> exact .of_eq rfl rfl rfl

theorem execGbStep_followsRing (die : Nat) : FollowsRing s.dev (execGbStep die s) := by
  unfold execGbStep
  split
  · exact followsRing_same rfl
  · refine followsRing_ite (followsRing_same rfl) (followsRing_ite (followsRing_ite (followsRing_same rfl) ?_) ?_)
    · exact followsRing_keeps (.of_eq rfl rfl rfl)
    · exact followsRing_ite (followsRing_keeps (.of_eq rfl rfl rfl)) (followsRing_same rfl)

theorem takeBulk_keepsJournal (f : Frame) : KeepsJournal s.dev (takeBulk s f).dev := by
  unfold takeBulk
  dsimp only
  split
  · exact .refl _
  · exact (acceptFrame_keepsJournal ..).trans (updHostSlot_keepsJournal ..)
  · exact acceptFrame_keepsJournal ..

theorem execBulkWrite_followsRing : FollowsRing s.dev (execBulkWrite s) := by
  unfold execBulkWrite
  split
  · refine followsRing_ite (followsRing_keeps ?_) (followsRing_same rfl)
    split
    · exact takeBulk_keepsJournal { s with inputs := _ } _
    · exact .refl _
  · exact followsRing_same rfl

theorem takeMgmt_keepsJournal (f : Frame) : KeepsJournal s.dev (takeMgmt s f).dev := by
  unfold takeMgmt
  split
  · refine (acceptFrame_keepsJournal s.dev f).trans ?_
    refine foldl_keepsJournal State.dev _ (fun s k => ?_) (List.range f.count.toNat) { s with dev := acceptFrame s.dev f }
    dsimp only
    split
    · exact .refl _
    · exact sendMgmt_keepsJournal ..
  · exact .refl _

theorem execWearDailyAppend_followsRing : FollowsRing s.dev (execWearDailyAppend s) := by
  unfold execWearDailyAppend
  obtain ⟨w, e, -, h⟩ := appendWear_only s (s.dev.wear.headDay + 1)
  rw [h]
  exact followsRing_ite (followsRing_keeps (.of_eq rfl rfl rfl)) (followsRing_same rfl)

theorem execSupplyLossWarning_followsRing : FollowsRing s.dev (execSupplyLossWarning s) := by
  unfold execSupplyLossWarning
  refine followsRing_ite (followsRing_same rfl) (followsRing_keeps ?_)
  refine KeepsJournal.set_supply (appendWear_keepsJournal ?_ _) .off
  exact KeepsJournal.trans (d' := { s.dev with marker := some _ }) (.of_eq rfl rfl rfl) (lastGasp_keepsJournal ..)

theorem execShutdown_followsRing : FollowsRing s.dev (execShutdown s) := by
  unfold execShutdown
  obtain ⟨w, e, -, h⟩ := appendWear_only { s with mach := goDark s.mach, cur := none } s.dev.wear.headDay
  rw [h]
  exact followsRing_ite (followsRing_same rfl) (followsRing_keeps (.of_eq rfl rfl rfl))

theorem execDeviceReset_followsRing : FollowsRing s.dev (execDeviceReset s) := by
  refine takeInput_followsRing fun rest b => ?_
  split
  · exact KeepsJournal.ringRule (.of_eq rfl rfl rfl)
  · exact ringRule_of_boots (coldBoot_boots ..)

theorem execSupplyReturn_followsRing : FollowsRing s.dev (execSupplyReturn s) := by
  refine followsRing_ite (followsRing_same rfl) (takeInput_followsRing fun rest b => ?_)
  split
  · exact KeepsJournal.ringRule (.of_eq rfl rfl rfl)
  · split
    · exact ringRule_of_boots (resumeBoot_boots ..)
    · exact ringRule_of_boots (coldBoot_boots ..)

theorem execEnergyEstimate_followsRing : FollowsRing s.dev (execEnergyEstimate s) := by
  refine takeInput_followsRing fun rest x => KeepsJournal.ringRule ?_
  obtain ⟨cls, tasks, saves, system, ballast⟩ := x
  dsimp only
  refine (charges_keepsJournal (fun x t => ?_) (charges_keepsJournal (fun x t => ?_) ?_ tasks) saves).trans (chargeSystem_keepsJournal ..)
  · exact chargeSave_keepsJournal ..
  · exact chargeNode_keepsJournal ..
  · exact .of_eq rfl rfl rfl

theorem execEnergyScale_followsRing : FollowsRing s.dev (execEnergyScale s) := by
  refine takeInput_followsRing fun rest e => KeepsJournal.ringRule ?_
  dsimp only
  refine charges_keepsJournal (fun x t => ?_) ?_ _
  · exact chargeNode_keepsJournal ..
  · exact .of_eq rfl rfl rfl

theorem execPtpDelayResp_followsRing : FollowsRing s.dev (execPtpDelayResp s) := by
  refine takeInput_followsRing fun rest x => KeepsJournal.ringRule ?_
  obtain ⟨src, seqId, domain, t4⟩ := x
  dsimp only
  split <;> exact .of_eq rfl rfl rfl

theorem execOtherTraffic_followsRing : FollowsRing s.dev (execOtherTraffic s) := by
  refine followsRing_keeps ?_
  exact .of_eq rfl rfl rfl

theorem execHeatStoreUpdate_followsRing : FollowsRing s.dev (execHeatStoreUpdate s) := by
  refine takeInput_followsRing fun rest w => KeepsJournal.ringRule ?_
  exact KeepsJournal.trans (d' := { s.dev with pcc := _ }) (.of_eq rfl rfl rfl) (updToday_keepsJournal ..)

theorem execThermistorCorrection_followsRing : FollowsRing s.dev (execThermistorCorrection s) := by
  refine takeInput_followsRing fun rest x => KeepsJournal.ringRule ?_
  exact (updPcc_keepsJournal s.dev _).trans (updToday_keepsJournal ..)

theorem execMonitorRead_followsRing : FollowsRing s.dev (execMonitorRead s) := by
  refine takeInput_followsRing fun rest x => KeepsJournal.ringRule ?_
  dsimp only
  exact (noteMargin_keepsJournal s.dev _ 0).trans (noteMargin_keepsJournal _ _ 1)

theorem execHostSecretInstall_followsRing : FollowsRing s.dev (execHostSecretInstall s) := by
  refine takeInput_followsRing fun rest x => KeepsJournal.ringRule ?_
  dsimp only
  split
  · exact updHostSlot_keepsJournal ..
  · exact .refl _

end Events

/-! ### Every meaning, every move, every step -/

theorem elapse_keepsJournal (s : State) (ns : Nat) : KeepsJournal s.dev (elapse s ns).dev := by
  unfold elapse passDev
  dsimp only
  split <;> exact .of_eq rfl rfl rfl

theorem exec_followsRing (i : Instr) {s : State} {d : Dev} (hd : s.dev = d) : FollowsRing d (exec i s) := by
  subst hd
  cases i with
  | vadd | vsub | vmul | vmulhi | vmin | vmax | vminu | vmaxu | vand | vor | vxor | vandn | vshl | vshr | vsra | vclz | vpopc
    | vsel | vmov | vmovi | viota | vfadd | vfsub | vfmul | vfma | vfms | vfmin | vfmax | vfabs | vfneg | vfdiv | vfsqrt |
    vfexp2 | vflog2 | vfrnd | vcvt | vpkh | vupkh | vbpackM7 | vbpackM4 | vbpackM2 | vbunpk | vcmpEq | vcmpNe | vcmpLt |
    vcmpLe | vcmpLtu | vcmpLeu | vfcmpEq | vfcmpNe | vfcmpLt | vfcmpLe | vfcmpUn | vfkey | vrng | vshfl | vrotl | vredadd |
    vredfadd | vredmax | vscan | vfscan | vmatch | vplane =>
    exact runOp_followsRing
  | ldv | stv | ldg | stg | lds | ldsAcq | sts | stsRel | spld | spst | splds | spsts | tld | atomvAdd | atomvAnd | atomvOr |
    atomvXor | atomvMin | atomvMax | atomvMinu | atomvMaxu | atomsAdd | atomsAnd | atomsOr | atomsXor | atomsMin | atomsMax |
    atomsMinu | atomsMaxu | casv | cass | daccv | daccs | flush | fence | pref | vspill | vfill =>
    exact runOp_followsRing
  | cpy | cpyin | cpyout | cpyr | cpym | cpyat | cpyz | tdef | tfree | tstat | mres | mrel | chb | mstep | mstepG | che | cheG
    | mpop | mdep | gang | ungang | xsv | xvs | qbind | qunbind | qstat | barr | tpost | evset | limm =>
    exact runOp_followsRing
  | add | addi | sub | mul | mulhi | mulhu | div | divu | rem | remu | and | andi | or | ori | xor | xori | shl | shli | shr |
    shri | sra | srai | clz | ctz | popc | sel | movi | movhi | cmp | cmpi | br | brf | jmp | call | callr | ret | brd | join
    | bprep | bgo | penter | pexit | fwait | fclr | setx | crd | cwr | trap | eret | brk | trmark | sprint | sprel | rgrow |
    rshrink | timer | yield | endWarp | crdEnergyLo | cwrWtimer | cwrGdead | nop =>
    exact runOp_followsRing
  | unassignedOpcode slot op => exact execUnassignedOpcode_followsRing s slot op
  | warpSelect | blockEnd | gangRendezvous | loadComplete | storeAck | atomicComplete | copyStart | cpyatLaunch | copyComplete
    | mrtGrant | matrixReadBeat | chainClose | mdepComplete | barrierPhaseComplete | translationWalk | trapDelivery |
    asyncFaultDelivery | preempt | contextSave | warpTimer | deadline | leaseExpired | watchdog | growRelease | growDeadlock |
    ualinkPortFail | debugCont | debugDump | debugStop | stallSample | unclamp | contextSwitchIn | sprintGrant | frameBoundary |
    flushEpisodeApply =>
    exact followsRing_same rfl
  | gbHourlyFall => unfold exec; exact onDev_followsRing s fun d => updWear_keepsJournal d _
  | ptpHoldover | ptpDelayReq => unfold exec; exact onDev_followsRing s fun d => updPtp_keepsJournal d _
  | ballastPreRamp => unfold exec; exact onDev_followsRing s fun d => updPcc_keepsJournal d _
  | clamp => exact followsRing_keeps (updToday_keepsJournal ..)
  | tlbiContext | tlbiRange | tlbiAll => exact followsRing_keeps (tlbi_keepsJournal s _)
  | otherTraffic => exact execOtherTraffic_followsRing s
  | heatStoreUpdate => exact execHeatStoreUpdate_followsRing s
  | thermistorCorrection => exact execThermistorCorrection_followsRing s
  | coolantChange => unfold exec; exact takeInput_followsRing fun _ _ => (updPcc_keepsJournal s.dev _).ringRule
  | ptpSync | ptpFollowUp | ptpAnnounce => unfold exec; exact takeInput_followsRing fun _ _ => (updPtp_keepsJournal s.dev _).ringRule
  | patrolScrub | incomingRemoteAccess | registerUncorrectableError =>
    unfold exec
    exact takeInput_followsRing fun _ _ => (KeepsJournal.refl s.dev).ringRule
  | hostSecretInstall => exact execHostSecretInstall_followsRing s
  | monitorRead =>
    exact execMonitorRead_followsRing s
  | readHealthLog | readWearRecord =>
    unfold exec
    exact takeInput_followsRing fun rest f => (takeMgmt_keepsJournal { s with inputs := rest } f).ringRule
  | energyEstimate => exact execEnergyEstimate_followsRing s
  | energyScale => exact execEnergyScale_followsRing s
  | ptpDelayResp => exact execPtpDelayResp_followsRing s
  | deviceReset => exact execDeviceReset_followsRing s
  | openSession => unfold exec; exact onKind_followsRing (fun s q => (openMessage_keepsJournal s q).ringRule) s
  | closeSession => unfold exec; exact onKind_followsRing (fun s q => (closeMessage_keepsJournal s q).ringRule) s
  | jread => unfold exec; exact onKind_followsRing (fun s q => (jreadMessage_keepsJournal s q).ringRule) s
  | read => unfold exec; exact onKind_followsRing (fun s q => (readMessage_keepsJournal s q).ringRule) s
  | query => unfold exec; exact onKind_followsRing (fun s q => (queryMessage_keepsJournal s q).ringRule) s
  | unlistedMessageKind => unfold exec; exact onMessage_followsRing (fun s q => (refuse_keepsJournal q .badKind s.dev).ringRule) s
  | ctxCreate => unfold exec; exact onKind_followsRing ctxCreateMessage_ringRule s
  | ctxDestroy => unfold exec; exact onKind_followsRing ctxDestroyMessage_ringRule s
  | window => unfold exec; exact onKind_followsRing windowMessage_ringRule s
  | commit => unfold exec; exact onKind_followsRing commitMessage_ringRule s
  | post => unfold exec; exact onKind_followsRing postMessage_ringRule s
  | evsetMessage => unfold exec; exact onKind_followsRing evsetMsg_ringRule s
  | evclr => unfold exec; exact onKind_followsRing evclrMsg_ringRule s
  | kill => unfold exec; exact onKind_followsRing killMessage_ringRule s
  | taskKill node status => exact followsRing_keeps (killTask_keepsJournal (.refl _) node status.toNat)
  | registerWrite reg v => exact execRegisterWrite_followsRing s reg v
  | copyFault cluster id => exact execCopyFault_followsRing s cluster id
  | nodeCreate post => exact execNodeCreate_followsRing s post
  | nodeDispatch node clusters => exact execNodeDispatch_followsRing s node clusters
  | preemptionDecision node => exact execPreemptionDecision_followsRing s node
  | drainRedecide node => exact execDrainRedecide_followsRing s node
  | taskComplete node => exact execTaskComplete_followsRing s node
  | pumalTrapService warp => exact execPumalTrapService_followsRing s warp
  | firstTouchService ctx va => exact execFirstTouchService_followsRing s ctx va
  | saveDeadline node => exact execSaveDeadline_followsRing s node
  | taskRestore node clusters => exact execTaskRestore_followsRing s node clusters
  | remoteFail warp op => exact execRemoteFail_followsRing s warp op
  | gbStep die => exact execGbStep_followsRing s die
  | bulkWrite => exact execBulkWrite_followsRing s
  | supplyLossWarning => exact execSupplyLossWarning_followsRing s
  | supplyReturn => exact execSupplyReturn_followsRing s
  | wearDailyAppend => exact execWearDailyAppend_followsRing s
  | shutdown => exact execShutdown_followsRing s

theorem stepWarp_followsRing {s : State} {d : Dev} (hd : s.dev = d) (k : Nat) : FollowsRing d (stepWarp s k) := by
  unfold stepWarp
  dsimp only
  refine followsRing_ite (followsRing_same hd) ?_
  split
  · exact exec_followsRing _ (by exact hd)
  · exact followsRing_same hd

theorem stepCore_followsRing {s : State} {d : Dev} (hd : s.dev = d) (core : Nat) : FollowsRing d (stepCore s core) := by
  unfold stepCore
  dsimp only
  refine followsRing_ite (followsRing_same hd) ?_
  split
  · exact stepWarp_followsRing (by exact hd) _
  · exact followsRing_same hd

theorem makeMove_followsRing {s : State} {d : Dev} (hd : s.dev = d) (v : Move) : FollowsRing d (makeMove s v) := by
  subst hd
  cases v with
  | event i => exact followsRing_ite (exec_followsRing i rfl) (followsRing_same rfl)
  | elapse ns => exact followsRing_keeps (elapse_keepsJournal s ns)
  | sense amps load droops => exact followsRing_keeps (updPcc_keepsJournal ..)
  | strike e => exact followsRing_same rfl
  | issue core => exact followsRing_ite (stepCore_followsRing rfl core) (followsRing_same rfl)

theorem ownStep_followsRing (s : State) : FollowsRing s.dev (ownStep s) := by
  unfold ownStep
  refine followsRing_ite (followsRing_same rfl) ?_
  split
  · exact exec_followsRing _ rfl
  · split
    · exact stepCore_followsRing (by rfl) _
    · exact followsRing_keeps (elapse_keepsJournal s 16)

/-- Settles O59: a move and the machine's own step both follow the rule of the ring, which is the statement read off one step. -/
theorem finishedEntriesStay : Obligations.FinishedEntriesStay := by
  intro s t e he hf hpos hstep
  have hrule : FollowsRing s.dev (step s) := by
    unfold step
    split
    · exact makeMove_followsRing (by rfl) _
    · exact ownStep_followsRing s
  exact hrule t hstep e he hf hpos

end Sys2Proof.Machine
end

section
/-!
SUPPORT. The message at the head of the mailbox, and the ways in which it is answered (R374 to R377).
-/

namespace Sys2Proof.Machine

/-! ### The message that stands at the head (R374) -/

section Standing

variable {s s1 : State} {q : Msg} {kind : Nat} (h : standing s s1 q kind)

include h

theorem standing_kind : q.frame.typ = 0 ∧ q.kind = kind := by
  obtain ⟨-, -, -, -, htyp, hkind, -, -⟩ := h
  exact ⟨htyp, hkind⟩

/-- The state without the message differs in the mailbox alone. -/
theorem standing_only : ∃ more, s1 = { s with dev := { s.dev with mailbox := more } } := by
  obtain ⟨-, more, -, -, -, -, hs1, -⟩ := h
  exact ⟨more, hs1⟩

theorem standing_mach : s1.mach = s.mach := by
  obtain ⟨more, rfl⟩ := standing_only h
  rfl

theorem standing_gtc : s1.dev.gtc = s.dev.gtc := by
  obtain ⟨more, rfl⟩ := standing_only h
  rfl

theorem standing_slots : s1.dev.slots = s.dev.slots := by
  obtain ⟨more, rfl⟩ := standing_only h
  rfl

theorem standing_getHostSlot (n : Nat) : getHostSlot s1.dev n = getHostSlot s.dev n := by
  unfold getHostSlot
  rw [standing_slots h]

theorem onMessage_standing {want : Frame → Nat → Bool} (hwant : want q.frame q.kind = true) (act : State → Msg → State) :
    onMessage want act s = .next (act s1 q) := by
  obtain ⟨k, more, hbox, hitem, -, -, rfl, hlive⟩ := h
  have hq : ({ frame := q.frame, item := itemAt q.frame k } : Msg) = q := by rw [← hitem]
  have hw : want q.frame (kindOf (itemAt q.frame k)) = true := hitem ▸ hwant
  unfold onMessage
  simp only [hbox]
  rw [if_pos hw, if_pos hlive, hq]

theorem onKind_standing (act : State → Msg → State) : onKind kind act s = .next (act s1 q) := by
  obtain ⟨htyp, hkind⟩ := standing_kind h
  exact onMessage_standing h (by simp [htyp, hkind]) act

end Standing

/-- The context that a kind names is there, and a kind that names none has CTX 0. -/
theorem ctx_checked {needsCtx : Bool} {s : State} {q : Msg} 
    (h : (if needsCtx then (msgCtx? s q).isSome else decide (q.ctx = 0)) = true) :
    (needsCtx && (msgCtx? s q).isNone) = false ∧ (!needsCtx && q.ctx != 0) = false := by
  cases needsCtx <;> simpa using h

/-! ### Journalled messages (R376, R377) -/

section Journalled

variable {clear : List (Nat × Nat)} {needsCtx : Bool} {check : State → Msg → Option Refused} {act : State → Msg → Nat → State}
  {s : State} {q : Msg}

/-- A message that passes its checks has its entry written and answered; then comes its effect. -/
theorem journalled_accepted (hok : admissible s q clear needsCtx) (hcheck : check s q = none) :
    journalled clear needsCtx check act s q = act (acceptedState s q) q (s.dev.jhead + 1) := by
  obtain ⟨hsession, hseq, hctx, hclear, hroom⟩ := hok
  obtain ⟨hlives, hunnamed⟩ := ctx_checked hctx
  unfold journalled
  simp only [hsession, hseq, hlives, hunnamed, hclear, hcheck, hroom]
  rfl

/-- A duplicate, a reused and a stale HSEQ are refused before anything else is looked at. -/
theorem journalled_outOfSequence {r : Refused} (hsession : q.frame.session ≠ 0) (hseq : sequenceCheck s.dev q = some r) :
    journalled clear needsCtx check act s q = { s with dev := refuse q r s.dev } := by
  unfold journalled
  simp only [hsession, hseq]
  rfl

end Journalled

/-! ### Messages without the journal (R375) -/

section Plain

variable {clear : List (Nat × Nat)} {needsCtx sessionless : Bool} {check : State → Msg → Option Refused} {act : State → Msg → State}
  {s : State} {q : Msg} (hsession : q.frame.session = 0 → sessionless = true)

include hsession

theorem plainMessage_acts (hctx : (if needsCtx then (msgCtx? s q).isSome else decide (q.ctx = 0)) = true) (hclear : bodyClear q clear = true)
    (hcheck : check s q = none) : plainMessage clear needsCtx sessionless check act s q = act s q := by
  obtain ⟨hlives, hunnamed⟩ := ctx_checked hctx
  unfold plainMessage
  rw [if_neg (by simpa using hsession)]
  simp [hlives, hunnamed, hclear, hcheck]

theorem plainMessage_noContext (hno : (needsCtx = true ∧ msgCtx? s q = none) ∨ check s q = some .noContext) :
    plainMessage clear needsCtx sessionless check act s q = { s with dev := refuse q .noContext s.dev } := by
  unfold plainMessage
  rw [if_neg (by simpa using hsession)]
  obtain ⟨hneeds, hnone⟩ | hcheck := hno
  · simp [hneeds, hnone]
  · simp [hcheck]

theorem plainMessage_badBody (hctx : (if needsCtx then (msgCtx? s q).isSome else decide (q.ctx = 0)) = true) (hknown : check s q ≠ some .noContext)
    (hbad : bodyClear q clear = false ∨ check s q = some .badBody) :
    plainMessage clear needsCtx sessionless check act s q = { s with dev := refuse q .badBody s.dev } := by
  obtain ⟨hlives, hunnamed⟩ := ctx_checked hctx
  unfold plainMessage
  rw [if_neg (by simpa using hsession)]
  obtain hclear | hcheck := hbad
  · simp [hlives, hknown, hclear]
  · simp [hlives, hunnamed, hcheck]

end Plain

end Sys2Proof.Machine
end

section
/-!
PROOF. Journalled messages (R370, R375 to R381, R384): each is the one mould with its own check and effect.
-/

namespace Sys2Proof.Machine

section Accepted

variable {s s1 : State} {q : Msg} {kind : Nat} (h : standing s s1 q kind)

include h

theorem onKind_accepted {clear : List (Nat × Nat)} {needsCtx : Bool} {check : State → Msg → Option Refused}
    {act : State → Msg → Nat → State} (hok : admissible s1 q clear needsCtx) (hcheck : check s1 q = none) :
    onKind kind (journalled clear needsCtx check act) s = .next (act (acceptedState s1 q) q (s1.dev.jhead + 1)) := by
  rw [onKind_standing h, journalled_accepted hok hcheck]

theorem onKind_outOfSequence {clear : List (Nat × Nat)} {needsCtx : Bool} {check : State → Msg → Option Refused}
    {act : State → Msg → Nat → State} {r : Refused} (hsession : q.frame.session ≠ 0) (hseq : sequenceCheck s1.dev q = some r) :
    onKind kind (journalled clear needsCtx check act) s = .next { s1 with dev := refuse q r s1.dev } := by
  rw [onKind_standing h, journalled_outOfSequence hsession hseq]

end Accepted

theorem acceptedState_gtc (s : State) (q : Msg) : (acceptedState s q).dev.gtc = s.dev.gtc := by
  unfold acceptedState
  obtain ⟨n, out, h⟩ := answer_only q (journalAdd s.dev q).jhead 1 0 [] (journalAdd s.dev q)
  simp only [h]
  rfl

section Kinds

variable {s s1 : State} {q : Msg}

/-- A window that passes its checks takes the number that is free once the entry is written. -/
theorem exec_window_accepted {id : Nat} (hs : standing s s1 q 0x12) (hok : admissible s1 q [(0, 16)] true) (hpos : q.field 8 8 ≠ 0)
    (hle : q.field 8 8 ≤ 2 ^ 32) (hfree : freeWindow s.dev q.slot = some id)
    (hfree' : freeWindow (acceptedState s1 q).dev q.slot = some id) :
    exec .window s = .next (finishEntry { acceptedState s1 q with dev := updHostSlot (acceptedState s1 q).dev q.slot fun x =>
      { x with windows := mapPut x.windows id (q.ctx, q.field 0 8, q.field 8 8) } } (s1.dev.jhead + 1) 3 id) := by
  have hroom : freeWindow s1.dev q.slot = some id := by
    unfold freeWindow at hfree ⊢
    rwa [standing_getHostSlot hs]
  rw [show exec .window s = onKind 0x12 windowMessage s from rfl, windowMessage,
    onKind_accepted hs hok (by simpa [hpos, hroom] using hle), hfree']
  rfl

/-- A COMMIT of an open window reads what the window covers, and closes it. -/
theorem exec_commit_accepted {va len : Nat} (hs : standing s s1 q 0x13) (hok : admissible s1 q [(0, 1), (8, 32)] true)
    (hwin : mapGet? (getHostSlot s.dev q.slot).windows (q.field 0 1) = some (q.ctx, va, len))
    (hwin' : mapGet? (getHostSlot (acceptedState s1 q).dev q.slot).windows (q.field 0 1) = some (q.ctx, va, len)) :
    exec .commit s = .next
      (let d := updHostSlot (acceptedState s1 q).dev q.slot fun x => { x with windows := mapErase x.windows (q.field 0 1) }
      let r := readRange s.dev.gtc s.mach q.ctx va len
      let x := if r.2.length = len && (sha3 r.2).take 32 = q.bytes 8 32 then commitPage d r.1 q.ctx va r.2 else (r.1, 4, 0x30)
      finishEntry { acceptedState s1 q with mach := x.1, dev := d } (s1.dev.jhead + 1) x.2.1 x.2.2) := by
  rw [← standing_mach hs, ← standing_gtc hs, ← acceptedState_gtc s1 q]
  rw [← standing_getHostSlot hs] at hwin
  rw [show exec .commit s = onKind 0x13 commitMessage s from rfl, commitMessage, onKind_accepted hs hok (by simp [hwin])]
  simp only [hwin']
  rfl

theorem exec_ctxCreate_accepted (hs : standing s s1 q 0x10) (hok : admissible s1 q [(0, 8)] false) (haligned : q.field 0 8 % 256 = 0)
    (hfits : q.field 0 8 + 256 ≤ 2 ^ 20)
    (hgood : contextBad s.mach (stagedRecord s1 q) (contextOfRecord q.slot (stagedRecord s1 q)) = false)
    (hstaged : stagedRecord (acceptedState s1 q) q = stagedRecord s1 q) :
    exec .ctxCreate s = .next
      (let r := createContext (acceptedState s1 q).dev s.mach (getHostSlot (acceptedState s1 q).dev q.slot).nonce
        (contextOfRecord q.slot (stagedRecord s1 q))
      finishEntry { acceptedState s1 q with mach := r.1 } (s1.dev.jhead + 1) 3 r.2) := by
  rw [← standing_mach hs] at hgood ⊢
  rw [show exec .ctxCreate s = onKind 0x10 ctxCreateMessage s from rfl, ctxCreateMessage,
    onKind_accepted hs hok (by simpa [haligned, hgood] using hfits), hstaged]
  rfl

end Kinds

/-- Settles O49: every kind is the mould with its own check and effect; what each check asks is its clause's premise. -/
theorem journalledMessages : Obligations.JournalledMessages := by
  intro s s1 q a j ok
  refine ⟨?_, ?_, ?_, ?_, ?_, ?_, ?_, ?_, ?_⟩
  · rintro ⟨-, hs, hok⟩
    show onKind 0x21 evsetMsg s = _
    rw [← standing_mach hs]
    exact onKind_accepted hs hok rfl
  · rintro ⟨-, hs, hok⟩
    show onKind 0x22 evclrMsg s = _
    rw [← standing_mach hs]
    exact onKind_accepted hs hok rfl
  · rintro ⟨-, hs, hok⟩ hown
    rw [← standing_mach hs] at hown
    refine onKind_accepted hs hok ?_
    cases hn : getNode? s1.mach (q.field 0 4) with
    | none => simp
    | some n => simp [hown n hn]
  · rintro ⟨-, hs, hok⟩ haligned
    rw [← standing_mach hs]
    exact onKind_accepted hs hok (by simp [haligned])
  · rintro ⟨-, hs, hok⟩
    exact onKind_accepted hs hok rfl
  · rintro id ⟨-, hs, hok⟩ hpos hle hfree hfree'
    exact exec_window_accepted hs hok hpos hle hfree hfree'
  · rintro va len ⟨-, hs, hok⟩ hwin hwin'
    refine ⟨_, exec_commit_accepted hs hok hwin hwin', fun hlen hdigest => ?_, fun hnot => ?_⟩
    · simp only [hlen, hdigest, decide_true, Bool.and_self, if_true]
      rfl
    · dsimp only
      rw [if_neg (by simpa using hnot)]
  · rintro ⟨-, hs, hok⟩ haligned hfits hgood hstaged
    exact exec_ctxCreate_accepted hs hok haligned hfits hgood hstaged
  · intro e he hs hsession r hseq
    simp only [journalledKinds, List.mem_cons, List.not_mem_nil, or_false] at he
    rcases he with rfl | rfl | rfl | rfl | rfl | rfl | rfl | rfl <;> exact onKind_outOfSequence hs hsession hseq

end Sys2Proof.Machine
end

section
/-!
PROOF. The host's other traffic (R371 to R375, R380, R465, R471): sessions, messages that are answered without the journal, bulk frames, a
secret, and what is dropped.
-/

namespace Sys2Proof.Machine

/-! ### Host slots -/

@[simp] theorem getHostSlot_upd_self {d : Dev} (n : Nat) (f : HostSlot → HostSlot) (h : mapWf d.slots = true) :
    getHostSlot (updHostSlot d n f) n = f (getHostSlot d n) := mapGetD_setD_self n HostSlot.unused _ h

theorem getHostSlot_upd_other (d : Dev) {n k : Nat} (f : HostSlot → HostSlot) (h : k ≠ n) :
    getHostSlot (updHostSlot d n f) k = getHostSlot d k := mapGetD_setD_other d.slots _ _ _ h

theorem answer_slots (q : Msg) (jseq state result : Nat) (extra : List Byte) (d : Dev) :
    (answer q jseq state result extra d).slots = d.slots := by
  obtain ⟨n, out, h⟩ := answer_only q jseq state result extra d
  rw [h]

theorem answer_sessions (q : Msg) (jseq state result : Nat) (extra : List Byte) (d : Dev) :
    (answer q jseq state result extra d).sessions = d.sessions := by
  obtain ⟨n, out, h⟩ := answer_only q jseq state result extra d
  rw [h]

theorem getHostSlot_answer (q : Msg) (jseq state result : Nat) (extra : List Byte) (d : Dev) (k : Nat) :
    getHostSlot (answer q jseq state result extra d) k = getHostSlot d k := by
  unfold getHostSlot
  rw [answer_slots]

/-- An accepted frame changes the last FSEQ of its slot alone. -/
theorem acceptFrame_slot {d : Dev} (f : Frame) (h : mapWf d.slots = true) : mapWf (acceptFrame d f).slots = true ∧
    (getHostSlot (acceptFrame d f) f.slot.toNat).staging = (getHostSlot d f.slot.toNat).staging := by
  unfold acceptFrame
  split
  · exact ⟨h, rfl⟩
  · refine ⟨mapWf_setD _ _ _ h, ?_⟩
    rw [getHostSlot_upd_self _ _ h]

/-! ### Messages -/

section Messages

variable {s s1 : State} {q : Msg}

theorem sessionId_ne_zero (n : Nat) : sessionId n ≠ 0 := by
  unfold sessionId
  omega

/-- OPEN gives the slot the session, its nonce and its key. -/
theorem exec_openSession_opens (hs : standing s s1 q 0x01) (hctx : q.ctx = 0) (hclear : bodyClear q [(0, 32)] = true)
    (hwf : mapWf s1.dev.slots = true) : ∃ t, exec .openSession s = .next t ∧ t.mach = s1.mach ∧ t.dev.sessions = s1.dev.sessions + 1 ∧
      getHostSlot t.dev q.slot = { getHostSlot s1.dev q.slot with
        session := sessionId s1.dev.sessions, nonce := q.bytes 0 32, fseq := 0
        key := (sha3 ((getHostSlot s1.dev q.slot).secret.getD [] ++ q.bytes 0 32 ++ nonceBytes s1.dev.sessions)).take 32 } := by
  refine ⟨_, (onKind_standing hs openMessage).trans (congrArg _ (plainMessage_acts (fun _ => rfl) (by simpa using hctx) hclear rfl)),
    rfl, rfl, ?_⟩
  dsimp only
  rw [getHostSlot_upd_self]
  · have hslot := getHostSlot_answer q 0 0 0 (nonceBytes s1.dev.sessions ++ leBytes 8 (BitVec.ofNat 64 (sessionId s1.dev.sessions))) s1.dev q.slot
    unfold getHostSlot at hslot ⊢
    dsimp only
    rw [hslot]
  · dsimp only
    rw [answer_slots]
    exact hwf

/-- CLOSE ends the session of its slot and closes its windows; the other slots stay. -/
theorem exec_closeSession_closes (hs : standing s s1 q 0x02) (hsession : q.frame.session ≠ 0) (hctx : q.ctx = 0)
    (hclear : bodyClear q [] = true) (hwf : mapWf s1.dev.slots = true) : ∃ t, exec .closeSession s = .next t ∧ t.mach = s1.mach ∧
      getHostSlot t.dev q.slot = { getHostSlot s1.dev q.slot with session := 0, key := [], windows := [] } ∧
      ∀ k, k ≠ q.slot → getHostSlot t.dev k = getHostSlot s1.dev k := by
  refine ⟨_, (onKind_standing hs closeMessage).trans (congrArg _ (plainMessage_acts (absurd · hsession) (by simpa using hctx) hclear rfl)),
    rfl, ?_, fun k hk => ?_⟩
  · dsimp only
    rw [getHostSlot_upd_self _ _ (by rw [answer_slots]; exact hwf), getHostSlot_answer]
  · exact (getHostSlot_upd_other _ _ hk).trans (getHostSlot_answer ..)

theorem exec_jread_reads (hs : standing s s1 q 0x03) (hctx : q.ctx = 0) (hclear : bodyClear q [(0, 8), (8, 1)] = true)
    (hfirst : 1 ≤ q.field 0 8) (hcount : 1 ≤ q.field 8 1) (hmost : q.field 8 1 ≤ 15) : exec .jread s = .next { s1 with dev :=
      (let r := readEntries s1.dev q.slot (s1.dev.jhead + 1 - q.field 0 8) (q.field 0 8) (q.field 8 1)
      answer q 0 0 0 (wordsBytes [s1.dev.jhead, (getHostSlot s1.dev q.slot).hseq - 1, r.2] ++ r.1.flatten) s1.dev) } := by
  refine (onKind_standing hs jreadMessage).trans (congrArg _ (plainMessage_acts (fun _ => rfl) (by simpa using hctx) hclear ?_))
  simp [Nat.ne_of_gt hfirst, Nat.ne_of_gt hcount, Nat.not_lt.mpr hmost]

theorem exec_read_reads (hs : standing s s1 q 0x14) (hsession : q.frame.session ≠ 0) (hctx : (msgCtx? s1 q).isSome)
    (hclear : bodyClear q [(0, 16)] = true) (hpos : 1 ≤ q.field 8 8) (hle : q.field 8 8 ≤ 2 ^ 20) : exec .read s = .next
      (let r := readRange s1.dev.gtc s1.mach q.ctx (q.field 0 8) (q.field 8 8)
      if r.2.length = q.field 8 8 then { s1 with mach := r.1, dev := answer q 0 0 0 [] (sendBulk q 128 0 r.2 s1.dev) }
      else { s1 with dev := refuse q .badBody s1.dev }) := by
  refine (onKind_standing hs readMessage).trans (congrArg _ (plainMessage_acts (absurd · hsession) (by simpa using hctx) hclear ?_))
  simpa [Nat.ne_of_gt hpos] using hle

/-- A QUERY of a record of its own context is answered with it. -/
theorem exec_query_answers {bs : List Byte} (hs : standing s s1 q 0x24) (hsession : q.frame.session ≠ 0) (hctx : (msgCtx? s1 q).isSome)
    (hclear : bodyClear q [(0, 1), (8, 8)] = true) (hsel : q.field 0 1 ≤ 1) (hhandle : q.field 0 1 = 0 → q.field 8 8 < 2 ^ 32)
    (hfound : queried s1 q = some (q.ctx, bs)) : exec .query s = .next { s1 with dev := answer q 0 0 0 bs s1.dev } := by
  have hsound : (1 < q.field 0 1 || (q.field 0 1 = 0 && 2 ^ 32 ≤ q.field 8 8)) = false := by
    simpa using ⟨hsel, hhandle⟩
  refine ((onKind_standing hs queryMessage).trans (congrArg _ (plainMessage_acts (absurd · hsession) (by simpa using hctx) hclear ?_))).trans ?_
  · simp only [hfound, hsound]
    simp
  · simp only [hfound, Option.elim_some]

/-- A QUERY whose context is unknown, or is not that of what it names, is refused. -/
theorem exec_query_noContext (hs : standing s s1 q 0x24) (hsession : q.frame.session ≠ 0)
    (hno : msgCtx? s1 q = none ∨ ∃ c bs, queried s1 q = some (c, bs) ∧ c ≠ q.ctx) :
    exec .query s = .next { s1 with dev := refuse q .noContext s1.dev } := by
  refine (onKind_standing hs queryMessage).trans (congrArg _ (plainMessage_noContext (absurd · hsession) ?_))
  obtain hnone | ⟨c, bs, hfound, hother⟩ := hno
  · exact .inl ⟨rfl, hnone⟩
  · exact .inr (by simp [hfound, hother])

/-- A QUERY with a field out of range, or that finds nothing, is refused. -/
theorem exec_query_badBody (hs : standing s s1 q 0x24) (hsession : q.frame.session ≠ 0) (hctx : (msgCtx? s1 q).isSome)
    (hown : ∀ c bs, queried s1 q = some (c, bs) → c = q.ctx)
    (hbad : bodyClear q [(0, 1), (8, 8)] = false ∨ 1 < q.field 0 1 ∨ (q.field 0 1 = 0 ∧ 2 ^ 32 ≤ q.field 8 8) ∨ queried s1 q = none) :
    exec .query s = .next { s1 with dev := refuse q .badBody s1.dev } := by
  have hsame : (queried s1 q).elim false (·.1 != q.ctx) = false := by
    cases hfound : queried s1 q with
    | none => rfl
    | some x => simp [hown x.1 x.2 hfound]
  refine (onKind_standing hs queryMessage).trans (congrArg _ (plainMessage_badBody (absurd · hsession) (by simpa using hctx) ?_ ?_))
  · rw [hsame, if_neg Bool.false_ne_true]
    split
    · exact fun h => by cases h
    · exact fun h => by cases h
  · refine hbad.imp_right fun hwrong => ?_
    rw [hsame, if_neg Bool.false_ne_true, if_pos]
    simpa [or_assoc] using hwrong

theorem exec_unlistedMessageKind_refuses {kind : Nat} (hs : standing s s1 q kind) (hkind : kind ∉ listedKinds) :
    exec .unlistedMessageKind s = .next { s1 with dev := answer q 0 0 4 [] s1.dev } := by
  obtain ⟨htyp, rfl⟩ := standing_kind hs
  unfold exec execUnlistedMessageKind
  refine onMessage_standing hs ?_ _
  simp [htyp, hkind]

end Messages

/-! ### Frames, secrets, other traffic (R371 to R373, R465) -/

section Frames

variable {s : State} {f : Frame} {rest : List Input} (hbox : s.dev.mailbox = []) (hin : s.inputs = .frame f :: rest) (htyp : f.typ = 1)

include hbox hin htyp

theorem exec_bulkWrite_takes : exec .bulkWrite s =
    .next (if bulkOk f && frameOk s.dev f then takeBulk { s with inputs := rest } f else { s with inputs := rest }) := by
  show execBulkWrite s = _
  simp only [execBulkWrite, hbox, hin, htyp, if_true]

/-- A bulk frame for window 0 that fits writes its bytes in the staging area. -/
theorem exec_bulkWrite_staged (hwf : mapWf s.dev.slots = true) (hbulk : bulkOk f = true) (hframe : frameOk s.dev f = true)
    (hwin : itemNat f.items 0 8 = 0) (hfits : itemNat f.items 8 8 + (f.items.length - 16) ≤ 2 ^ 20) :
    ∃ t, exec .bulkWrite s = .next t ∧ t.inputs = rest ∧ t.mach = s.mach ∧ (getHostSlot t.dev f.slot.toNat).staging =
      memWrite (getHostSlot s.dev f.slot.toNat).staging (itemNat f.items 8 8) (f.items.drop 16) := by
  have htarget : bulkTarget s.dev f.slot.toNat (itemNat f.items 0 8) (itemNat f.items 8 8) (f.items.drop 16).length = some none := by
    rw [hwin, List.length_drop, bulkTarget, if_pos rfl, if_pos hfits]
  obtain ⟨hwf', hstaging⟩ := acceptFrame_slot f hwf
  rw [exec_bulkWrite_takes hbox hin htyp, if_pos (by rw [hbulk, hframe]; rfl)]
  refine ⟨_, rfl, ?_⟩
  simp only [takeBulk, htarget]
  refine ⟨trivial, trivial, ?_⟩
  rw [getHostSlot_upd_self _ _ hwf', hstaging]

theorem exec_bulkWrite_drops (hbad : bulkOk f = false ∨ frameOk s.dev f = false) :
    exec .bulkWrite s = .next { s with inputs := rest } := by
  rw [exec_bulkWrite_takes hbox hin htyp, if_neg]
  rwa [Bool.and_eq_true, not_and_or, Bool.not_eq_true, Bool.not_eq_true]

end Frames

/-- A secret of 32 bytes for one of the 16 slots is installed. -/
theorem exec_hostSecretInstall_installs {s : State} {slot : Nat} {secret : List Byte} {rest : List Input}
    (hin : s.inputs = .secret slot secret :: rest) (hslot : slot < 16) (hlen : secret.length = 32) : exec .hostSecretInstall s =
      .next { s with inputs := rest, dev := updHostSlot s.dev slot fun x => { x with secret := some secret } } := by
  change execHostSecretInstall s = _
  refine (takeInput_some (a := (slot, secret)) hin (by rfl)).trans (congrArg _ (if_pos ?_))
  simp [hslot, hlen]

/-- Settles O50: each message is the mould without the journal, and each other arrival goes by its own condition. -/
theorem otherHostTraffic : Obligations.OtherHostTraffic := by
  intro s s1 q hwf d
  refine ⟨fun hs hctx hclear => ?_, fun hs hsession hctx hclear => ?_, fun hs hctx hclear => exec_jread_reads hs hctx hclear,
    fun hs hsession hctx hclear hpos hle => ?_,
    fun bs hs hsession hctx hclear hsel hhandle hfound => exec_query_answers hs hsession hctx hclear hsel hhandle hfound,
    fun hs hsession hno => exec_query_noContext hs hsession hno,
    fun hs hsession hctx hown hbad => exec_query_badBody hs hsession hctx hown hbad,
    fun kind hkind hs => exec_unlistedMessageKind_refuses hs hkind,
    fun f rest hbox hin htyp hbulk hframe hwin hfits => exec_bulkWrite_staged hbox hin htyp hwf hbulk hframe hwin hfits,
    fun f rest hbox hin htyp hbad => exec_bulkWrite_drops hbox hin htyp hbad, ⟨_, rfl, rfl, rfl, rfl⟩,
    fun slot secret rest hin hslot hlen => ⟨_, exec_hostSecretInstall_installs hin hslot hlen, rfl, rfl, ?_⟩⟩
  · obtain ⟨t, hx, hmach, hsessions, hslot⟩ := exec_openSession_opens hs hctx hclear (by rw [standing_slots hs]; exact hwf)
    refine ⟨t, hx, hmach.trans (standing_mach hs), hsessions, ?_⟩
    rw [hslot]
    exact ⟨rfl, sessionId_ne_zero _, rfl, rfl, rfl⟩
  · obtain ⟨t, hx, hmach, hslot, hothers⟩ :=
      exec_closeSession_closes hs hsession hctx hclear (by rw [standing_slots hs]; exact hwf)
    refine ⟨t, hx, hmach.trans (standing_mach hs), ?_, ?_, hothers⟩ <;> rw [hslot]
  · rw [← standing_mach hs]
    refine ⟨fun hall => ?_, fun hshort => ?_⟩
    · exact (exec_read_reads hs hsession hctx hclear hpos hle).trans (congrArg _ (if_pos hall))
    · exact (exec_read_reads hs hsession hctx hclear hpos hle).trans (congrArg _ (if_neg hshort))
  · dsimp only
    rw [getHostSlot_upd_self _ _ hwf]

end Sys2Proof.Machine
end

section
/-!
PROOF. Boots, the loss of the supply, resumes and shutdown (R381, R410, R440 to R444, R457, R461, R467).
-/

namespace Sys2Proof.Machine

/-! ### What the parts of a boot leave alone -/

/-- A run of changes to the clusters changes nothing else. -/
theorem foldl_clusters_only {α : Type} {f : Mach → α → Mach} (hf : ∀ m a, ∃ cs, f m a = { m with clusters := cs }) (l : List α) (m : Mach) :
    ∃ cs, l.foldl f m = { m with clusters := cs } := by
  induction l generalizing m with
  | nil => exact ⟨m.clusters, rfl⟩
  | cons a l ih =>
    obtain ⟨cs, h⟩ := hf m a
    obtain ⟨cs', h'⟩ := ih (f m a)
    exact ⟨cs', by rw [List.foldl_cons, h', h]⟩

/-- The records of the trained rates change the health log and its counts. -/
theorem reportRates_only (gtc : Nat) (m : Mach) (rates : List Nat) :
    ∃ hs n e, reportRates gtc m rates = { m with health := hs, healthNo := n, errs := e } := by
  unfold reportRates
  generalize (rates.zip (List.range 8)).filter _ = l
  induction l generalizing m with
  | nil => exact ⟨m.health, m.healthNo, m.errs, rfl⟩
  | cons x l ih =>
    obtain ⟨hs, n, e, h⟩ := ih (logHealth m { healthOf 5 x.2 x.1 with gtc := gtc })
    exact ⟨hs, n, e, h⟩

/-- A boot writes the clusters, the cores, the ids and the health log. -/
theorem bootMach_only (d : Dev) (m : Mach) (b : BootInput) : ∃ cores pkg pod hs n e, bootMach d m b =
    { m with clusters := bootClusters (b.lost ++ d.wear.pending) d.recovery, cores := cores, pkg := pkg, pod := pod
             health := hs, healthNo := n, errs := e } := by
  unfold bootMach
  dsimp only
  generalize bootClusters (b.lost ++ d.wear.pending) d.recovery = clusters
  generalize bootCores (b.lost ++ d.wear.pending) = cores
  obtain ⟨hs, n, e, h⟩ := reportRates_only d.gtc { m with clusters := clusters, cores := cores, pkg := b.pkg % 256, pod := b.pod % 4 } b.rates
  exact ⟨cores, _, _, hs, n, e, h⟩

/-- A resume sets the state of entries, and leaves as many as there were. -/
theorem resumeJournal_only (d : Dev) (kept : List Nat) :
    ∃ j, resumeJournal d kept = { d with journal := j } ∧ j.length = d.journal.length := by
  have hrun (l : List JEntry) (d : Dev) : ∃ j, l.foldl
      (fun d e => if e.state < 3 && !kept.contains e.jseq then setEntry d e.jseq 4 0x500 e.handle else d) d =
        { d with journal := j } ∧ j.length = d.journal.length := by
    induction l generalizing d with
    | nil => exact ⟨d.journal, rfl, rfl⟩
    | cons e l ih =>
      rw [List.foldl_cons]
      split
      · obtain ⟨j, h, hlen⟩ := ih (setEntry d e.jseq 4 0x500 e.handle)
        exact ⟨j, h, hlen.trans (List.length_map _)⟩
      · exact ih d
  exact hrun d.journal d

/-! ### The cold boot (R381, R410, R457) -/

/-- A value that is written for each of a list of keys is found under each of them. -/
theorem mapGetD_foldl_setD {α : Type} [DecidableEq α] (dflt : α) (f : Nat → α) (l : List Nat) {m : Map α} {c : Nat} (hm : mapWf m = true)
    (hc : c ∈ l ∨ mapGetD m c dflt = f c) : mapGetD (l.foldl (fun m k => mapSetD m k dflt (f k)) m) c dflt = f c := by
  induction l generalizing m with
  | nil => exact hc.resolve_left List.not_mem_nil
  | cons k l ih =>
    refine ih (mapWf_setD k dflt (f k) hm) ?_
    by_cases hk : c = k
    · subst hk
      exact .inr (mapGetD_setD_self c dflt (f c) hm)
    · rw [mapGetD_setD_other m dflt (f k) dflt hk]
      exact hc.imp_left fun h => (List.mem_cons.mp h).resolve_left hk

/-- A cluster that has lost a unit without which it is removed is absent after a boot. -/
theorem bootClusters_absent {l : List LostUnit} (recovery : Bool × Bool) {c : Nat} {u : LostUnit} (hc : c < 512) (hu : u ∈ l)
    (hremoves : removesCluster c u = true) : (mapGetD (bootClusters l recovery) c Cluster.atReset).present = false := by
  have hany : l.any (removesCluster c) = true := List.any_eq_true.mpr ⟨u, hu, hremoves⟩
  have hin : c ∈ clusterNumbers := List.mem_range.mpr hc
  unfold bootClusters
  generalize clusterNumbers = numbers at hin
  rw [mapGetD_foldl_setD Cluster.atReset _ numbers rfl (.inl hin)]
  simp [clusterSurvives, hany]

section ColdBoot

variable (s : State) (b : BootInput)

theorem coldBoot_mach : ∃ cores pkg pod hs n e, (coldBoot s b).mach =
    { Mach.atReset with
      clusters := bootClusters (b.lost ++ s.dev.wear.pending) (bootDev (coldDev s.dev) b).recovery, cores := cores, pkg := pkg, pod := pod
      health := hs, healthNo := n, errs := e } := bootMach_only (bootDev (coldDev s.dev) b) Mach.atReset b

theorem coldBoot_removed : (coldBoot s b).dev.wear.removed = b.lost ++ s.dev.wear.pending := rfl

theorem coldBoot_recovery : (coldBoot s b).dev.recovery.1 = inRecovery b.d0 (b.lost ++ s.dev.wear.pending) b.rates 0 := rfl

theorem coldBoot_reports : (coldBoot s b).dev.reports = s.dev.reports ++
    (if (coldBoot s b).dev.recovery.1 then [.recovery 0] else []) ++ if (coldBoot s b).dev.recovery.2 then [.recovery 1] else [] := rfl

theorem coldBoot_measures (h : imageGood b.d0 = true) : (coldBoot s b).dev.mr0 = sha3 (measureZero ++ sha3 b.d0.body) ∧
    (coldBoot s b).dev.mr1 = sha3 (measureZero ++ b.d0.pumal) := by
  have hmr : measure b.d0 = (extend measureZero (sha3 b.d0.body), extend measureZero b.d0.pumal) := if_pos h
  exact ⟨congrArg Prod.fst hmr, congrArg Prod.snd hmr⟩

/-- A bad image keeps its die in recovery, and the management controller reports it. -/
theorem coldBoot_badImage (h : imageGood b.d0 = false) :
    (coldBoot s b).dev.recovery.1 = true ∧ Report.recovery 0 ∈ (coldBoot s b).dev.reports := by
  have hrec : (coldBoot s b).dev.recovery.1 = true := by
    rw [coldBoot_recovery, inRecovery, h]
    rfl
  refine ⟨hrec, ?_⟩
  rw [coldBoot_reports, hrec, if_pos rfl]
  simp

/-- A stack that is lost, and not trained to a lower rate, keeps its die in recovery. -/
theorem coldBoot_lostStack {stack : Nat} (hlost : LostUnit.l2OrHbm 0 stack ∈ (coldBoot s b).dev.wear.removed)
    (hrate : b.rates.getD stack 0 = 0 ∨ 10000 ≤ b.rates.getD stack 0) : (coldBoot s b).dev.recovery.1 = true := by
  have hkeeps : keepsRecovery b.rates 0 (.l2OrHbm 0 stack) = true := by
    obtain h | h := hrate
    · simp only [keepsRecovery, h]
      rfl
    · simp only [keepsRecovery, fullRate, Nat.not_lt.mpr h]
      simp
  rw [coldBoot_recovery, inRecovery, Bool.or_eq_true]
  exact .inr (List.any_eq_true.mpr ⟨_, hlost, hkeeps⟩)

theorem coldBoot_absent {c : Nat} {u : LostUnit} (hc : c < 512) (hu : u ∈ (coldBoot s b).dev.wear.removed)
    (hremoves : removesCluster c u = true) : (getCluster (coldBoot s b).mach c).present = false := by
  obtain ⟨cores, pkg, pod, hs, n, e, h⟩ := coldBoot_mach s b
  rw [h]
  rw [coldBoot_removed] at hu
  unfold getCluster
  dsimp only
  exact bootClusters_absent _ hc hu hremoves

end ColdBoot

/-! ### Resuming (R444) -/

/-- The nodes that a resume keeps: those whose save image carries its seal, made ready. -/
def resumedNodes (s : State) (gtc : Nat) : Map Node :=
  (s.mach.nodes.filter fun x => restorable gtc s.mach x.2).map fun x => (x.1, { x.2 with stage := .ready, readyAt := gtc })

theorem saved_of_restorable {gtc : Nat} {m : Mach} {n : Node} (h : restorable gtc m n = true) : n.saved.isSome := by
  unfold restorable at h
  split at h
  · next v c hsaved _ => simp [hsaved]
  · cases h

theorem resumedNodes_ready {s : State} {gtc : Nat} {x : Nat × Node} (hx : x ∈ resumedNodes s gtc) :
    x.2.stage = .ready ∧ x.2.saved.isSome := by
  obtain ⟨y, hy, rfl⟩ := List.mem_map.mp hx
  have hsaved : y.2.saved.isSome := saved_of_restorable (List.mem_filter.mp hy).2
  exact ⟨rfl, hsaved⟩

section Resume

variable (s : State) (b : BootInput)

theorem resumeBoot_mach : (resumeBoot s b).mach.mem = s.mach.mem ∧ (resumeBoot s b).mach.ctxs = s.mach.ctxs ∧
    (resumeBoot s b).mach.keys = s.mach.keys ∧ (resumeBoot s b).mach.nodes = resumedNodes s s.dev.gtc := by
  obtain ⟨cores, pkg, pod, hs, n, e, hboot⟩ :=
    bootMach_only (bootDev s.dev b) { s.mach with nodes := resumedNodes s s.dev.gtc, posts := [] } b
  obtain ⟨cs, h⟩ := foldl_clusters_only (f := fun m (x : Nat × Cluster) => updCluster m x.1 fun y => { y with units := x.2.units })
    (fun _ _ => ⟨_, rfl⟩) s.mach.clusters (bootMach (bootDev s.dev b) { s.mach with nodes := resumedNodes s s.dev.gtc, posts := [] } b)
  have hmach : (resumeBoot s b).mach = _ := h
  rw [hmach, hboot]
  exact ⟨rfl, rfl, rfl, rfl⟩

/-- A resume keeps the device but for what a boot finds and reports, and for the entries that it fails. -/
theorem resumeBoot_dev : (resumeBoot s b).dev.jhead = s.dev.jhead ∧ (resumeBoot s b).dev.pcc = s.dev.pcc ∧
    (resumeBoot s b).dev.boots = s.dev.boots + 1 ∧ (resumeBoot s b).dev.supply = .on ∧ (resumeBoot s b).dev.marker = none ∧
    (resumeBoot s b).dev.journal.length = s.dev.journal.length ∧
    ∀ e ∈ s.dev.journal, e.finished → e ∈ (resumeBoot s b).dev.journal := by
  obtain ⟨j, h, hlen⟩ := resumeJournal_only (bootDev s.dev b) ((resumedNodes s s.dev.gtc).map fun x => x.2.jseq)
  obtain ⟨-, -, hstay⟩ := resumeJournal_keepsJournal (bootDev s.dev b) ((resumedNodes s s.dev.gtc).map fun x => x.2.jseq)
  rw [h] at hstay
  have hdev : (resumeBoot s b).dev = updWear { ({ bootDev s.dev b with journal := j } : Dev) with marker := none }
      (reportConfig (resumeBoot s b).mach) := by
    rw [← h]
    rfl
  rw [hdev]
  exact ⟨rfl, rfl, rfl, rfl, rfl, hlen, hstay⟩

end Resume

/-! ### The loss of the supply and shutdown (R440 to R443, R461) -/

theorem goDark_dark (m : Mach) : (goDark m).warps = [] ∧ (goDark m).teams = [] ∧ (goDark m).gangs = [] ∧ (goDark m).mem = m.mem :=
  ⟨rfl, rfl, rfl, rfl⟩

theorem writeBytes_mem {m : Mach} {a : Nat} (bs : List Byte) (h : a < foreignBase) : (writeBytes m a bs).mem = memWrite m.mem a bs := by
  simp only [writeBytes, writeWords, List.foldl_cons, List.foldl_nil, putBytes_own bs h]

theorem markerLine_own : markerLine < foreignBase := by decide

/-- The last gasp empties the mailbox and ends every session. -/
theorem lastGasp_only (d : Dev) (k : Marker) : ∃ n out, lastGasp d k =
    { d with outNo := n, out := out, mailbox := [], slots := d.slots.map fun x => (x.1, { x.2 with session := 0, key := [], fseq := 0 }) } := by
  have hrun (l : List (Nat × HostSlot)) (d : Dev) : ∃ n out,
      l.foldl (fun d x => sendFrame d x.1 x.2.session 3 (markerBytes k)) d = { d with outNo := n, out := out } := by
    induction l generalizing d with
    | nil => exact ⟨d.outNo, d.out, rfl⟩
    | cons x l ih =>
      obtain ⟨n, out, h⟩ := sendFrame_only d x.1 x.2.session 3 (markerBytes k)
      obtain ⟨n', out', h'⟩ := ih (sendFrame d x.1 x.2.session 3 (markerBytes k))
      exact ⟨n', out', by rw [List.foldl_cons, h', h]⟩
  obtain ⟨n, out, h⟩ := hrun (d.slots.filter fun x => x.2.session != 0) d
  refine ⟨n, out, ?_⟩
  unfold lastGasp
  dsimp only
  rw [h]

theorem session_of_lastGasp {slots : Map HostSlot} {k : Nat} {x : HostSlot}
    (h : mapGet? (slots.map fun x => (x.1, { x.2 with session := 0, key := [], fseq := 0 })) k = some x) : x.session = 0 := by
  obtain ⟨y, -, hy⟩ := List.mem_map.mp (mem_of_mapGet? h)
  obtain ⟨-, rfl⟩ := Prod.mk.inj hy
  rfl

theorem length_drop_append {α : Type} (l : List α) (a : α) : ((l ++ [a]).drop (l.length - 4095)).length = min 4096 (l.length + 1) := by
  rw [List.length_drop, List.length_append, List.length_singleton]
  omega

section Loss

variable {s : State} (hon : s.dev.supply = .on)

include hon

theorem exec_shutdown_off : ∃ w, w.entries.length = min 4096 (s.dev.wear.entries.length + 1) ∧ exec .shutdown s =
    .next { s with mach := { goDark s.mach with errs := (0, 0) }, cur := none
                   dev := { s.dev with wear := w, supply := .off, marker := none, mailbox := [] } } := by
  obtain ⟨w, e, hentries, h⟩ := appendWear_only { s with mach := goDark s.mach, cur := none } s.dev.wear.headDay
  refine ⟨w, by rw [hentries]; exact length_drop_append .., ?_⟩
  show execShutdown s = _
  unfold execShutdown
  rw [if_neg (by rw [hon]; decide), h]

/-- The machine after the accesses that were issued when a warning came. -/
def warnedMach (s : State) : Mach := performIssued s.dev.gtc (bump s.mach)

/-- The marker of a warning. -/
def warningMarker (s : State) : Marker := markerOf s.dev s.mach (dirtyStack (warnedMach s))

omit hon in
theorem warningMarker_sound (s : State) : (warningMarker s).head = s.dev.jhead ∧ (warningMarker s).gtc = s.dev.gtc ∧
    (warningMarker s).flushed = true ∧ (warningMarker s).hash = (sha3 (markerBody (warningMarker s))).take 32 := ⟨rfl, rfl, rfl, rfl⟩

/-- The dark machine with the marker in its line. -/
def markedMach (s : State) : Mach :=
  writeBytes (goDark (flushStacks s.dev.gtc (warnedMach s))) markerLine (markerBytes (warningMarker s))

omit hon in
theorem markedMach_mem (s : State) :
    (markedMach s).mem = memWrite (flushStacks s.dev.gtc (warnedMach s)).mem markerLine (markerBytes (warningMarker s)) :=
  writeBytes_mem _ markerLine_own

/-- The state that a warning leaves, before its wear entry. -/
def markedState (s : State) : State :=
  { s with mach := markedMach s, dev := lastGasp { s.dev with marker := some (warningMarker s) } (warningMarker s), cur := none }

omit hon in
theorem markedState_dev (s : State) : ∃ n out, (markedState s).dev = { s.dev with
    outNo := n, out := out, mailbox := [], marker := some (warningMarker s)
    slots := s.dev.slots.map fun x => (x.1, { x.2 with session := 0, key := [], fseq := 0 }) } := lastGasp_only ..

theorem exec_supplyLossWarning_off : exec .supplyLossWarning s =
    .next (let t := appendWear (markedState s) (markedState s).dev.wear.headDay
      { t with dev := { t.dev with supply := .off } }) := by
  show execSupplyLossWarning s = _
  unfold execSupplyLossWarning
  rw [if_neg (by rw [hon]; decide)]
  rfl

end Loss

/-! ### What the events of the supply do -/

section Supply

variable {s : State} {x : Input} {rest : List Input} {b : BootInput} (hin : s.inputs = x :: rest) (hb : bootInput? x = some b)

include hin hb

theorem exec_deviceReset_takes : exec .deviceReset s =
    .next (if b.holdup < 1000 then holdReset { s with inputs := rest } b else coldBoot { s with inputs := rest } b) := by
  unfold exec
  exact takeInput_some hin hb

theorem exec_supplyReturn_takes (hoff : s.dev.supply ≠ .on) : exec .supplyReturn s =
    .next (if b.holdup < 1000 then { s with
        inputs := rest, dev := { s.dev with supply := .held, reports := s.dev.reports ++ [.holdup b.holdup] } }
      else if mayResume s.dev b && imageGood b.d0 then resumeBoot { s with inputs := rest } b else coldBoot { s with inputs := rest } b) := by
  unfold exec execSupplyReturn
  rw [if_neg hoff]
  exact takeInput_some hin hb

end Supply

/-- Settles O48: a reset and a return go by the hold-up, the marker and the image; a warning and a shutdown by whether the supply is on. -/
theorem bootAndSupply : Obligations.BootAndSupply := by
  intro s
  refine ⟨fun x rest b hin hb hheld => ?_, fun x rest b hin hb hshort => ?_, fun x rest b hin hb hoff => ⟨fun hmay hgood hheld => ?_,
      fun hheld hcold => ?_, fun hshort => ?_⟩, fun hon => ?_, fun b => ?_, fun hon i hi => ?_, fun hoff => ?_⟩
  · rw [exec_deviceReset_takes hin hb, if_neg (Nat.not_lt.mpr hheld)]
  · rw [exec_deviceReset_takes hin hb, if_pos hshort]
    exact ⟨_, rfl, rfl, rfl, rfl, rfl, rfl, rfl, rfl⟩
  · rw [exec_supplyReturn_takes hin hb hoff, if_neg (Nat.not_lt.mpr hheld), if_pos (by rw [hmay, hgood]; rfl)]
    obtain ⟨hmem, hctxs, hkeys, hnodes⟩ := resumeBoot_mach { s with inputs := rest } b
    obtain ⟨hhead, hpcc, hboots, hsupply, hmarker, hlen, hstay⟩ := resumeBoot_dev { s with inputs := rest } b
    refine ⟨_, rfl, rfl, hmem, hctxs, hkeys, hhead, hpcc, hboots, hsupply, hmarker, hlen, hstay, fun h n hn => ?_⟩
    unfold getNode? at hn
    rw [hnodes] at hn
    exact resumedNodes_ready (mem_of_mapGet? hn)
  · rw [exec_supplyReturn_takes hin hb hoff, if_neg (Nat.not_lt.mpr hheld), if_neg]
    rwa [Bool.and_eq_true, not_and_or, Bool.not_eq_true, Bool.not_eq_true]
  · rw [exec_supplyReturn_takes hin hb hoff, if_pos hshort]
  · exact if_pos hon
  · intro t
    obtain ⟨cores, pkg, pod, hs, n, e, hmach⟩ := coldBoot_mach s b
    have hmach' : t.mach = _ := hmach
    rw [hmach']
    refine ⟨rfl, rfl, rfl, rfl, rfl, rfl, rfl, rfl, rfl, rfl, coldBoot_measures s b, coldBoot_badImage s b,
      fun stack => coldBoot_lostStack s b, fun c hc => ?_⟩
    rintro ⟨u, hu, hunit⟩
    rw [← hmach']
    refine coldBoot_absent s b hc hu ?_
    rcases hunit with rfl | rfl | rfl | rfl | ⟨bank, rfl⟩ <;> simp [removesCluster]
  · simp only [List.mem_cons, List.not_mem_nil, or_false] at hi
    rcases hi with rfl | rfl
    · obtain ⟨n, out, hdev⟩ := markedState_dev s
      obtain ⟨w, e, hentries, h⟩ := appendWear_only (markedState s) (markedState s).dev.wear.headDay
      obtain ⟨hhead, hgtc, hflushed, hhash⟩ := warningMarker_sound s
      refine ⟨_, exec_supplyLossWarning_off hon, ?_⟩
      rw [h, hdev]
      rw [hdev] at hentries
      have hlen : w.entries.length = min 4096 (s.dev.wear.entries.length + 1) := by
        rw [hentries]
        exact length_drop_append s.dev.wear.entries e
      refine ⟨rfl, rfl, rfl, rfl, rfl, rfl, rfl, hlen, nofun,
        fun _ => ⟨fun k x hk => session_of_lastGasp hk, _, rfl, hhead, hgtc, hflushed, hhash,
          (flushStacks s.dev.gtc (warnedMach s)).mem, ?_⟩⟩
      dsimp only
      exact markedMach_mem s
    · obtain ⟨w, hlen, hx⟩ := exec_shutdown_off hon
      exact ⟨_, hx, rfl, rfl, rfl, rfl, rfl, rfl, rfl, hlen, fun _ => ⟨rfl, rfl⟩, nofun⟩
  · have hnot : (s.dev.supply != .on) = true := by simpa using hoff
    exact ⟨if_pos hnot, if_pos hnot⟩

end Sys2Proof.Machine
end

section
/-!
PROOF. Debug stops, resumption, dumps and stall samples (R421 to R428).
-/

namespace Sys2Proof.Machine

/-! ### Stops (R423, R424) -/

section Stops

variable {s : State} {k : Nat} {w : Warp} (hw : getWarp? (atBoundary s.dev.gtc s.mach k) k = some w)

include hw

theorem exec_debugStop_due {p pl : Nat} {st : Stop} (hsteps : stepsItself w = true)
    (hstands : standsAtBoundary (atBoundary s.dev.gtc s.mach k) w = true)
    (hdue : stopDue (atBoundary s.dev.gtc s.mach k) k w (dueStreams (atBoundary s.dev.gtc s.mach k) w) = some (p, pl, st)) :
    exec (.debugStop k) s = machNext s (stopWarp s.dev (atBoundary s.dev.gtc s.mach k) k p pl st) := by
  show execDebugStop k s = _
  simp only [execDebugStop, onMach_next, machNext, hw, hsteps, hstands, Bool.and_self, hdue]

theorem exec_debugStop_none
    (hdue : stopDue (atBoundary s.dev.gtc s.mach k) k w (dueStreams (atBoundary s.dev.gtc s.mach k) w) = none) :
    exec (.debugStop k) s = .next s := by
  show execDebugStop k s = _
  simp only [execDebugStop, onMach_next, hw, hdue]
  cases stepsItself w && standsAtBoundary (atBoundary s.dev.gtc s.mach k) w <;> rfl

end Stops

/-! ### Resumption (R426) -/

@[simp] theorem writePage_warps (m : Mach) (ctx off v : Nat) : (writePage m ctx off v).warps = m.warps := by
  unfold writePage
  split
  · exact writeBytes_warps ..
  · rfl

@[simp] theorem noteStops_warps (m : Mach) (ctx : Nat) : (noteStops m ctx).warps = m.warps := writePage_warps ..

theorem mapGet?_map {α β : Type} (f : α → β) (m : Map α) (n : Nat) :
    mapGet? (m.map fun x => (x.1, f x.2)) n = (mapGet? m n).map f := by
  induction m with
  | nil => rfl
  | cons x m ih =>
    simp only [List.map_cons, mapGet?, ih]
    split <;> rfl

/-- Every warp of the context is resumed where it is stopped, and no other warp changes. -/
theorem getWarp?_contWarps (m : Mach) (ctx k : Nat) :
    getWarp? (contWarps m ctx) k = (getWarp? m k).map fun w => if w.ctx = ctx then resumeStopped w else w := by
  simp only [getWarp?, contWarps, noteStops_warps]
  exact mapGet?_map (fun w : Warp => if w.ctx = ctx then resumeStopped w else w) m.warps k

theorem resumeStopped_running {w : Warp} (h : w.stopped = none) : resumeStopped w = w := by simp only [resumeStopped, h]

/-- A stopped warp goes on, and its paths are past their breakpoint or BRK unless a watch hit had stopped it. -/
theorem resumeStopped_stopped {w : Warp} {st : Stop} (h : w.stopped = some st) :
    resumeStopped w =
      (let past (q : PathSt) : PathSt := { q with skipbp := q.skipbp || decide (st.code ≠ 3) }
      { w with stopped := none, p0 := past w.p0, p1 := w.p1.map past }) := by
  by_cases hwatch : st.code = 3 <;> simp [resumeStopped, h, hwatch]

theorem exec_debugCont (ctx : Nat) (s : State) : exec (.debugCont ctx) s = machNext s (contWarps s.mach ctx) := rfl

/-! ### Dumps (R428) -/

theorem exec_debugDump {s : State} {ctx : Nat} {c : Context} (hc : getCtx? s.mach ctx = some c) :
    exec (.debugDump ctx) s = machNext s (noteStops (updCtx ((dumpOf s.dev s.mach ctx c).getD s.mach) ctx fun x =>
      { x with ddone := (dumpOf s.dev s.mach ctx c).isSome, derr := (dumpOf s.dev s.mach ctx c).isNone }) ctx) := by
  show execDebugDump ctx s = _
  simp only [execDebugDump, onMach_next, machNext, dumpNow, hc]

/-! ### Stall samples (R421) -/

theorem samples_iff {c : Context} {clock : Nat} : samples c clock = true ↔
    c.dbg = true ∧ (dbgWord c 0).getLsbD 5 = true ∧ clock % 2 ^ bits (dbgWord c 8) 4 0 = 0 := by
  simp only [samples, dbgCtl, Bool.and_eq_true, decide_eq_true_eq, and_assoc]

theorem exec_stallSample_empty {s : State} {core : Nat} (hnone : sampled s.mach core = none) : exec (.stallSample core) s = .next s := by
  show execStallSample core s = _
  simp only [execStallSample, onMach_next, takeSample, hnone, Option.bind_none]

theorem exec_stallSample_sampled {s : State} {core k : Nat} {w : Warp} {c : Context} (hk : sampled s.mach core = some k)
    (hw : getWarp? s.mach k = some w) (hc : ctxOf s.mach w = some c) : exec (.stallSample core) s = machNext s
    (if (getCore s.mach core).sampledTo ≤ s.mach.clock ∧ samples c s.mach.clock = true then
      traceWrite (updCore (bump s.mach) core fun x => { x with sampledTo := s.mach.clock + 1 }) w.ctx (sampleRecord s.dev s.mach k w)
    else s.mach) := by
  show execStallSample core s = _
  simp only [execStallSample, onMach_next, machNext, takeSample, hk, hw, hc, Option.bind_some, Option.map_some, Option.elim_some,
    Bool.and_eq_true, decide_eq_true_eq]

/-- Settles O44: each event goes by the one condition that its lemma names; CONT is one map over the warps. -/
theorem debugUnit : Obligations.DebugUnit := by
  intro s
  refine ⟨fun _ _ _ _ _ hw => exec_debugStop_due hw, fun _ _ => exec_debugStop_none,
    fun ctx => ⟨_, exec_debugCont ctx s, rfl, fun k w hw => ⟨fun hother => ?_, fun st hctx hst => ?_⟩⟩,
    fun _ _ => exec_debugDump, fun core k w c hk hw hc => ⟨fun hdbg hsamp hper hdue => ?_, fun hnot => ?_⟩,
    fun _ => exec_stallSample_empty⟩
  · rw [getWarp?_contWarps, hw, Option.map_some]
    split_ifs with hctx
    · rw [resumeStopped_running (hother.resolve_left (not_not_intro hctx))]
    · rfl
  · rw [getWarp?_contWarps, hw, Option.map_some, if_pos hctx, resumeStopped_stopped hst]
  · rw [exec_stallSample_sampled hk hw hc, if_pos ⟨hdue, samples_iff.mpr ⟨hdbg, hsamp, hper⟩⟩]
  · have hskip : ¬ ((getCore s.mach core).sampledTo ≤ s.mach.clock ∧ samples c s.mach.clock = true) := by
      rw [samples_iff]
      rintro ⟨hdue, hdbg, hsamp, hper⟩
      rcases hnot with h | h | h | h
      · exact Bool.false_ne_true (h.symm.trans hdbg)
      · exact Bool.false_ne_true (h.symm.trans hsamp)
      · exact h hper
      · exact Nat.not_lt.mpr hdue h
    rw [exec_stallSample_sampled hk hw hc, if_neg hskip]
    rfl

end Sys2Proof.Machine
end

section
/-!
PROOF. The control block at reset, PCC.LIM and the coolant (R430, R431, R435, R448, R456, R466).
-/

namespace Sys2Proof.Machine

/-! ### PCC.LIM (R431) -/

theorem pccLim_eq (p : Pcc) : pccLim p = p.ilim * 2 ^ 48 + p.ceil * 2 ^ 32 + p.susw * 2 ^ 16 + p.qc := by
  simp only [pccLim, packFields, List.map_cons, List.map_nil, listSum]
  omega

/-- The four fields of a doubleword, put together again. -/
theorem limFields_eq (v : DWord) :
    bits v 63 48 * 2 ^ 48 + bits v 47 32 * 2 ^ 32 + bits v 31 16 * 2 ^ 16 + bits v 15 0 = v.toNat := by
  have hv := v.isLt
  simp only [bits]
  omega

theorem bits_top (v : DWord) : bits v 63 48 = v.toNat / 2 ^ 48 := by
  have hv := v.isLt
  simp only [bits]
  omega

theorem writeOk_pccLim (v : DWord) : writeOk .pccLim v = (v.toNat / 2 ^ 48 != 0) := by
  rw [writeOk, bits_top]

theorem pccLim_writeReg (d : Dev) (v : DWord) : pccLim (writeReg d .pccLim v).pcc = v.toNat :=
  (pccLim_eq _).trans (limFields_eq v)

/-! ### The coolant (R466) -/

theorem coolantOk_iff {tin flow : Nat} : coolantOk tin flow = true ↔ 200 ≤ tin ∧ tin ≤ 400 ∧ 100 ≤ flow := by
  simp [coolantOk, and_assoc]

section Coolant

variable {s : State} {tin flow : Nat} {rest : List Input} (hs : s.inputs = .coolant tin flow :: rest)

include hs

theorem exec_coolantChange_inside (hok : coolantOk tin flow = true) : exec .coolantChange s = .next { s with
    inputs := rest
    dev := updPcc s.dev fun p => { p with qc := plateCapacity tin flow, sust := p.sustSaved.getD p.sust, sustSaved := none } } := by
  change execCoolantChange s = _
  refine (takeInput_some (a := (tin, flow)) hs (by rfl)).trans ?_
  simp only [hok, if_true]

theorem exec_coolantChange_outside (hbad : coolantOk tin flow = false) : exec .coolantChange s = .next { s with
    inputs := rest
    dev := updPcc s.dev fun p => { p with qc := plateCapacity tin flow, sust := 8, sustSaved := some (p.sustSaved.getD p.sust) }
    mach := logHealth s.mach { healthOf 3 2 (packFields [(0, tin), (32, flow)]) with gtc := s.dev.gtc } } := by
  change execCoolantChange s = _
  refine (takeInput_some (a := (tin, flow)) hs (by rfl)).trans ?_
  simp only [hbad, Bool.false_eq_true, if_false]

end Coolant

/-! ### The state after reset -/

theorem reset_inLimits : State.reset.dev.inLimits := by
  refine ⟨by decide, by decide, by decide, by decide, nofun, by decide, by decide, by decide, by decide, by decide⟩

/-- Settles O57: reset by its definition; a write of PCC.LIM and a change of the coolant by the lemmas about their events. -/
theorem resetState : Obligations.ResetState := by
  refine ⟨?_, fun p _ _ _ _ => pccLim_eq p, fun s v => ⟨fun h => ?_, fun h => ?_⟩, fun s tin flow rest hs => ?_⟩
  · exact ⟨rfl, rfl, rfl, rfl, rfl, rfl, rfl, rfl, rfl, rfl, rfl, rfl, rfl, rfl, rfl, rfl, rfl, rfl, rfl, rfl, rfl, rfl, rfl, rfl, rfl,
      rfl, rfl, rfl, rfl, reset_inLimits⟩
  · have hok : writeOk .pccLim v = true := by rw [writeOk_pccLim, bne_iff_ne]; exact Nat.one_le_iff_ne_zero.mp h
    exact ⟨_, exec_registerWrite_valid hok s, rfl, pccLim_writeReg s.dev v, rfl⟩
  · have hbad : writeOk .pccLim v = false := by rw [writeOk_pccLim, h]; rfl
    exact ⟨_, exec_registerWrite_invalid hbad nofun s, rfl⟩
  · cases hok : coolantOk tin flow with
    | true => exact ⟨_, exec_coolantChange_inside hs hok, rfl⟩
    | false => exact ⟨_, exec_coolantChange_outside hs hok, rfl⟩

end Sys2Proof.Machine
end

section
/-!
PROOF. The time receiver: messages of the selected source, a measurement and its use, the selection of a source, holdover (R446, R447, R461).
-/

namespace Sys2Proof.Machine

/-! ### Messages of the selected source (R446) -/

theorem fromSource_iff {p : Ptp} {src domain : Nat} :
    fromSource p src domain = true ↔ domain = p.domain ∧ ∃ a, p.source = some a ∧ a.sender = src := by
  cases h : p.source <;> simp [fromSource, h]

section Messages

variable {s : State} {rest : List Input} {src seqId domain : Nat}

theorem exec_ptpSync_mine {t1 : Nat} {two : Bool} (hs : s.inputs = .sync src seqId domain t1 two :: rest)
    (hmine : fromSource s.dev.ptp src domain = true) : exec .ptpSync s = .next { s with inputs := rest, dev := { s.dev with ptp :=
      { s.dev.ptp with
        lastSync := s.mach.clock, hold := false, seqId := seqId, t2 := some s.dev.gtc, t1 := if two then none else some t1 } } } := by
  change execPtpSync s = _
  refine (takeInput_some (a := (src, seqId, domain, t1, two)) hs (by rfl)).trans ?_
  simp only [updPtp, hmine, if_true]

theorem exec_ptpSync_other {t1 : Nat} {two : Bool} (hs : s.inputs = .sync src seqId domain t1 two :: rest)
    (hother : fromSource s.dev.ptp src domain = false) : exec .ptpSync s = .next { s with inputs := rest } := by
  change execPtpSync s = _
  refine (takeInput_some (a := (src, seqId, domain, t1, two)) hs (by rfl)).trans ?_
  simp only [updPtp, hother, Bool.false_eq_true, if_false]

theorem exec_ptpFollowUp_mine {t1 : Nat} (hs : s.inputs = .followUp src seqId domain t1 :: rest)
    (hmine : fromSource s.dev.ptp src domain = true) (hseq : s.dev.ptp.seqId = seqId) (h2 : s.dev.ptp.t2.isSome)
    (h1 : s.dev.ptp.t1 = none) : exec .ptpFollowUp s =
      .next { s with inputs := rest, dev := { s.dev with ptp := { s.dev.ptp with t1 := some t1 } } } := by
  change execPtpFollowUp s = _
  refine (takeInput_some (a := (src, seqId, domain, t1)) hs (by rfl)).trans ?_
  simp only [updPtp, hmine, hseq, h2, h1, decide_true, Option.isNone_none, Bool.and_self, if_true]

theorem exec_ptpFollowUp_other {t1 : Nat} (hs : s.inputs = .followUp src seqId domain t1 :: rest)
    (hother : fromSource s.dev.ptp src domain = false ∨ s.dev.ptp.seqId ≠ seqId) :
    exec .ptpFollowUp s = .next { s with inputs := rest } := by
  change execPtpFollowUp s = _
  refine (takeInput_some (a := (src, seqId, domain, t1)) hs (by rfl)).trans ?_
  rcases hother with h | h <;> simp only [updPtp, h, decide_false, Bool.and_false, Bool.false_and, Bool.false_eq_true, if_false]

theorem exec_ptpDelayReq_sends (hsource : s.dev.ptp.source.isSome) : exec .ptpDelayReq s = .next { s with dev := { s.dev with ptp :=
    { s.dev.ptp with
      dseq := (s.dev.ptp.dseq + 1) % 65536, sent := s.dev.ptp.sent ++ [((s.dev.ptp.dseq + 1) % 65536, s.dev.ptp.domain)]
      t3 := some s.dev.gtc } } } := by
  change execPtpDelayReq s = _
  simp only [execPtpDelayReq, onDev, updPtp, hsource, if_true]

theorem exec_ptpDelayReq_idle (hsource : s.dev.ptp.source = none) : exec .ptpDelayReq s = .next s := by
  change execPtpDelayReq s = _
  simp only [execPtpDelayReq, onDev, updPtp, hsource, Option.isSome_none, Bool.false_eq_true, if_false]

theorem exec_ptpDelayResp_completes {t1 t2 t3 t4 : Nat} (hs : s.inputs = .delayResp src seqId domain t4 :: rest)
    (hmine : fromSource s.dev.ptp src domain = true) (hseq : s.dev.ptp.dseq = seqId) (h1 : s.dev.ptp.t1 = some t1)
    (h2 : s.dev.ptp.t2 = some t2) (h3 : s.dev.ptp.t3 = some t3) : exec .ptpDelayResp s =
      .next { s with inputs := rest, dev := useOffset s.dev s.mach.ctxs.isEmpty (ptpOffset t1 t2 t3 t4) } := by
  change execPtpDelayResp s = _
  refine (takeInput_some (a := (src, seqId, domain, t4)) hs (by rfl)).trans ?_
  simp only [hmine, hseq, h1, h2, h3, decide_true, Bool.and_self]

theorem exec_ptpDelayResp_other {t4 : Nat} (hs : s.inputs = .delayResp src seqId domain t4 :: rest)
    (hother : fromSource s.dev.ptp src domain = false) : exec .ptpDelayResp s = .next { s with inputs := rest } := by
  change execPtpDelayResp s = _
  refine (takeInput_some (a := (src, seqId, domain, t4)) hs (by rfl)).trans ?_
  simp only [hother, Bool.false_and]

end Messages

/-! ### A measurement and its use (R447, R461) -/

/-- Halves are rounded down. -/
theorem ptpOffset_bounds (t1 t2 t3 t4 : Nat) : 2 * ptpOffset t1 t2 t3 t4 ≤ ((t2 : Int) - t1) - ((t4 : Int) - t3) ∧
    ((t2 : Int) - t1) - ((t4 : Int) - t3) < 2 * ptpOffset t1 t2 t3 t4 + 2 := by
  unfold ptpOffset
  omega

section Offset

variable (d : Dev) (noCtx : Bool) (offs : Int)

/-- Only a first, negative offset moves the GTC, and only where no context exists. -/
theorem useOffset_gtc {P : Prop} [Decidable P] (hctx : noCtx = true ↔ P) : ((useOffset d noCtx offs).gtc : Int) =
    if d.ptp.measured = false ∧ P ∧ offs < 0 then (d.gtc : Int) - offs else d.gtc := by
  have hsets : (!d.ptp.measured && noCtx && decide (offs < 0)) = true ↔ d.ptp.measured = false ∧ P ∧ offs < 0 := by
    simp [← hctx, and_assoc]
  simp only [useOffset, hsets]
  split <;> omega

theorem useOffset_lastDay : (useOffset d noCtx offs).wear.lastDay + d.gtc = d.wear.lastDay + (useOffset d noCtx offs).gtc := by
  simp only [useOffset, updWear]
  omega

theorem useOffset_lock : (useOffset d noCtx offs).ptp.lock = (!decide (200 < offs.natAbs) &&
    (d.ptp.lock || decide (16 ≤ if offs.natAbs ≤ 50 then d.ptp.good + 1 else 0))) := rfl

theorem useOffset_unlocks (h : 200 < offs.natAbs) : (useOffset d noCtx offs).ptp.lock = false := by
  rw [useOffset_lock, decide_eq_true h]
  rfl

theorem useOffset_locked (hlock : d.ptp.lock = true) (h : offs.natAbs ≤ 200) : (useOffset d noCtx offs).ptp.lock = true := by
  rw [useOffset_lock, decide_eq_false (Nat.not_lt.mpr h), hlock]
  rfl

theorem useOffset_locks (h : offs.natAbs ≤ 50) (hgood : 15 ≤ d.ptp.good) : (useOffset d noCtx offs).ptp.lock = true := by
  rw [useOffset_lock, decide_eq_false (show ¬ 200 < offs.natAbs by omega), if_pos h, decide_eq_true (Nat.succ_le_succ hgood), Bool.or_true]
  rfl

theorem useOffset_slew : (useOffset d noCtx offs).ptp.slew.natAbs ≤ 100000 := by
  simp only [useOffset]
  split <;> omega

end Offset

/-! ### The selection of a source (R446) -/

theorem selectSource_source (p : Ptp) : (selectSource p).source =
    (listBest (fun (x y : Announce × Nat) => announceBefore x.1 y.1) p.foreign).map (·.1) := by
  unfold selectSource
  dsimp only
  split <;> rfl

theorem selectSource_keeps (p : Ptp) : (selectSource p).foreign = p.foreign ∧ (selectSource p).domain = p.domain ∧
    (selectSource p).lastSync = p.lastSync := by
  unfold selectSource
  dsimp only
  split <;> exact ⟨rfl, rfl, rfl⟩

/-- A change of source begins a new measurement. -/
theorem selectSource_changed {p : Ptp} (h : (selectSource p).source.map (·.sender) ≠ p.source.map (·.sender)) :
    (selectSource p).t1 = none ∧ (selectSource p).t2 = none ∧ (selectSource p).t3 = none := by
  rw [selectSource_source] at h
  unfold selectSource
  rw [if_neg h]
  exact ⟨rfl, rfl, rfl⟩

theorem selectSource_unchanged {p : Ptp} (h : (selectSource p).source.map (·.sender) = p.source.map (·.sender)) :
    (selectSource p).t1 = p.t1 ∧ (selectSource p).t2 = p.t2 ∧ (selectSource p).t3 = p.t3 := by
  rw [selectSource_source] at h
  unfold selectSource
  rw [if_pos h]
  exact ⟨rfl, rfl, rfl⟩

/-- What an Announce of the receiver's domain makes of it: the transmitters that are heard with this one's dataset renewed; the first one
starts the wait for a Sync. -/
def hearAnnounce (clock : Nat) (p : Ptp) (a : Announce) : Ptp :=
  { p with lastSync := if p.source = none then clock else p.lastSync
           foreign := (p.foreign.filter fun x => x.1.sender != a.sender) ++ [(a, clock)] }

theorem exec_ptpAnnounce_other {s : State} {rest : List Input} {a : Announce} (hs : s.inputs = .announce a :: rest)
    (hdomain : a.domain ≠ s.dev.ptp.domain) : exec .ptpAnnounce s = .next { s with inputs := rest } := by
  change execPtpAnnounce s = _
  refine (takeInput_some hs (by rfl)).trans ?_
  simp only [updPtp, bne_iff_ne.mpr hdomain, if_true]

theorem exec_ptpAnnounce_heard {s : State} {rest : List Input} {a : Announce} (hs : s.inputs = .announce a :: rest)
    (hdomain : a.domain = s.dev.ptp.domain) : exec .ptpAnnounce s = .next { s with
      inputs := rest, dev := { s.dev with ptp := selectSource (hearAnnounce s.mach.clock s.dev.ptp a) } } := by
  change execPtpAnnounce s = _
  refine (takeInput_some hs (by rfl)).trans ?_
  have hsame : (a.domain != s.dev.ptp.domain) = false := by simp [hdomain]
  cases hsource : s.dev.ptp.source with
  | none => simp only [updPtp, hsame, Bool.false_eq_true, if_false, hsource, Option.isNone_none, if_true, hearAnnounce]
  | some b => simp only [updPtp, hsame, Bool.false_eq_true, if_false, hsource, Option.isNone_some, reduceCtorEq, hearAnnounce]

/-- Of two transmitters that are heard, the better one is selected. -/
theorem listBest_pair {α : Type} (before : α → α → Bool) (x y : α) :
    listBest before [x, y] = some (if before y x then y else x) := by
  simp only [listBest]
  split <;> rfl

theorem announceBefore_steps {a b : Announce} (h : a.identity = b.identity) :
    announceBefore a b = true ↔ a.steps < b.steps ∨ (a.steps = b.steps ∧ a.sender < b.sender) := by
  simp [announceBefore, h, listLess]

theorem mem_dropSilent {clock : Nat} {p : Ptp} {x : Announce × Nat} (hx : x ∈ (dropSilent clock p).foreign) :
    clock < x.2 + 6000000000 := by
  unfold dropSilent at hx
  split at hx
  · next hall => exact of_decide_eq_true (List.all_eq_true.mp hall x hx)
  · rw [(selectSource_keeps _).1] at hx
    exact of_decide_eq_true (List.mem_filter.mp hx).2

theorem dropSilent_of_heard {clock : Nat} {p : Ptp} (h : ∀ x ∈ p.foreign, clock < x.2 + 6000000000) : dropSilent clock p = p :=
  if_pos (List.all_eq_true.mpr fun x hx => decide_eq_true (h x hx))

/-! ### Holdover (R447) -/

theorem exec_ptpHoldover_silent {s : State} (h : s.dev.ptp.lastSync + 8000000000 ≤ s.mach.clock) : exec .ptpHoldover s =
    .next { s with dev := { s.dev with ptp := { s.dev.ptp with lock := false, hold := true, good := 0 } } } := by
  change execPtpHoldover s = _
  simp only [execPtpHoldover, onDev, updPtp, h, if_true]

theorem exec_ptpHoldover_heard {s : State} (h : s.mach.clock < s.dev.ptp.lastSync + 8000000000) : exec .ptpHoldover s = .next s := by
  change execPtpHoldover s = _
  simp only [execPtpHoldover, onDev, updPtp, Nat.not_le.mpr h, if_false]

/-- Settles O47: each message by the one equation of its event; the use of a measurement and the selection of a source by the lemmas about
`useOffset` and `selectSource`. -/
theorem timeReceiver : Obligations.TimeReceiver := by
  intro s rest src seqId domain p mine out
  have hmine : fromSource p src domain = true ↔ mine := fromSource_iff
  have hother (h : ¬ mine) : fromSource p src domain = false := Bool.eq_false_iff.mpr (mt hmine.mp h)
  refine ⟨fun t1 two hs => ⟨fun h => ?_, fun h => ?_⟩, fun t1 hs => ⟨fun h hseq h2 h1 => ?_, fun h => ?_⟩,
    exec_ptpDelayReq_sends, exec_ptpDelayReq_idle, fun t1 t2 t3 t4 hs h hseq h1 h2 h3 => ?_, fun t4 hs h => ?_, fun a hs => ?_,
    fun a b => ⟨fun h => if_neg h, announceBefore_steps⟩, fun clock => ⟨fun x => mem_dropSilent, dropSilent_of_heard⟩, fun v hv => ?_,
    exec_ptpHoldover_silent, exec_ptpHoldover_heard⟩
  · exact exec_ptpSync_mine hs (hmine.mpr h)
  · exact exec_ptpSync_other hs (hother h)
  · exact exec_ptpFollowUp_mine hs (hmine.mpr h) hseq h2 h1
  · exact exec_ptpFollowUp_other hs (h.imp_left hother)
  · obtain ⟨hlow, hhigh⟩ := ptpOffset_bounds t1 t2 t3 t4
    refine ⟨_, exec_ptpDelayResp_completes hs (hmine.mpr h) hseq h1 h2 h3, rfl, rfl, hlow, hhigh,
      useOffset_gtc _ _ _ List.isEmpty_iff, useOffset_lastDay ..,
      useOffset_unlocks _ _ _, useOffset_locked _ _ _, useOffset_locks _ _ _, useOffset_slew ..⟩
  · exact exec_ptpDelayResp_other hs (hother h)
  · refine ⟨exec_ptpAnnounce_other hs, fun hdomain => ⟨_, exec_ptpAnnounce_heard hs hdomain, ?_⟩⟩
    obtain ⟨hforeign, -, hsync⟩ := selectSource_keeps (hearAnnounce s.mach.clock p a)
    refine ⟨hforeign, fun hnone => ?_, fun b n hone => ?_, selectSource_changed, selectSource_unchanged, hsync⟩
    · rw [selectSource_source, hearAnnounce, hnone]
      rfl
    · rw [selectSource_source, hearAnnounce, hone, List.singleton_append, listBest_pair]
      split <;> rfl
  · have hq : (writeReg s.dev .timeCtl v).ptp = _ := if_neg hv
    rw [hq]
    exact ⟨rfl, rfl, rfl⟩

end Sys2Proof.Machine
end

section
/-!
PROOF. Frame boundaries and the clock patterns of busy clusters (R432).
-/

namespace Sys2Proof.Machine

/-! ### The pattern of k ones -/

/-- Bit `j` of the canonical pattern is 1 where the count of ones rises. -/
theorem canonicalPattern_getLsbD : ∀ k ≤ 16, ∀ j < 16, (canonicalPattern k).getLsbD j = decide (j * k / 16 < (j + 1) * k / 16) := by
  decide +kernel

/-- A rotation to the left reads bit `i` from where it stood. -/
theorem getLsbD_rotateLeft_sixteen (x : BitVec 16) {r i : Nat} (hr : r < 16) (hi : i < 16) :
    (x.rotateLeft r).getLsbD i = x.getLsbD ((i + 32 - r) % 16) := by
  rw [BitVec.getLsbD_rotateLeft, Nat.mod_eq_of_lt hr]
  rcases Nat.lt_or_ge i r with hlow | hhigh
  · rw [decide_eq_true hlow, cond_true, show (i + 32 - r) % 16 = 16 - r + i by omega]
  · rw [decide_eq_false (Nat.not_lt.mpr hhigh), cond_false, decide_eq_true hi, Bool.true_and, show (i + 32 - r) % 16 = i - r by omega]

theorem powered_pat {k i : Nat} (cl : Nat) (x : Cluster) (hk : k ≤ 16) (hi : i < 16) :
    (powered k cl x).pat.getLsbD i = clockPattern k cl i :=
  (getLsbD_rotateLeft_sixteen _ (Nat.mod_lt _ (by decide)) hi).trans
    (canonicalPattern_getLsbD k hk _ (Nat.mod_lt _ (by decide)))

/-! ### The boundary -/

/-- A run of updates of clusters, each by what its number says. -/
def updByNumber (m : Mach) (cls : List Nat) (g : Nat → Cluster → Cluster) : Mach := cls.foldl (fun m cl => updCluster m cl (g cl)) m

theorem updByNumber_only (m : Mach) (cls : List Nat) (g : Nat → Cluster → Cluster) :
    ∃ cs, updByNumber m cls g = { m with clusters := cs } :=
  foldl_clusters_only (fun _ _ => ⟨_, rfl⟩) cls m

theorem updByNumber_wf {m : Mach} (cls : List Nat) (g : Nat → Cluster → Cluster) (hwf : mapWf m.clusters = true) :
    mapWf (updByNumber m cls g).clusters = true := by
  unfold updByNumber
  induction cls generalizing m with
  | nil => exact hwf
  | cons cl cls ih => exact ih (mapWf_setD cl _ _ hwf)

/-- What every update of a cluster brings about holds of it after the run. -/
theorem getCluster_updByNumber {Q : Cluster → Prop} {m : Mach} {cls : List Nat} {g : Nat → Cluster → Cluster} {cl : Nat}
    (hset : ∀ x, Q (g cl x)) (hwf : mapWf m.clusters = true) (hcl : cl ∈ cls) : Q (getCluster (updByNumber m cls g) cl) := by
  induction cls using List.reverseRecOn with
  | nil => cases hcl
  | append_singleton cls c ih =>
    have hlast : updByNumber m (cls ++ [c]) g = updCluster (updByNumber m cls g) c (g c) := List.foldl_concat ..
    rw [hlast]
    by_cases hc : cl = c
    · rw [← hc, getCluster_upd_self cl _ (updByNumber_wf cls g hwf)]
      exact hset _
    · rw [getCluster_upd_other _ _ hc]
      exact ih ((List.mem_append.mp hcl).resolve_right fun h => hc (List.mem_singleton.mp h))

theorem exec_frameBoundary_due {s : State} (h : s.mach.clock % 16 = 0) : exec .frameBoundary s = machNext s (frameBoundary s.dev s.mach) := by
  change execFrameBoundary s = _
  simp only [execFrameBoundary, onMach, h, if_true, machNext]

theorem exec_frameBoundary_between {s : State} (h : s.mach.clock % 16 ≠ 0) : exec .frameBoundary s = .next s := by
  change execFrameBoundary s = _
  simp only [execFrameBoundary, onMach, h, if_false]

theorem foldl_powered (d : Dev) (m : Mach) (cls : List Nat) (cs : Map Cluster) :
    cls.foldl (fun m cl => updCluster m cl (powered (chosenOnes d m cl) cl)) { m with clusters := cs } =
      updByNumber { m with clusters := cs } cls fun cl => powered (chosenOnes d m cl) cl := by
  unfold updByNumber
  induction cls generalizing cs with
  | nil => rfl
  | cons cl cls ih => exact ih _

theorem frameBoundary_eq (d : Dev) (m : Mach) : frameBoundary d m =
    updByNumber m (mapKeys m.clusters ++ (mapKeys m.warps).map clusterOf).eraseDups fun cl => powered (chosenOnes d m cl) cl :=
  foldl_powered d m _ m.clusters

/-- A cluster with a resident warp runs at 16 under a lease, else at SUST. -/
theorem chosenOnes_busy (d : Dev) {m : Mach} {k : Nat} (hk : k ∈ mapKeys m.warps) : chosenOnes d m (clusterOf k) =
    if m.teams.any (fun (_, t) => t.cluster = clusterOf k && t.lease.isSome) then 16 else d.pcc.sust := by
  obtain ⟨x, hx, rfl⟩ := List.mem_map.mp hk
  have hbusy : (m.warps.any fun (j, _) => clusterOf j = clusterOf x.1) = true := List.any_eq_true.mpr ⟨x, hx, decide_eq_true rfl⟩
  rw [chosenOnes, if_pos hbusy]

/-- Settles O32: the run of updates reaches every cluster with a warp, and each brings the pattern of the chosen ones about. -/
theorem frameBoundaryPatterns : Obligations.FrameBoundaryPatterns := by
  intro s hwf
  refine ⟨exec_frameBoundary_between, fun hdue => ⟨_, exec_frameBoundary_due hdue, ?_, ?_, fun k hk => ?_⟩⟩
  · obtain ⟨cs, h⟩ := updByNumber_only s.mach _ _
    rw [frameBoundary_eq, h]
  · obtain ⟨cs, h⟩ := updByNumber_only s.mach _ _
    rw [frameBoundary_eq, h]
  · have hmem : clusterOf k ∈ (mapKeys s.mach.clusters ++ (mapKeys s.mach.warps).map clusterOf).eraseDups :=
      List.mem_eraseDups.mpr (List.mem_append_right _ (List.mem_map_of_mem hk))
    rw [frameBoundary_eq]
    refine getCluster_updByNumber (Q := fun x => x.ones = _ ∧ (_ ≤ 16 → ∀ i < 16, x.pat.getLsbD i = clockPattern _ _ i))
      (fun x => ?_) hwf hmem
    rw [chosenOnes_busy s.dev hk]
    exact ⟨rfl, fun hn i hi => powered_pat _ x hn hi⟩

end Sys2Proof.Machine
end

section
/-!
SUPPORT. The energy accounts: what a charge changes, what it adds, and how a sum is cut in shares (R450 to R452).
-/

namespace Sys2Proof.Machine

/-! ### What a charge changes -/

/-- What charges may change: the fractions carried, the system's account, the contexts' and the nodes'. -/
def Charged (x y : Dev × Mach) : Prop := ∃ frac syse ctxs nodes,
  y = ({ x.1 with pcc := { x.1.pcc with frac := frac, syse := syse } }, { x.2 with ctxs := ctxs, nodes := nodes })

theorem Charged.refl (x : Dev × Mach) : Charged x x := ⟨_, _, _, _, rfl⟩

theorem Charged.trans {x y z : Dev × Mach} (h : Charged x y) (h' : Charged y z) : Charged x z := by
  obtain ⟨_, _, _, _, rfl⟩ := h
  obtain ⟨_, _, _, _, rfl⟩ := h'
  exact ⟨_, _, _, _, rfl⟩

theorem Charged.keeps {x y : Dev × Mach} (h : Charged x y) : y.1.pcc.bale = x.1.pcc.bale ∧ y.1.pcc.pendAt = x.1.pcc.pendAt ∧
    y.1.pcc.pending = x.1.pcc.pending ∧ y.1.pcc.early = x.1.pcc.early ∧ y.2.mem = x.2.mem ∧ y.2.warps = x.2.warps := by
  obtain ⟨_, _, _, _, rfl⟩ := h
  exact ⟨rfl, rfl, rfl, rfl, rfl, rfl⟩

theorem chargeSystem_charged (d : Dev) (m : Mach) (parts : Nat) : Charged (d, m) (chargeSystem d parts, m) := ⟨_, _, _, _, rfl⟩

theorem chargeLive_charged (d : Dev) (m : Mach) (ctx : Option Nat) (parts : Nat) : Charged (d, m) (chargeLive d m ctx parts) := by
  unfold chargeLive
  split <;> exact ⟨_, _, _, _, rfl⟩

theorem chargeNode_charged (d : Dev) (m : Mach) (node parts : Nat) : Charged (d, m) (chargeNode d m node parts) := by
  unfold chargeNode
  split
  · exact ⟨_, _, _, _, rfl⟩
  · exact chargeLive_charged ..

/-- A run of charges, each to the accounts of the device and of the machine. -/
theorem foldl_charged {α : Type} {f : Dev × Mach → α → Dev × Mach} (hf : ∀ x a, Charged x (f x a)) (l : List α) (x : Dev × Mach) :
    Charged x (l.foldl f x) := by
  induction l generalizing x with
  | nil => exact .refl x
  | cons a l ih => exact (hf x a).trans (ih (f x a))

/-! ### What a charge adds (R451, R452) -/

/-- With no fraction carried, the whole units of a charge are its own. -/
theorem carry_empty {p : Pcc} (key parts : Nat) (h : p.frac = []) : (carry p key parts).2 = parts / 2 ^ 32 := by
  simp only [carry, h, mapGetD, mapGet?, Option.getD_none, Nat.zero_add, fracUnit]

theorem chargeSystem_empty {d : Dev} (parts : Nat) (h : d.pcc.frac = []) :
    (chargeSystem d parts).pcc.syse = satAdd 64 d.pcc.syse (parts / 2 ^ 32) := by
  rw [← carry_empty 0 parts h]
  rfl

theorem getCtx?_chargeCtx {m : Mach} {ctx n : Nat} {c : Context} (h : getCtx? m ctx = some c) : getCtx? (chargeCtx m ctx n) ctx =
    some (if c.esat then c else if 2 ^ 64 ≤ c.energy + n then { c with energy := 2 ^ 64 - 1, esat := true }
      else { c with energy := c.energy + n }) := by
  rw [chargeCtx, getCtx?_upd_self, h]
  rfl

section Charge

variable {d : Dev} {m : Mach} {h parts : Nat}

theorem chargeNode_live {n : Node} (hn : getNode? m h = some n) (hfrac : d.pcc.frac = []) :
    (chargeNode d m h parts).2 =
      updNode (chargeCtx m n.ctx (parts / 2 ^ 32)) h fun n => { n with energy := satAdd 64 n.energy (parts / 2 ^ 32) } := by
  simp only [chargeNode, hn, carry_empty n.ctx parts hfrac]

theorem chargeNode_owed {ctx by' : Nat} (hn : getNode? m h = none) (howed : mapGet? d.pcc.owed h = some (ctx, by'))
    (hfrac : d.pcc.frac = []) (hctx : (getCtx? m ctx).isSome) :
    (chargeNode d m h parts).2 = chargeCtx m ctx (parts / 2 ^ 32) ∧ (chargeNode d m h parts).1.pcc.syse = d.pcc.syse := by
  simp only [chargeNode, hn, howed, Option.map_some, chargeLive, Option.filter_some, hctx, if_true, carry_empty ctx parts hfrac, true_and]
  rfl

theorem chargeNode_system (hn : getNode? m h = none) (howed : mapGet? d.pcc.owed h = none) :
    chargeNode d m h parts = (chargeSystem d parts, m) := by
  simp only [chargeNode, hn, howed, Option.map_none, chargeLive, Option.filter_none]

end Charge

theorem satAdd_eq (w a b : Nat) : satAdd w a b = min (2 ^ w - 1) (a + b) := Nat.min_comm ..

/-- A task that completes is charged its estimates: they count as early, and its node has their whole units. -/
theorem settleEnergy_live {s : State} {h parts : Nat} {n : Node} (hn : getNode? s.mach h = some n)
    (hparts : mapGet? s.dev.pcc.pending h = some parts) (hfrac : s.dev.pcc.frac = []) :
    (settleEnergy s h).dev.pcc.early = s.dev.pcc.early + parts ∧
    ∃ x, getNode? (settleEnergy s h).mach h = some x ∧ x.energy = min (2 ^ 64 - 1) (n.energy + parts / 2 ^ 32) := by
  have hsame : getNode? (chargeCtx s.mach n.ctx (parts / 2 ^ 32)) h = some n := hn
  unfold settleEnergy
  rw [hparts]
  dsimp only
  refine ⟨(chargeNode_charged ..).keeps.2.2.2.1, { n with energy := satAdd 64 n.energy (parts / 2 ^ 32) }, ?_, satAdd_eq ..⟩
  rw [chargeNode_live hn (by exact hfrac), getNode?_upd_self, hsame]
  rfl

/-! ### Shares (R450) -/

theorem cutShares_keys (total sum before : Nat) (ws : List (Nat × Nat)) : (cutShares total sum before ws).map (·.1) = ws.map (·.1) := by
  induction ws generalizing before with
  | nil => rfl
  | cons w ws ih => exact congrArg (w.1 :: ·) (ih (before + w.2))

/-- The shares of a run of weights are what lies between the scaled sums before and after it. -/
theorem cutShares_sum (total sum before : Nat) (ws : List (Nat × Nat)) :
    total * before / sum + listSum ((cutShares total sum before ws).map (·.2)) = total * (before + listSum (ws.map (·.2))) / sum := by
  induction ws generalizing before with
  | nil => rfl
  | cons w ws ih =>
    have hrise : total * before / sum ≤ total * (before + w.2) / sum :=
      Nat.div_le_div_right (Nat.mul_le_mul_left _ (Nat.le_add_right ..))
    simp only [cutShares, List.map_cons, listSum]
    rw [← Nat.add_assoc, Nat.add_sub_cancel' hrise, ih, Nat.add_assoc]

theorem cutShares_total {total : Nat} {ws : List (Nat × Nat)} (h : 0 < listSum (ws.map (·.2))) :
    listSum ((cutShares total (listSum (ws.map (·.2))) 0 ws).map (·.2)) = total := by
  have hsum := cutShares_sum total (listSum (ws.map (·.2))) 0 ws
  rwa [Nat.mul_zero, Nat.zero_div, Nat.zero_add, Nat.zero_add, Nat.mul_div_cancel _ h] at hsum

/-! ### The events of the accounts (R450, R451) -/

section Events

variable {s : State} {rest : List Input}

theorem exec_energyEstimate {cls tasks saves : List (Nat × Nat)} {system ballast : Nat}
    (hs : s.inputs = .energies cls tasks saves system ballast :: rest) : ∃ t, exec .energyEstimate s = .next t ∧ t.inputs = rest ∧
      t.dev.pcc.bale = satAdd 64 s.dev.pcc.bale ballast ∧ t.dev.pcc.pendAt = s.mach.clock ∧ t.mach.mem = s.mach.mem ∧
      t.mach.warps = s.mach.warps := by
  change ∃ t, execEnergyEstimate s = _ ∧ _
  unfold execEnergyEstimate
  refine ⟨_, takeInput_some (a := (cls, tasks, saves, system, ballast)) hs (by rfl), rfl, ?_⟩
  obtain ⟨cs, hbusy⟩ := foldl_clusters_only (f := fun m c => updCluster m c fun x => { x with busy := [] }) (fun _ _ => ⟨_, rfl⟩)
    (mapKeys s.mach.clusters) s.mach
  dsimp only
  rw [hbusy]
  generalize hd : updPcc s.dev _ = d
  generalize hy : List.foldl _ _ saves = y
  have hcharged : Charged (d, { s.mach with clusters := cs }) y := by
    rw [← hy]
    refine (foldl_charged (fun x a => ?_) tasks _).trans (foldl_charged (fun x a => ?_) saves _)
    · exact chargeNode_charged ..
    · exact chargeLive_charged ..
  obtain ⟨hbale, hpend, -, -, hmem, hwarps⟩ := (hcharged.trans (chargeSystem_charged y.1 y.2 (system * fracUnit))).keeps
  refine ⟨hbale.trans ?_, hpend.trans ?_, hmem, hwarps⟩
  · rw [← hd]
    rfl
  · rw [← hd]
    rfl

theorem exec_energyScale {e : Nat} (hs : s.inputs = .measured e :: rest) : ∃ t, exec .energyScale s = .next t ∧
    t.dev.pcc.pending = [] ∧ t.dev.pcc.early = 0 ∧ t.mach.mem = s.mach.mem := by
  change ∃ t, execEnergyScale s = _ ∧ _
  unfold execEnergyScale
  refine ⟨_, takeInput_some hs (by rfl), ?_⟩
  obtain ⟨-, -, hpend, hearly, hmem, -⟩ := (foldl_charged (fun x (a : Nat × Nat) => chargeNode_charged x.1 x.2 a.1 a.2) _ _).keeps
  exact ⟨hpend, hearly, hmem⟩

/-- With no estimates the system is charged the whole measured energy. -/
theorem exec_energyScale_idle {e : Nat} (hs : s.inputs = .measured e :: rest) (hpend : s.dev.pcc.pending = []) (hearly : s.dev.pcc.early = 0)
    (hfrac : s.dev.pcc.frac = []) (hnode : getNode? s.mach 0 = none) (howed : mapGet? s.dev.pcc.owed 0 = none) :
    ∃ t, exec .energyScale s = .next t ∧ t.inputs = rest ∧ t.dev.pcc.syse = satAdd 64 s.dev.pcc.syse e ∧ t.mach = s.mach := by
  change ∃ t, execEnergyScale s = _ ∧ _
  unfold execEnergyScale
  refine ⟨_, takeInput_some hs (by rfl), rfl, ?_⟩
  dsimp only
  rw [hpend, hearly]
  generalize hd : updToday _ _ = d
  have hpcc : d.pcc.frac = [] ∧ d.pcc.owed = s.dev.pcc.owed ∧ d.pcc.syse = s.dev.pcc.syse := by
    rw [← hd]
    exact ⟨hfrac, rfl, rfl⟩
  obtain ⟨hfrac', howed', hsyse⟩ := hpcc
  have hunits : (e * fracUnit - 0) / 2 ^ 32 = e := Nat.mul_div_cancel e (Nat.two_pow_pos 32)
  have hcharge : chargeNode d s.mach 0 (e * fracUnit - 0) = (chargeSystem d (e * fracUnit - 0), s.mach) :=
    chargeNode_system hnode (howed' ▸ howed)
  rw [if_pos (by rfl), List.foldl_cons, List.foldl_nil, hcharge, chargeSystem_empty _ hfrac', hunits, hsyse]
  exact ⟨rfl, rfl⟩

end Events
end Sys2Proof.Machine
end

section
/-!
PROOF. Margins, guard-bands, the wear record, management reads; the events of power as the accounts see them (R433 to R438, R449 to R466).
-/

namespace Sys2Proof.Machine

/-! ### Pairs for the dies -/

theorem ofDie_setDie {α : Type} (p : α × α) (die : Nat) (a : α) : ofDie (setDie p die a) die = a := by
  unfold ofDie setDie
  split <;> rfl

/-! ### Margins (R454) -/

theorem listBest_int {l : List Int} {a : Int} (h : listBest (fun a b => decide (a < b)) l = some a) : ∀ b ∈ l, a ≤ b := by
  refine fun b hb => ?_
  have hfirst := listBest_first (fun a b hab => ?_) (fun a b c hab hbc => ?_) h b hb
  · exact Int.not_lt.mp (of_decide_eq_false hfirst)
  · exact decide_eq_false (Int.not_lt.mpr (Int.le_of_lt (of_decide_eq_true hab)))
  · have hba := Int.not_lt.mp (of_decide_eq_false hab)
    exact decide_eq_false (Int.not_lt.mpr (Int.le_trans (Int.not_lt.mp (of_decide_eq_false hbc)) hba))

/-- The sensors of a cluster that are read: those that show a slack and whose unit is in service. -/
def sensorRead (w : Wear) (c : Nat) (slacks : List Int) (i : Nat) : Prop := i < 8 ∧ i < slacks.length ∧ sensorUnit c i ∉ w.removed

theorem mem_range_zip {α : Type} {n i : Nat} {l : List α} {x : α} : (i, x) ∈ (List.range n).zip l ↔ i < n ∧ l[i]? = some x := by
  simp only [List.mem_iff_getElem?, List.getElem?_zip_eq_some]
  constructor
  · rintro ⟨j, hj, hx⟩
    obtain ⟨hlt, rfl⟩ := List.getElem?_eq_some_iff.mp hj
    rw [List.getElem_range]
    exact ⟨hlt.trans_eq List.length_range, hx⟩
  · exact fun ⟨hi, hx⟩ => ⟨i, List.getElem?_range hi, hx⟩

/-- The slacks that are read. -/
theorem mem_slacks {w : Wear} {c : Nat} {slacks : List Int} {x : Int} :
    x ∈ ((List.range 8).zip slacks).filterMap (fun (i, x) => if w.removed.contains (sensorUnit c i) then none else some x) ↔
      ∃ i, sensorRead w c slacks i ∧ x = slacks.getD i 0 := by
  simp only [List.mem_filterMap, Prod.exists, mem_range_zip, sensorRead, List.contains_iff_mem]
  constructor
  · rintro ⟨i, y, ⟨hi, hget⟩, hy⟩
    obtain ⟨hlen, rfl⟩ := List.getElem?_eq_some_iff.mp hget
    split at hy
    · cases hy
    · next hserves => exact ⟨i, ⟨hi, hlen, hserves⟩, by rw [List.getD_eq_getElem _ _ hlen]; exact (Option.some.inj hy).symm⟩
  · rintro ⟨i, ⟨hi, hlen, hserves⟩, rfl⟩
    refine ⟨i, slacks[i], ⟨hi, List.getElem?_eq_getElem hlen⟩, ?_⟩
    rw [if_neg hserves, List.getD_eq_getElem _ _ hlen]

theorem clusterMargin_some {w : Wear} {c : Nat} {slacks : List Int} {x : Int} (h : clusterMargin w c slacks = some x) :
    (∃ j, sensorRead w c slacks j ∧ x = slacks.getD j 0) ∧ ∀ i, sensorRead w c slacks i → x ≤ slacks.getD i 0 :=
  ⟨mem_slacks.mp (listBest_mem h), fun i hi => listBest_int h _ (mem_slacks.mpr ⟨i, hi, rfl⟩)⟩

theorem clusterMargin_none {w : Wear} {c : Nat} {slacks : List Int} (h : clusterMargin w c slacks = none) (i : Nat) :
    ¬ sensorRead w c slacks i := by
  intro hi
  have hmem := mem_slacks.mpr ⟨i, hi, rfl⟩
  rw [listBest_eq_none h] at hmem
  cases hmem

/-- One cluster of a reading. -/
def readCluster (w : Wear) (slacks : Nat → List Int) (m : Mach) (c : Nat) : Mach :=
  if (getCluster m c).present then (clusterMargin w c (slacks c)).elim m fun x => updCluster m c fun y => { y with margin := x } else m

section Readings

variable (w : Wear) (slacks : Nat → List Int)

/-- A reading of a cluster sets its margin, or changes nothing. -/
theorem readCluster_cases (m : Mach) (c : Nat) : readCluster w slacks m c = m ∨
    ∃ x, readCluster w slacks m c = updCluster m c fun y => { y with margin := x } := by
  unfold readCluster
  split
  · cases clusterMargin w c (slacks c) with
    | none => exact .inl rfl
    | some x => exact .inr ⟨x, rfl⟩
  · exact .inl rfl

theorem readings_only (cs : List Nat) (m : Mach) : ∃ l, cs.foldl (readCluster w slacks) m = { m with clusters := l } := by
  refine foldl_clusters_only (fun m c => ?_) cs m
  obtain h | ⟨x, h⟩ := readCluster_cases w slacks m c
  · exact ⟨m.clusters, h⟩
  · exact ⟨_, h⟩

theorem readings_wf (cs : List Nat) {m : Mach} (hwf : mapWf m.clusters = true) :
    mapWf (cs.foldl (readCluster w slacks) m).clusters = true := by
  induction cs generalizing m with
  | nil => exact hwf
  | cons c cs ih =>
    refine ih ?_
    obtain h | ⟨x, h⟩ := readCluster_cases w slacks m c
    · rw [h]
      exact hwf
    · rw [h]
      exact mapWf_setD c _ _ hwf

theorem getCluster_readings_other {cs : List Nat} {c : Nat} (m : Mach) (hc : c ∉ cs) :
    getCluster (cs.foldl (readCluster w slacks) m) c = getCluster m c := by
  induction cs generalizing m with
  | nil => rfl
  | cons d cs ih =>
    obtain ⟨hd, hcs⟩ := List.ne_and_not_mem_of_not_mem_cons hc
    refine (ih _ hcs).trans ?_
    obtain h | ⟨x, h⟩ := readCluster_cases w slacks m d
    · rw [h]
    · rw [h, getCluster_upd_other m _ hd]

variable {w slacks}

/-- The margin of a surviving cluster is the least of the slacks that are read. -/
theorem readCluster_margin {m : Mach} {c i : Nat} (hwf : mapWf m.clusters = true) (hpresent : (getCluster m c).present = true)
    (hi : sensorRead w c (slacks c) i) : (getCluster (readCluster w slacks m c) c).margin ≤ (slacks c).getD i 0 ∧
      ∃ j, sensorRead w c (slacks c) j ∧ (getCluster (readCluster w slacks m c) c).margin = (slacks c).getD j 0 := by
  cases hx : clusterMargin w c (slacks c) with
  | none => exact absurd hi (clusterMargin_none hx i)
  | some x =>
    obtain ⟨hshown, hleast⟩ := clusterMargin_some hx
    have hread : readCluster w slacks m c = updCluster m c fun y => { y with margin := x } := by rw [readCluster, if_pos hpresent, hx]; rfl
    rw [hread, getCluster_upd_self c _ hwf]
    exact ⟨hleast i hi, hshown⟩

/-- A reading reaches a cluster of its list, which the readings of the others leave alone. -/
theorem readings_margin {m : Mach} {cs : List Nat} {c i : Nat} (hwf : mapWf m.clusters = true) (hcs : cs.Nodup) (hc : c ∈ cs)
    (hpresent : (getCluster m c).present = true) (hi : sensorRead w c (slacks c) i) :
    (getCluster (cs.foldl (readCluster w slacks) m) c).margin ≤ (slacks c).getD i 0 ∧
      ∃ j, sensorRead w c (slacks c) j ∧ (getCluster (cs.foldl (readCluster w slacks) m) c).margin = (slacks c).getD j 0 := by
  obtain ⟨before, after, rfl⟩ := List.append_of_mem hc
  obtain ⟨hout, -⟩ := List.nodup_cons.mp (List.nodup_middle.mp hcs)
  obtain ⟨hbefore, hafter⟩ := not_or.mp (mt List.mem_append.mpr hout)
  rw [List.foldl_append, List.foldl_cons, getCluster_readings_other w slacks _ hafter]
  exact readCluster_margin (readings_wf w slacks before hwf) ((getCluster_readings_other w slacks m hbefore).symm ▸ hpresent) hi

end Readings

theorem exec_monitorRead {s : State} {common : List Int} {others : Map (List Int)} {rest : List Input}
    (hs : s.inputs = .margins common others :: rest) : ∃ t, exec .monitorRead s = .next t ∧ t.inputs = rest ∧
      t.mach = clusterNumbers.foldl (readCluster s.dev.wear fun c => (mapGet? others c).getD common) s.mach := by
  change ∃ t, execMonitorRead s = _ ∧ _
  unfold execMonitorRead
  generalize clusterNumbers = cs
  exact ⟨_, takeInput_some (a := (common, others)) hs (by rfl), rfl, rfl⟩

/-! ### Guard-bands (R455, R456) -/

section GuardBands

variable {s : State} {die c : Nat} (hdie : die < 2) (hlow : lowestMargin s.mach die = some c)

include hdie hlow

theorem exec_gbStep_high (hx : 40 ≤ (getCluster s.mach c).margin) : exec (.gbStep die) s = .next s := by
  change execGbStep die s = _
  simp only [execGbStep, hdie, if_true, hlow, hx]

theorem exec_gbStep_early (hx : (getCluster s.mach c).margin < 40) (hgb : ofDie s.dev.wear.gb die < 40)
    (hearly : s.mach.clock < ofDie s.dev.wear.stepAt die) : exec (.gbStep die) s = .next s := by
  change execGbStep die s = _
  simp only [execGbStep, hdie, if_true, hlow, Int.not_le.mpr hx, if_false, hgb, hearly]

theorem exec_gbStep_raises (hx : (getCluster s.mach c).margin < 40) (hgb : ofDie s.dev.wear.gb die < 40)
    (hdue : ofDie s.dev.wear.stepAt die ≤ s.mach.clock) : ∃ t, exec (.gbStep die) s = .next t ∧ t.mach = s.mach ∧
      ofDie t.dev.wear.gb die = ofDie s.dev.wear.gb die + 1 ∧ ofDie t.dev.wear.stepAt die = s.mach.clock + 10000 := by
  change ∃ t, execGbStep die s = _ ∧ _
  simp only [execGbStep, hdie, if_true, hlow, Int.not_le.mpr hx, if_false, hgb, Nat.not_lt.mpr hdue]
  exact ⟨_, rfl, rfl, ofDie_setDie .., ofDie_setDie ..⟩

theorem exec_gbStep_marks (hx : (getCluster s.mach c).margin < 0) (hgb : 40 ≤ ofDie s.dev.wear.gb die) : exec (.gbStep die) s =
    .next { s with dev := updWear s.dev fun w => markUnit w (.cluster c)
                   mach := updCluster s.mach c fun y => { y with clp := 4, hold4 := true } } := by
  have hbelow : ¬ (40 : Int) ≤ (getCluster s.mach c).margin := by omega
  change execGbStep die s = _
  simp only [execGbStep, hdie, if_true, hlow, hbelow, if_false, Nat.not_lt.mpr hgb, hx]

end GuardBands

theorem mem_markUnit (w : Wear) (u : LostUnit) : u ∈ (markUnit w u).pending := by
  unfold markUnit
  split
  · next h => exact List.contains_iff_mem.mp h
  · exact List.mem_append_right _ (List.mem_singleton_self u)

/-- A full hour above 60 ps lowers the guard-band by a step, which at 0 changes nothing. -/
theorem exec_gbHourlyFall {s : State} {die : Nat} (hdie : die < 2) : ∃ t, exec (.gbHourlyFall die) s = .next t ∧ t.mach = s.mach ∧
    ofDie t.dev.wear.gb die = if ofDie s.dev.wear.above die ≠ 0 ∧ ofDie s.dev.wear.above die + 3600000000000 ≤ s.mach.clock + 1 then
      ofDie s.dev.wear.gb die - 1 else ofDie s.dev.wear.gb die := by
  refine ⟨_, rfl, rfl, ?_⟩
  dsimp only [updWear]
  by_cases hfull : ofDie s.dev.wear.above die ≠ 0 ∧ ofDie s.dev.wear.above die + 3600000000000 ≤ s.mach.clock + 1
  · rw [if_pos hfull]
    split
    · exact ofDie_setDie ..
    · next hnot =>
      have hzero : ofDie s.dev.wear.gb die = 0 := by simpa [hdie, hfull.1, hfull.2] using hnot
      rw [hzero]
  · rw [if_neg hfull, if_neg fun h => ?_]
    simp only [Bool.and_eq_true, decide_eq_true_eq, bne_iff_ne] at h
    exact hfull ⟨h.1.1.2, h.1.2⟩

/-! ### The wear record (R461, R462) -/

/-- An entry of the wear record: its day, the chain from the head's, the record's newest 4,096 entries, the new head; the errors counted since
the last entry are taken. -/
theorem appendWear_eq (s : State) (day : Nat) : ∃ e es sig today, e.day = day ∧
    e.chain = (sha3 (s.dev.wear.headChain ++ wearBody e)).take 32 ∧
    es = (s.dev.wear.entries ++ [e]).drop (s.dev.wear.entries.length - 4095) ∧
    appendWear s day = { s with
      dev := { s.dev with wear := { s.dev.wear with
        entries := es, headDay := day, headChain := e.chain, headSig := sig, today := today } }
      mach := { s.mach with errs := (0, 0) } } := by
  unfold appendWear
  dsimp only
  generalize s.dev.wear.entries.length - 4095 = n
  exact ⟨_, _, _, _, rfl, rfl, rfl, rfl⟩

theorem exec_wearDailyAppend_early {s : State} (h : s.dev.gtc < s.dev.wear.lastDay + 86400000000000) : exec .wearDailyAppend s = .next s :=
  if_neg (Nat.not_le.mpr h)

theorem exec_wearDailyAppend_due {s : State} (h : s.dev.wear.lastDay + 86400000000000 ≤ s.dev.gtc) : exec .wearDailyAppend s =
    .next { appendWear s (s.dev.wear.headDay + 1) with
      dev := updWear (appendWear s (s.dev.wear.headDay + 1)).dev fun w => { w with lastDay := w.lastDay + 86400000000000 } } :=
  if_pos h

/-! ### Management reads (R465) -/

theorem acceptFrame_only (d : Dev) (f : Frame) : ∃ slots, acceptFrame d f = { d with slots := slots } := by
  unfold acceptFrame
  split
  · exact ⟨d.slots, rfl⟩
  · exact ⟨_, rfl⟩

/-- A sound frame of one item is answered with what its item asks for, or with nothing. -/
theorem takeMgmt_one {s : State} {f : Frame} (hok : messagesOk f = true) (hsound : frameSound s.dev f = true) (hone : f.count = 1) :
    takeMgmt s f = (let s1 : State := { s with dev := acceptFrame s.dev f }
      if (mgmtItems s1 (itemAt f 0)).isEmpty then s1 else { s1 with dev := sendMgmt s1.dev f (mgmtItems s1 (itemAt f 0)) }) := by
  have hrange : List.range f.count.toNat = [0] := by rw [hone]; rfl
  rw [takeMgmt, hok, hsound, Bool.and_self, if_pos rfl, hrange, List.foldl_cons, List.foldl_nil]

theorem takeMgmt_dropped {s : State} {f : Frame} (h : (messagesOk f && frameSound s.dev f) = false) : takeMgmt s f = s := by
  rw [takeMgmt, h]
  rfl

/-- An answer goes out in its frame's session, under the next number of the port. -/
theorem sendMgmt_some {d : Dev} {f : Frame} {key : List Byte} (items : List (List Byte))
    (hkey : frameKey d f.slot.toNat f.session.toNat = some key) : ∃ o, (sendMgmt d f items).mgmt = d.mgmt ++ [o] ∧
      o.item = items.flatten ∧ o.count = items.length ∧ o.typ = 2 ∧ o.slot = f.slot.toNat ∧ o.session = f.session.toNat ∧
      o.fseq = d.mgmtNo + 1 := by
  simp only [sendMgmt, hkey]
  exact ⟨_, rfl, rfl, rfl, rfl, rfl, rfl, rfl⟩

theorem mgmtItems_health {s : State} {item : List Byte} (h : kindOf item = 0x30) :
    mgmtItems s item = (healthFrom s.mach (itemNat item 16 8) 16).map (healthBytes s.mach) := if_pos h

theorem mgmtItems_wear {s : State} {item : List Byte} (h : kindOf item = 0x31) : mgmtItems s item =
    ((s.dev.wear.entries.filter fun e => itemNat item 16 8 ≤ e.day).take 14).map wearBytes ++
      [pendingBytes s.dev.wear, signedHead s.dev.wear] :=
  (if_neg (by rw [h]; decide)).trans (if_pos h)

theorem mgmtItems_other {s : State} {item : List Byte} (h : kindOf item ≠ 0x30) (h' : kindOf item ≠ 0x31) : mgmtItems s item = [] :=
  (if_neg h).trans (if_neg h')

/-- What a sound frame of one item is answered with, where its item asks for something. -/
theorem takeMgmt_answers {s : State} {f : Frame} {key : List Byte} {parts : List (List Byte)} (hok : messagesOk f = true)
    (hsound : frameSound s.dev f = true) (hone : f.count = 1)
    (hkey : frameKey (acceptFrame s.dev f) f.slot.toNat f.session.toNat = some key)
    (hparts : mgmtItems { s with dev := acceptFrame s.dev f } (itemAt f 0) = parts) (hsome : parts ≠ []) :
    (takeMgmt s f).inputs = s.inputs ∧ (takeMgmt s f).mach = s.mach ∧ ∃ o, (takeMgmt s f).dev.mgmt = s.dev.mgmt ++ [o] ∧
      o.item = parts.flatten ∧ o.count = parts.length ∧ o.typ = 2 ∧ o.slot = f.slot.toNat ∧ o.session = f.session.toNat ∧
      o.fseq = s.dev.mgmtNo + 1 := by
  have htaken : takeMgmt s f = { s with dev := sendMgmt (acceptFrame s.dev f) f parts } := by
    rw [takeMgmt_one hok hsound hone]
    dsimp only
    rw [hparts, if_neg (mt List.isEmpty_iff.mp hsome)]
  obtain ⟨slots, hslots⟩ := acceptFrame_only s.dev f
  have hsent := sendMgmt_some parts hkey
  rw [htaken]
  rw [hslots] at hsent ⊢
  exact ⟨rfl, rfl, hsent⟩

theorem takeMgmt_unanswered {s : State} {f : Frame} (hok : messagesOk f = true) (hsound : frameSound s.dev f = true) (hone : f.count = 1)
    (h : kindOf (itemAt f 0) ≠ 0x30) (h' : kindOf (itemAt f 0) ≠ 0x31) : takeMgmt s f = { s with dev := acceptFrame s.dev f } := by
  rw [takeMgmt_one hok hsound hone]
  dsimp only
  rw [mgmtItems_other h h', if_pos (by rfl)]

theorem exec_readHealthLog {s : State} {f : Frame} {rest : List Input} (hs : s.inputs = .mgmt f :: rest)
    (hkind : kindOf (itemAt f 0) ≠ 0x31) :
    exec .readHealthLog s = .next (takeMgmt { s with inputs := rest } f) := by
  change execReadHealthLog s = _
  exact takeInput_some hs (if_neg hkind)

theorem exec_readWearRecord {s : State} {f : Frame} {rest : List Input} (hs : s.inputs = .mgmt f :: rest) (hkind : kindOf (itemAt f 0) = 0x31) :
    exec .readWearRecord s = .next (takeMgmt { s with inputs := rest } f) := by
  change execReadWearRecord s = _
  exact takeInput_some hs (if_pos hkind)

end Sys2Proof.Machine
end

section
/-!
PROOF. The events of power as the accounts see them, and the whole of energy, margins, wear and management reads (R433 to R438, R449 to R466).
-/

namespace Sys2Proof.Machine

theorem exec_clamp_clamps {s : State} {src : ClampSource} {c : Nat} (hwf : mapWf s.mach.clusters = true)
    (hc : c ∈ clampTargets s.mach s.dev.pcc src) : ∃ t, exec (.clamp src) s = .next t ∧ t.inputs = s.inputs ∧
      (getCluster t.mach c).sourceAt = some s.mach.clock ∧ (getCluster t.mach c).clp ≤ max 4 (getCluster s.mach c).clp := by
  obtain ⟨t, hx, hmach⟩ := exec_clamp src s
  have hinputs : t.inputs = s.inputs := by
    cases hx
    rfl
  refine ⟨t, hx, hinputs, ?_⟩
  rw [hmach, getCluster_updClusters_mem _ hwf (clampTargets_nodup ..) hc]
  refine ⟨clampCluster_sourceAt .., ?_⟩
  rw [clampCluster_clp]
  split <;> omega

theorem exec_unclamp_halves {s : State} {c : Nat} (hwf : mapWf s.mach.clusters = true) (hfree : (getCluster s.mach c).hold4 = false)
    (hclp : 1 < (getCluster s.mach c).clp) (hheld : clampHeld s.dev.pcc c = false)
    (hquiet : ∀ at_, (getCluster s.mach c).sourceAt = some at_ → at_ + 20000 ≤ s.mach.clock) :
    ∃ t, exec (.unclamp c) s = .next t ∧ t.inputs = s.inputs ∧ t.dev = s.dev ∧
      (getCluster t.mach c).clp = (getCluster s.mach c).clp / 2 := by
  refine ⟨_, exec_unclamp c s, rfl, rfl, ?_⟩
  rw [getCluster_upd_self c _ hwf, hheld]
  exact unclampCluster_halves hfree hclp hquiet

theorem heatStep_power (p : Pcc) (w : Nat) : (heatStep p w).power = w := rfl

theorem heatStep_e_le (p : Pcc) (w : Nat) : (heatStep p w).e ≤ 1600000000000 := Nat.min_le_left ..

/-- A correction of any store moves its energy by at most 250 J, but for what stands above the capacity. -/
theorem putStore_corrected_bounds (p : Pcc) (eth : Nat) :
    (putStore p (corrected p.e eth)).e ≤ min 1600000000000 (p.e + 25000000000) ∧
    min 1600000000000 p.e ≤ (putStore p (corrected p.e eth)).e + 25000000000 := by
  simp only [putStore, corrected, storeMax]
  split <;> omega

/-- A decision takes its request out of the queue, and leaves memory alone. -/
theorem decideSprint_same (gtc : Nat) (m : Mach) (r : SprintReq) (g : Nat) :
    (decideSprint gtc m r g).sprints = m.sprints.erase r ∧ (decideSprint gtc m r g).mem = m.mem := by
  unfold decideSprint
  dsimp only
  rw [updWarp_sprints, updWarp_mem]
  generalize hleased : (if g = 0 then _ else _ : Mach) = leased
  have hsame : leased.sprints = m.sprints.erase r ∧ leased.mem = m.mem := by
    rw [← hleased]
    split <;> exact ⟨rfl, rfl⟩
  cases r.ticket with
  | some t => exact hsame
  | none => exact ⟨(updWarp_sprints ..).trans hsame.1, (updWarp_mem ..).trans hsame.2⟩

/-- Settles O46: each event's outcome is a lemma of its own; the accounts' arithmetic and the shares are lemmas about the charges. -/
theorem energyAndWear : Obligations.EnergyAndWear := by
  intro s rest d
  refine ⟨fun src c hwf hc => exec_clamp_clamps hwf hc, fun c hwf => ?_, fun w hs => ?_, fun eth lid hs => ?_, fun r more hs => ?_,
    fun launch => ?_, fun cls tasks saves system ballast hs => ?_, fun e hs hpend hearly hfrac hnode howed => ?_,
    fun e hs => exec_energyScale hs, fun total ws h => ⟨cutShares_keys .., cutShares_total h⟩,
    fun h n parts hn hparts hfrac => settleEnergy_live hn hparts hfrac,
    fun h parts ctx by' hn howed hfrac hctx => chargeNode_owed hn howed hfrac hctx, fun m ctx c n hc => ⟨_, getCtx?_chargeCtx hc, ?_⟩,
    fun common others hs => ?_, fun die => rfl, fun die c hdie hlow => ?_, fun die hdie => exec_gbHourlyFall hdie,
    exec_wearDailyAppend_early, fun hdue => ?_, fun tin flow hs => ?_, fun v die _ => ?_, fun f key hs hok hsound hone hkey => ?_,
    fun f hs hbad => ?_⟩
  · intro x hfree hclp hheld hquiet
    refine exec_unclamp_halves hwf hfree hclp hheld fun at_ hat => ?_
    rcases hquiet with hnone | ⟨at', hat', hpast⟩
    · exact absurd (hnone.symm.trans hat) nofun
    · exact Option.some.inj (hat'.symm.trans hat) ▸ hpast
  · obtain ⟨t, hx, hrest, hmach, hpcc⟩ := exec_heatStoreUpdate hs
    exact ⟨t, hx, hrest, hmach, hpcc ▸ heatStep_power .., hpcc ▸ heatStep_e_le ..⟩
  · obtain ⟨t, hx, hrest, hpcc, hmach⟩ := exec_thermistorCorrection hs
    refine ⟨t, hx, hrest, ?_, ?_⟩
    · rw [hmach]
      split <;> rfl
    · rw [hpcc]
      exact putStore_corrected_bounds ..
  · obtain ⟨hsprints, hmem⟩ := decideSprint_same s.dev.gtc s.mach r (grantOf s.dev.pcc s.mach r)
    refine ⟨_, exec_sprintGrant_first hs, rfl, rfl, hsprints.trans ?_, hmem⟩
    rw [hs, List.erase_cons_head]
  · obtain ⟨t, hx, hmach, hballast⟩ := exec_ballastPreRamp launch s
    have hinputs : t.inputs = s.inputs := by
      cases hx
      rfl
    refine ⟨t, hx, hmach, hinputs, fun hoff => hballast.trans ?_⟩
    dsimp only
    rw [if_neg fun h => Bool.false_ne_true (hoff.symm.trans h.1), List.append_nil]
  · obtain ⟨t, hx, hrest, hbale, hpend, hmem, hwarps⟩ := exec_energyEstimate hs
    exact ⟨t, hx, hrest, hbale.trans (satAdd_eq ..), hpend, hmem, hwarps⟩
  · obtain ⟨t, hx, hrest, hsyse, hmach⟩ := exec_energyScale_idle hs hpend hearly hfrac hnode howed
    exact ⟨t, hx, hrest, hsyse.trans (satAdd_eq ..), hmach⟩
  · refine ⟨fun hsat => ?_, fun hsat hfits => ?_, fun hsat hover => ?_⟩
    · rw [hsat, if_pos rfl]
    · rw [hsat, if_neg Bool.false_ne_true, if_neg (Nat.not_le.mpr hfits)]
    · rw [hsat, if_neg Bool.false_ne_true, if_pos hover]
  · obtain ⟨t, hx, hrest, hmach⟩ := exec_monitorRead hs
    obtain ⟨cs, honly⟩ := readings_only s.dev.wear (fun c => (mapGet? others c).getD common) clusterNumbers s.mach
    refine ⟨t, hx, hrest, hmach ▸ honly ▸ rfl, fun hwf c hc hpresent i hi => ?_⟩
    rw [hmach]
    exact readings_margin hwf List.nodup_range (List.mem_range.mpr hc) hpresent hi
  · refine ⟨exec_gbStep_high hdie hlow, exec_gbStep_early hdie hlow, exec_gbStep_raises hdie hlow, fun hx hgb => ?_⟩
    refine ⟨_, exec_gbStep_marks hdie hlow hx hgb, mem_markUnit .., fun hwf => ?_⟩
    rw [getCluster_upd_self c _ hwf]
    exact ⟨rfl, rfl⟩
  · obtain ⟨e, es, sig, today, hday, hchain, hes, happend⟩ := appendWear_eq s (s.dev.wear.headDay + 1)
    refine ⟨_, e, exec_wearDailyAppend_due hdue, ?_⟩
    rw [happend]
    exact ⟨rfl, hes, hday, hchain, rfl, rfl⟩
  · rw [← coolantOk_iff]
    cases hok : coolantOk tin flow with
    | true => exact ⟨_, exec_coolantChange_inside hs hok, rfl, fun _ => ⟨rfl, rfl⟩, fun h => absurd rfl h⟩
    | false => exact ⟨_, exec_coolantChange_outside hs hok, rfl, nofun, fun _ => ⟨rfl, rfl⟩⟩
  · exact ⟨ofDie_setDie .., (Nat.le_max_right ..).trans_eq (ofDie_setDie ..).symm⟩
  · have answered {parts : List (List Byte)} := takeMgmt_answers (s := { s with inputs := rest }) (parts := parts) hok hsound hone hkey
    obtain ⟨slots, hslots⟩ := acceptFrame_only s.dev f
    refine ⟨fun hkind hsome => ?_, fun hkind => ?_, fun hhealth hwear => ?_⟩
    · obtain ⟨hrest, hmach, o, ho⟩ := answered (mgmtItems_health hkind) (mt List.map_eq_nil_iff.mp hsome)
      exact ⟨_, o, exec_readHealthLog hs (by rw [hkind]; decide), hrest, hmach, ho⟩
    · obtain ⟨hrest, hmach, o, ho⟩ := answered (mgmtItems_wear hkind) (List.append_ne_nil_of_right_ne_nil _ nofun)
      rw [hslots] at ho
      exact ⟨_, o, exec_readWearRecord hs hkind, hrest, hmach, ho⟩
    · exact (exec_readHealthLog hs hwear).trans
        (congrArg _ (takeMgmt_unanswered (s := { s with inputs := rest }) hok hsound hone hhealth hwear))
  · have hdropped := takeMgmt_dropped (s := { s with inputs := rest }) hbad
    split
    · next hwear => exact (exec_readWearRecord hs hwear).trans (congrArg _ hdropped)
    · next hhealth => exact (exec_readHealthLog hs hhealth).trans (congrArg _ hdropped)

end Sys2Proof.Machine
end

section
/-!
PROOF. The limits of the control block (R430, R431, R435, R448, R456). Most of what a step does leaves every register that has a limit
alone (`Dev.limitRegs`); the register write, the two updates of the store, the coolant, the guard-bands and the boots keep it inside
its limit.
-/

namespace Sys2Proof.Machine

/-! ### The registers with a limit -/

/-- The registers of which `Dev.inLimits` speaks. -/
def Dev.limitRegs (d : Dev) : Nat × Nat × Option Nat × Nat × Nat × (Nat × Nat) × Nat :=
  (d.pcc.ramp, d.pcc.sust, d.pcc.sustSaved, d.pcc.e, d.pcc.melt, d.wear.gb, d.ptp.domain)

/-- The limits of the power registers: RAMP, SUST and the SUST that a coolant alarm put aside, the store's energy and its MELT. -/
def Pcc.inLimits (p : Pcc) : Prop :=
  1 ≤ p.ramp ∧ p.ramp ≤ 255 ∧ 1 ≤ p.sust ∧ p.sust ≤ 16 ∧ (∀ n, p.sustSaved = some n → 1 ≤ n ∧ n ≤ 16) ∧
    p.e ≤ storeMax ∧ p.melt = meltOf p.e

theorem Dev.inLimits_iff (d : Dev) :
    d.inLimits ↔ d.pcc.inLimits ∧ (d.wear.gb.1 ≤ 40 ∧ d.wear.gb.2 ≤ 40) ∧ d.ptp.domain ≤ 127 := by
  simp only [Dev.inLimits, Pcc.inLimits, and_assoc]

theorem Dev.inLimits.of_regs {d d' : Dev} (hd : d.inLimits) (h : d'.limitRegs = d.limitRegs) : d'.inLimits := by
  simp only [Dev.limitRegs, Prod.mk.injEq] at h
  obtain ⟨hramp, hsust, hsaved, he, hmelt, hgb, hdomain⟩ := h
  simpa only [Dev.inLimits, hramp, hsust, hsaved, he, hmelt, hgb, hdomain] using hd

theorem limitRegs_congr {d d' : Dev} (hpcc : d'.pcc = d.pcc) (hgb : d'.wear.gb = d.wear.gb) (hdomain : d'.ptp.domain = d.ptp.domain) :
    d'.limitRegs = d.limitRegs := by
  simp only [Dev.limitRegs, hpcc, hgb, hdomain]

theorem foldl_limitRegs {α β : Type} (dev : β → Dev) (f : β → α → β) (h : ∀ b a, (dev (f b a)).limitRegs = (dev b).limitRegs)
    (l : List α) (b : β) : (dev (l.foldl f b)).limitRegs = (dev b).limitRegs := by
  induction l generalizing b with
  | nil => rfl
  | cons a l ih => exact (ih (f b a)).trans (h b a)

/-! ### What leaves them alone: answers, charges, the wear record, translations -/

@[simp] theorem setEntry_limitRegs (d : Dev) (jseq state result handle : Nat) :
    (setEntry d jseq state result handle).limitRegs = d.limitRegs := rfl

@[simp] theorem sendFrame_limitRegs (d : Dev) (slot session typ : Nat) (item : List Byte) :
    (sendFrame d slot session typ item).limitRegs = d.limitRegs := by
  obtain ⟨n, out, h⟩ := sendFrame_only d slot session typ item
  rw [h]
  rfl

@[simp] theorem answer_limitRegs (q : Msg) (jseq state result : Nat) (extra : List Byte) (d : Dev) :
    (answer q jseq state result extra d).limitRegs = d.limitRegs := sendFrame_limitRegs ..

@[simp] theorem refuse_limitRegs (q : Msg) (r : Refused) (d : Dev) : (refuse q r d).limitRegs = d.limitRegs := by
  obtain ⟨n, out, h⟩ := refuse_only q r d
  rw [h]
  rfl

@[simp] theorem acceptFrame_limitRegs (d : Dev) (f : Frame) : (acceptFrame d f).limitRegs = d.limitRegs := by
  unfold acceptFrame
  split <;> rfl

@[simp] theorem sendMgmt_limitRegs (d : Dev) (f : Frame) (items : List (List Byte)) : (sendMgmt d f items).limitRegs = d.limitRegs := by
  unfold sendMgmt
  split <;> rfl

@[simp] theorem closePost_limitRegs (d : Dev) (m : Mach) (p : PostReq) (status h : Nat) :
    (closePost d m p status h).1.limitRegs = d.limitRegs := by
  unfold closePost
  dsimp only
  split <;> rfl

@[simp] theorem chargeLive_limitRegs (d : Dev) (m : Mach) (ctx : Option Nat) (parts : Nat) :
    (chargeLive d m ctx parts).1.limitRegs = d.limitRegs := by
  unfold chargeLive
  split <;> rfl

@[simp] theorem chargeNode_limitRegs (d : Dev) (m : Mach) (node parts : Nat) : (chargeNode d m node parts).1.limitRegs = d.limitRegs := by
  unfold chargeNode
  split
  · rfl
  · exact chargeLive_limitRegs ..

@[simp] theorem chargeSystem_limitRegs (d : Dev) (parts : Nat) : (chargeSystem d parts).limitRegs = d.limitRegs := rfl

@[simp] theorem noteMargin_limitRegs (d : Dev) (m : Mach) (die : Nat) : (noteMargin d m die).limitRegs = d.limitRegs := by
  unfold noteMargin
  split <;> rfl

@[simp] theorem appendWear_limitRegs (s : State) (day : Nat) : (appendWear s day).dev.limitRegs = s.dev.limitRegs := by
  obtain ⟨e, es, sig, today, -, -, -, h⟩ := appendWear_eq s day
  rw [h]
  exact limitRegs_congr rfl rfl rfl

@[simp] theorem tlbi_limitRegs (s : State) (q : TlbScope) : (tlbi s q).dev.limitRegs = s.dev.limitRegs := by
  rw [tlbi_dev]
  split <;> rfl

theorem lastGasp_limitRegs (d : Dev) (k : Marker) : (lastGasp d k).limitRegs = d.limitRegs :=
  foldl_limitRegs id (fun d (x : Nat × HostSlot) => sendFrame d x.1 x.2.session 3 (markerBytes k)) (fun _ _ => sendFrame_limitRegs ..) _ d

@[simp] theorem sendBulk_limitRegs (q : Msg) (fuel off : Nat) (bs : List Byte) (d : Dev) :
    (sendBulk q fuel off bs d).limitRegs = d.limitRegs := by
  induction fuel generalizing off bs d with
  | zero => rfl
  | succ fuel ih =>
    unfold sendBulk
    split
    · rfl
    · exact (ih ..).trans (sendFrame_limitRegs ..)

/-! ### Tasks that end, contexts that go -/

@[simp] theorem settleEnergy_limitRegs (s : State) (h : Nat) : (settleEnergy s h).dev.limitRegs = s.dev.limitRegs := by
  unfold settleEnergy
  split
  · rfl
  · exact chargeNode_limitRegs ..

@[simp] theorem freeNode_limitRegs (s : State) (h : Nat) (n : Node) (status : Nat) (ws : List Nat) :
    (freeNode s h n status ws).dev.limitRegs = s.dev.limitRegs := by
  unfold freeNode
  dsimp only
  split <;> rfl

@[simp] theorem completeNode_limitRegs (s : State) (h status : Nat) : (completeNode s h status).dev.limitRegs = s.dev.limitRegs := by
  unfold completeNode
  dsimp only
  split
  · exact settleEnergy_limitRegs ..
  · split
    · exact settleEnergy_limitRegs ..
    · split
      · rw [freeNode_limitRegs, settleEnergy_limitRegs]
      · rw [freeNode_limitRegs, settleEnergy_limitRegs]

@[simp] theorem killTask_limitRegs (s : State) (h status : Nat) : (killTask s h status).dev.limitRegs = s.dev.limitRegs := by
  unfold killTask
  split
  · rfl
  · split <;> exact completeNode_limitRegs ..

theorem killTasks_limitRegs (s : State) (status : Nat) (l : List Nat) :
    (l.foldl (fun s h => killTask s h status) s).dev.limitRegs = s.dev.limitRegs :=
  foldl_limitRegs State.dev (fun s h => killTask s h status) (fun s h => killTask_limitRegs s h status) l s

@[simp] theorem finishEntry_limitRegs (s : State) (jseq state result : Nat) :
    (finishEntry s jseq state result).dev.limitRegs = s.dev.limitRegs := rfl

@[simp] theorem destroyContext_limitRegs (s : State) (id : Nat) : (destroyContext s id).dev.limitRegs = s.dev.limitRegs := by
  unfold destroyContext
  split
  · rfl
  · dsimp only
    refine (killTasks_limitRegs _ 0x200 _).trans ?_
    exact foldl_limitRegs State.dev (fun s (p : PostReq) => finishEntry s p.jseq 4 0x200) (fun _ _ => finishEntry_limitRegs ..) _ s

@[simp] theorem abandonSave_limitRegs (s : State) (h : Nat) (n : Node) : (abandonSave s h n).dev.limitRegs = s.dev.limitRegs :=
  completeNode_limitRegs ..

@[simp] theorem actOn_limitRegs (s : State) (h : Nat) (by' : Option (Nat × Nat)) (x : Decision) :
    (actOn s h by' x).dev.limitRegs = s.dev.limitRegs := by
  cases x with
  | drain | checkpoint | wait => rfl
  | kill => exact killTask_limitRegs ..

@[simp] theorem orphanFault_limitRegs (s : State) (cluster id : Nat) (c : Copy) (r : TrapRec) :
    (orphanFault s cluster id c r).dev.limitRegs = s.dev.limitRegs := by
  unfold orphanFault
  dsimp only
  split
  · rfl
  · split
    · exact killTask_limitRegs ..
    · rfl

@[simp] theorem faultCopy_limitRegs (s : State) (cluster id : Nat) (c : Copy) : (faultCopy s cluster id c).dev.limitRegs = s.dev.limitRegs := by
  unfold faultCopy
  dsimp only
  split
  · split
    · rfl
    · exact orphanFault_limitRegs ..
  · rfl
  · rfl

@[simp] theorem failRemoteCopy_limitRegs (s : State) (cluster id : Nat) (c : Copy) :
    (failRemoteCopy s cluster id c).dev.limitRegs = s.dev.limitRegs := by
  unfold failRemoteCopy
  split
  · exact faultCopy_limitRegs ..
  · rfl

/-! ### Messages (R374 to R376) -/

@[simp] theorem receive_limitRegs (s : State) (f : Frame) (rest : List Input) : (receive s f rest).dev.limitRegs = s.dev.limitRegs := by
  unfold receive
  split
  · exact acceptFrame_limitRegs ..
  · rfl

theorem plainMessage_limitRegs {clear : List (Nat × Nat)} {needsCtx sessionless : Bool} {check : State → Msg → Option Refused}
    {act : State → Msg → State} (hact : ∀ s q, (act s q).dev.limitRegs = s.dev.limitRegs) (s : State) (q : Msg) :
    (plainMessage clear needsCtx sessionless check act s q).dev.limitRegs = s.dev.limitRegs := by
  unfold plainMessage
  split
  · rfl
  · dsimp only
    split
    · exact refuse_limitRegs ..
    · exact hact s q

theorem journalled_limitRegs {clear : List (Nat × Nat)} {needsCtx : Bool} {check : State → Msg → Option Refused}
    {act : State → Msg → Nat → State} (hact : ∀ s q j, (act s q j).dev.limitRegs = s.dev.limitRegs) (s : State) (q : Msg) :
    (journalled clear needsCtx check act s q).dev.limitRegs = s.dev.limitRegs := by
  unfold journalled
  dsimp only
  split
  · exact refuse_limitRegs ..
  · exact (hact _ q _).trans (answer_limitRegs q _ 1 0 [] (journalAdd s.dev q))

theorem readMessage_limitRegs (s : State) (q : Msg) : (readMessage s q).dev.limitRegs = s.dev.limitRegs := by
  refine plainMessage_limitRegs (fun s q => ?_) s q
  dsimp only
  split
  · exact (answer_limitRegs ..).trans (sendBulk_limitRegs ..)
  · exact refuse_limitRegs ..

theorem commitMessage_limitRegs (s : State) (q : Msg) : (commitMessage s q).dev.limitRegs = s.dev.limitRegs := by
  refine journalled_limitRegs (fun s q j => ?_) s q
  dsimp only
  split <;> rfl

/-! ### Outcomes -/

/-- Where an outcome is a next state, its registers are inside their limits. -/
def LimitsHold (o : Host.Outcome State Fault Refusal) : Prop := ∀ t, o = .next t → t.dev.inLimits

theorem limitsHold_next {t : State} (h : t.dev.inLimits) : LimitsHold (.next t) := by
  rintro _ ⟨⟩
  exact h

theorem limitsHold_ite {c : Prop} [Decidable c] {a b : Host.Outcome State Fault Refusal} (ha : LimitsHold a) (hb : LimitsHold b) :
    LimitsHold (if c then a else b) := by
  split
  · exact ha
  · exact hb

section Outcomes

variable {s : State} (hs : s.dev.inLimits)

include hs

theorem limitsHold_regs {t : State} (h : t.dev.limitRegs = s.dev.limitRegs) : LimitsHold (.next t) := limitsHold_next (hs.of_regs h)

theorem takeInput_limits {α : Type} {pick : Input → Option α} {f : State → α → State}
    (hf : ∀ rest a, (f { s with inputs := rest } a).dev.inLimits) : LimitsHold (takeInput s pick f) := by
  obtain h | ⟨_, rest, a, -, -, h⟩ := takeInput_cases s pick f
  · exact h ▸ limitsHold_next hs
  · exact h ▸ limitsHold_next (hf rest a)

theorem takeInput_limitRegs {α : Type} {pick : Input → Option α} {f : State → α → State}
    (hf : ∀ rest a, (f { s with inputs := rest } a).dev.limitRegs = s.dev.limitRegs) : LimitsHold (takeInput s pick f) :=
  takeInput_limits hs fun rest a => hs.of_regs (hf rest a)

theorem onMessage_limits {want : Frame → Nat → Bool} {act : State → Msg → State}
    (hact : ∀ s q, (act s q).dev.limitRegs = s.dev.limitRegs) : LimitsHold (onMessage want act s) := by
  unfold onMessage
  extract_lets s1
  have hs1 : s1.dev.limitRegs = s.dev.limitRegs := by
    dsimp only [s1]
    split
    · split
      · exact receive_limitRegs ..
      · rfl
    · rfl
  split
  · refine limitsHold_ite (limitsHold_regs hs ?_) (limitsHold_regs hs hs1)
    split
    · exact (hact ..).trans hs1
    · exact hs1
  · exact limitsHold_regs hs hs1

theorem onKind_limits {kind : Nat} {act : State → Msg → State} (hact : ∀ s q, (act s q).dev.limitRegs = s.dev.limitRegs) :
    LimitsHold (onKind kind act s) := onMessage_limits hs hact

theorem runOp_limits {slot : Slot} {i : Instr} {a : Act} : LimitsHold (runOp s slot i a) := by
  unfold runOp
  split
  · rintro _ ⟨⟩
  · exact limitsHold_next hs

/-! ### Events that leave the limited registers alone -/

theorem execUnassignedOpcode_limits (slot : Slot) (op : BitVec 8) : LimitsHold (execUnassignedOpcode slot op s) := by
  unfold execUnassignedOpcode
  dsimp only
  split
  · rintro _ ⟨⟩
  · exact limitsHold_next hs

theorem execNodeCreate_limits (post : Nat) : LimitsHold (execNodeCreate post s) := by
  unfold execNodeCreate
  split
  · exact limitsHold_next hs
  · dsimp only
    split
    · exact limitsHold_next hs
    · exact limitsHold_regs hs (closePost_limitRegs ..)

theorem execNodeDispatch_limits (node : Nat) (clusters : List Nat) : LimitsHold (execNodeDispatch node clusters s) := by
  unfold execNodeDispatch
  dsimp only
  split
  · exact limitsHold_next hs
  · split
    · refine limitsHold_ite (limitsHold_next ?_) (limitsHold_next hs)
      cases dispatchNode s.dev.gtc s.mach _ node _ _ with
      | none => exact hs
      | some m => exact hs.of_regs (setEntry_limitRegs ..)
    · exact limitsHold_next hs

theorem execTaskComplete_limits (node : Nat) : LimitsHold (execTaskComplete node s) := by
  unfold execTaskComplete
  split
  · exact limitsHold_next hs
  · refine limitsHold_regs hs ?_
    split
    · exact completeNode_limitRegs ..
    · rfl

theorem execPreemptionDecision_limits (node : Nat) : LimitsHold (execPreemptionDecision node s) := by
  unfold execPreemptionDecision
  dsimp only
  split
  · exact limitsHold_next hs
  · refine limitsHold_ite ?_ (limitsHold_next hs)
    split
    · exact limitsHold_next hs
    · split
      · exact limitsHold_regs hs (actOn_limitRegs ..)
      · exact limitsHold_next hs

theorem execDrainRedecide_limits (node : Nat) : LimitsHold (execDrainRedecide node s) := by
  unfold execDrainRedecide
  dsimp only
  split
  · exact limitsHold_next hs
  · refine limitsHold_ite ?_ (limitsHold_next hs)
    split
    · exact limitsHold_regs hs (actOn_limitRegs ..)
    · exact limitsHold_next hs

theorem execSaveDeadline_limits (node : Nat) : LimitsHold (execSaveDeadline node s) := by
  unfold execSaveDeadline
  split
  · exact limitsHold_next hs
  · split
    · refine limitsHold_regs hs ?_
      split
      · exact abandonSave_limitRegs ..
      · rfl
    · exact limitsHold_next hs

theorem execTaskRestore_limits (node : Nat) (clusters : List Nat) : LimitsHold (execTaskRestore node clusters s) := by
  unfold execTaskRestore
  dsimp only
  split
  · exact limitsHold_next hs
  · split
    · refine limitsHold_ite (limitsHold_next ?_) (limitsHold_next hs)
      split
      · exact hs
      · exact hs.of_regs (abandonSave_limitRegs ..)
    · exact limitsHold_next hs

theorem execFirstTouchService_limits (ctx : Nat) (va : DWord) : LimitsHold (execFirstTouchService ctx va s) := by
  unfold execFirstTouchService
  refine limitsHold_ite (limitsHold_next hs) ?_
  split
  · exact limitsHold_next hs
  · exact limitsHold_regs hs (killTasks_limitRegs ..)

theorem execPumalTrapService_limits (warp : Nat) : LimitsHold (execPumalTrapService warp s) := by
  unfold execPumalTrapService
  split
  · exact limitsHold_next hs
  · split
    · dsimp only
      split
      · exact limitsHold_next hs
      · exact limitsHold_next hs
      · split
        · exact limitsHold_next hs
        · exact limitsHold_regs hs (killTask_limitRegs ..)
      · exact limitsHold_regs hs (killTask_limitRegs ..)
    · exact limitsHold_next hs

theorem execCopyFault_limits (cluster id : Nat) : LimitsHold (execCopyFault cluster id s) := by
  unfold execCopyFault
  split
  · exact limitsHold_next hs
  · split
    · exact limitsHold_regs hs (orphanFault_limitRegs ..)
    · refine limitsHold_regs hs ?_
      split
      · exact faultCopy_limitRegs ..
      · rfl

theorem execRemoteFail_limits (warp op : Nat) : LimitsHold (execRemoteFail warp op s) := by
  unfold execRemoteFail
  split
  · exact limitsHold_next hs
  · refine limitsHold_regs hs ?_
    cases copyAt? s.mach (clusterOf warp) op with
    | none => rfl
    | some c => exact failRemoteCopy_limitRegs ..

theorem execBulkWrite_limits : LimitsHold (execBulkWrite s) := by
  have taken (s : State) (f : Frame) : (takeBulk s f).dev.limitRegs = s.dev.limitRegs := by
    unfold takeBulk
    dsimp only
    split
    · rfl
    · exact acceptFrame_limitRegs ..
    · exact acceptFrame_limitRegs ..
  unfold execBulkWrite
  split
  · refine limitsHold_ite (limitsHold_regs hs ?_) (limitsHold_next hs)
    split
    · exact taken ..
    · rfl
  · exact limitsHold_next hs

omit hs in
theorem takeMgmt_limitRegs (s : State) (f : Frame) : (takeMgmt s f).dev.limitRegs = s.dev.limitRegs := by
  unfold takeMgmt
  split
  · refine (foldl_limitRegs State.dev _ (fun s k => ?_) (List.range f.count.toNat) _).trans (acceptFrame_limitRegs s.dev f)
    dsimp only
    split
    · rfl
    · exact sendMgmt_limitRegs ..
  · rfl

theorem execEnergyEstimate_limits : LimitsHold (execEnergyEstimate s) := by
  refine takeInput_limitRegs hs fun rest ⟨cls, tasks, saves, system, ballast⟩ => ?_
  dsimp only
  rw [chargeSystem_limitRegs, foldl_limitRegs Prod.fst _ (fun x t => ?_) saves, foldl_limitRegs Prod.fst _ (fun x t => ?_) tasks]
  · rfl
  · exact chargeNode_limitRegs ..
  · exact chargeLive_limitRegs ..

theorem execEnergyScale_limits : LimitsHold (execEnergyScale s) := by
  refine takeInput_limitRegs hs fun rest e => ?_
  dsimp only
  rw [foldl_limitRegs Prod.fst _ (fun x t => ?_)]
  · rfl
  · exact chargeNode_limitRegs ..

omit hs in
theorem useOffset_limitRegs (d : Dev) (noCtx : Bool) (offs : Int) : (useOffset d noCtx offs).limitRegs = d.limitRegs := by
  simp only [useOffset, updWear, Dev.limitRegs]

theorem execPtpDelayResp_limits : LimitsHold (execPtpDelayResp s) := by
  refine takeInput_limitRegs hs fun rest ⟨src, seqId, domain, t4⟩ => ?_
  dsimp only
  split
  · exact useOffset_limitRegs ..
  all_goals rfl

theorem execHostSecretInstall_limits : LimitsHold (execHostSecretInstall s) := by
  refine takeInput_limitRegs hs fun rest x => ?_
  dsimp only
  split <;> rfl

omit hs in
/-- The supply, the marker and the mailbox are no registers with a limit. -/
theorem off_limitRegs (d : Dev) (x : Supply) (k : Option Marker) (l : List (Frame × Nat)) :
    ({ d with supply := x, marker := k, mailbox := l } : Dev).limitRegs = d.limitRegs := rfl

theorem execSupplyLossWarning_limits : LimitsHold (execSupplyLossWarning s) := by
  unfold execSupplyLossWarning
  refine limitsHold_ite (limitsHold_next hs) (limitsHold_regs hs ?_)
  dsimp only
  rw [off_limitRegs, appendWear_limitRegs, lastGasp_limitRegs, off_limitRegs]

theorem execShutdown_limits : LimitsHold (execShutdown s) := by
  unfold execShutdown
  refine limitsHold_ite (limitsHold_next hs) (limitsHold_regs hs ?_)
  dsimp only
  rw [off_limitRegs, appendWear_limitRegs]

/-! ### Time that passes, sources of time -/

omit hs in
theorem dropSilent_domain (clock : Nat) (p : Ptp) : (dropSilent clock p).domain = p.domain := by
  unfold dropSilent
  split
  · rfl
  · exact (selectSource_keeps _).2.1

omit hs in
/-- A change of the time receiver that keeps its domain. -/
theorem updPtp_limitRegs {d : Dev} {f : Ptp → Ptp} (h : (f d.ptp).domain = d.ptp.domain) : (updPtp d f).limitRegs = d.limitRegs := by
  simp only [Dev.limitRegs, updPtp, h]

theorem elapse_limits (ns : Nat) : (elapse s ns).dev.inLimits := by
  refine hs.of_regs ?_
  have hpass : (updPtp (passGtc s.dev ns) (dropSilent (passMach s.dev s.mach ns).clock)).limitRegs = s.dev.limitRegs :=
    updPtp_limitRegs (dropSilent_domain ..)
  unfold elapse passDev
  dsimp only
  split <;> exact hpass

theorem execPtpSync_limits : LimitsHold (execPtpSync s) := by
  refine takeInput_limitRegs hs fun rest ⟨src, seqId, domain, t1, two⟩ => updPtp_limitRegs ?_
  split <;> rfl

theorem execPtpFollowUp_limits : LimitsHold (execPtpFollowUp s) := by
  refine takeInput_limitRegs hs fun rest ⟨src, seqId, domain, t1⟩ => updPtp_limitRegs ?_
  split <;> rfl

theorem execPtpAnnounce_limits : LimitsHold (execPtpAnnounce s) := by
  refine takeInput_limitRegs hs fun rest a => updPtp_limitRegs ?_
  split
  · rfl
  · refine (selectSource_keeps _).2.1.trans ?_
    dsimp only
    split <;> rfl

theorem execPtpDelayReq_limits : LimitsHold (execPtpDelayReq s) := by
  refine limitsHold_regs hs (updPtp_limitRegs ?_)
  dsimp only
  split <;> rfl

theorem execPtpHoldover_limits : LimitsHold (exec .ptpHoldover s) := by
  rcases Nat.lt_or_ge s.mach.clock (s.dev.ptp.lastSync + 8000000000) with hheard | hsilent
  · exact exec_ptpHoldover_heard hheard ▸ limitsHold_next hs
  · exact exec_ptpHoldover_silent hsilent ▸ limitsHold_regs hs
      (updPtp_limitRegs (f := fun p => { p with lock := false, hold := true, good := 0 }) rfl)

/-! ### Changes of a limited register -/

omit hs in
theorem putStore_inLimits {p : Pcc} (hp : p.inLimits) (e : Nat) : (putStore p e).inLimits := by
  obtain ⟨hramp, hramp', hsust, hsust', hsaved, -, -⟩ := hp
  exact ⟨hramp, hramp', hsust, hsust', hsaved, Nat.min_le_left .., rfl⟩

theorem execHeatStoreUpdate_limits : LimitsHold (execHeatStoreUpdate s) := by
  obtain ⟨hpcc, hrest⟩ := s.dev.inLimits_iff.mp hs
  exact takeInput_limits hs fun rest w => (Dev.inLimits_iff _).mpr ⟨putStore_inLimits hpcc _, hrest⟩

theorem execThermistorCorrection_limits : LimitsHold (execThermistorCorrection s) := by
  obtain ⟨hpcc, hrest⟩ := s.dev.inLimits_iff.mp hs
  exact takeInput_limits hs fun rest x => (Dev.inLimits_iff _).mpr ⟨putStore_inLimits hpcc _, hrest⟩

/-- The SUST that an alarm put aside, or else the one in force, is inside its limits. -/
theorem sustAside_inLimits : 1 ≤ s.dev.pcc.sustSaved.getD s.dev.pcc.sust ∧ s.dev.pcc.sustSaved.getD s.dev.pcc.sust ≤ 16 := by
  obtain ⟨-, -, hsust, hsust', hsaved, -⟩ := hs
  cases h : s.dev.pcc.sustSaved with
  | none => exact ⟨hsust, hsust'⟩
  | some n => exact hsaved n h

theorem execCoolantChange_limits : LimitsHold (execCoolantChange s) := by
  obtain ⟨haside, haside'⟩ := sustAside_inLimits hs
  obtain ⟨⟨hramp, hramp', -, -, -, he, hmelt⟩, hrest⟩ := s.dev.inLimits_iff.mp hs
  refine takeInput_limits hs fun rest ⟨tin, flow⟩ => (Dev.inLimits_iff _).mpr ⟨?_, hrest⟩
  unfold updPcc
  dsimp only
  split
  · exact ⟨hramp, hramp', haside, haside', nofun, he, hmelt⟩
  · exact ⟨hramp, hramp', Nat.one_le_ofNat, Nat.le_of_ble_eq_true rfl, fun n hn => Option.some.inj hn ▸ ⟨haside, haside'⟩, he, hmelt⟩

omit hs in
theorem setDie_le {p : Nat × Nat} {n k : Nat} (hp : p.1 ≤ k ∧ p.2 ≤ k) (hn : n ≤ k) (die : Nat) :
    (setDie p die n).1 ≤ k ∧ (setDie p die n).2 ≤ k := by
  unfold setDie
  split
  · exact ⟨hn, hp.2⟩
  · exact ⟨hp.1, hn⟩

omit hs in
theorem ofDie_le {p : Nat × Nat} {k : Nat} (hp : p.1 ≤ k ∧ p.2 ≤ k) (die : Nat) : ofDie p die ≤ k := by
  unfold ofDie
  split
  · exact hp.1
  · exact hp.2

omit hs in
theorem markUnit_gb (w : Wear) (u : LostUnit) : (markUnit w u).gb = w.gb := by
  unfold markUnit
  split <;> rfl

omit hs in
/-- A change of the wear record that keeps the guard-bands. -/
theorem updWear_limitRegs {d : Dev} {f : Wear → Wear} (h : (f d.wear).gb = d.wear.gb) : (updWear d f).limitRegs = d.limitRegs := by
  simp only [Dev.limitRegs, updWear, h]

theorem execGbStep_limits (die : Nat) : LimitsHold (execGbStep die s) := by
  obtain ⟨hpcc, hgb, hdomain⟩ := s.dev.inLimits_iff.mp hs
  unfold execGbStep
  split
  · exact limitsHold_next hs
  · refine limitsHold_ite (limitsHold_next hs) ?_
    split
    · next hroom =>
      refine limitsHold_ite (limitsHold_next hs) (limitsHold_next ?_)
      exact (Dev.inLimits_iff _).mpr ⟨hpcc, setDie_le hgb hroom die, hdomain⟩
    · refine limitsHold_ite (limitsHold_regs hs ?_) (limitsHold_next hs)
      exact updWear_limitRegs (markUnit_gb ..)

theorem execWearDailyAppend_limits : LimitsHold (execWearDailyAppend s) := by
  obtain ⟨e, es, sig, today, -, -, -, h⟩ := appendWear_eq s (s.dev.wear.headDay + 1)
  unfold execWearDailyAppend
  rw [h]
  exact limitsHold_ite (limitsHold_regs hs (limitRegs_congr rfl rfl rfl)) (limitsHold_next hs)

theorem execGbHourlyFall_limits (die : Nat) : LimitsHold (execGbHourlyFall die s) := by
  obtain ⟨hpcc, hgb, hdomain⟩ := s.dev.inLimits_iff.mp hs
  refine limitsHold_next ((Dev.inLimits_iff _).mpr ⟨hpcc, ?_, hdomain⟩)
  unfold updWear
  dsimp only
  split
  · exact setDie_le hgb ((Nat.sub_le ..).trans (ofDie_le hgb die)) die
  · exact hgb

omit hs in
theorem bits_le (v : DWord) (hi lo : Nat) : bits v hi lo ≤ 2 ^ (hi + 1 - lo) - 1 :=
  Nat.le_sub_one_of_lt (Nat.mod_lt _ (Nat.two_pow_pos _))

omit hs in
/-- SUST of a valid write, or 8 during a coolant alarm. -/
theorem sustAfter {alarm : Bool} {n : Nat} (hlow : 1 ≤ n) (hhigh : n ≤ 16) :
    1 ≤ (if alarm then 8 else n) ∧ (if alarm then 8 else n) ≤ 16 := by
  split <;> omega

/-- What a write of PCC.CFG, TIME.CTL or HLTH.GB puts in its register is inside its limits when the write is valid (R430). -/
theorem writeReg_inLimits {reg : CtlReg} {v : DWord} (h : writeOk reg v = true) : (writeReg s.dev reg v).inLimits := by
  obtain ⟨⟨hramp, hramp', hsust, hsust', hsaved, he, hmelt⟩, hgb, hdomain⟩ := s.dev.inLimits_iff.mp hs
  cases reg with
  | pccLim | tlbiCtl | tlbiRng => exact hs
  | pccCfg =>
    simp only [writeOk, Bool.and_eq_true, bne_iff_ne, decide_eq_true_eq] at h
    obtain ⟨⟨⟨⟨-, -⟩, hnew⟩, hlow⟩, hhigh⟩ := h
    refine (Dev.inLimits_iff _).mpr ⟨⟨Nat.one_le_iff_ne_zero.mpr hnew, bits_le v 31 24, ?_, ?_, ?_, he, hmelt⟩, hgb, hdomain⟩
    · exact (sustAfter hlow hhigh).1
    · exact (sustAfter hlow hhigh).2
    · intro n hn
      obtain ⟨-, -, rfl⟩ := Option.map_eq_some_iff.mp hn
      exact ⟨hlow, hhigh⟩
  | timeCtl =>
    refine (Dev.inLimits_iff _).mpr ⟨⟨hramp, hramp', hsust, hsust', hsaved, he, hmelt⟩, hgb, ?_⟩
    unfold writeReg updPtp
    dsimp only
    split
    · exact hdomain
    · exact bits_le v 6 0
  | hlthGb die =>
    simp only [writeOk, Bool.and_eq_true, decide_eq_true_eq] at h
    exact (Dev.inLimits_iff _).mpr ⟨⟨hramp, hramp', hsust, hsust', hsaved, he, hmelt⟩, setDie_le hgb h.2 die, hdomain⟩

theorem execRegisterWrite_limits (reg : CtlReg) (v : DWord) : LimitsHold (execRegisterWrite reg v s) := by
  refine limitsHold_next ?_
  split
  · next h => exact writeReg_inLimits hs h
  · split <;> exact hs

/-! ### Boots (R381, R444) -/

omit hs in
/-- A cold boot starts from the registers at reset. -/
theorem coldBoot_limitRegs (s : State) (b : BootInput) : (coldBoot s b).dev.limitRegs = Dev.atReset.limitRegs := rfl

omit hs in
theorem resumeBoot_limitRegs (s : State) (b : BootInput) : (resumeBoot s b).dev.limitRegs = s.dev.limitRegs := by
  obtain ⟨j, h, -⟩ := resumeJournal_only (bootDev s.dev b) ((resumedNodes s s.dev.gtc).map fun x => x.2.jseq)
  have hdev : (resumeBoot s b).dev = updWear { resumeJournal (bootDev s.dev b) ((resumedNodes s s.dev.gtc).map fun x => x.2.jseq)
    with marker := none } (reportConfig (resumeBoot s b).mach) := rfl
  rw [hdev, h]
  rfl

omit hs in
theorem coldBoot_inLimits (s : State) (b : BootInput) : (coldBoot s b).dev.inLimits := reset_inLimits.of_regs (coldBoot_limitRegs s b)

theorem execDeviceReset_limits : LimitsHold (execDeviceReset s) := by
  refine takeInput_limits hs fun rest b => ?_
  split
  · exact hs
  · exact coldBoot_inLimits ..

theorem execSupplyReturn_limits : LimitsHold (execSupplyReturn s) := by
  refine limitsHold_ite (limitsHold_next hs) (takeInput_limits hs fun rest b => ?_)
  split
  · exact hs
  · split
    · exact hs.of_regs (resumeBoot_limitRegs ..)
    · exact coldBoot_inLimits ..

/-! ### Every meaning, every move, every step -/

theorem exec_limits (i : Instr) : LimitsHold (exec i s) := by
  cases i with
  | registerWrite reg v => exact execRegisterWrite_limits hs reg v
  | heatStoreUpdate => exact execHeatStoreUpdate_limits hs
  | thermistorCorrection => exact execThermistorCorrection_limits hs
  | coolantChange => exact execCoolantChange_limits hs
  | gbStep die => exact execGbStep_limits hs die
  | gbHourlyFall die => exact execGbHourlyFall_limits hs die
  | deviceReset => exact execDeviceReset_limits hs
  | supplyReturn => exact execSupplyReturn_limits hs
  | supplyLossWarning => exact execSupplyLossWarning_limits hs
  | shutdown => exact execShutdown_limits hs
  | ptpSync => exact execPtpSync_limits hs
  | ptpFollowUp => exact execPtpFollowUp_limits hs
  | ptpAnnounce => exact execPtpAnnounce_limits hs
  | ptpDelayReq => exact execPtpDelayReq_limits hs
  | ptpDelayResp => exact execPtpDelayResp_limits hs
  | ptpHoldover => exact execPtpHoldover_limits hs
  | energyEstimate => exact execEnergyEstimate_limits hs
  | energyScale => exact execEnergyScale_limits hs
  | hostSecretInstall => exact execHostSecretInstall_limits hs
  | bulkWrite => exact execBulkWrite_limits hs
  | unassignedOpcode slot op => exact execUnassignedOpcode_limits hs slot op
  | copyFault cluster id => exact execCopyFault_limits hs cluster id
  | remoteFail warp op => exact execRemoteFail_limits hs warp op
  | nodeCreate post => exact execNodeCreate_limits hs post
  | nodeDispatch node clusters => exact execNodeDispatch_limits hs node clusters
  | preemptionDecision node => exact execPreemptionDecision_limits hs node
  | drainRedecide node => exact execDrainRedecide_limits hs node
  | taskComplete node => exact execTaskComplete_limits hs node
  | pumalTrapService warp => exact execPumalTrapService_limits hs warp
  | firstTouchService ctx va => exact execFirstTouchService_limits hs ctx va
  | saveDeadline node => exact execSaveDeadline_limits hs node
  | taskRestore node clusters => exact execTaskRestore_limits hs node clusters
  | taskKill node status => exact limitsHold_regs hs (killTask_limitRegs ..)
  | tlbiContext | tlbiRange | tlbiAll => exact limitsHold_regs hs (tlbi_limitRegs s _)
  | monitorRead =>
    unfold exec
    refine takeInput_limitRegs hs fun _ ⟨common, others⟩ => ?_
    dsimp only
    rw [noteMargin_limitRegs, noteMargin_limitRegs]
  | readHealthLog | readWearRecord =>
    unfold exec
    exact takeInput_limitRegs hs fun _ _ => takeMgmt_limitRegs ..
  | patrolScrub | incomingRemoteAccess | registerUncorrectableError =>
    unfold exec
    exact takeInput_limits hs fun _ _ => hs
  | wearDailyAppend => exact execWearDailyAppend_limits hs
  | openSession | closeSession | jread | query =>
    unfold exec
    exact onKind_limits hs (plainMessage_limitRegs fun s q => by exact answer_limitRegs q _ _ _ _ s.dev)
  | read => unfold exec; exact onKind_limits hs readMessage_limitRegs
  | ctxCreate | window | post | evsetMessage | evclr =>
    unfold exec
    exact onKind_limits hs (journalled_limitRegs fun _ _ _ => by rfl)
  | ctxDestroy => unfold exec; exact onKind_limits hs (journalled_limitRegs fun s q _ => by exact destroyContext_limitRegs s q.ctx)
  | kill => unfold exec; exact onKind_limits hs (journalled_limitRegs fun s _ _ => by exact killTask_limitRegs s _ _)
  | commit => unfold exec; exact onKind_limits hs commitMessage_limitRegs
  | unlistedMessageKind => unfold exec; exact onMessage_limits hs fun _ _ => refuse_limitRegs ..
  | clamp | ballastPreRamp | otherTraffic =>
    exact limitsHold_next hs
  | warpSelect | blockEnd | gangRendezvous | loadComplete | storeAck | atomicComplete | copyStart | cpyatLaunch | copyComplete
    | mrtGrant | matrixReadBeat | chainClose | mdepComplete | barrierPhaseComplete | translationWalk | trapDelivery |
    asyncFaultDelivery | preempt | contextSave | warpTimer | deadline | leaseExpired | watchdog | growRelease | growDeadlock |
    ualinkPortFail | debugCont | debugDump | debugStop | stallSample | unclamp | contextSwitchIn | sprintGrant | frameBoundary |
    flushEpisodeApply =>
    exact limitsHold_next hs
  | _ => exact runOp_limits hs

end Outcomes

theorem stepWarp_limits {s : State} (hs : s.dev.inLimits) (k : Nat) : LimitsHold (stepWarp s k) := by
  unfold stepWarp
  dsimp only
  refine limitsHold_ite (limitsHold_next hs) ?_
  split
  · exact exec_limits (by exact hs) _
  · exact limitsHold_next hs

theorem stepCore_limits {s : State} (hs : s.dev.inLimits) (core : Nat) : LimitsHold (stepCore s core) := by
  unfold stepCore
  dsimp only
  refine limitsHold_ite (limitsHold_next hs) ?_
  split
  · exact stepWarp_limits (by exact hs) _
  · exact limitsHold_next hs

theorem makeMove_limits {s : State} (hs : s.dev.inLimits) (v : Move) : LimitsHold (makeMove s v) := by
  cases v with
  | event i => exact limitsHold_ite (exec_limits hs i) (limitsHold_next hs)
  | elapse ns => exact limitsHold_next (elapse_limits hs ns)
  | sense amps load droops => exact limitsHold_next hs
  | strike e => exact limitsHold_next hs
  | issue core => exact limitsHold_ite (stepCore_limits hs core) (limitsHold_next hs)

theorem ownStep_limits {s : State} (hs : s.dev.inLimits) : LimitsHold (ownStep s) := by
  unfold ownStep
  refine limitsHold_ite (limitsHold_next hs) ?_
  split
  · exact exec_limits hs _
  · split
    · exact stepCore_limits (by exact hs) _
    · exact limitsHold_next (elapse_limits hs 16)

/-- Settles O58: a move and the machine's own step both keep the limits, by the meaning of each event. -/
theorem limitsKept : Obligations.LimitsKept := by
  intro s t hs hstep
  have hholds : LimitsHold (step s) := by
    unfold step
    split
    · exact makeMove_limits (by exact hs) _
    · exact ownStep_limits hs
  exact hholds t hstep

end Sys2Proof.Machine
end
